-- ==== Sys2Proof/Word.lean ====
section
/-! DEFINITION. The words of the HGK-1024B and the sparse maps that State is made of. -/

namespace Sys2Proof

/-- A byte (R13). -/
abbrev Byte := BitVec 8
/-- A 16-bit value. -/
abbrev W16 := BitVec 16
/-- A 32-bit value: one memory word (R259), one sync counter (R57), one FP32 pattern (R73). -/
abbrev W32 := BitVec 32
/-- A 64-bit value: a CSR (R469), a strand register (R41). -/
abbrev W64 := BitVec 64
/-- A descriptor: 64 bytes, byte 0 in bits [7:0] (R50, R13). -/
abbrev W512 := BitVec 512

/-- A sparse map with numeric keys: strictly rising keys, no entry equal to the map's default value.
The canonical form makes equal maps equal data. -/
abbrev SMap (α : Type) := List (Nat × α)

end Sys2Proof
end

