-- ==== Sys2Proof/Machine/Sparse.lean ====
section
/-! DEFINITION. Reading and writing the sparse maps of State, and the fields of words. -/

namespace Sys2Proof.Machine

/-- The value at key `k`; `d` is what an unlisted key reads as. -/
def smGet {α : Type} (d : α) : SMap α → Nat → α
  | [], _ => d
  | (j, v) :: r, k => if j = k then v else smGet d r k

/-- The map with `k` at `v`: keys stay strictly rising, and no entry equals `d`. -/
def smSet {α : Type} [DecidableEq α] (d : α) (m : SMap α) (k : Nat) (v : α) : SMap α :=
  match m with
  | [] => if v = d then [] else [(k, v)]
  | (j, w) :: r =>
    if k < j then (if v = d then (j, w) :: r else (k, v) :: (j, w) :: r)
    else if j = k then (if v = d then r else (k, v) :: r)
    else (j, w) :: smSet d r k v

/-- The canonical form of a sparse map. -/
abbrev smWf {α : Type} (d : α) (m : SMap α) : Prop :=
  m.Pairwise (fun a b => a.1 < b.1) ∧ ∀ p ∈ m, p.2 ≠ d

/-- Bits `[lo + n - 1 : lo]` of a natural number (R12). -/
def bitsOf (v lo n : Nat) : Nat := (v >>> lo) % 2 ^ n

/-- Bit `i` of a natural number. -/
def bitOf (v i : Nat) : Bool := (v >>> i) % 2 == 1

/-- 1 for true, 0 for false. -/
def b2n (b : Bool) : Nat := if b then 1 else 0

/-- Bytes `off` to `off + n - 1` of a descriptor, little-endian (R13, R51). -/
def dField (d : W512) (off n : Nat) : Nat := bitsOf d.toNat (8 * off) (8 * n)

/-- The little-endian value of a byte list (R13). -/
def leVal : List Byte → Nat
  | [] => 0
  | b :: r => b.toNat + 256 * leVal r

/-- The `n` bytes of `v`, little-endian (R13). -/
def leBytes : Nat → Nat → List Byte
  | 0, _ => []
  | n + 1, v => BitVec.ofNat 8 v :: leBytes n (v / 256)

/-- Bytes `off` to `off + n - 1` of a byte list as a little-endian value; bytes beyond its end are 0. -/
def lField (l : List Byte) (off n : Nat) : Nat := leVal ((l.drop off).take n)

/-- A counter that stops at `2^w - 1` (R123). -/
def satAdd (w : Nat) (c : BitVec w) (n : Nat) : BitVec w :=
  if c.toNat + n < 2 ^ w then BitVec.ofNat w (c.toNat + n) else BitVec.ofNat w (2 ^ w - 1)

/-- Round `v` up to a multiple of `a`. -/
def roundUp (v a : Nat) : Nat := ((v + a - 1) / a) * a

/-- `n / d` rounded up. -/
def ceilDiv (n d : Nat) : Nat := (n + d - 1) / d

/-- Remove element `i` of a list. -/
def dropAt {α : Type} (l : List α) (i : Nat) : List α := l.take i ++ l.drop (i + 1)

end Sys2Proof.Machine
end

