-- ==== Sys2Proof/Machine/Crc.lean ====
section
/-! DEFINITION. The check codes of the module: CRC-32C (R261), CRC-8 of a frame (R312), the Hsiao SEC-DED code
(R424-R426), SHAKE256 (R155, R378; FIPS 202) and Reed-Solomon RS(544,514) (R311). -/

namespace Sys2Proof.Machine

/-- One bit of the reflected CRC-32C (polynomial 0x1EDC6F41, reflected 0x82F63B78). -/
def crcBit : Nat → W32 → W32
  | 0, c => c
  | n + 1, c => crcBit n (if c &&& 1#32 = 1#32 then (c >>> 1) ^^^ 0x82F63B78#32 else c >>> 1)

def crcByte (c : W32) (b : Byte) : W32 := crcBit 8 (c ^^^ b.setWidth 32)

/-- CRC-32C of a byte list in ascending order (R261). -/
def crc32c (l : List Byte) : W32 := (l.foldl crcByte 0xFFFFFFFF#32) ^^^ 0xFFFFFFFF#32

/-- CRC-8 with polynomial x^8 + x^2 + x + 1, initial value 0, most significant bit first (R312). -/
def crc8Bit : Nat → Byte → Byte
  | 0, c => c
  | n + 1, c => crc8Bit n (if c &&& 0x80#8 = 0x80#8 then (c <<< 1) ^^^ 0x07#8 else c <<< 1)

def crc8 (l : List Byte) : Byte := l.foldl (fun c b => crc8Bit 8 (c ^^^ b)) 0#8

/-! ### SEC-DED (39,32) -/

/-- The columns H_0 to H_31 (R424). -/
def hsiao : List Nat :=
  [0x07, 0x0B, 0x0D, 0x0E, 0x13, 0x15, 0x16, 0x19, 0x1A, 0x1C, 0x23, 0x25, 0x26, 0x29, 0x2A, 0x2C,
   0x31, 0x32, 0x34, 0x38, 0x43, 0x45, 0x46, 0x49, 0x4A, 0x4C, 0x51, 0x52, 0x54, 0x58, 0x61, 0x62]

/-- The check bits of 32 data bits (R424). -/
def eccCheck (d : W32) : BitVec 7 :=
  ((hsiao.zipIdx).foldl (fun c hi => if bitOf d.toNat hi.2 then c ^^^ BitVec.ofNat 7 hi.1 else c) 0#7)

/-- The poison mark's syndrome (R425, R426). -/
def poisonSyn : BitVec 7 := 0x7F#7

/-- What a reader of a word makes of its syndrome (R425). -/
inductive EccRead where
  | clean
  | checkBit
  | dataBit (i : Nat)
  | poison
  | bad
deriving DecidableEq, Repr

def eccRead (s : BitVec 7) : EccRead :=
  if s = 0#7 then .clean
  else if s = poisonSyn then .poison
  else if [1, 2, 4, 8, 16, 32, 64].contains s.toNat then .checkBit
  else match (hsiao.zipIdx).find? (fun hi => hi.1 == s.toNat) with
    | some hi => .dataBit hi.2
    | none => .bad

/-! ### SHAKE256 -/

/-- The rotation offsets of Keccak-f[1600], lane x + 5y. -/
def keccakRot : List Nat :=
  [0, 1, 62, 28, 27, 36, 44, 6, 55, 20, 3, 10, 43, 25, 39, 41, 45, 15, 21, 8, 18, 2, 61, 56, 14]

/-- The round constants of Keccak-f[1600]. -/
def keccakRc : List W64 :=
  [0x0000000000000001#64, 0x0000000000008082#64, 0x800000000000808A#64, 0x8000000080008000#64,
   0x000000000000808B#64, 0x0000000080000001#64, 0x8000000080008081#64, 0x8000000000008009#64,
   0x000000000000008A#64, 0x0000000000000088#64, 0x0000000080008009#64, 0x000000008000000A#64,
   0x000000008000808B#64, 0x800000000000008B#64, 0x8000000000008089#64, 0x8000000000008003#64,
   0x8000000000008002#64, 0x8000000000000080#64, 0x000000000000800A#64, 0x800000008000000A#64,
   0x8000000080008081#64, 0x8000000000008080#64, 0x0000000080000001#64, 0x8000000080008008#64]

def lane (a : List W64) (i : Nat) : W64 := (a[i]?).getD 0#64

/-- One round of Keccak-f[1600] on 25 lanes. -/
def keccakRound (a : List W64) (rc : W64) : List W64 :=
  let c := (List.range 5).map (fun x =>
    lane a x ^^^ lane a (x + 5) ^^^ lane a (x + 10) ^^^ lane a (x + 15) ^^^ lane a (x + 20))
  let dd := (List.range 5).map (fun x => lane c ((x + 4) % 5) ^^^ (lane c ((x + 1) % 5)).rotateLeft 1)
  let a1 := (List.range 25).map (fun i => lane a i ^^^ lane dd (i % 5))
  -- b[y][(2x + 3y) mod 5] = rot(a[x][y]): the source of lane (X, Y) has y = X, x = (X + 3Y) mod 5
  let b := (List.range 25).map (fun i =>
    let xx := i % 5
    let yy := i / 5
    let src := (xx + 3 * yy) % 5 + 5 * xx
    (lane a1 src).rotateLeft ((keccakRot[src]?).getD 0))
  let a2 := (List.range 25).map (fun i =>
    let x := i % 5
    let y := i / 5
    lane b i ^^^ (~~~(lane b ((x + 1) % 5 + 5 * y)) &&& lane b ((x + 2) % 5 + 5 * y)))
  match a2 with
  | [] => []
  | h :: t => (h ^^^ rc) :: t

def keccakF (a : List W64) : List W64 := keccakRc.foldl keccakRound a

/-- The 64-bit lanes of a byte list, little-endian; `n` lanes. -/
def bytesLanes : Nat → List Byte → List W64
  | 0, _ => []
  | n + 1, l => BitVec.ofNat 64 (leVal (l.take 8)) :: bytesLanes n (l.drop 8)

/-- Absorb the 136-byte blocks of a padded message. -/
def shakeAbsorb : Nat → List W64 → List Byte → List W64
  | 0, st, _ => st
  | n + 1, st, l =>
    if l.isEmpty then st else
    let blk := bytesLanes 17 (l.take 136) ++ List.replicate 8 0#64
    shakeAbsorb n (keccakF (List.zipWith (· ^^^ ·) st blk)) (l.drop 136)

/-- The SHAKE padding: 0x1F … 0x80 to a multiple of 136 bytes. -/
def shakePad (l : List Byte) : List Byte :=
  let r := l.length % 136
  if r = 135 then l ++ [0x9F#8]
  else l ++ [0x1F#8] ++ List.replicate (134 - r) 0#8 ++ [0x80#8]

/-- SHAKE256 with a 256-bit output (R155, R378, R456). -/
def shake256 (l : List Byte) : List Byte :=
  let p := shakePad l
  let st := shakeAbsorb (p.length / 136 + 1) (List.replicate 25 0#64) p
  ((st.take 4).map (fun w => leBytes 8 w.toNat)).flatten

/-- The digest of a checkpoint entry: SHAKE256 over the digests of its 4 MiB pieces in order (R378). -/
def digestPieces : Nat → List Byte → List Byte
  | 0, _ => []
  | n + 1, l => if l.isEmpty then [] else shake256 (l.take 0x400000) ++ digestPieces n (l.drop 0x400000)

def entryDigest (l : List Byte) : List Byte := shake256 (digestPieces (l.length / 0x400000 + 1) l)

/-! ### RS(544,514) over GF(2^10) (R311; IEEE 802.3 Clause 91) -/

/-- Multiplication by alpha = 2 in GF(2^10) with x^10 + x^3 + 1. -/
def gf10Mul2 (a : BitVec 10) : BitVec 10 :=
  if a.getLsbD 9 then (a <<< 1) ^^^ 0x009#10 else a <<< 1

def gf10MulGo : Nat → BitVec 10 → BitVec 10 → BitVec 10 → BitVec 10
  | 0, _, _, acc => acc
  | n + 1, a, b, acc => gf10MulGo n (gf10Mul2 a) (b >>> 1) (if b.getLsbD 0 then acc ^^^ a else acc)

def gf10Mul (a b : BitVec 10) : BitVec 10 := gf10MulGo 10 a b 0#10

/-- Multiply a polynomial (highest coefficient first) by (x - r). -/
def polyMulLin (p : List (BitVec 10)) (r : BitVec 10) : List (BitVec 10) :=
  List.zipWith (· ^^^ ·) (p ++ [0#10]) (0#10 :: p.map (gf10Mul r))

/-- The generator polynomial, the product of (x - alpha^j) for j = 0 to 29, highest coefficient first. -/
def rsGenGo : Nat → BitVec 10 → List (BitVec 10) → List (BitVec 10)
  | 0, _, p => p
  | n + 1, r, p => rsGenGo n (gf10Mul2 r) (polyMulLin p r)

def rsGen : List (BitVec 10) := rsGenGo 30 1#10 [1#10]

/-- One step of the parity register (30 symbols, highest first). -/
def rsStep (g reg : List (BitVec 10)) (m : BitVec 10) : List (BitVec 10) :=
  match reg with
  | [] => []
  | h :: t => let f := m ^^^ h; List.zipWith (· ^^^ ·) (t ++ [0#10]) (g.map (gf10Mul f))

/-- The 544 code symbols of 514 message symbols: the message, then the 30 parity symbols. -/
def rsEncode (msg : List (BitVec 10)) : List (BitVec 10) :=
  let g := rsGen.drop 1
  msg ++ msg.foldl (rsStep g) (List.replicate 30 0#10)

end Sys2Proof.Machine
end

