-- ==== Sys2Proof/Machine/MlDsa.lean ====
section
/-! DEFINITION. ML-DSA-65, the signatures that R456 names (FIPS 204, pure and deterministic, with a context string). The manual names the
standard and its sizes; the algorithm is the standard's (PRESUMED: log 13). Coefficients are numbers below q; bounds on the loops that
reject samples are no lower than the standard's. -/

namespace Sys2Proof.Machine

/-! ### SHAKE with any output length -/

/-- Absorb blocks of `rate` bytes, a multiple of 8. -/
def spongeIn (rate : Nat) : Nat → List W64 → List Byte → List W64
  | 0, st, _ => st
  | n + 1, st, l =>
    if l.isEmpty then st
    else spongeIn rate n (keccakF (List.zipWith (· ^^^ ·) st (bytesLanes (rate / 8) (l.take rate) ++ List.replicate (25 - rate / 8) 0#64)))
      (l.drop rate)

/-- Squeeze `n` blocks. -/
def spongeOut (rate : Nat) : Nat → List W64 → List Byte
  | 0, _ => []
  | n + 1, st => ((st.take (rate / 8)).map (fun w => leBytes 8 w.toNat)).flatten ++ spongeOut rate n (keccakF st)

/-- `n` bytes of SHAKE128 (rate 168) or SHAKE256 (rate 136). -/
def shakeN (rate n : Nat) (l : List Byte) : List Byte :=
  let r := l.length % rate
  let p := if r = rate - 1 then l ++ [0x9F#8] else l ++ [0x1F#8] ++ List.replicate (rate - 2 - r) 0#8 ++ [0x80#8]
  (spongeOut rate (n / rate + 1) (spongeIn rate (p.length / rate + 1) (List.replicate 25 0#64) p)).take n

def dsaH (n : Nat) (l : List Byte) : List Byte := shakeN 136 n l

/-! ### Parameters and arithmetic modulo q -/

def dsaQ : Nat := 8380417
def dsaK : Nat := 6
def dsaL : Nat := 5
def dsaTau : Nat := 49
def dsaGamma1 : Nat := 524288
def dsaGamma2 : Nat := 261888
def dsaBeta : Nat := 196
def dsaOmega : Nat := 55

abbrev DPoly := List Nat

def powQ (b : Nat) : Nat → Nat
  | 0 => 1
  | n + 1 => b * powQ b n % dsaQ

def dAdd (a b : DPoly) : DPoly := List.zipWith (fun x y => (x + y) % dsaQ) a b
def dSub (a b : DPoly) : DPoly := List.zipWith (fun x y => (x + dsaQ - y) % dsaQ) a b
def dMul (a b : DPoly) : DPoly := List.zipWith (fun x y => x * y % dsaQ) a b
def dScale (n : Nat) (a : DPoly) : DPoly := a.map (fun x => n * x % dsaQ)
def dZero : DPoly := List.replicate 256 0

/-- The magnitude of a coefficient about 0. -/
def dAbs (x : Nat) : Nat := if x ≤ dsaQ / 2 then x else dsaQ - x

def dNorm (l : List DPoly) : Nat := (l.flatten).foldl (fun m x => max m (dAbs x)) 0

/-! ### The number-theoretic transform -/

/-- The low `n` bits of a number in reverse. -/
def revBits : Nat → Nat → Nat
  | 0, _ => 0
  | n + 1, x => (x % 2) * 2 ^ n + revBits n (x / 2)

/-- The root of node `m` of the tree of factors. -/
def dZeta (m : Nat) : Nat := powQ 1753 (revBits 8 m)

def nttGo : Nat → Nat → DPoly → DPoly
  | 0, _, l => l
  | n + 1, m, l =>
    let lo := l.take (2 ^ n)
    let t := dScale (dZeta m) (l.drop (2 ^ n))
    nttGo n (2 * m) (dAdd lo t) ++ nttGo n (2 * m + 1) (dSub lo t)

def inttGo : Nat → Nat → DPoly → DPoly
  | 0, _, l => l
  | n + 1, m, l =>
    let a := inttGo n (2 * m) (l.take (2 ^ n))
    let b := inttGo n (2 * m + 1) (l.drop (2 ^ n))
    let half := (dsaQ + 1) / 2
    dScale half (dAdd a b) ++ dScale (half * powQ 1753 (512 - revBits 8 m) % dsaQ) (dSub a b)

def ntt (l : DPoly) : DPoly := nttGo 8 1 l
def intt (l : DPoly) : DPoly := inttGo 8 1 l

/-- A row of polynomials times a column, in the transform's domain. -/
def dDot (a b : List DPoly) : DPoly := (List.zipWith dMul a b).foldl dAdd dZero

/-! ### Packing -/

/-- Values of `w` bits, least significant first, as bytes. -/
def packBits (w : Nat) (l : List Nat) : List Byte :=
  let n := l.foldr (fun x a => x % 2 ^ w + a * 2 ^ w) 0
  leBytes (l.length * w / 8) n

def unpackBits (w : Nat) (l : List Byte) : List Nat :=
  let n := leVal l
  (List.range (8 * l.length / w)).map (fun i => bitsOf n (w * i) w)

/-- Runs of `n` bytes. -/
def chunksOf (n : Nat) : Nat → List Byte → List (List Byte)
  | 0, _ => []
  | k + 1, l => l.take n :: chunksOf n k (l.drop n)

/-! ### Sampling -/

/-- A polynomial of the transform's domain from three-byte groups, each used where it is below q. -/
def rejUniform : List Byte → List Nat
  | a :: b :: c :: r =>
    let z := a.toNat + 256 * b.toNat + 65536 * (c.toNat % 128)
    if z < dsaQ then z :: rejUniform r else rejUniform r
  | _ => []

def expandA (rho : List Byte) : List (List DPoly) :=
  (List.range dsaK).map (fun r => (List.range dsaL).map (fun s =>
    (rejUniform (shakeN 168 1344 (rho ++ leBytes 1 s ++ leBytes 1 r))).take 256))

/-- Coefficients from −4 to 4, two a byte. -/
def rejSmall (l : List Byte) : List Nat :=
  ((l.map (fun b => [b.toNat % 16, b.toNat / 16])).flatten.filter (· < 9)).map (fun x => (dsaQ + 4 - x) % dsaQ)

def expandS (rho : List Byte) (i : Nat) : DPoly := (rejSmall (dsaH 544 (rho ++ leBytes 2 i))).take 256

def expandMask (rho : List Byte) (kappa : Nat) : List DPoly :=
  (List.range dsaL).map (fun r =>
    (unpackBits 20 (dsaH 640 (rho ++ leBytes 2 (kappa + r)))).map (fun x => (dsaQ + dsaGamma1 - x) % dsaQ))

/-- The challenge: 49 coefficients ±1. Each place `i` takes the next byte that is at most `i`. -/
def ballGo (signs : Nat) : Nat → Nat → List Byte → DPoly → DPoly
  | 0, _, _, c => c
  | n + 1, i, l, c =>
    match l.dropWhile (fun b => i < b.toNat) with
    | [] => c
    | b :: r =>
      let j := b.toNat
      let c := c.set i (c.getD j 0)
      ballGo signs n (i + 1) r (c.set j (if bitOf signs (i + dsaTau - 256) then dsaQ - 1 else 1))

def sampleInBall (seed : List Byte) : DPoly :=
  let l := dsaH 408 seed
  ballGo (leVal (l.take 8)) dsaTau (256 - dsaTau) (l.drop 8) dZero

/-! ### Rounding and hints -/

/-- High and low part of a coefficient: r = r1 · 2γ2 + r0; the low part as whether it is positive, and its magnitude. -/
def decompose (r : Nat) : Nat × Bool × Nat :=
  let a := 2 * dsaGamma2
  let m := r % a
  let up := dsaGamma2 < m
  let hi := if up then r / a + 1 else r / a
  let neg := if up then a - m else 0
  if hi * a = dsaQ - 1 then (0, false, neg + 1) else if up then (hi, false, neg) else (hi, decide (0 < m), m)

def highBits (r : Nat) : Nat := (decompose r).1

def useHint (h : Bool) (r : Nat) : Nat :=
  let (r1, pos, _) := decompose r
  if !h then r1 else if pos then (r1 + 1) % 16 else (r1 + 15) % 16

/-- High and low part of a coefficient of the public key. -/
def power2Round (r : Nat) : Nat × Nat :=
  let m := r % 8192
  if 4096 < m then (r / 8192 + 1, dsaQ - (8192 - m)) else (r / 8192, m)

def hintPack (h : List (List Bool)) : List Byte :=
  let at' (p : List Bool) : List Nat := (List.range 256).filter (fun j => (p[j]?).getD false)
  let pos := (h.map at').flatten
  let ends := (List.range dsaK).map (fun i => ((h.take (i + 1)).map (fun p => (at' p).length)).sum)
  (pos ++ List.replicate (dsaOmega - pos.length) 0 ++ ends).map (fun n => BitVec.ofNat 8 n)

def rising : List Nat → Bool
  | a :: b :: r => decide (a < b) && rising (b :: r)
  | _ => true

/-- The hints of `n` polynomials whose positions start at place `first`; none where the encoding is not the one of `hintPack`. -/
def hintGo (y : List Nat) : Nat → Nat → Nat → Option (List (List Bool))
  | 0, _, first => if (y.take dsaOmega).drop first |>.all (· == 0) then some [] else none
  | n + 1, i, first =>
    let last := (y[dsaOmega + i]?).getD 0
    if last < first ∨ dsaOmega < last then none
    else
      let l := (y.drop first).take (last - first)
      if rising l then (hintGo y n (i + 1) last).map (fun r => (List.range 256).map (fun j => l.contains j) :: r) else none

def hintUnpack (l : List Byte) : Option (List (List Bool)) := hintGo (l.map (·.toNat)) dsaK 0 0

/-! ### The scheme -/

/-- The bytes of a message with its context string. -/
def dsaMsg (msg ctx : List Byte) : List Byte := [0#8] ++ leBytes 1 ctx.length ++ ctx ++ msg

/-- The key of a seed: ρ, K, the transforms of s1 and s2, t0's, and the public key. -/
structure DsaKey where
  rho : List Byte
  k : List Byte
  s1 : List DPoly
  s2 : List DPoly
  t0 : List DPoly
  pub : List Byte

def dsaKeyGen (seed : List Byte) : DsaKey :=
  let h := dsaH 128 (seed ++ leBytes 1 dsaK ++ leBytes 1 dsaL)
  let rho := h.take 32
  let s1 := (List.range dsaL).map (fun r => ntt (expandS ((h.drop 32).take 64) r))
  let s2 := (List.range dsaK).map (fun r => expandS ((h.drop 32).take 64) (dsaL + r))
  let t := List.zipWith (fun row s => (dAdd (intt (dDot row s1)) s).map power2Round) (expandA rho) s2
  { rho := rho, k := h.drop 96, s1 := s1, s2 := s2.map ntt, t0 := t.map (fun p => ntt (p.map (·.2)))
    pub := rho ++ (t.map (fun p => packBits 10 (p.map (·.1)))).flatten }

/-- ML-DSA-65 key generation from the seed (R465): the public key. -/
def mldsaPublic (seed : List Byte) : List Byte := (dsaKeyGen seed).pub

/-- The rounds of a signature, until one is accepted. -/
def dsaSignGo (key : DsaKey) (a : List (List DPoly)) (mu rho : List Byte) : Nat → Nat → List Byte
  | 0, _ => List.replicate 3309 0#8
  | n + 1, kappa =>
    let y := expandMask rho kappa
    let w := a.map (fun row => intt (dDot row (y.map ntt)))
    let ct := dsaH 48 (mu ++ (w.map (fun p => packBits 4 (p.map highBits))).flatten)
    let c := ntt (sampleInBall ct)
    let z := List.zipWith (fun y s => dAdd y (intt (dMul c s))) y key.s1
    let r := List.zipWith (fun w s => dSub w (intt (dMul c s))) w key.s2
    let ct0 := key.t0.map (fun t => intt (dMul c t))
    let hint := List.zipWith (fun r t => List.zipWith (fun x e => highBits x != highBits ((x + e) % dsaQ)) r t) r ct0
    if dsaGamma1 - dsaBeta ≤ dNorm z ∨ dsaGamma2 - dsaBeta ≤ (r.flatten.foldl (fun m x => max m (decompose x).2.2) 0) ∨
        dsaGamma2 ≤ dNorm ct0 ∨ dsaOmega < (hint.flatten.filter id).length then
      dsaSignGo key a mu rho n (kappa + dsaL)
    else ct ++ (z.map (fun p => packBits 20 (p.map (fun x => (dsaQ + dsaGamma1 - x) % dsaQ)))).flatten ++ hintPack hint

/-- ML-DSA-65 signature of a message under the key of a seed, with a context string (R467). -/
def mldsaSign (seed msg ctx : List Byte) : List Byte :=
  let key := dsaKeyGen seed
  let mu := dsaH 64 (dsaH 64 key.pub ++ dsaMsg msg ctx)
  dsaSignGo key (expandA key.rho) mu (dsaH 64 (key.k ++ List.replicate 32 0#8 ++ mu)) 13000 0

/-- ML-DSA-65 verification (R456): public key, message, signature, context. -/
def mldsaVerify (pub msg sig ctx : List Byte) : Bool :=
  if pub.length ≠ 1952 ∨ sig.length ≠ 3309 ∨ 255 < ctx.length then false
  else match hintUnpack (sig.drop 3248) with
    | none => false
    | some hint =>
      let t1 := (chunksOf 320 dsaK (pub.drop 32)).map (unpackBits 10)
      let z := (chunksOf 640 dsaL (sig.drop 48)).map (fun l => (unpackBits 20 l).map (fun x => (dsaQ + dsaGamma1 - x) % dsaQ))
      let mu := dsaH 64 (dsaH 64 pub ++ dsaMsg msg ctx)
      let c := ntt (sampleInBall (sig.take 48))
      let zh := z.map ntt
      let w := List.zipWith (fun row t => intt (dSub (dDot row zh) (dMul c (ntt (dScale 8192 t))))) (expandA (pub.take 32)) t1
      let w1 := List.zipWith (fun h r => List.zipWith useHint h r) hint w
      decide (dNorm z < dsaGamma1 - dsaBeta) && dsaH 48 (mu ++ (w1.map (packBits 4)).flatten) == sig.take 48

end Sys2Proof.Machine
end

