-- ==== Sys2Proof/Syntax.lean ====
section
/-! DEFINITION. The commands of the module: `Instr`, one constructor per row of spec/opcode_table.json, and the types
of their operands. -/

namespace Sys2Proof

/-! ### Formats of the control instructions (R47) -/

/-- Format R. -/
structure RFmt where
  rd : BitVec 4
  ra : BitVec 4
  rb : BitVec 4
  rsv : BitVec 8
  fn : BitVec 6
deriving DecidableEq, Repr

/-- Format I. -/
structure IFmt where
  rd : BitVec 4
  ra : BitVec 4
  imm : BitVec 18
deriving DecidableEq, Repr

/-- Format L. -/
structure LFmt where
  rd : BitVec 4
  imm : BitVec 22
deriving DecidableEq, Repr

/-- Format B. -/
structure BFmt where
  ra : BitVec 4
  rb : BitVec 4
  off : BitVec 18
deriving DecidableEq, Repr

/-- Format Q. -/
structure QFmt where
  ra : BitVec 4
  rb : BitVec 4
  queue : BitVec 4
  pe : BitVec 1
  rsv : BitVec 13
deriving DecidableEq, Repr

/-- Format C. -/
structure CFmt where
  rv : BitVec 4
  ra : BitVec 4
  rsv : BitVec 2
  imm : BitVec 16
deriving DecidableEq, Repr

/-- Format N: all of [25:0] is reserved. -/
structure NFmt where
  rsv : BitVec 26
deriving DecidableEq, Repr

/-! ### What the environment decides, as operands -/

/-- One group code that differs from its ideal count (R134, R147): the plane, the sub-plane of a W4 read (R131), the
macro, the line in use (0 to 767 the working columns, 768 to 775 the reference columns, R127), the group, and the
code that the ADC gives before the clamps of R135. A calibration plane is plane 0. -/
structure AdcDev where
  plane : Nat
  sub : Nat
  mac : Nat
  line : Nat
  group : Nat
  code : Nat
deriving DecidableEq, Repr

/-- What verify measured at a cell of a press (R159, R160): macro, row index, physical column; the conductance corrected to 25 °C, in
10⁻⁶ G_u, after each reset pulse and after each program iteration (in a REFRESH, the first of these before any pulse). A cell that a
press does not name was measured in its band. -/
structure CellFail where
  mac : Nat
  row : Nat
  col : Nat
  resets : List Nat
  its : List Nat
deriving DecidableEq, Repr

/-- What verify found during a press: cells of the row visits and of each repair round (R171, R172), the blocks' iteration figures
(R177), the cells topped up per block, reference-column cells among them. -/
structure PressOut where
  fails : List CellFail
  repair : List (List CellFail)
  iters : List (Nat × Nat × Nat)   -- block 16 × macro + group, mean (8.8), largest
  topups : List (Nat × Nat)        -- block, cells topped up
deriving DecidableEq, Repr

/-- What a scrub reads (R260). -/
inductive ScrubTgt where
  | stack (s : Nat)
  | spad (t : Nat)
  | vat (t : Nat)
deriving DecidableEq, Repr

/-- By how much a result of a tile differs from the exact one in a cross-check (R441): the tile, whether in its rerun (R442), the test (1 to
5 in the order of R441), and the place in its results: an index for tests 1 to 4, the vector and the column for test 5. -/
structure XchkRes where
  tile : Nat
  rerun : Bool
  test : Nat
  vec : Nat
  place : Nat
  diff : Int
deriving DecidableEq, Repr

/-- The channel of a management command (R462): the mailbox, or I3C with the framed command it carries. -/
inductive Chan where
  | host
  | i3c (frame : List Byte)
deriving DecidableEq, Repr

/-- What a peer sends at PARAM (R313): device id, port, bond, credits per pool, retry depth. -/
structure PeerParam where
  dev : Nat
  port : Nat
  bond : Nat
  credits : List Nat
  depth : Nat
deriving DecidableEq, Repr

/-- The retrain triggers of R314, a lost lane apart (LANE_LOSS). -/
inductive RetrainWhy where
  | frameLock
  | uncorrectable
  | replays
deriving DecidableEq, Repr

/-- A route entry (R326): device id, bond (30 is LOCAL), valid. -/
structure RouteEnt where
  dev : Nat
  bond : Nat
  valid : Bool
deriving DecidableEq, Repr

/-- An entry of a checkpoint table (R374). -/
structure CkEnt where
  bufA : Nat
  bufB : Nat
  bytes : Nat
  tid : Nat
  flags : Nat
deriving DecidableEq, Repr

/-- A checkpoint table with its slots (R374). -/
structure CkTab where
  ents : List CkEnt
  loc : Nat
  par : Nat
  parBytes : Nat
deriving DecidableEq, Repr

/-- A snapshot copy on the partner's drive (R377): the slot, the checkpoint that wrote it, its digest. -/
structure SnapCopy where
  slot : Nat
  epoch : W64
  digest : List Byte
deriving DecidableEq, Repr

/-- The catalogue of one entry at a checkpoint (R378): its digest, whether a parity copy was saved, and its newest snapshot. -/
structure CatEnt where
  tid : Nat
  digest : List Byte
  parity : Bool
  snap : Option SnapCopy
deriving DecidableEq, Repr

/-- A checkpoint in the catalogue (R378, R379): epoch, sequence number, the groups with their parity shards and the snapshot partners that it
was taken with, and the entries of each device. -/
structure CkRec where
  epoch : W64
  seq : Nat
  groups : List (List Nat)
  shards : Nat
  partners : List (Nat × Nat)
  devs : List (Nat × List CatEnt)
deriving DecidableEq, Repr

/-- TREECFG (R366, R376, R377, R380, R382): parent, children, the device's group in member order and its index there, the next group, the
parity shards, the length L of the group's parity strings, the bytes of pieces that the device holds for others in one slot, the snapshot
partner, the device whose snapshots its drive holds, the tensor ids that take snapshot; for a spare the failed device's table, its catalogue
and the next sequence number; and the manager's generation (log 61). -/
structure TreeCfg where
  parent : Option Nat
  children : List Nat
  group : List Nat
  index : Nat
  nextGroup : List Nat
  shards : Nat
  len : Nat
  held : Nat
  partner : Option Nat
  snapFor : Option Nat
  snap : List Nat
  table : Option CkTab
  cat : List CkRec
  seq : Nat
  gen : Nat
deriving DecidableEq, Repr

/-- A decision record (R366 MIRROR): epoch, commit or rollback, the FLAGS of the commit, or a complete checkpoint for the catalogue. -/
structure MirrorRec where
  epoch : W64
  commit : Bool
  flags : Byte
  ckpt : Option CkRec
deriving DecidableEq, Repr

/-- What a HEART says of its sender: its epoch, whether it holds job state, the capacity of its drive where that works (R377), its table and
one that waits for the next commit (R374), the id that it had before a substitution, and whether it is its first since start-up (R371). -/
structure DevReport where
  epoch : W64
  holds : Bool
  blocks : Option Nat
  table : Option CkTab
  next : Option CkTab
  former : Option Nat
  first : Bool
deriving DecidableEq, Repr

/-- What reaches a device for a restore (R384): for an entry (its tensor id) and a source, byte strings whose bytewise sum is the entry (a
snapshot; or the strings and the pieces of its parity group), the first source first; and the pieces that it holds for others. -/
structure RestoreData where
  ents : List (Nat × List (List Byte))
  held : List Byte
deriving DecidableEq, Repr

/-- Who sent a clutch message: its device id, the id that the module had before a substitution, which tells it from the module that it replaces
(R371, R382), and the generation that it knows: the manager raises it with every new tree and every rollback, so that a message from before
is told apart (R367, R372). The manual has no such fields: log 61. -/
structure Sender where
  dev : Nat
  former : Option Nat
  gen : Nat
deriving DecidableEq, Repr

/-- What a CROLL names beside its epochs and cause (R366): the generation, whether a substitution follows, the devices that failed. -/
structure RollNote where
  gen : Nat
  subst : Bool
  failed : List Nat
deriving DecidableEq, Repr

/-- A CRDONE (R365): the device, and whether the digests of what it restored verify (R384, R385). -/
structure RestoreReport where
  dev : Sender
  ok : Bool
deriving DecidableEq, Repr

/-- Why a device sends FAILRPT (R366): a contained error, or the job's ABANDON for `epoch`. -/
structure FailWhy where
  epoch : W64
  abandon : Bool
deriving DecidableEq, Repr

/-- The conditions of an input trip (R404). -/
inductive InTrip where
  | under
  | over
  | current
deriving DecidableEq, Repr

/-- The posted domains (R461). -/
inductive Dom where
  | xlate
  | upd (s : Nat)
  | pwr
  | mgmt
  | eft
deriving DecidableEq, Repr

/-- What start-up finds outside the digital state: the straps (R490), the identity macro's bits (R465), the tiles that
fail self-test (physical numbers), and whether a mesh router fails (R454). -/
structure StartEnv where
  posId : Nat
  rawBits : List Byte
  badTiles : List Nat
  routerFail : Bool
deriving DecidableEq, Repr

/-- What the last start-up steps find (R453): whether the snapshot drive answers,
and its namespace capacity in logical blocks. -/
structure ReadyEnv where
  drive : Bool
  nsBlocks : Nat
deriving DecidableEq, Repr

/-- One command of the module: one row of spec/opcode_table.json, with its operands. `t` is a logical tile, `k` a
strand slot, `q` a queue of R52, `b` a bank, `i` an index in a queue or list, `p` a port, `w` the party that makes a
CSR access (the UNIT code of R428). -/
inductive Instr where
  /-- ALU (R48). -/
  | alu (t : Nat) (k : Nat) (f : RFmt)
  /-- ADDI (R48). -/
  | addi (t : Nat) (k : Nat) (f : IFmt)
  /-- ANDI (R48). -/
  | andi (t : Nat) (k : Nat) (f : IFmt)
  /-- ORI (R48). -/
  | ori (t : Nat) (k : Nat) (f : IFmt)
  /-- XORI (R48). -/
  | xori (t : Nat) (k : Nat) (f : IFmt)
  /-- SHLI (R48). -/
  | shli (t : Nat) (k : Nat) (f : IFmt)
  /-- SHRI (R48). -/
  | shri (t : Nat) (k : Nat) (f : IFmt)
  /-- SRAI (R48). -/
  | srai (t : Nat) (k : Nat) (f : IFmt)
  /-- SLTI (R48). -/
  | slti (t : Nat) (k : Nat) (f : IFmt)
  /-- LI (R48). -/
  | li (t : Nat) (k : Nat) (f : LFmt)
  /-- SHIN (R48). -/
  | shin (t : Nat) (k : Nat) (f : LFmt)
  /-- LD (R48). -/
  | ld (t : Nat) (k : Nat) (f : IFmt)
  /-- LD_DATA_ARRIVAL (R42). -/
  | ldDataArrival (t : Nat) (k : Nat)
  /-- ST (R48). -/
  | st (t : Nat) (k : Nat) (f : IFmt)
  /-- BEQ (R48). -/
  | beq (t : Nat) (k : Nat) (f : BFmt)
  /-- BNE (R48). -/
  | bne (t : Nat) (k : Nat) (f : BFmt)
  /-- BLT (R48). -/
  | blt (t : Nat) (k : Nat) (f : BFmt)
  /-- BGE (R48). -/
  | bge (t : Nat) (k : Nat) (f : BFmt)
  /-- BLTU (R48). -/
  | bltu (t : Nat) (k : Nat) (f : BFmt)
  /-- BGEU (R48). -/
  | bgeu (t : Nat) (k : Nat) (f : BFmt)
  /-- JAL (R48). -/
  | jal (t : Nat) (k : Nat) (f : LFmt)
  /-- JALR (R48). -/
  | jalr (t : Nat) (k : Nat) (f : IFmt)
  /-- ISSUE (R53). -/
  | issue (t : Nat) (k : Nat) (f : QFmt)
  /-- QUEUE_SLOT_FREED (R53). -/
  | queueSlotFreed (t : Nat) (q : Nat) (k : Nat)
  /-- SIG (R48). -/
  | sig (t : Nat) (k : Nat) (f : CFmt)
  /-- SETC (R48). -/
  | setc (t : Nat) (k : Nat) (f : CFmt)
  /-- RDC (R48). -/
  | rdc (t : Nat) (k : Nat) (f : CFmt)
  /-- WAIT (R59). -/
  | wait (t : Nat) (k : Nat) (f : CFmt)
  /-- GETID (R65). -/
  | getid (t : Nat) (k : Nat) (f : IFmt)
  /-- YIELD (R42). -/
  | yield (t : Nat) (k : Nat) (f : NFmt)
  /-- EXIT (R42). -/
  | exit (t : Nat) (k : Nat) (f : NFmt)
  /-- COUNTER_UPDATE (R60). -/
  | counterUpdate (n : Nat)
  /-- STRAND_WAKE (R61). -/
  | strandWake (t : Nat) (k : Nat)
  /-- DESCRIPTOR_COMPLETE (R55). -/
  | descriptorComplete (t : Nat) (q : Nat) (i : Nat)
  /-- MM (R214). -/
  | mm (t : Nat)
  /-- MMACC (R214). -/
  | mmacc (t : Nat)
  /-- MMVAT (R214). -/
  | mmvat (t : Nat)
  /-- VATZERO (R503). -/
  | vatzero (t : Nat)
  /-- MATRIX_TILE_COMMIT (R219). -/
  | matrixTileCommit (t : Nat)
  /-- RESCORE (R398). -/
  | rescore (t : Nat)
  /-- READ (R187). -/
  | read (t : Nat) (b : Nat) (cal : List AdcDev)
  /-- ARRAY_VECTOR_DONE (R132). -/
  | arrayVectorDone (t : Nat) (b : Nat) (devs : List AdcDev)
  /-- DIVERT_BATCH (R197). -/
  | divertBatch (t : Nat) (b : Nat)
  /-- COMPANION_WORK_DONE (R199). -/
  | companionWorkDone (t : Nat) (b : Nat)
  /-- SETCORR (R191). -/
  | setcorr (t : Nat) (b : Nat)
  /-- QUERY (R390). -/
  | query (t : Nat) (b : Nat) (cal : List AdcDev)
  /-- FULL (R156). -/
  | full (t : Nat)
  /-- DELTA (R156). -/
  | delta (t : Nat)
  /-- REFRESH (R156). -/
  | refresh (t : Nat)
  /-- PRESS_COMPLETE (R163). -/
  | pressComplete (t : Nat) (out : PressOut)
  /-- FOLDARM (R201). -/
  | foldarm (t : Nat)
  /-- FOLDCLR (R201). -/
  | foldclr (t : Nat)
  /-- TILE_COMMIT (R202). -/
  | tileCommit (t : Nat)
  /-- FOLD_DELTA_START (R202). -/
  | foldDeltaStart (t : Nat) (b : Nat)
  /-- FOLD_DELTA_COMPLETE (R202). -/
  | foldDeltaComplete (t : Nat) (out : PressOut)
  /-- FOLD_COMPLETE (R202). -/
  | foldComplete (t : Nat) (b : Nat)
  /-- RUN (R242). -/
  | run (t : Nat)
  /-- FBQRUN (R250). -/
  | fbqrun (t : Nat)
  /-- FBQ_BLOCK_DONE (R250). -/
  | fbqBlockDone (t : Nat)
  /-- RGATHER (R244). -/
  | rgather (t : Nat)
  /-- RSET (R244). -/
  | rset (t : Nat)
  /-- ACTQ (R245). -/
  | actq (t : Nat)
  /-- WQUANT (R246). -/
  | wquant (t : Nat)
  /-- TOPMERGE (R396). -/
  | topmerge (t : Nat)
  /-- VDRAIN (R229). -/
  | vdrain (t : Nat)
  /-- COPY (R272). -/
  | copy (t : Nat)
  /-- XPOSE (R272). -/
  | xpose (t : Nat)
  /-- FILL (R272). -/
  | fill (t : Nat)
  /-- UPDATE (R302). -/
  | update (t : Nat)
  /-- GNORM (R305). -/
  | gnorm (t : Nat)
  /-- RSIG (R331). -/
  | rsig (t : Nat)
  /-- HEVENT (R331). -/
  | hevent (t : Nat)
  /-- DISPATCH (R349). -/
  | dispatch (t : Nat)
  /-- COMBINE (R351). -/
  | combine (t : Nat)
  /-- REDSCAT (R356). -/
  | redscat (t : Nat)
  /-- ALLGATHER (R357). -/
  | allgather (t : Nat)
  /-- COLLARM_TIMEOUT (R354). -/
  | collarmTimeout (id : Nat)
  /-- READY (R363). -/
  | ready (t : Nat)
  /-- ABANDON (R365). -/
  | abandon (t : Nat)
  /-- CKPTTAB (R374). -/
  | ckpttab (t : Nat)
  /-- TRANSLATION_FAULT (R276). -/
  | translationFault (t : Nat) (q : Nat) (i : Nat)
  /-- XLRESUME_RETRY (R277). -/
  | xlresumeRetry (t : Nat) (q : Nat) (w : Nat)
  /-- XLRESUME_ABORT (R277). -/
  | xlresumeAbort (t : Nat) (q : Nat) (w : Nat)
  /-- MEM_XLINV (R270). -/
  | memXlinv (v : W64) (w : Nat)
  /-- XLINV_COMPLETE (R270). -/
  | xlinvComplete
  /-- MEM_XLROOT_WRITE (R266). -/
  | memXlrootWrite (n : Nat) (v : W64) (w : Nat)
  /-- PREEMPT_SAVE (R280). -/
  | preemptSave (v : W64) (w : Nat)
  /-- PREEMPT_SAVE_WRITE (R280). -/
  | preemptSaveWrite
  /-- PREEMPT_SAVE_DONE (R280). -/
  | preemptSaveDone
  /-- PREEMPT_RESTORE (R283). -/
  | preemptRestore (v : W64) (w : Nat)
  /-- PREEMPT_RESTORE_DONE (R284). -/
  | preemptRestoreDone
  /-- LNK_SQTAIL (R337). -/
  | lnkSqtail (r : Nat) (v : W64) (w : Nat)
  /-- GRID_LAUNCH (R65). -/
  | gridLaunch (r : Nat)
  /-- GRID_COMPLETE (R66). -/
  | gridComplete (g : Nat)
  /-- GRID_ERROR_COMPLETION (R66). -/
  | gridErrorCompletion (g : Nat)
  /-- CONTAINED_ACTION (R422). -/
  | containedAction
  /-- FATAL_ACTION (R422). -/
  | fatalAction
  /-- ERROR_RECORD_RAISE (R431). -/
  | errorRecordRaise
  /-- RECORD_HANDLED (R431). -/
  | recordHandled
  /-- SUMMARY_WRITE (R434). -/
  | summaryWrite
  /-- LEDGER_WRITE (R179). -/
  | ledgerWrite
  /-- SHADOW_COMPARE (R436). -/
  | shadowCompare (t : Nat)
  /-- SCRUB_PERIOD (R260). -/
  | scrubPeriod (g : ScrubTgt)
  /-- STACK_TEMP_READ (R258). -/
  | stackTempRead (temps : List Nat)
  /-- ECS_READ (R258). -/
  | ecsRead (counts : List Nat)
  /-- SENSOR_SNAPSHOT (R452). -/
  | sensorSnapshot
  /-- REFRESH_REQUEST (R170). -/
  | refreshRequest (t : Nat) (b : Nat) (age : Nat) (hot : Nat)
  /-- INDEX_REFRESH_ISSUE (R399). -/
  | indexRefreshIssue (t : Nat) (b : Nat) (due : Bool)
  /-- MODE_CHANGE (R443). -/
  | modeChange (v : W64) (w : Nat)
  /-- MODE_ACK (R443). -/
  | modeAck (t : Nat)
  /-- FENCE_TIMEOUT (R444). -/
  | fenceTimeout
  /-- MP_XCHK_START (R440). -/
  | mpXchkStart (v : W64) (w : Nat)
  /-- XCHK_DONE (R442). -/
  | xchkDone (res : List XchkRes)
  /-- MP_DIAGSEL (R478). -/
  | mpDiagsel (v : W64) (w : Nat)
  /-- DIAG_READ_DONE (R478). -/
  | diagReadDone (ok : Bool)
  /-- MP_ACCESS_TIMEOUT (R446). -/
  | mpAccessTimeout (u : Nat)
  /-- EFT_ACCESS_TIMEOUT (R476). -/
  | eftAccessTimeout (wr : Bool) (a : Nat) (v : W64)
  /-- TILE_NUMCLR (R123). -/
  | tileNumclr (t : Nat) (v : W64) (w : Nat)
  /-- ARR_EVTCLR (R135). -/
  | arrEvtclr (t : Nat) (v : W64) (w : Nat)
  /-- ARR_SPILLCLR (R198). -/
  | arrSpillclr (t : Nat) (v : W64) (w : Nat)
  /-- VEC_HISTCLR (R251). -/
  | vecHistclr (t : Nat) (v : W64) (w : Nat)
  /-- UPD_NUMCLR (R123). -/
  | updNumclr (n : Nat) (v : W64) (w : Nat)
  /-- DSP_TOKCLR (R350). -/
  | dspTokclr (v : W64) (w : Nat)
  /-- DSP_NUMCLR (R345). -/
  | dspNumclr (v : W64) (w : Nat)
  /-- LNK_NUMCLR (R123). -/
  | lnkNumclr (p : Nat) (v : W64) (w : Nat)
  /-- TILE_RNGSEED (R115). -/
  | tileRngseed (t : Nat) (v : W64) (w : Nat)
  /-- UPD_RNGSEED (R115). -/
  | updRngseed (n : Nat) (v : W64) (w : Nat)
  /-- LNK_RNGSEED (R115). -/
  | lnkRngseed (p : Nat) (v : W64) (w : Nat)
  /-- PWR_CAP_WRITE (R413). -/
  | pwrCapWrite (v : W64) (w : Nat)
  /-- PWR_LEARN_CLR (R416). -/
  | pwrLearnClr (v : W64) (w : Nat)
  /-- REGISTER_WRITE (R470). -/
  | registerWrite (a : Nat) (size : Nat) (v : W64) (w : Nat)
  /-- HOST_BAR_ACCESS (R334). -/
  | hostBarAccess (bar : Nat) (ofs : Nat) (size : Nat) (wr : Bool) (v : W64)
  /-- ADAPTER_RESET (R335). -/
  | adapterReset
  /-- MBDOOR (R340). -/
  | mbdoor (v : W64)
  /-- MGMT_RESPONSE (R340). -/
  | mgmtResponse
  /-- ATTEST (R467). -/
  | attest (c : Chan)
  /-- READSUM (R434). -/
  | readsum (c : Chan)
  /-- READSENS (R452). -/
  | readsens (c : Chan)
  /-- READLOG (R462). -/
  | readlog (c : Chan)
  /-- SETCAP (R462). -/
  | setcap (c : Chan)
  /-- POWERDOWN (R462). -/
  | powerdown (c : Chan)
  /-- RESET (R462). -/
  | reset (c : Chan)
  /-- WAKE (R450). -/
  | wake (c : Chan)
  /-- UPDBEGIN (R463). -/
  | updbegin (c : Chan)
  /-- UPDDATA (R463). -/
  | upddata (c : Chan)
  /-- UPDEND (R463). -/
  | updend (c : Chan)
  /-- UPDSTAT (R463). -/
  | updstat (c : Chan)
  /-- UPDATE_IMAGE_DONE (R463). -/
  | updateImageDone (ok : Bool)
  /-- EFT_I3C_TAKEOVER (R462). -/
  | eftI3cTakeover (frame : List Byte)
  /-- ENTDAA (R462). -/
  | entdaa (addr : Nat)
  /-- SETNEWDA (R462). -/
  | setnewda (addr : Nat)
  /-- RSTDAA (R462). -/
  | rstdaa
  /-- GETPID (R462). -/
  | getpid
  /-- GETBCR (R462). -/
  | getbcr
  /-- GETDCR (R462). -/
  | getdcr
  /-- GETSTATUS (R462). -/
  | getstatus
  /-- ENEC (R462). -/
  | enec (m : Byte)
  /-- DISEC (R462). -/
  | disec (m : Byte)
  /-- GETMWL (R462). -/
  | getmwl
  /-- GETMRL (R462). -/
  | getmrl
  /-- SETMWL (R462). -/
  | setmwl (n : W16)
  /-- SETMRL (R462). -/
  | setmrl (n : W16)
  /-- FLIT_RECEIVE (R322). -/
  | flitReceive (p : Nat) (flit : List Byte) (corr : Nat) (uncorr : Nat) (fc : Option (List Byte))
  /-- FLIT_NAK_RESEND (R322). -/
  | flitNakResend (p : Nat)
  /-- ACK_TIMEOUT_RESEND (R322). -/
  | ackTimeoutResend (p : Nat)
  /-- LINK_DETECT (R313, R492): for each receiver pair the lane number in the header of the blocks that it sees and whether their polarity is
  inverted; none for a pair that sees no peer. -/
  | linkDetect (p : Nat) (pairs : List (Option (Nat × Bool)))
  /-- LINK_EQ_DONE (R313). -/
  | linkEqDone (p : Nat)
  /-- LINK_DESKEW_DONE (R313). -/
  | linkDeskewDone (p : Nat)
  /-- LINK_PARAM_DONE (R313). -/
  | linkParamDone (p : Nat) (peer : PeerParam)
  /-- LINK_RETRAIN (R314). -/
  | linkRetrain (p : Nat) (why : RetrainWhy)
  /-- LANE_LOSS (R314). -/
  | laneLoss (p : Nat) (lane : Nat)
  /-- LINK_DOWN (R314). -/
  | linkDown (p : Nat)
  /-- PACKET_FORWARD (R326). -/
  | packetForward (p : Nat) (i : Nat)
  /-- WR (R328). -/
  | wr (p : Nat) (i : Nat)
  /-- RDREQ (R328). -/
  | rdreq (p : Nat) (i : Nat)
  /-- RDRSP (R318). -/
  | rdrsp (p : Nat) (i : Nat)
  /-- WRACK (R330). -/
  | wrack (p : Nat) (i : Nat)
  /-- NAK (R329). -/
  | nak (p : Nat) (i : Nat)
  /-- SIG_PACKET (R330). -/
  | sigPacket (p : Nat) (i : Nat)
  /-- SIGACK (R330). -/
  | sigack (p : Nat) (i : Nat)
  /-- MGMT (R318). -/
  | mgmt (ofs : Nat) (bytes : List Byte)
  /-- HEV (R318). -/
  | hev
  /-- REMOTE_TIMEOUT (R329). -/
  | remoteTimeout (tag : Nat)
  /-- RSGRP (R356). -/
  | rsgrp (p : Nat) (i : Nat)
  /-- RSACK (R356). -/
  | rsack (p : Nat) (i : Nat)
  /-- GRPWR (R357). -/
  | grpwr (p : Nat) (i : Nat)
  /-- GRPACK (R344). -/
  | grpack (p : Nat) (i : Nat)
  /-- COLLARM (R354). -/
  | collarm (p : Nat) (i : Nat)
  /-- CREADY (R367). -/
  | cready (src : Sender) (e : W64) (n : Nat)
  /-- CCOMMIT (R364). -/
  | ccommit (e : W64) (flags : Byte)
  /-- CCACK (R367). -/
  | ccack (src : Sender) (e : W64) (n : Nat)
  /-- CROLL (R365). -/
  | croll (e : W64) (restore : W64) (cause : Nat) (note : RollNote)
  /-- ROLLBACK_RESTORE_DONE (R384). -/
  | rollbackRestoreDone (got : RestoreData)
  /-- CRDONE (R365). -/
  | crdone (r : RestoreReport)
  /-- HEART (R371). -/
  | heart (dev : Nat) (rep : DevReport)
  /-- HEARTBEAT_PERIOD (R371). -/
  | heartbeatPeriod
  /-- HEARTBEAT_MISS (R371). -/
  | heartbeatMiss (dev : Nat)
  /-- STANDBY_TAKEOVER (R373). -/
  | standbyTakeover (eps : List (Nat × DevReport))
  /-- ROUTEUPD (R382). -/
  | routeupd (ents : List RouteEnt)
  /-- ROUTEACK (R366). -/
  | routeack (dev : Sender)
  /-- SUBST (R382). -/
  | subst (id : Nat)
  /-- CKPT_DRAIN_DONE (R375). -/
  | ckptDrainDone (ok : Bool)
  /-- CKPTDONE (R379). -/
  | ckptdone (dev : Sender) (e : W64) (digs : List (List Byte))
  /-- CKPTOK (R379). -/
  | ckptok (e : W64)
  /-- FAILRPT (R371). -/
  | failrpt (dev : Sender) (why : FailWhy)
  /-- TREECFG (R367). -/
  | treecfg (cfg : TreeCfg)
  /-- MIRROR (R368). -/
  | mirror (rec : MirrorRec)
  /-- MACK (R368). -/
  | mack (e : W64)
  /-- XCHECK (R440). -/
  | xcheck
  /-- NVME_TIMEOUT (R377). -/
  | nvmeTimeout (fails : Bool)
  /-- INPUT_SAMPLE (R404). -/
  | inputSample (vin : Nat) (iin : Nat)
  /-- INPUT_TRIP (R404). -/
  | inputTrip (why : InTrip)
  /-- STAGE1_START (R403). -/
  | stage1Start (vin : Nat)
  /-- STAGE1_STOP (R448). -/
  | stage1Stop (vin : Nat)
  /-- CAP_TICK (R414). -/
  | capTick (pin : Nat) (pavg : Nat)
  /-- RATION_FRAME (R410). -/
  | rationFrame
  /-- SETPOINT_SLEW_STEP (R411). -/
  | setpointSlewStep
  /-- DROOP_TRIP (R408). -/
  | droopTrip (d : Nat)
  /-- DROOP_CLEAR (R408). -/
  | droopClear (d : Nat) (us : Nat)
  /-- ISSUE_RAMP_STEP (R409). -/
  | issueRampStep (d : Nat)
  /-- LEARN_BIN_END (R416). -/
  | learnBinEnd
  /-- THERMAL_SCAN (R417). -/
  | thermalScan (temps : List (Nat × Nat))
  /-- THROTTLE_STEP (R417). -/
  | throttleStep
  /-- THERMAL_TRIP (R40). -/
  | thermalTrip (d : Nat)
  /-- PACE_READ (R419). -/
  | paceRead (speed : Nat) (vmin : Nat)
  /-- MOD_PWREN_ASSERT (R450). -/
  | modPwrenAssert
  /-- MOD_PWREN_DEASSERT (R487). -/
  | modPwrenDeassert
  /-- LOCKOUT_EXPIRE (R450). -/
  | lockoutExpire
  /-- MOD_RESET_N_ASSERT (R486). -/
  | modResetNAssert
  /-- MOD_RESET_N_DEASSERT (R486). -/
  | modResetNDeassert
  /-- RESET_HELD_TIMEOUT (R486). -/
  | resetHeldTimeout
  /-- BOARD_HALT_N_ASSERT (R485). -/
  | boardHaltNAssert
  /-- BOARD_HALT_N_DEASSERT (R485). -/
  | boardHaltNDeassert
  /-- HALT_HELD_TIMEOUT (R485). -/
  | haltHeldTimeout
  /-- HOST_PORT_WAKE (R450). -/
  | hostPortWake
  /-- COLD_RESET (R451). -/
  | coldReset
  /-- MP_WATCHDOG_EXPIRE (R447). -/
  | mpWatchdogExpire
  /-- TIMEKEEPER_TICK (R449). -/
  | timekeeperTick
  /-- START_UP (R453). -/
  | startUp (env : StartEnv)
  /-- STACK_TRAINED (R453). -/
  | stackTrained (n : Nat) (ok : Bool)
  /-- STARTUP_READY (R453). -/
  | startupReady (env : ReadyEnv)
  /-- STARTUP_DEADLINE (R454). -/
  | startupDeadline
  /-- INSTRUCTION_FETCH_STOP (R49). -/
  | instructionFetchStop (t : Nat) (k : Nat)
  /-- UNDEFINED_ENG_OP (R70). -/
  | undefinedEngOp (t : Nat) (q : Nat)
  /-- MGMT_GETID (R466). -/
  | mgmtGetid (c : Chan)
  /-- MP_WATCHDOG_SIGNAL (R447). -/
  | mpWatchdogSignal
  /-- REGULATOR_READ (R452). -/
  | regulatorRead (vals : List Nat)
  /-- SMART_LOG_READ (R377). -/
  | smartLogRead (page : List Byte)
  /-- WBUSY_CLEAR (R15). -/
  | wbusyClear (dom : Dom)
  /-- FLIT_TIME (R322). -/
  | flitTime (p : Nat)
  /-- RETRAIN_ATTEMPT_FAILED (R313). -/
  | retrainAttemptFailed (p : Nat)
  /-- HOST_ACCESS_FAILED (R335): place `i` of queue `q` of tile `t`; in queue 7 the number of a fold (2t + bank), of the code copy of a
  ring (2,048 + ring) or of a restore (4,096). -/
  | hostAccessFailed (t : Nat) (q : Nat) (i : Nat)
  /-- IDCODE (R491). -/
  | idcode
  /-- BYPASS (R491). -/
  | bypass
  /-- SAMPLE_PRELOAD (R491). -/
  | samplePreload (cells : List Bool)
  /-- EXTEST (R491). -/
  | extest
deriving DecidableEq, Repr

end Sys2Proof
end

