-- ==== Sys2Proof/Decode.lean ====
section
/-! DEFINITION. What a table word spells (no row gives bits), and the words of the control instructions (R47, R48):
encoder and decoder. -/

namespace Sys2Proof

/-- The command that a word spells by the table's bits: no row of the table gives bits. -/
def decodeTableWord (_nbits _w : Nat) : Option Instr := none

/-- The opcode field [31:26] of a control word. -/
def ctlOp (w : BitVec 32) : BitVec 6 := w.extractLsb' 26 6

/-- Format R (R47). -/
def RFmt.word (op : BitVec 6) (f : RFmt) : BitVec 32 := op ++ f.rd ++ f.ra ++ f.rb ++ f.rsv ++ f.fn

def RFmt.of (w : BitVec 32) : RFmt :=
  ⟨w.extractLsb' 22 4, w.extractLsb' 18 4, w.extractLsb' 14 4, w.extractLsb' 6 8, w.extractLsb' 0 6⟩

/-- Format I (R47). -/
def IFmt.word (op : BitVec 6) (f : IFmt) : BitVec 32 := op ++ f.rd ++ f.ra ++ f.imm

def IFmt.of (w : BitVec 32) : IFmt := ⟨w.extractLsb' 22 4, w.extractLsb' 18 4, w.extractLsb' 0 18⟩

/-- Format L (R47). -/
def LFmt.word (op : BitVec 6) (f : LFmt) : BitVec 32 := op ++ f.rd ++ f.imm

def LFmt.of (w : BitVec 32) : LFmt := ⟨w.extractLsb' 22 4, w.extractLsb' 0 22⟩

/-- Format B (R47). -/
def BFmt.word (op : BitVec 6) (f : BFmt) : BitVec 32 := op ++ f.ra ++ f.rb ++ f.off

def BFmt.of (w : BitVec 32) : BFmt := ⟨w.extractLsb' 22 4, w.extractLsb' 18 4, w.extractLsb' 0 18⟩

/-- Format Q (R47). -/
def QFmt.word (op : BitVec 6) (f : QFmt) : BitVec 32 := op ++ f.ra ++ f.rb ++ f.queue ++ f.pe ++ f.rsv

def QFmt.of (w : BitVec 32) : QFmt :=
  ⟨w.extractLsb' 22 4, w.extractLsb' 18 4, w.extractLsb' 14 4, w.extractLsb' 13 1, w.extractLsb' 0 13⟩

/-- Format C (R47). -/
def CFmt.word (op : BitVec 6) (f : CFmt) : BitVec 32 := op ++ f.rv ++ f.ra ++ f.rsv ++ f.imm

def CFmt.of (w : BitVec 32) : CFmt :=
  ⟨w.extractLsb' 22 4, w.extractLsb' 18 4, w.extractLsb' 16 2, w.extractLsb' 0 16⟩

/-- Format N (R47). -/
def NFmt.word (op : BitVec 6) (f : NFmt) : BitVec 32 := op ++ f.rsv

def NFmt.of (w : BitVec 32) : NFmt := ⟨w.extractLsb' 0 26⟩

/-- The word of a control instruction (R47, R48); none for a command that is not one. -/
def encode (i : Instr) : Option (BitVec 32) :=
  match i with
  | .alu _ _ f => some (f.word 0x01#6)
  | .addi _ _ f => some (f.word 0x02#6)
  | .andi _ _ f => some (f.word 0x03#6)
  | .ori _ _ f => some (f.word 0x04#6)
  | .xori _ _ f => some (f.word 0x05#6)
  | .shli _ _ f => some (f.word 0x06#6)
  | .shri _ _ f => some (f.word 0x07#6)
  | .srai _ _ f => some (f.word 0x08#6)
  | .slti _ _ f => some (f.word 0x09#6)
  | .ld _ _ f => some (f.word 0x10#6)
  | .st _ _ f => some (f.word 0x11#6)
  | .jalr _ _ f => some (f.word 0x1F#6)
  | .getid _ _ f => some (f.word 0x30#6)
  | .li _ _ f => some (f.word 0x0A#6)
  | .shin _ _ f => some (f.word 0x0B#6)
  | .jal _ _ f => some (f.word 0x1E#6)
  | .beq _ _ f => some (f.word 0x18#6)
  | .bne _ _ f => some (f.word 0x19#6)
  | .blt _ _ f => some (f.word 0x1A#6)
  | .bge _ _ f => some (f.word 0x1B#6)
  | .bltu _ _ f => some (f.word 0x1C#6)
  | .bgeu _ _ f => some (f.word 0x1D#6)
  | .issue _ _ f => some (f.word 0x20#6)
  | .sig _ _ f => some (f.word 0x28#6)
  | .setc _ _ f => some (f.word 0x29#6)
  | .rdc _ _ f => some (f.word 0x2A#6)
  | .wait _ _ f => some (f.word 0x2B#6)
  | .yield _ _ f => some (f.word 0x38#6)
  | .exit _ _ f => some (f.word 0x39#6)
  | _ => none

/-- The control instruction that strand `k` of tile `t` reads from a word; none for an opcode absent from R48 (R49). -/
def decodeCtl (t k : Nat) (w : BitVec 32) : Option Instr :=
  match (ctlOp w).toNat with
  | 0x01 => some (.alu t k (RFmt.of w))
  | 0x02 => some (.addi t k (IFmt.of w))
  | 0x03 => some (.andi t k (IFmt.of w))
  | 0x04 => some (.ori t k (IFmt.of w))
  | 0x05 => some (.xori t k (IFmt.of w))
  | 0x06 => some (.shli t k (IFmt.of w))
  | 0x07 => some (.shri t k (IFmt.of w))
  | 0x08 => some (.srai t k (IFmt.of w))
  | 0x09 => some (.slti t k (IFmt.of w))
  | 0x0A => some (.li t k (LFmt.of w))
  | 0x0B => some (.shin t k (LFmt.of w))
  | 0x10 => some (.ld t k (IFmt.of w))
  | 0x11 => some (.st t k (IFmt.of w))
  | 0x18 => some (.beq t k (BFmt.of w))
  | 0x19 => some (.bne t k (BFmt.of w))
  | 0x1A => some (.blt t k (BFmt.of w))
  | 0x1B => some (.bge t k (BFmt.of w))
  | 0x1C => some (.bltu t k (BFmt.of w))
  | 0x1D => some (.bgeu t k (BFmt.of w))
  | 0x1E => some (.jal t k (LFmt.of w))
  | 0x1F => some (.jalr t k (IFmt.of w))
  | 0x20 => some (.issue t k (QFmt.of w))
  | 0x28 => some (.sig t k (CFmt.of w))
  | 0x29 => some (.setc t k (CFmt.of w))
  | 0x2A => some (.rdc t k (CFmt.of w))
  | 0x2B => some (.wait t k (CFmt.of w))
  | 0x30 => some (.getid t k (IFmt.of w))
  | 0x38 => some (.yield t k (NFmt.of w))
  | 0x39 => some (.exit t k (NFmt.of w))
  | _ => none

end Sys2Proof
end

