-- ==== Sys2Proof/Config.lean ====
section
/-! DEFINITION. What the manual leaves open: uninterpreted constants. None has a body, so no proof can see a value. -/

namespace Sys2Proof.Config

/-- Free bits number `n`: every value that the manual leaves unspecified is drawn from here, each with its own
number (`State.freeCtr`). DESIGN CHOICE: log 4. -/
opaque freeBits : Nat → BitVec 64

/-- Free count number `n`, for a choice the manual leaves open (how far work has come when it is stopped).
DESIGN CHOICE: log 4. -/
opaque freeNat : Nat → Nat

/-- What verify finds in a press of a restore (R283), for draw number `n`: cells (macro, row index, physical column, conductances after
the reset pulses and after the iterations) of the row visits and of each repair round; and the blocks' iteration figures (R177). Log 4. -/
opaque freeCells : Nat → List (List (Nat × Nat × Nat × List Nat × List Nat))
opaque freeIters : Nat → List (Nat × Nat × Nat)

/-- The training blocks of DETECT (R313) on a lane: the levels of the header that gives the lane number, how many PRBS13 levels follow,
where the sequence starts; and what a lane carries in a state (2 EQ, 3 DESKEW, 4 PARAM, 6 RETRAIN) whose signals the manual does
not give. Log 58. -/
opaque trainHeader : (lane : Nat) → List Int
opaque trainLength : (lane : Nat) → Nat
opaque trainSeed : (lane : Nat) → BitVec 13
opaque trainLane : (st lane : Nat) → List Int

/-- RCP, RSQRT, EXP2 and LOG2 (R237): which of the FP32 values within 1 ulp the part gives, fixed for each operand `x` of the
operation `op` (R239). For MIN and MAX of two zeros: which zero. Logs 4, 12, 44. -/
opaque approxPick : (op : Nat) → (x : W32) → Nat

/-- The digest of the boot ROM (R467, M0). Log 14. -/
opaque bootRomDigest : BitVec 256

/-- The digest of the root public key that the boot ROM holds (R458). -/
opaque romRootDigest : List Byte

/-- The error correction of the identity bits with the helper data (R465): 8,192 raw bits as bytes, helper data. -/
opaque correctBits : List Byte → List Byte → List Byte

/-- The input power the controller's model predicts at a setpoint (mV) and a rationing count n (R414), in W, from the last sample, for a part
with a CAL section (R406, R457). The manual gives no formula. -/
opaque powerModel : (cal : List Byte) → (sample vset n : Nat) → Nat

/-- A value in a section of the Flomo image (R457): section number, its bytes, field and instance as `Machine/Startup.lean` numbers
them. The manual gives no layout of a section. Log 14. -/
opaque imageField : (section_ : Nat) → (bytes : List Byte) → (field inst : Nat) → Nat

/-- A part of the identity region of the flash (R455): 0 helper data, 1 serial number, 2 vendor certificate, 3 root public key. The
manual gives their sizes, not their places. Log 14. -/
opaque identityPart : (which : Nat) → (region : List Byte) → List Byte

/-- The order of the fields of GETID page 0 (R466), the bytes that stand before a field, and the byte at a place that no field fills: the
manual gives fields and size only. Log 14. -/
opaque idRank : (field : Nat) → Nat
opaque idGap : (field : Nat) → Nat
opaque idFill : (field i : Nat) → Byte

/-- The board that a device sits on (R377), the route hops from a device to another (R382), and the bond that a device's route entry for
another names, 31 for no route: where the modules of a clutch stand and how they are cabled. Log 61. -/
opaque boardOf : (dev : Nat) → Nat
opaque routeHops : (dev dst : Nat) → Nat
opaque planRoute : (dev dst : Nat) → Nat

/-- Which of its two neighbours among the FP32 values a sum S becomes that FP32 cannot hold and whose exponent is not above e (R110):
false the lower, true the upper; S is given as a multiple of 2^−400. Log 60. -/
opaque accUp : Int → Bool

/-- The worst-case power in mW that the controller reserves for a running read (false) or press (true) at a setpoint in mV, from a table in
the CAL section of the Flomo image (R151, R167, R457), and the power in W that its budget leaves for the arrays under an effective cap, a
setpoint and an n (R414). Log 45. -/
opaque reserve : (cal : List Byte) → (press : Bool) → (vset : Nat) → Nat
opaque arrayBudget : (effw vset n : Nat) → Nat

/-- The bytes of a sensor snapshot (R452), and of what the eft island adds to a summary (R445), from their readings. Log 14. -/
opaque snapBytes : List Nat → List Byte

/-- The provisional ID above POS_ID (0), BCR (1) and DCR (2) of the I3C target: the manual gives no values. Log 15. -/
opaque i3cValue : (which : Nat) → BitVec 48

/-- FMT of a packet whose data have no single format that its sender knows (R317): a copy, a read of memory, a candidate list. Log 58. -/
opaque rawFmt : Nat

/-- The sequence number and the element index that the generator of R114 takes for draw `n` of the operands of a cross-check (R440): the
manual gives seed and unit number only. Log 32. -/
opaque xchkDraw : (n : Nat) → Nat × Nat

/-- The place of an output in the boundary register (0 THERM_ALERT_N, 1 PWR_GOOD, 2 + 8 p + l lane l of port p, 154 + l lane l of the
snapshot port), the level that a cell puts on a lane, and what work that runs under EXTEST makes of a word, for draw number `n` (R491).
Log 15. -/
opaque boundaryCell : (output : Nat) → Nat
opaque cellLevel : Bool → Int
opaque testWord : (n : Nat) → (v : BitVec 32) → BitVec 32

/-- The status word of GETSTATUS: whether the module is ready and whether a response waits; its layout is not given. Log 15. -/
opaque i3cStatus : (ready waiting : Bool) → BitVec 16

end Sys2Proof.Config
end

