-- ==== Sys2Proof/Machine/TileState.lean ====
section
/-! DEFINITION. The state of one tile: strands, counters, queues, stores, banks and engines (chapters 02 to 09, 10, 17). -/

namespace Sys2Proof.Machine

/-- A memory of words with their check codes (R259). `bytes` lists the bytes that differ from 0, `syn` the words
(by word index) whose stored check bits differ from the recomputed ones: the difference is the syndrome of R425. -/
structure Mem where
  bytes : List Host.Cell
  syn : SMap (BitVec 7)
deriving DecidableEq, Repr

/-- Numeric counters with their alarms (R122, R123). -/
structure NumCnt where
  cnt : List W32
  en : W16
  fired : W16
deriving DecidableEq, Repr

/-- The states of a strand slot (R42). -/
inductive StrandSt where
  | free | ready | stalled | waiting | parked | done
deriving DecidableEq, Repr

/-- Why a strand is STALLED (R42, R53). -/
inductive Stall where
  | none
  | load (rd : Nat) (addr : Nat)
  | queue (q : Nat) (d : W512)
deriving DecidableEq, Repr

/-- A strand context (R41) with its launch identity (R65). `stamp` orders the strands by their last issue (R43); `bad`
is a branch target outside the scratchpad, kept until the fetch from it (R41); `rel` says that an update of its counter has
released a WAITING strand (R61); `prior` is the state to which a PARKED strand returns, and `parkDue` marks a STALLED one that
parks after its instruction (R56); `stopped` marks a strand that a fault or
a stop of its grid ended. -/
structure Strand where
  st : StrandSt
  regs : List W64
  pc : W32
  bad : Option Int
  grid : Nat
  lin : Nat
  loc : Nat
  stamp : Nat
  stall : Stall
  waitC : Nat
  waitT : W32
  rel : Bool
  prior : StrandSt
  parkDue : Bool
  stopped : Bool
deriving DecidableEq, Repr

/-- Who put a descriptor into a queue: a strand, the management processor (R399) or a restore (R283). -/
inductive Origin where
  | strand (slot : Nat)
  | mp
  | restore
deriving DecidableEq, Repr

inductive Phase where
  | waiting | running | finished
deriving DecidableEq, Repr

/-- Data that a descriptor has read from another device and not yet used (R328): the address of a
64-byte line or of a block there, its words with marks, whether the descriptor has changed it, the page of the leaf that led there, and the
tag that a whole block carried (R263). -/
structure RBuf where
  dev : Nat
  addr : Nat
  words : List (W32 × Bool)
  dirty : Bool
  page : Nat
  rind : Option W32
deriving DecidableEq, Repr

/-- A progress record (R56): the next unit of work, its sub-position, the finished blocks of an FBQRUN and the next SR
element index (R240, R252), the seed and seq of R115, the records read at the start (R54), what a running reduction
holds, and data that has arrived from other devices. -/
structure Run where
  unit : Nat
  sub : Nat
  blk : Nat
  sri : Nat
  seed : W64
  seq : Nat
  snap : List (List Byte)
  acc : List W32
  rbuf : List RBuf
deriving DecidableEq, Repr

/-- A queue entry (R52, R53): the descriptor, its mode epoch, where it came from, its place in the tile's issue order,
the context and the grid it belongs to, how far it has come, whether an update has satisfied its wait while it was the head (R61),
and whether it has reached its stop point in a pre-emption (R280). Each of its 16 words carries check bits (R259): `syn` holds the syndromes
that are not 0. -/
structure QEntry where
  d : W512
  mepoch : W16
  org : Origin
  seq : Nat
  ctx : Nat
  grid : Nat
  ph : Phase
  run : Run
  rel : Bool
  halt : Bool
  syn : SMap (BitVec 7)
deriving DecidableEq, Repr

/-- TILE_FAULTADDR_q and TILE_FAULTINFO_q (R276), with the entry of the queue that faulted. -/
structure FaultReg where
  pend : Bool
  addr : W64
  reason : Nat
  access : Nat
  ctx : Nat
  seq : W32
  entry : Nat
deriving DecidableEq, Repr

/-- A leaf that a translation cache holds (R269): context, page number, table entry. -/
structure XlLine where
  ctx : Nat
  page : Nat
  entry : W64
deriving DecidableEq, Repr

/-- The trims of a macro (R140). -/
structure Trim where
  gainB : W16
  gainM : W16
  ofsB : Byte
  ofsM : Byte
deriving DecidableEq, Repr

/-- A bank's correction slot (R191), with the context whose addresses it names. -/
structure Corr where
  a : W64
  b : W64
  rank : Nat
  ctx : Nat
deriving DecidableEq, Repr

/-- A ledger entry of a wear block (R177). -/
structure Block where
  cycles : BitVec 40
  fails : Byte
  sprow0 : Option Nat
  sprow1 : Option Nat
  suspect : Bool
  retired : Bool
  itermean : W16
  itermax : Byte
  topup : Byte
deriving DecidableEq, Repr

/-- A tile's wear ledger (R178). `cols` maps a spare column index to the physical column it replaces. -/
structure Ledger where
  allow : W32
  presses : List W64
  blocks : SMap Block
  cols : SMap W16
deriving DecidableEq, Repr

/-- How far a fold has come (R202). -/
inductive FoldStage where
  | idle
  | quantised   -- step 1 done
  | pressing    -- the DELTA runs
  | pressed     -- step 3 done
deriving DecidableEq, Repr

/-- A bank's fold (R201, PRS_FOLD_b). `formerB` is the factor that step 4 zeroes. -/
structure Fold where
  armed : Bool
  run : Bool
  slot : Nat
  fail : Bool
  due : Bool
  k : W16
  phase : W16
  masterA : W64
  masterB : W64
  codeAddr : W64
  scaleAddr : W64
  rmode : Nat
  ctr : Nat
  stride : W32
  ctx : Nat
  stage : FoldStage
  formerB : Corr
deriving DecidableEq, Repr

/-- An entry of the finished-block queue (R248). -/
structure FbEnt where
  addr : W64
  fmt : Nat
  rows : Nat
  cols : Nat
  stride : Nat
  row0 : Nat
  col0 : Nat
  last : Bool
deriving DecidableEq, Repr

/-- A vector that waits for its companion work or for the comparison of a sample (R199, R200, R435): its index, its y_j (FP32, poison) or the
words of its candidate list (R393), whether it is non-finite, the entries of its spill record, whether the matrix engine has work for it,
its place in the order in which the tile's vectors were read, and for a query the columns left out and whether it counts as scored (R392). -/
structure PendVec where
  vec : Nat
  y : List (W32 × Bool)
  nonfin : Bool
  spill : List (Nat × W32)
  work : Bool
  order : Nat
  excl : Nat
  scored : Bool
deriving DecidableEq, Repr

/-- A vector of the divert batch (R197): its index, whether its codes or its shift byte are marked (R427), the macros whose outputs are
poisoned (R142, R175), and its place in the order in which the tile's vectors were read (R199). -/
structure DivVec where
  vec : Nat
  mark : Bool
  macs : BitVec 4
  order : Nat
deriving DecidableEq, Repr

/-- The running READ or QUERY of a bank: the next vector to read, the waiting vectors, the divert batch (R190), the slot's copy (R192), the
codes of the calibration plane and whether it has run (R133), the first vector not yet counted (R123), which once-per-descriptor records are
posted (R136, R142), and the written rows whose data at another device is not acknowledged, each with the tags of its writes, so that they
are not yet passed on (R248). -/
structure ARun where
  vec : Nat
  pend : List PendVec
  divs : List DivVec
  corr : Corr
  calDevs : List AdcDev
  calDone : Bool
  high : Nat
  satRec : Bool
  rangeRec : Bool
  fbDue : List (FbEnt × List Nat)
deriving DecidableEq, Repr

/-- One bank of the array engine and its image. `codes` are the pressed code bytes in the layout of R152; the column
sums U_j of R107 follow from them. `rangePoison`, `codePoison` and `zeroPoison` are masks over the macros (R142, R427, R175);
`press` is the descriptor and context of the bank's last completed FULL, DELTA or fold (R283, R399), `pressedAt` the time of the last
FULL or REFRESH (R399). -/
structure Bank where
  fmt : Nat
  idx : Bool
  codes : SMap Byte
  scales : SMap W32
  digest : List Byte
  trims : List Trim
  hit : BitVec 4
  range : BitVec 4
  rangePoison : BitVec 4
  codePoison : BitVec 4
  zeroPoison : BitVec 4
  corr : Corr
  fgen : Byte
  reads : W64
  presses : W64
  fold : Fold
  press : Option (W512 × Nat)
  pressedAt : W64
  rowMap : SMap (Option Nat × Option Nat)
  colMap : SMap W16
  refStopped : Bool
  age : Nat
  hot : Nat
  refreq : Bool
  run : ARun
deriving DecidableEq, Repr

/-- The array engine of a tile (chapter 05, R198, ARR_IDXCNT). -/
structure Arr where
  banks : List Bank
  adcRange : W32
  adcSat : W32
  spill : NumCnt
  scored : W32
  excl : W32
  order : Nat
deriving DecidableEq, Repr

/-- The press controller (chapter 06). `running` is the running press: its bank, its operation, whether it continues as
a FULL (R173), whether a fold made it, whether the digest of the present image is checked (R158), and the blocks that the part before
an escalation pulsed. -/
structure PrsRun where
  bank : Nat
  op : Nat
  escal : Bool
  fold : Bool
  checked : Bool
  pulsed : List Nat
deriving DecidableEq, Repr

structure Prs where
  running : Option PrsRun
  failed : W32
  remaps : W16
  retires : Byte
  zeropress : Byte
  ledger : Ledger
  loaded : Bool
deriving DecidableEq, Repr

/-- The matrix engine's counters (chapter 08). -/
structure Mxe where
  issues : W64
  compiss : W64
  portwait : W64
  vatadds : W64
  vatpoison : W32
deriving DecidableEq, Repr

/-- A word that a sampled block will write: store kind (false scratchpad address, true vat offset), bytes, mark. -/
structure ShWrite where
  addr : Nat
  size : Nat
  v : W32
  poison : Bool
deriving DecidableEq, Repr

/-- A sample in the shadow unit (R435): a matrix tile (the results, the recompute, the narrow pair's code, where the
block goes, the finished-block entry that waits with it) or an array vector (its C_j and X_j). -/
inductive Sample where
  | matrix (q : Nat) (seq : Nat) (n w : List W32) (code : Nat) (vat : Bool) (writes : List ShWrite)
      (blk : List FbEnt)
  | vector (b : Nat) (seq : Nat) (c x : List Int) (w8 : Bool) (vec : Nat)
deriving DecidableEq, Repr

/-- The shadow unit (R435–R438). -/
structure Shadow where
  en : Bool
  mxLog : Nat
  arLog : Nat
  thr8 : W16
  thr4 : Byte
  sampled : W32
  mismatch : W16
  skipped : W16
  mxCount : Nat
  arCount : Nat
  sample : Option Sample
deriving DecidableEq, Repr

/-- Alarms of one histogram set (VEC_HALM_s, R439). -/
structure Halm where
  hibin : BitVec 6
  lobin : BitVec 6
  hifrac : W16
  lofrac : W16
  en : BitVec 3
deriving DecidableEq, Repr

/-- The vector engine (chapter 09). `hist` is keyed by 64 × set + bin, `halm` by set. -/
structure Vec where
  portwait : W64
  hist : SMap W32
  halm : SMap Halm
  halmFired : BitVec 48
  fbq : List (List FbEnt)
deriving DecidableEq, Repr

/-- The strand control unit and the counters of a tile (chapter 02). -/
structure Scu where
  strands : SMap Strand
  ctrs : SMap W32
  clock : Nat
  issued : W64
  nextSeq : Nat
deriving DecidableEq, Repr, Inhabited

/-- The mover's counters and the tile's translation cache (chapter 10). -/
structure Dma where
  bytes : W64
  xlhit : W64
  xlmiss : W64
  cache : List XlLine
  partials : List (Nat × Nat × Nat)
deriving DecidableEq, Repr

/-- A logical tile. -/
structure Tile where
  scu : Scu
  queues : List (List QEntry)
  spad : Mem
  rind : SMap W32
  rindCnt : W32
  vat : Mem
  num : NumCnt
  seed : W64
  mxSeq : BitVec 24
  vcSeq : BitVec 24
  faults : List FaultReg
  arr : Arr
  prs : Prs
  mxe : Mxe
  vec : Vec
  dma : Dma
  shadow : Shadow
  commits : List W64
deriving DecidableEq, Repr

/-! ### Reset values -/

def Mem.empty : Mem := ⟨[], []⟩

def NumCnt.reset (n : Nat) (en : W16) : NumCnt := ⟨List.replicate n 0#32, en, 0#16⟩

/-- A slot that holds no strand (R42). -/
def Strand.none : Strand :=
  ⟨.free, List.replicate 15 0#64, 0#32, Option.none, 0, 0, 0, 0, .none, 0, 0#32, false, .ready, false, false⟩

def Run.start : Run := ⟨0, 0, 0, 0, 0#64, 0, [], [], []⟩

def FaultReg.none : FaultReg := ⟨false, 0#64, 0, 0, 0, 0#32, 0⟩

def Trim.reset : Trim := ⟨0x1000#16, 0x1000#16, 0#8, 0#8⟩

def Corr.none : Corr := ⟨0#64, 0#64, 0, 0⟩

def Block.none : Block := ⟨0#40, 0#8, Option.none, Option.none, false, false, 0#16, 0#8, 0#8⟩

def Ledger.reset : Ledger := ⟨0#32, [0#64, 0#64], [], []⟩

def Fold.reset : Fold :=
  ⟨false, false, 0, false, false, 0#16, 0#16, 0#64, 0#64, 0#64, 0#64, 0, 0, 0#32, 0, .idle, Corr.none⟩

def ARun.none : ARun := ⟨0, [], [], Corr.none, [], false, 0, false, false, []⟩

def Bank.reset : Bank :=
  ⟨0, false, [], [], List.replicate 32 0#8, List.replicate 4 Trim.reset, 0#4, 0#4, 0#4, 0#4, 0#4, Corr.none, 0#8, 0#64,
   0#64, Fold.reset, Option.none, 0#64, [], [], false, 0, 0, false, ARun.none⟩

def Arr.reset : Arr :=
  ⟨[Bank.reset, Bank.reset], 0#32, 0#32, NumCnt.reset 4 0b1010#16, 0#32, 0#32, 0⟩

def Prs.reset : Prs := ⟨Option.none, 0#32, 0#16, 0#8, 0#8, Ledger.reset, false⟩

def PrsRun.start (b op : Nat) (fold checked : Bool) : PrsRun := ⟨b, op, false, fold, checked, []⟩

def Mxe.reset : Mxe := ⟨0#64, 0#64, 0#64, 0#64, 0#32⟩

def Shadow.reset : Shadow := ⟨true, 12, 12, 6000#16, 24#8, 0#32, 0#16, 0#16, 0, 0, Option.none⟩

def Halm.reset : Halm := ⟨48#6, 8#6, 1#16, 6554#16, 1#3⟩

def Vec.reset : Vec := ⟨0#64, [], [], 0#48, [[], [], []]⟩

def Scu.reset : Scu := ⟨[], [], 0, 0#64, 0⟩

def Dma.reset : Dma := ⟨0#64, 0#64, 0#64, [], []⟩

/-- A tile right after a cold reset. -/
def Tile.reset : Tile where
  scu := Scu.reset
  queues := List.replicate 7 []
  spad := Mem.empty
  rind := []
  rindCnt := 0#32
  vat := Mem.empty
  num := NumCnt.reset 10 0#16
  seed := 0#64
  mxSeq := 0#24
  vcSeq := 0#24
  faults := List.replicate 7 FaultReg.none
  arr := Arr.reset
  prs := Prs.reset
  mxe := Mxe.reset
  vec := Vec.reset
  dma := Dma.reset
  shadow := Shadow.reset
  commits := []

end Sys2Proof.Machine
end

