-- ==== Sys2Proof/Machine/EdgeState.lean ====
section
/-! DEFINITION. The state outside the tiles: errors, translation, grids, host port, links, dispatch, clutch, power, management,
start-up, pins (chapters 10 to 20). -/

namespace Sys2Proof.Machine

/-! ### Errors (chapter 17) -/

/-- An error record before its LSEQ and RCRC (R428). -/
structure Rec where
  cls : Nat
  cause : Nat
  unit : Nat
  sub : Nat
  ctx : Option Nat
  rep : Nat
  addr : W64
  info0 : W64
  info1 : W64
  stamp : W64
  slot : Nat
  pc : W32
  epoch : W32
  setAside : Bool
  eft : Bool
deriving DecidableEq, Repr

/-- The contents of a summary (R434): start-up count, counts per class, lost per class, counts per cause, the newest
contained and fatal records, newest first (64-byte records); and the drive's SMART page (R377), for which the table of R434 has no bytes. -/
structure Summary where
  starts : W32
  perClass : List W64
  lostClass : List W64
  perCause : SMap W32
  newest : List (List Byte)
  smart : List Byte
deriving DecidableEq, Repr

/-- The error unit, LOG_STAT, LOG_LOST, the ring and the running summary (R431–R434). `det` holds records that a unit
has detected and not yet raised; `contDue` the contained actions that are due, each with the context that ran at the detection or the
loss (R422, R431); `lostEscDue` whether a LOSTESC record is owed. -/
structure ErrUnit where
  det : List Rec
  contDue : List Nat
  fatalDue : Bool
  waiting : List Rec
  inHand : Option Rec
  nextSeq : W32
  lost : List W16
  lostEsc : Bool
  lostBefore : Bool
  lostEscDue : Bool
  ring : SMap (List Byte)
  sum : Summary
deriving DecidableEq, Repr

/-! ### Translation, pre-emption (chapter 10) -/

/-- The state that a save keeps of one tile, apart from the scratchpad and the vat (R279). The layout of the save area gives no places
inside its pieces for most of it, so the bytes of those pieces stand for it under a layout that is not given: a restore takes back this
state where it reads the bytes that the save wrote, and an uninterpreted reading of the bytes where they have changed (log 23). The
descriptors of the queues and the rind tags have places and are read from them. -/
structure SavedTile where
  scu : Scu
  queues : List (List QEntry)
  faults : List FaultReg
  seed : W64
  mxSeq : BitVec 24
  vcSeq : BitVec 24
  banks : List Bank
  fbq : List (List FbEnt)
  rind : SMap W32
  press : Option PrsRun
deriving DecidableEq, Repr, Inhabited

/-- What the pieces of a part of a save area say of a tile where they no longer hold what a save wrote (log 23). -/
opaque Config.savedOf : List Byte → SavedTile

/-- A saved context (R280): its tiles with the folds that came due while it was saved (R205), the grids that were stopped since its tiles
were written (R66), and the number of the first free value in the pieces of its area without stated places (log 23). -/
structure SavedCtx where
  tiles : SMap SavedTile
  mepoch : W16
  discards : List Nat
  ended : List Nat
  fill : Nat
deriving DecidableEq, Repr

/-- The translation domain of stack 0 (R266–R285). `phase` is how far a save or restore has come; `cur` is the context that it saves or
restores, `ctx` what MEM_PREEMPT.CTX reads. -/
inductive PrePhase where
  | idle | stopping | writing | loading | restoring
deriving DecidableEq, Repr

structure Xlate where
  roots : List W64
  inv : W64
  savebase : List W64
  ctx : Nat
  op : Nat
  state : Nat
  cur : Nat
  phase : PrePhase
  runCtx : Option Nat
  saved : SMap (Option SavedCtx)
  faultSeq : W32
deriving DecidableEq, Repr

/-- The registers of one stack (chapter 10), and how many of the next commands to it will meet a command or address parity error (R258). -/
structure Stack where
  ready : Bool
  temp : Byte
  corr : BitVec 24
  uncorr : W16
  ecs : BitVec 24
  mismatch : W32
  partialBlk : W32
  parity : Nat
deriving DecidableEq, Repr

/-! ### Grids (R63–R66) and the host port's frames -/

/-- An active grid. `stopping` is the stop of R365, with its error completion still owed. -/
structure Grid where
  num : Nat
  ring : Nat
  ctx : Nat
  idx : Nat
  record : List Byte
  stopping : Bool
deriving DecidableEq, Repr

/-- A frame on its way to an event ring (R338, R339): the ring, TYPE and the body. -/
structure Frame where
  ring : Nat
  typ : Nat
  body : List Byte
deriving DecidableEq, Repr

/-- Who sends a counter update (R60); each sends from the mesh node of its tile. -/
inductive EvtSrc where
  | strand (t k : Nat)
  | queue (t q : Nat)
  | fold (t b : Nat)
deriving DecidableEq, Repr

/-- A counter update in flight in the event class (R61): the global counter id and the increment. -/
structure Evt where
  ctr : Nat
  inc : W32
  src : EvtSrc
deriving DecidableEq, Repr

/-! ### Remote accesses (chapter 12) -/

/-- A packet (R317, R318), as it waits at a port or in the mesh. `words` are the data with their marks, `rind` a carried
tag (R263), `unit` the source unit (R325), `via` the bond chosen for it (R326), `fmt` byte 19 and `info` bytes 28 to 31
of the header (a NAK's REASON; COLLID, DFMT and SRANK of R344; FLAGS of R366), `bad` a malformed header (R324). Each word of the data
carries check bits (R259): `syn` holds the syndromes that are not 0. -/
structure Packet where
  opc : Nat
  src : Nat
  dst : Nat
  hops : Nat
  ctx : Nat
  tag : Nat
  addr : Nat
  value : Nat
  unit : Nat
  rind : Option W32
  words : List (W32 × Bool)
  via : Nat
  fmt : Nat
  info : Nat
  bad : Bool
  syn : SMap (BitVec 7)
deriving DecidableEq, Repr

/-- Where a translated access goes: an address of this device, or one of device `dev`. -/
inductive Target where
  | here (a : Nat)
  | away (dev a : Nat)
deriving DecidableEq, Repr

/-- A request of this device that has no response yet (R329): its tag, its target, the descriptor that made it (tile,
queue, place in the issue order), the port it left by (none until it has left), the address and the bytes asked for, the context and
2 MiB page of the leaf that led there (R270), and where a whole block that is read will go (R264). -/
structure Remote where
  tag : Nat
  dst : Nat
  opc : Nat
  tile : Nat
  queue : Nat
  seq : Nat
  port : Option Nat
  addr : Nat
  len : Nat
  ctx : Nat
  page : Nat
  into : Target
deriving DecidableEq, Repr

/-- LNK_SQCFG_r and LNK_SQTAIL_r (R337), with the record that the port has read and not yet launched. -/
structure SqRing where
  en : Bool
  ctx : Nat
  log2n : Nat
  base : W64
  head : W16
  tail : W16
  held : Option (Nat × List Byte)
deriving DecidableEq, Repr

/-- LNK_EQCFG_c and LNK_EQHEAD_c (R338), the frame sequence, how many dropped frames a LOST frame owes, and the parity of the
passes at the moment EN was set. -/
structure EqRing where
  en : Bool
  arm : Bool
  vec : Nat
  log2n : Nat
  base : W64
  tail : W16
  head : W16
  lost : W32
  eseq : W32
  lostOwed : Nat
  pass0 : Bool
deriving DecidableEq, Repr

/-! ### Mode epochs and index mode (R443, chapter 15) -/

/-- MP_MODE, MP_MODEACK and MP_IDXCFG. `ack` and `fenced` are bitmaps over the logical tiles; `next` is the USE of an
open fence; `hist` is the USE of each mode epoch (R401). -/
structure ModeSt where
  mepoch : W16
  fence : Bool
  ack : BitVec 1024
  fenced : BitVec 1024
  use : Bool
  next : Bool
  hist : SMap Bool
  period : BitVec 24
  maxref : Nat
deriving DecidableEq, Repr

/-- Values that the Flomo image gives every tile (R480). -/
structure Limits where
  driftLim : W16
  wearLim : BitVec 40
deriving DecidableEq, Repr

/-- Sources that hold tiles (R39), where no other field says so: the tripped droop regions (PWR_DROOPACT), a window
rationed out (R410), a fatal hold (R423). -/
structure Holds where
  droop : BitVec 64
  ration : Bool
  fatal : Bool
deriving DecidableEq, Repr

/-! ### Update engines (chapter 11) -/

/-- The 32 update engines of a stack: UPD_RNGSEED, UPD_RNGSEQ_c, UPD_NUMCNT_n with its alarms, UPD_ELEMS, UPD_REMOTE. -/
structure Upd where
  seed : W64
  seqs : List (BitVec 24)
  num : NumCnt
  elems : W64
  remote : W64
deriving DecidableEq, Repr

/-! ### Reset values -/

def Summary.empty : Summary := ⟨0#32, List.replicate 4 0#64, List.replicate 4 0#64, [], [], []⟩

def ErrUnit.reset : ErrUnit :=
  ⟨[], [], false, [], none, 0#32, List.replicate 4 0#16, false, false, false, [], Summary.empty⟩

def Xlate.reset : Xlate :=
  ⟨List.replicate 16 0#64, 0#64, List.replicate 16 0#64, 0, 0, 0, 0, .idle, none, [], 0#32⟩

def Upd.reset : Upd := ⟨0#64, List.replicate 32 0#24, NumCnt.reset 3 0#16, 0#64, 0#64⟩

def Stack.reset : Stack := ⟨false, 0#8, 0#24, 0#16, 0#24, 0#32, 0#32, 0⟩

def ModeSt.reset : ModeSt := ⟨0#16, false, BitVec.allOnes 1024, 0#1024, false, false, [], 86400#24, 32⟩

def Holds.reset : Holds := ⟨0#64, false, false⟩

def Limits.reset : Limits := ⟨0x1266#16, 0x2540BE400#40⟩

end Sys2Proof.Machine
end

