-- ==== Sys2Proof/Machine/LinkState.lean ====
section
/-! DEFINITION. The state of the Rinov ports, the host port, the dispatch engines and the clutch functions (chapters 12 to 14). -/

namespace Sys2Proof.Machine

/-! ### Ports (R308–R322) -/

/-- A flit that the sender keeps until an ACK covers it (R322): FSEQ, and its bytes 4 to 251. -/
structure TxFlit where
  seq : Nat
  body : List Byte
deriving DecidableEq, Repr

/-- A slot on its way (R315): its 16 bytes, whether it starts a packet, whether it carries poisoned data. -/
structure Slot where
  bytes : List Byte
  sop : Bool
  poison : Bool
deriving DecidableEq, Repr

/-- A Rinov port. `expect` is the peer of the image's port map and `apart` says that the port stays out of every bond (R332); `fails` counts
failed retrains in a row, `sub` the place in a retrain (0 EQ, 1 DESKEW, 2 PARAM); `lockLost` and the window counts feed R314. Sender: the
next FSEQ, the retry buffer and how many of its flits have been sent again, the slots of the packet in progress, credits held per pool,
slots to return per pool, the channel that command and data alternate on. Receiver: the expected FSEQ, whether its one NAK has gone, the
packet in assembly, the packets that wait. `tx` and `rx` are the scramblers of R312, `frame` the flits of the frame being sent, `last` the
last whole frame, `sent` what the port has sent at PARAM. `rxMap` gives for each receiver pair the lane it maps to and whether it inverts
(R492). -/
structure Port where
  st : Nat
  x4 : Bool
  half : Bool
  laneOk : Byte
  peerDev : Nat
  peerPort : Nat
  en : Bool
  x4ok : Bool
  bond : Nat
  txpreset : Byte
  expect : Option Nat
  apart : Bool
  corr : W32
  uncorr : W32
  replay : W32
  retrain : W16
  down : Byte
  naksent : W16
  nakrcvd : W16
  timeout : W16
  discard : W16
  num : NumCnt
  seed : W64
  seq : BitVec 24
  fails : Nat
  sub : Nat
  lockLost : Bool
  badFrames : Nat
  winFrames : Nat
  winBad : Nat
  replays : Nat
  txSeq : Nat
  retry : List TxFlit
  resend : Nat
  nakReq : Bool
  cur : List Slot
  credits : List Nat
  give : List Nat
  lastData : Bool
  nakDue : Bool
  depth : Nat
  rxSeq : Nat
  nakSent : Bool
  asm : List Slot
  rcvd : List Packet
  fnumTx : Nat
  fnumRx : Nat
  tx : BitVec 31
  rx : BitVec 31
  frame : List (List Byte)
  last : Option (Nat × List (List Byte))
  sent : Option PeerParam
  cache : List XlLine
  rxMap : List (Option (Nat × Bool))
deriving DecidableEq, Repr

/-- Requests discarded for a saved context, per source device (R285): context, source, count. -/
structure Discard where
  ctx : Nat
  src : Nat
  n : Nat
deriving DecidableEq, Repr

/-- The fabric: the 19 ports, the packets that this device sends to itself over the mesh, the route table (R326: 64 × bond + valid bit per
device id, by entry), LNK_DEVID.V and the discards. -/
structure Lnk where
  ports : List Port
  mesh : List Packet
  route : SMap W16
  idV : Bool
  discards : List Discard
deriving DecidableEq, Repr

/-! ### The host port (R334–R340) -/

/-- LNK_HOSTCFG.APER, the mailboxes and MBDOOR, the MSI-X table and pending bits of the adapter, the messages that it has sent, the last BAR
access's answer with its poison indication (none: Unsupported Request), and whose next host access the adapter fails (R335): tile, queue and
place in the issue order, or for work outside the queues 7 and its number. -/
structure HostIf where
  aper : Nat
  inbox : SMap Byte
  outbox : SMap Byte
  busy : Bool
  rdy : Bool
  msixTable : SMap Byte
  pba : W64
  msix : List Nat
  answer : Option (W64 × Bool)
  fail : List (Nat × Nat × Nat)
deriving DecidableEq, Repr

/-! ### Dispatch engines (chapter 13) -/

/-- A running collective (R353–R358): its descriptor, the members (device ids in rank order), the ranks whose COLLARM has
arrived, the next group that goes to each rank, the contributions added to each group (under ORDER: the next rank to
add), those that wait in the staging area (rank, group), and how many contributions have been applied in all. -/
structure Coll where
  id : Nat
  tile : Nat
  seq : Nat
  ctx : Nat
  d : W512
  members : List Nat
  armed : List Nat
  sent : List Nat
  turn : SMap Nat
  staged : List (Nat × Nat)
  applied : Nat
deriving DecidableEq, Repr

/-- The registers of the dispatch engines (DSP block of port 0), the collectives that run, and the COLLARMs that came before
their collective (COLLID, rank). -/
structure Dsp where
  tok : NumCnt
  num : NumCnt
  seed : W64
  collDone : W32
  collFailed : W16
  stagedGroups : Nat
  colls : List Coll
  arms : List (Nat × Nat)
deriving DecidableEq, Repr

/-! ### Clutch functions (chapter 14) -/

/-- A rollback in progress (R365): the abandoned epoch, the restore epoch, the cause, the first failed id, and whether no restore point
remains, so that nothing is restored (R385). -/
structure Roll where
  epoch : W64
  restore : W64
  cause : Nat
  failed : Nat
  keep : Bool
deriving DecidableEq, Repr

/-- A part of a checkpoint that leaves the device (R375): to a holder of parity, the device's share of piece `piece` of a shard; to its
snapshot partner's drive, an entry (its tensor id) for a slot. The manual gives no packet for either: log 61. -/
structure CkPart where
  dst : Nat
  shard : Option (Nat × Nat)
  snap : Option (Nat × Nat)
  bytes : List Byte
deriving DecidableEq, Repr

/-- How far a manager's rollback has come: its MIRROR, the CROLLs, the route entries for the spares, the rebuilding of the spares. -/
inductive RollPhase where
  | mirror
  | survivors
  | routes
  | spares
deriving DecidableEq, Repr

/-- A rollback at the manager (R372, R382–R385): the abandoned and the restore epoch, the cause, the failed devices, the spares that took an
id (id, former id), the devices whose answer has come in the present phase, and the epoch to which devices may have restored before. -/
structure MgrRoll where
  epoch : W64
  restore : W64
  cause : Nat
  failed : List Nat
  phase : RollPhase
  subs : List (Nat × Nat)
  dones : List Nat
  base : W64
deriving DecidableEq, Repr

/-- A CREADY or CCACK that waits for this device to reach the sender's generation or epoch, or to end its rollback (R367). -/
structure CluCount where
  ack : Bool
  src : Nat
  epoch : W64
  gen : Nat
  n : Nat
deriving DecidableEq, Repr

/-- What the snapshot port asks of its drive (R377): Identify of the controller and of namespace 1, the two features, the I/O queue pair of
256 entries, SMART, snapshot data (the first block of namespace 1 and the number of blocks), and Flush. -/
inductive NvmeCmd where
  | identifyController
  | identifyNamespace
  | setQueues
  | getQueues
  | setWriteCache
  | getWriteCache
  | createCompletion (entries : Nat)
  | createSubmission (entries : Nat)
  | deleteSubmission
  | deleteCompletion
  | smartLog
  | write (lba : Nat) (blocks : Nat)
  | read (lba : Nat) (blocks : Nat)
  | flush
deriving DecidableEq, Repr

/-- The clutch functions and, at a manager, its records. Registers: CLU_CFG, CLU_CKPT with its slot, CLU_HB, CLU_CAD, CLU_CADNOW, CLU_HOLD,
CLU_COUNTS, PLANGEN. Device: NEED and the READYs and ABANDONs in the clutch functions (tile, descriptor), whether an ABANDON withholds the
ready, whether it has gone up, whether its commit still owes a CCACK, the drain (its epoch), since when it has held the ready, tables and
whether the manager has the copy, tree, the generation, counts from children and those that wait, the sequence number of the next checkpoint, the checkpoint that waits for its
CKPTOK, the complete ones, the epochs whose local slots this device wrote, what left it in the last drain, a rollback in progress, one whose
frame with STATE 1 waits for a substitution, the id
before a substitution (until its restore; and for good), whether no HEART has gone since start-up, the causes that stop the clutch (R386).
Drive: present, capacity, what has been asked of it, oldest first. Manager: whether the standby has failed (R368), other devices that hold
job state, spares, failed devices, those whose loss is not yet made good, the ids that spares have taken, with their former ids, periods
missed per device, tables, those that wait for a commit, and those of the checkpoint taken, drives, groups, partners, methods (R380), digest
changes per device and tensor id, TREECFGs sent, devices with too little parity or snapshot space, a decision (epoch, flags) and whether it
binds, an ABANDON that waits for a decision to settle, the devices of the tree, a rollback, complete checkpoints (newest first), the one being taken, its reports, its record while the standby stores it, the
estimates of R381. Standby: the last MIRROR of a decision. -/
structure Clu where
  role : Nat
  mgrOnly : Bool
  mgrId : Nat
  sbyId : Nat
  sbyV : Bool
  sbyLost : Bool
  nmem : Nat
  ckpt : W64
  ckv : Bool
  slot : Nat
  planGen : Nat
  period : W16
  miss : Nat
  mins : W16
  maxs : W16
  snapEvery : Byte
  m0 : BitVec 24
  nsteps : W32
  tsec : W32
  holdSteps : W32
  holdMs : W32
  commits : W32
  rolls : W16
  substs : Byte
  ckfail : Byte
  need : Option Nat
  readies : List (Nat × QEntry)
  abandons : List (Nat × QEntry)
  abandoned : Bool
  sent : Bool
  ackDue : Bool
  drain : Option W64
  heldFrom : Option W64
  table : Option CkTab
  nextTable : Option CkTab
  tabOwed : Bool
  tree : TreeCfg
  gen : Nat
  creadys : List (Nat × Nat)
  ccacks : List (Nat × Nat)
  early : List CluCount
  ckSeq : Nat
  cand : Option CkRec
  saved : List CkRec
  own : List W64
  outbox : List CkPart
  roll : Option Roll
  rollDue : Option Roll
  former : Option Nat
  origin : Option Nat
  hbFirst : Bool
  stops : List Nat
  drive : Bool
  nsBlocks : Nat
  asked : List NvmeCmd
  known : List Nat
  spares : List Nat
  failed : List Nat
  lost : List Nat
  holders : List (Nat × Nat)
  missed : SMap Nat
  tabs : List (Nat × CkTab)
  nextTabs : List (Nat × CkTab)
  ckTabs : List (Nat × CkTab)
  drives : List (Nat × Nat)
  groups : List (List Nat)
  partners : List (Nat × Nat)
  plans : List (Nat × List Nat)
  hist : List ((Nat × Nat) × List Bool)
  cfgs : List (Nat × TreeCfg)
  parShort : List Nat
  snapShort : List Nat
  decided : Option (W64 × Byte)
  bound : Bool
  abandonDue : Option W64
  treeLive : List Nat
  mirror : Option MirrorRec
  rolling : Option MgrRoll
  ckpts : List CkRec
  ckRun : Option W64
  ckDones : List (Nat × List CatEnt)
  ckOwed : Option CkRec
  firstCommit : Option W64
  lastCommit : Option W64
  failCount : Nat
  lastCk : W64
  steps : List Nat
  plain : List Nat
  ckStep : Bool
  ckCost : Int
  costs : List Nat
deriving DecidableEq, Repr

/-- A descriptor of slot `k` of tile `t` is in the clutch functions (R363): its strand's slot is not yet FREE (R42). -/
def Clu.heldFor (c : Clu) (t k : Nat) : Bool := (c.readies ++ c.abandons).any (fun p => p.1 == t && p.2.org == .strand k)

/-- A standby mirrors the decisions: one is configured, and it has not failed (R368). -/
def Clu.mirrors (c : Clu) : Bool := c.sbyV && !c.sbyLost

/-- The clutch is held: for a standby only until a new one is configured (R372, R383, R385). -/
def Clu.held (c : Clu) : Bool := c.stops.any (fun k => k != 3 || !c.mirrors)

/-! ### Reset values -/

def TreeCfg.none : TreeCfg := ⟨Option.none, [], [], 0, [], 1, 0, 0, Option.none, Option.none, [], Option.none, [], 0, 0⟩

def Clu.reset : Clu :=
  { role := 3, mgrOnly := false, mgrId := 0, sbyId := 0, sbyV := false, sbyLost := false, nmem := 0, ckpt := 0#64, ckv := false, slot := 0
    planGen := 0, period := 1000#16, miss := 4, mins := 60#16, maxs := 3600#16, snapEvery := 8#8, m0 := 86400#24
    nsteps := 0#32, tsec := 0#32, holdSteps := 0#32, holdMs := 0#32, commits := 0#32, rolls := 0#16, substs := 0#8
    ckfail := 0#8, need := none, readies := [], abandons := [], abandoned := false, sent := false, ackDue := false
    drain := none, heldFrom := none, table := none, nextTable := none, tabOwed := false, tree := TreeCfg.none, gen := 0, creadys := []
    ccacks := [], early := [], ckSeq := 0, cand := none, saved := [], own := [], outbox := [], roll := none, rollDue := none, former := none, origin := none, hbFirst := true, stops := []
    drive := false, nsBlocks := 0, asked := [], known := [], spares := [], failed := [], lost := [], holders := [], missed := [], tabs := []
    nextTabs := [], ckTabs := []
    drives := [], groups := [], partners := [], plans := [], hist := [], cfgs := [], parShort := [], snapShort := [], decided := none
    bound := false, abandonDue := none, treeLive := [], mirror := none, rolling := none, ckpts := [], ckRun := none, ckDones := [], ckOwed := none, firstCommit := none
    lastCommit := none, failCount := 0, lastCk := 0#64, steps := [], plain := [], ckStep := false, ckCost := 0, costs := [] }

/-- The credits that a fabric port advertises (R320): command, data, management, event, hop classes 0 to 3. -/
def advertised : List Nat :=
  [512, 512, 512, 512, 8192, 4096, 4096, 4096, 128, 128, 128, 128, 256, 256, 256, 256]

/-- Credits in hop class 0 only: those of the host port (R320). -/
def hostPools (l : List Nat) : List Nat := l.zipIdx.map (fun p => if p.2 % 4 = 0 then p.1 else 0)

def Port.reset (host : Bool) : Port :=
  { st := 0, x4 := false, half := false, laneOk := 0#8, peerDev := 0, peerPort := 0, en := host, x4ok := true
    bond := 31, txpreset := 0#8, expect := none, apart := false, corr := 0#32, uncorr := 0#32, replay := 0#32
    retrain := 0#16, down := 0#8, naksent := 0#16, nakrcvd := 0#16, timeout := 0#16, discard := 0#16
    num := NumCnt.reset 7 0#16, seed := 0#64, seq := 0#24, fails := 0, sub := 0, lockLost := false, badFrames := 0
    winFrames := 0, winBad := 0, replays := 0, txSeq := 0, retry := [], resend := 0, nakReq := false, cur := []
    credits := List.replicate 16 0, give := List.replicate 16 0, lastData := false, nakDue := false, depth := 512
    rxSeq := 0, nakSent := false, asm := [], rcvd := [], fnumTx := 0, fnumRx := 0, tx := BitVec.allOnes 31
    rx := BitVec.allOnes 31, frame := [], last := none, sent := none, cache := [], rxMap := [] }

def Lnk.reset : Lnk := ⟨List.replicate 18 (Port.reset false) ++ [Port.reset true], [], [], false, []⟩

def HostIf.reset : HostIf := ⟨0, [], [], false, false, [], 0#64, [], none, []⟩

def Dsp.reset : Dsp := ⟨NumCnt.reset 3 0b100#16, NumCnt.reset 7 0#16, 0#64, 0#32, 0#16, 0, [], []⟩

end Sys2Proof.Machine
end

