-- ==== Sys2Proof/Machine/SysState.lean ====
section
/-! DEFINITION. The state of power, the eft island, the management processor, security, the flash, I3C, JTAG and the board
pins (chapters 15 to 20). -/

namespace Sys2Proof.Machine

/-! ### Power (chapter 16) -/

/-- The converter's rails (R403): stage 1 with V_eft, V_io, V_core, V_dram. -/
structure Rails where
  stage1 : Bool
  io : Bool
  core : Bool
  dram : Bool
deriving DecidableEq, Repr

/-- The power controller. PWR_CAP, PWR_CAPEFF, PWR_PACE, PWR_LEARN, PWR_DROOPCFG, PWR_DROOPCNT, PWR_INPUT, PWR_THERM, PWR_FLAGS; the tripped
droop regions are `Holds.droop`. `profile` holds the learned setpoint (mV) of each bin learned, `epochMs` the bins ended since the last
commit, `tick` the controller ticks of the present bin. `n` is RATN, `vset` the setpoint, `window` the present window of the frame (R410);
the asks of ranks 3 to 6 (R421): `thrV`, `thrN` of the throttle, `capV`, `capN` of the cap, `paceV`, `learnV` (none asks nothing).
`slewHold` is R412; `ramp` the step of a region that returns (R409, absent at full rate); `temps` the last reading of each physical tile. -/
structure Pwr where
  capw : Nat
  capmax : Nat
  effw : Nat
  reach : Nat
  paceEn : Bool
  paceTgt : Nat
  achieved : Nat
  learnEn : Bool
  lead : Nat
  profile : SMap Nat
  epochMs : Nat
  tick : Nat
  thresh : Nat
  hyst : Nat
  events : W32
  gatedUs : W32
  vin : Nat
  iin : Nat
  pin : Nat
  pavg : Nat
  tmax : Nat
  ttile : Nat
  temps : SMap Nat
  flags : BitVec 4
  n : Nat
  vset : Nat
  window : Nat
  throttle : Bool
  thrV : Option Nat
  thrN : Nat
  capV : Option Nat
  capN : Nat
  paceV : Option Nat
  learnV : Option Nat
  slewHold : Bool
  ramp : SMap Nat
  cal : List Byte
deriving DecidableEq, Repr

/-! ### The eft island (R448–R452) and the board lines (R483–R490) -/

/-- PSTATE (0 OFF), TRIP, the lockout, RSTLOW, MPDEAD, WAKEEN, a start condition that waits, the time of the MP's last signal, the last
input voltage (10 mV), the summary mirror with its newest LSEQ + 1, whether it holds nothing that the MP wrote since the island powered up
(R500), the two identity pages, the sensor snapshot. -/
structure Eft where
  pstate : Nat
  trip : Nat
  lockout : Bool
  rstLow : Bool
  mpDead : Bool
  wakeEn : Bool
  startPend : Bool
  signalAt : W64
  vin : Nat
  mirror : Summary
  mirrorSeq : W32
  mirrorNew : Bool
  idPages : List (List Byte)
  snap : List Nat
deriving DecidableEq, Repr

/-- The accepted levels of MOD_PWREN, MOD_RESET_N and BOARD_HALT_N (true: asserted), whether this assertion has its record
(R485, R486), POS_ID as sampled, and whether THERM_ALERT_N is held by a thermal trip (R489). -/
structure Pins where
  pwren : Bool
  rst : Bool
  halt : Bool
  haltLogged : Bool
  resetLogged : Bool
  posId : Nat
  tripAlert : Bool
deriving DecidableEq, Repr

/-! ### The management processor (chapters 15, 17, 18, 19) -/

/-- MP_STAT, MP_LEDGERCFG, MP_IDXSTAT (the running refreshes are the entries of the queues that the MP issued), MP_XCHK, MP_XCHKSEED,
MP_DIAGSEL, MP_DIAGDATA, the consecutive timeouts on the MP's own link (R446), the ledgers by physical tile as start-up loaded them (R179),
whether the MP runs, the identity seed and public key (R465), the log M0 to M7 (R467), the regulator readings, the mailbox response that
waits to be placed, and what follows it (1 a cold reset, 2 a power-down). -/
structure Mp where
  state : Nat
  step : Nat
  imgErr : Nat
  imgWhich : Nat
  badTiles : List Nat
  interval : Nat
  failed : W16
  done : W32
  xState : Nat
  xFaulty : Nat
  xSuspect : Nat
  xSeed : W64
  diagRow : Nat
  diagCol : Nat
  diagOfs : Nat
  diagValid : Bool
  diagData : W64
  timeouts : Nat
  ledgers : SMap Ledger
  alive : Bool
  idSeed : List Byte
  idPublic : List Byte
  meas : List (List Byte)
  regs : List Nat
  hostResp : Option (List Byte)
  after : Nat
  flomo : List Byte
deriving DecidableEq, Repr

/-- SEC_LOCK and SEC_STAT. -/
structure Sec where
  gecko : Bool
  jtagOpen : Bool
  noI3c : Bool
  noHost : Bool
  floor : Nat
  fwSvn : Nat
  flSvn : Nat
  idFail : Bool
deriving DecidableEq, Repr

/-- A copy of the ledgers of all physical tiles (R179): the closed mark, and the digest over both. -/
structure LedgerCopy where
  ledgers : SMap Ledger
  closed : Bool
  digest : List Byte
deriving DecidableEq, Repr

/-- What survives every reset outside the eft island: the flash's bytes (R455), the 16 rotating copies of the ledgers and how many
were written (R179), the newest summary with its LSEQ and closed mark and its slot (R434), and the floor row's three copies (R468). -/
structure Flash where
  bytes : SMap Byte
  copies : List (Option LedgerCopy)
  ledSlot : Nat
  sum : Summary
  sumSeq : W32
  sumClosed : Bool
  sumSlot : Nat
  floorRow : List (BitVec 255)
deriving DecidableEq, Repr

/-- The update session (R463): its channel (0 mailbox, 1 I3C) while open, the image kind (0 firmware, 1 Flomo), the total length,
the staging area, the state and the result code of UPDSTAT. -/
structure UpdSess where
  chan : Option Nat
  kind : Nat
  total : Nat
  staged : SMap Byte
  status : Nat
  result : Nat
deriving DecidableEq, Repr

/-- The I3C target: dynamic address, events enabled, maximum write and read lengths, the response that waits,
whether an in-band interrupt is owed, and what the last CCC returned. -/
structure I3c where
  addr : Option Nat
  events : Byte
  mwl : W16
  mrl : W16
  resp : List Byte
  ibi : Bool
  ccc : List Byte
deriving DecidableEq, Repr

/-- The JTAG TAP: the instruction (0 BYPASS, 1 IDCODE, 2 SAMPLE/PRELOAD, 3 EXTEST), the data register that shifts out, the
boundary cells, and whether the TAP is in Test-Logic-Reset, where TRST_N's open level holds it (R483). -/
structure Jtag where
  instr : Nat
  dr : List Bool
  cells : List Bool
  tlr : Bool
deriving DecidableEq, Repr

/-! ### Reset values -/

def Rails.reset : Rails := ⟨true, false, false, false⟩

def Pwr.reset : Pwr where
  capw := 3200
  capmax := 3600
  effw := 3200
  reach := 0
  paceEn := false
  paceTgt := 940
  achieved := 0
  learnEn := true
  lead := 20
  profile := []
  epochMs := 0
  tick := 0
  thresh := 30
  hyst := 10
  events := 0#32
  gatedUs := 0#32
  vin := 0
  iin := 0
  pin := 0
  pavg := 0
  tmax := 0
  ttile := 0
  temps := []
  flags := 0#4
  n := 64
  vset := 0
  window := 0
  throttle := false
  thrV := none
  thrN := 64
  capV := none
  capN := 64
  paceV := none
  learnV := none
  slewHold := false
  ramp := []
  cal := []

def Eft.reset : Eft :=
  ⟨1, 0, false, false, false, false, false, 0#64, 5600, Summary.empty, 0#32, true, [[], []], []⟩

def Pins.reset : Pins := ⟨false, false, false, false, false, 63, false⟩

def Mp.reset : Mp where
  state := 1
  step := 1
  imgErr := 0
  imgWhich := 0
  badTiles := []
  interval := 600
  failed := 0#16
  done := 0#32
  xState := 0
  xFaulty := 0
  xSuspect := 0
  xSeed := 0#64
  diagRow := 0
  diagCol := 0
  diagOfs := 0
  diagValid := false
  diagData := 0#64
  timeouts := 0
  ledgers := []
  alive := true
  idSeed := []
  idPublic := []
  meas := []
  regs := []
  hostResp := none
  after := 0
  flomo := []

def Sec.reset : Sec := ⟨false, false, false, false, 0, 0, 0, false⟩

def Flash.reset : Flash :=
  ⟨[], List.replicate 16 none, 0, Summary.empty, 0#32, true, 0, List.replicate 3 0#255⟩

def UpdSess.reset : UpdSess := ⟨none, 0, 0, [], 0, 0⟩

def I3c.reset : I3c := ⟨none, 0#8, 0#16, 0#16, [], false, []⟩

def Jtag.reset : Jtag := ⟨1, [], [], true⟩

end Sys2Proof.Machine
end

