-- ==== Sys2Proof/Machine/State.lean ====
section
/-! DEFINITION. The state of the module, what stops a step, and the state right after reset. -/

namespace Sys2Proof.Machine

/-- Why a step stops with a fault. No command does: every event of the manual has an effect on State. -/
inductive Fault where
  /-- Raised by nobody; a closed type needs a value. Safe. -/
  | none
deriving DecidableEq, Repr

/-- Why a command has no meaning. -/
inductive Refusal where
  /-- Raised by an arm of `exec` whose command has no meaning yet. Safe. -/
  | notModelled (mnemonic : String)
deriving DecidableEq, Repr

/-- The module. `side` holds the work of the device that no descriptor of a queue names (folds, code copies of launches), in the form
of a queue entry: how far it has come, and data that it waits for from another device. -/
structure State where
  pending : List Instr
  freeCtr : Nat
  tiles : SMap Tile
  dram : Mem
  dramRind : SMap W32
  hostMem : Mem
  stackRegs : List Stack
  upd : List Upd
  updNext : Nat
  posted : SMap (Option (Nat × W64 × Nat))
  xl : Xlate
  grids : List Grid
  evts : List Evt
  frames : List Frame
  err : ErrUnit
  out : List Packet
  remotes : List Remote
  side : List QEntry
  nextTag : Nat
  sq : List SqRing
  eq : List EqRing
  mode : ModeSt
  lim : Limits
  holds : Holds
  epoch : W64
  time : W64
  skip : List Nat
  devId : Nat
  devRing : Nat
  lnk : Lnk
  host : HostIf
  dsp : Dsp
  clu : Clu
  rails : Rails
  pwr : Pwr
  eft : Eft
  pins : Pins
  mp : Mp
  sec : Sec
  flash : Flash
  sess : UpdSess
  i3c : I3c
  jtag : Jtag
deriving DecidableEq, Repr

/-- The module right after a cold reset. -/
def State.reset : State where
  pending := []
  freeCtr := 0
  tiles := []
  dram := Mem.empty
  dramRind := []
  hostMem := Mem.empty
  stackRegs := List.replicate 8 Stack.reset
  upd := List.replicate 8 Upd.reset
  updNext := 0
  posted := []
  xl := Xlate.reset
  grids := []
  evts := []
  frames := []
  err := ErrUnit.reset
  out := []
  remotes := []
  side := []
  nextTag := 0
  sq := List.replicate 16 ⟨false, 0, 4, 0#64, 0#16, 0#16, none⟩
  eq := List.replicate 16 ⟨false, false, 0, 6, 0#64, 0#16, 0#16, 0#32, 0#32, 0, false⟩
  mode := ModeSt.reset
  lim := Limits.reset
  holds := Holds.reset
  epoch := 0#64
  time := 0#64
  skip := List.replicate 32 32
  devId := 0
  devRing := 0
  lnk := Lnk.reset
  host := HostIf.reset
  dsp := Dsp.reset
  clu := Clu.reset
  rails := Rails.reset
  pwr := Pwr.reset
  eft := Eft.reset
  pins := Pins.reset
  mp := Mp.reset
  sec := Sec.reset
  flash := Flash.reset
  sess := UpdSess.reset
  i3c := I3c.reset
  jtag := Jtag.reset

end Sys2Proof.Machine
end

