-- ==== Sys2Proof/Machine/Ops.lean ====
section
/-! DEFINITION. The named operations over memory, tiles, strands, counters and errors that the commands share. -/

namespace Sys2Proof.Machine

/-! ### Words of a memory (R259, R424–R426) -/

/-- The byte at `a`. -/
def Mem.byte (m : Mem) (a : Nat) : Byte := smGet 0#8 m.bytes a

/-- Store a byte. -/
def Mem.setByte (m : Mem) (a : Nat) (v : Byte) : Mem := { m with bytes := smSet 0#8 m.bytes a v }

/-- The `n` bytes from `a`, ascending. -/
def Mem.get (m : Mem) (a : Nat) : Nat → List Byte
  | 0 => []
  | n + 1 => m.byte a :: m.get (a + 1) n

/-- Store bytes from `a` upward. -/
def Mem.put (m : Mem) (a : Nat) : List Byte → Mem
  | [] => m
  | b :: r => (m.setByte a b).put (a + 1) r

/-- The syndrome of the word that holds byte `a`. -/
def Mem.synAt (m : Mem) (a : Nat) : BitVec 7 := smGet 0#7 m.syn (a / 4)

def Mem.setSyn (m : Mem) (a : Nat) (v : BitVec 7) : Mem := { m with syn := smSet 0#7 m.syn (a / 4) v }

/-- The stored data bits of the word at `a`, a multiple of 4. -/
def Mem.raw (m : Mem) (a : Nat) : W32 := BitVec.ofNat 32 (leVal (m.get a 4))

/-- Store a word with fresh check bits, or with the poison mark (R426). -/
def Mem.put32 (m : Mem) (a : Nat) (v : W32) (mark : Bool) : Mem :=
  (m.put a (leBytes 4 v.toNat)).setSyn a (if mark then poisonSyn else 0#7)

/-- A word as a reader sees it (R425): its data, whether it reads as poisoned, and its syndrome. -/
def Mem.read32 (m : Mem) (a : Nat) : W32 × Bool × BitVec 7 :=
  let d := m.raw a
  let s := m.synAt a
  match eccRead s with
  | .clean => (d, false, s)
  | .checkBit => (d, false, s)
  | .dataBit i => (d ^^^ (1#32 <<< i), false, s)
  | .poison => (d, true, s)
  | .bad => (d, true, s)

/-- A word after the read that found syndrome `s`: an uncorrectable word is rewritten with the mark (R425). A corrected
word stays as stored until a scrub or a write (R259 corrects it in flight). -/
def Mem.afterRead (m : Mem) (a : Nat) (s : BitVec 7) : Mem :=
  match eccRead s with
  | .bad => m.setSyn a poisonSyn
  | _ => m

/-- A word with one bit in error, corrected (R259). -/
def Mem.heal (m : Mem) (a : Nat) : Mem :=
  match eccRead (m.synAt a) with
  | .dataBit _ => m.put32 (a / 4 * 4) (m.read32 (a / 4 * 4)).1 false
  | .checkBit => m.setSyn a 0#7
  | _ => m

/-- Write bytes: a word that they cover only in part keeps its mark, and otherwise is corrected and gets fresh check bits over
the merged data (R259, R427). -/
def Mem.putBytes (m : Mem) (a : Nat) (l : List Byte) : Mem :=
  let m' := ((m.heal a).heal (a + l.length - 1)).put a l
  (List.range (l.length / 4 + 2)).foldl (fun m'' i =>
    let w := (a / 4 + i) * 4
    if w < a + l.length then
      if a ≤ w ∧ w + 4 ≤ a + l.length then m''.setSyn w 0#7
      else if eccRead (m''.synAt w) = .poison ∨ eccRead (m''.synAt w) = .bad then m''.setSyn w poisonSyn
      else m''.setSyn w 0#7
    else m'') m'

/-- The canonical form of a memory: both maps are sparse maps. -/
abbrev Mem.wf (m : Mem) : Prop := smWf (0#8 : Byte) m.bytes ∧ smWf (0#7 : BitVec 7) m.syn

/-! ### Tiles -/

def State.tile (s : State) (t : Nat) : Tile := smGet Tile.reset s.tiles t

def State.setTile (s : State) (t : Nat) (v : Tile) : State := { s with tiles := smSet Tile.reset s.tiles t v }

/-- Change one tile. -/
def State.modTile (s : State) (t : Nat) (f : Tile → Tile) : State := s.setTile t (f (s.tile t))

/-- Replace element `i` of a list by its image. -/
def modAt {α : Type} (l : List α) (i : Nat) (f : α → α) : List α :=
  match l, i with
  | [], _ => []
  | x :: r, 0 => f x :: r
  | x :: r, i + 1 => x :: modAt r i f

def Tile.queue (v : Tile) (q : Nat) : List QEntry := (v.queues[q]?).getD []

def Tile.setQueue (v : Tile) (q : Nat) (l : List QEntry) : Tile := { v with queues := v.queues.set q l }

def Tile.bank (v : Tile) (b : Nat) : Bank := (v.arr.banks[b]?).getD Bank.reset

def Tile.setBank (v : Tile) (b : Nat) (k : Bank) : Tile := { v with arr := { v.arr with banks := v.arr.banks.set b k } }

def Tile.modBank (v : Tile) (b : Nat) (f : Bank → Bank) : Tile := v.setBank b (f (v.bank b))

/-- Depth of a queue (R52). -/
def queueDepth (q : Nat) : Nat :=
  match q with
  | 0 => 64 | 1 => 32 | 2 => 32 | 3 => 8 | 4 => 64 | 5 => 64 | _ => 32

/-! ### Strands (R41, R42) -/

def Tile.strand (v : Tile) (k : Nat) : Strand := smGet Strand.none v.scu.strands k

def Tile.setStrand (v : Tile) (k : Nat) (x : Strand) : Tile :=
  { v with scu := { v.scu with strands := smSet Strand.none v.scu.strands k x } }

def State.strand (s : State) (t k : Nat) : Strand := (s.tile t).strand k

def State.setStrand (s : State) (t k : Nat) (x : Strand) : State := s.modTile t (fun v => v.setStrand k x)

/-- Register `r` of a strand; s0 reads as 0 (R41). -/
def Strand.reg (x : Strand) (r : Nat) : W64 := if r = 0 then 0#64 else (x.regs[r - 1]?).getD 0#64

/-- Write register `r`; a write to s0 has no effect (R41). -/
def Strand.setReg (x : Strand) (r : Nat) (v : W64) : Strand :=
  if r = 0 then x else { x with regs := x.regs.set (r - 1) v }

/-! ### Sync counters (R57–R60) -/

/-- A device-owned counter index (R57). -/
def deviceCtr (c : Nat) : Bool := 60 ≤ c % 64

def Tile.ctr (v : Tile) (i : Nat) : W32 := smGet 0#32 v.scu.ctrs i

def Tile.setCtr (v : Tile) (i : Nat) (c : W32) : Tile :=
  { v with scu := { v.scu with ctrs := smSet 0#32 v.scu.ctrs i c } }

/-- The counter of a global id (R57). -/
def State.ctr (s : State) (c : Nat) : W32 := (s.tile (c / 64)).ctr (c % 64)

/-- A wait on value `c` with threshold `t` is satisfied (R59). -/
def reached (c t : W32) : Bool := (c - t).toNat < 2 ^ 31

/-! ### Free values -/

/-- The next free bits, and the state with the draw counted. -/
def State.draw (s : State) : W64 × State := (Config.freeBits s.freeCtr, { s with freeCtr := s.freeCtr + 1 })

/-- `n` free words. -/
def freeWords : Nat → State → List (W32 × Bool) × State
  | 0, s => ([], s)
  | n + 1, s =>
    let (v, s) := s.draw
    let (l, s) := freeWords n s
    ((v.setWidth 32, false) :: l, s)

/-- The next free count, at most `n`. -/
def State.drawUpTo (s : State) (n : Nat) : Nat × State :=
  (Config.freeNat s.freeCtr % (n + 1), { s with freeCtr := s.freeCtr + 1 })

/-! ### The management processor (R447) -/

/-- The management processor runs (R448, R500). -/
def State.mpRuns (s : State) : Bool := s.mp.alive && s.rails.io && 2 ≤ s.eft.pstate && s.eft.pstate ≤ 4

/-! ### The boundary register (R460, R491) -/

/-- The TAP offers its boundary instructions. -/
def State.boundaryOpen (s : State) : Bool := !s.sec.gecko || s.sec.jtagOpen

/-- EXTEST is in effect. -/
def State.extest (s : State) : Bool := s.boundaryOpen && !s.jtag.tlr && s.jtag.instr == 3

/-- The boundary cell of an output, as `Config.boundaryCell` numbers them. -/
def State.cell (s : State) (output : Nat) : Bool := (s.jtag.cells[Config.boundaryCell output]?).getD false

/-- A word as running work makes it: under EXTEST its results are unspecified. -/
def State.made (s : State) (v : W32) : W32 × State :=
  if s.extest then (Config.testWord s.freeCtr v, { s with freeCtr := s.freeCtr + 1 }) else (v, s)

/-! ### Errors (R422, R428) -/

/-- Class codes (R422). -/
def clsCorrected : Nat := 0
def clsDeferred : Nat := 1
def clsContained : Nat := 2
def clsFatal : Nat := 3

/-- Causes (R429). -/
def cEccCorr : Nat := 0x01
def cEccUncorr : Nat := 0x02
def cRindMis : Nat := 0x03
def cPoisonData : Nat := 0x04
def cShadow : Nat := 0x05
def cDriftRange : Nat := 0x06
def cZeroPress : Nat := 0x07
def cTableErr : Nat := 0x08
def cStrand : Nat := 0x10
def cRefused : Nat := 0x11
def cSpillRec : Nat := 0x12
def cXlAbort : Nat := 0x13
def cRemote : Nat := 0x14
def cPoisonCtl : Nat := 0x15
def cFence : Nat := 0x16
def cFoldFail : Nat := 0x17
def cRefreshRef : Nat := 0x18
def cRestoreDig : Nat := 0x19
def cRollback : Nat := 0x1A
def cLinkDown : Nat := 0x1B
def cNoRestore : Nat := 0x1C
def cDiscard : Nat := 0x1D
def cLostEsc : Nat := 0x1E
def cMpTimeout : Nat := 0x1F
def cCsrAcc : Nat := 0x20
def cLinkRetrain : Nat := 0x21
def cAdcSat : Nat := 0x22
def cCapUnatt : Nat := 0x23
def cPaceMiss : Nat := 0x24
def cHot105 : Nat := 0x25
def cHaltHeld : Nat := 0x26
def cXchk : Nat := 0x27
def cNvmeFail : Nat := 0x28
def cRole : Nat := 0x29
def cThermTrip : Nat := 0x30
def cUvTrip : Nat := 0x31
def cOvTrip : Nat := 0x32
def cOcpTrip : Nat := 0x33
def cResetHeld : Nat := 0x34
def cMpFault : Nat := 0x35
def cMeshFail : Nat := 0x36

/-- Unit codes (R428). -/
def uStack (n : Nat) : Nat := 0x0800 + n
def uPort (p : Nat) : Nat := 0x0900 + p
def uHost : Nat := 0x0900 + 18
def uClutch : Nat := 0x0A00
def uMgmt : Nat := 0x0B00
def uEft : Nat := 0x0C00

/-- A record with no further detail; the fields that no source gives are 0, SLOT 0xFFFF (R428). -/
def mkRec (cls cause unit : Nat) : Rec :=
  ⟨cls, cause, unit, 0, none, 0, 0#64, 0#64, 0#64, 0#64, 0xFFFF, 0#32, 0#32, false, false⟩

/-- A unit detects an error: the record waits to be raised, stamped with the time and the epoch (R428), and the action of
its class is due (R422): for class contained where a context runs (R423), but for ROLLBACK, whose stop R365 makes itself. -/
def State.detect (s : State) (r : Rec) : State :=
  let r := { r with stamp := s.time, epoch := s.epoch.setWidth 32 }
  { s with err := { s.err with
      det := s.err.det ++ [r]
      contDue := match s.xl.runCtx with
        | some c => if r.cls = clsContained ∧ r.cause ≠ cRollback then s.err.contDue ++ [c] else s.err.contDue
        | none => s.err.contDue
      fatalDue := s.err.fatalDue || r.cls == clsFatal } }

/-- A record of class corrected with cause CSRACC: `w` is the party that made the access (R428). -/
def State.csrAcc (s : State) (w : Nat) (addr : Nat) : State :=
  s.detect { mkRec clsCorrected cCsrAcc w with addr := BitVec.ofNat 64 addr }

/-! ### Frames to the host (R338, R339) -/

/-- Post a frame to the ring of a context, or to DEVRING. -/
def State.post (s : State) (ctx : Option Nat) (typ : Nat) (body : List Byte) : State :=
  { s with frames := s.frames ++ [⟨ctx.getD s.devRing, typ, body⟩] }

/-- A NOTICE frame (R339, R501): unit, source, index, detail. -/
def State.notice (s : State) (unit src index detail : Nat) : State :=
  s.post none 0x03 (leBytes 2 unit ++ leBytes 1 src ++ leBytes 1 index ++ leBytes 4 detail)

/-! ### Counters with alarms (R123) -/

/-- `k` increments of counter `n`: the new counter set, and whether its alarm posts an event. An event on a counter that stands at
0xFFFF_FFFF already posts the alarm as well (DESIGN CHOICE, log 50: R123 posts at an increment and lets the counter saturate). -/
def NumCnt.count (c : NumCnt) (n k : Nat) : NumCnt × Bool :=
  if k = 0 then (c, false)
  else
    let c' := { c with cnt := modAt c.cnt n (fun v => satAdd 32 v k) }
    if c.en.getLsbD n && !c.fired.getLsbD n then ({ c' with fired := c.fired ||| (1#16 <<< n) }, true) else (c', false)

/-- Writing 1 to bit `n` of a CLR register sets the counter to 0 and clears its FIRED bit (R123). -/
def NumCnt.clear (c : NumCnt) (mask : Nat) : NumCnt :=
  { c with cnt := c.cnt.zipIdx.map (fun p => if bitOf mask p.2 then 0#32 else p.1)
           fired := c.fired &&& ~~~(BitVec.ofNat 16 mask) }

/-- A write of a NUMALM register: EN bits are set, FIRED bits written as 1 are cleared (R123). `w` counters. -/
def NumCnt.writeAlm (c : NumCnt) (w : Nat) (en fired : Nat) : NumCnt :=
  { c with en := BitVec.ofNat 16 (en % 2 ^ w), fired := c.fired &&& ~~~(BitVec.ofNat 16 fired) }

/-- Count events of counter `n` of R122 in tile `t`; an alarm posts a NOTICE of source 1 (R339). -/
def State.numCount (s : State) (t n k : Nat) : State :=
  let (c, ev) := (s.tile t).num.count n k
  let s' := s.modTile t (fun v => { v with num := c })
  if ev then s'.notice t 1 n 0 else s'

/-- Counts by counter number. -/
def State.numCounts (s : State) (t : Nat) (l : List (Nat × Nat)) : State :=
  l.foldl (fun s p => s.numCount t p.1 p.2) s

/-! ### Counter updates in flight (R60, R61) -/

def State.sendEvt (s : State) (c : Nat) (n : W32) (src : EvtSrc) : State :=
  { s with evts := s.evts ++ [⟨c, n, src⟩] }

end Sys2Proof.Machine
end

