-- ==== Sys2Proof/Machine/Operands.lean ====
section
/-! DEFINITION. The operand forms: immediates of control instructions (R47) and the fields of the common descriptor
header (R51). -/

namespace Sys2Proof.Machine

def between (lo v hi : Nat) : Bool := lo ≤ v && v ≤ hi

/-- imm18 and imm22 sign-extended to 64 bits (R47). -/
def imm18 (f : IFmt) : W64 := f.imm.signExtend 64
def imm22 (f : LFmt) : W64 := f.imm.signExtend 64

/-- The counter id of format C: (ra + imm16) mod 65,536 (R48). -/
def ctrId (x : Strand) (f : CFmt) : Nat := ((x.reg f.ra.toNat).toNat + f.imm.toNat) % 65536

/-- Fields of the common header (R51). -/
def dOp (d : W512) : Nat := dField d 0 2
def dFlags (d : W512) : Nat := dField d 2 1
def dDoneEn (d : W512) : Bool := bitOf (dFlags d) 0
def dWaitEn (d : W512) : Bool := bitOf (dFlags d) 1
def dFence (d : W512) : Bool := bitOf (dFlags d) 2
def dDoneCtr (d : W512) : Nat := dField d 4 2
def dWaitCtr (d : W512) : Nat := dField d 6 2
def dDoneInc (d : W512) : W32 := BitVec.ofNat 32 (dField d 8 4)
def dWaitThr (d : W512) : W32 := BitVec.ofNat 32 (dField d 12 4)
def dPatch (d : W512) : Nat := dField d 56 8

/-- The header that ISSUE accepts in tile `t` (R49, R51, R57, R58). -/
def headerOk (t : Nat) (d : W512) : Bool :=
  bitsOf (dFlags d) 3 5 == 0 && dField d 3 1 == 0 &&
  (!dWaitEn d || (dWaitCtr d / 64 == t && !deviceCtr (dWaitCtr d))) &&
  (!dDoneEn d || !deviceCtr (dDoneCtr d))

/-- A descriptor from its 64 bytes. -/
def descOf (l : List Byte) : W512 := BitVec.ofNat 512 (leVal l)

/-- The descriptor with its PATCH replaced (R53). -/
def withPatch (d : W512) (p : W64) : W512 := BitVec.ofNat 512 (bitsOf d.toNat 0 448 + p.toNat * 2 ^ 448)

end Sys2Proof.Machine
end

