-- ==== Sys2Proof/Machine/Couple.lean ====
section
/-! DEFINITION. What holds a tile and what holds the head of a queue (R32, R33, R39, R46, R54, R164, R205). -/

namespace Sys2Proof.Machine

/-! ### Holds (R39, R46) -/

/-- The physical column of logical tile `t` (R20, R67). -/
def State.physCol (s : State) (t : Nat) : Nat :=
  let f := (s.skip[t / 32]?).getD 32
  if t % 32 < f then t % 32 else t % 32 + 1

/-- The droop detector of a physical tile (R30). -/
def droopIdx (row col : Nat) : Nat := 4 * (row / 2) + min (col / 8) 3

/-- A source that holds one tile, by its bit in SCU_HOLD. -/
def State.holdBits (s : State) (t : Nat) : List Bool :=
  [ s.holds.droop.getLsbD (droopIdx (t / 32) (s.physCol t)),
    s.holds.ration,
    s.pins.halt,
    s.mode.fence || s.mode.fenced.getLsbD t,
    s.xl.phase != .idle,
    s.grids.any (fun g => g.stopping),
    s.holds.fatal ]

/-- Whether any source holds tile `t` (R39). -/
def State.held (s : State) (t : Nat) : Bool := (s.holdBits t).any id

/-- Whether a source holds the start of entry `e` of queue `q`: a mode fence holds no old-tag work (R443), and BOARD_HALT_N no work
handed to the edge units, a READY in queue 6 with what stands before it (R485). -/
def State.holdsStart (s : State) (t q : Nat) (e : QEntry) : Bool :=
  let l := s.holdBits t
  (l.zipIdx.any (fun p => p.1 && p.2 != 3 && !(p.2 == 2 && q == 6))) || ((l[3]?).getD false && e.mepoch == s.mode.mepoch)

/-! ### Heads of queues (R32, R33, R54) -/

/-- The running head of a queue (queues 0 to 5). -/
def Tile.running (v : Tile) (q : Nat) : Option QEntry :=
  match v.queue q with
  | e :: _ => if e.ph = .running then some e else none
  | [] => none

/-- What a descriptor of queue `q` draws from the arrays while it runs (R151, R167): a READ or QUERY a read's current, a press a press's
(true); SETCORR, FOLDARM, FOLDCLR and every other code nothing. -/
def arrayDraw (q op : Nat) : Option Bool :=
  if (q == 1 || q == 2) && (op == 0x10 || op == 0x12) then some false
  else if q == 3 && between 1 op 3 then some true else none

/-- What the running reads and presses of a tile reserve, in mW: for every read descriptor (READ or QUERY) the full-scale figure of R151 at
the present setpoint, from a table of the Flomo image's CAL section, for as long as it runs and whatever its data; for a press the figure
of R167. -/
def Tile.reserved (v : Tile) (cal : List Byte) (vset : Nat) : Nat :=
  (([1, 2].filter (fun q => (v.running q).any (fun e => (arrayDraw q (dOp e.d)).isSome))).map (fun _ => Config.reserve cal false vset)).sum +
    (if v.prs.running.isSome then Config.reserve cal true vset else 0)

/-- Rationing holds the start of a read, or of a press, that would exceed the power budget (R35, R414); with rationing off nothing
holds it. -/
def State.overBudget (s : State) (press : Bool) : Bool :=
  s.pwr.n < 64 &&
  1000 * Config.arrayBudget s.pwr.effw s.pwr.vset s.pwr.n <
    (s.tiles.map (fun x => x.2.reserved s.pwr.cal s.pwr.vset)).sum + Config.reserve s.pwr.cal press s.pwr.vset

/-- The power budget holds the start of entry `e` of queue `q`. -/
def State.budgetHolds (s : State) (q : Nat) (e : QEntry) : Bool := (arrayDraw q (dOp e.d)).any s.overBudget

/-- The words of a queue entry as its engine reads them (R259, R425): data, whether poisoned, syndrome. -/
def QEntry.words (e : QEntry) : List (W32 × Bool × BitVec 7) :=
  let m := (Mem.mk [] e.syn).put 0 (leBytes 64 e.d.toNat)
  (List.range 16).map (fun i => m.read32 (4 * i))

/-- An entry with its single-bit errors corrected. -/
def QEntry.read (e : QEntry) : QEntry :=
  if e.syn = [] then e else { e with d := BitVec.ofNat 512 (leVal (e.words.map (fun w => leBytes 4 w.1.toNat)).flatten) }

/-- The entry that would start next in a queue, with its index. In queues 0 to 5 that is the head; queue 6 forwards
descriptors that earlier ones may outlast (R55). -/
def Tile.next (v : Tile) (q : Nat) : Option (Nat × QEntry) :=
  if q = 6 then ((v.queue 6).zipIdx.find? (fun p => p.1.ph == .waiting)).map (fun p => (p.2, p.1.read))
  else match v.queue q with
    | e :: _ => if e.ph = .waiting then some (0, e.read) else none
    | [] => none

/-- WAIT_EN and FENCE of the entry hold nothing any more (R51, R54, R59); an update may have released it before (R61). -/
def Tile.waitsDone (v : Tile) (i : Nat) (e : QEntry) : Bool :=
  (!dWaitEn e.d || e.rel || reached (v.ctr (dWaitCtr e.d % 64)) (dWaitThr e.d)) && (!dFence e.d || i == 0)

/-! ### Updates of counters (R59–R61) -/

/-- A strand that waits on counter `i`, which is at value `c`, goes on. -/
def Strand.freedBy (x : Strand) (i : Nat) (c : W32) : Bool :=
  (x.st == .waiting || (x.st == .parked && x.prior == .waiting)) && x.waitC == i && reached c x.waitT

/-- A descriptor that waits on counter `i`, which is at value `c`, goes on. -/
def QEntry.freedBy (e : QEntry) (i : Nat) (c : W32) : Bool :=
  dWaitEn e.d && dWaitCtr e.d % 64 == i && reached c (dWaitThr e.d)

/-- Counter `i` takes a value, and every strand and queue head that waited for it is released by this one update (R61). -/
def Tile.putCtr (v : Tile) (i : Nat) (c : W32) : Tile :=
  let v := v.setCtr i c
  let v := v.scu.strands.foldl (fun (v : Tile) p => if p.2.freedBy i c then v.setStrand p.1 { p.2 with rel := true } else v) v
  (List.range 7).foldl (fun (v : Tile) q =>
    match v.next q with
    | some (n, e) => if e.freedBy i c then v.setQueue q ((v.queue q).set n { e with rel := true }) else v
    | none => v) v

/-- Add to a counter, modulo 2^32 (R59). -/
def State.addCtr (s : State) (c : Nat) (n : W32) : State :=
  s.modTile (c / 64) (fun v => v.putCtr (c % 64) (v.ctr (c % 64) + n))

/-- R33: a descriptor that targets the vat waits for the drains issued before it to have read their entries. -/
def vatFree (t : Nat) (s : State) (e : QEntry) : Bool :=
  ((s.tile t).queue 5).all (fun x => !(dOp x.d == 0x30 && x.seq < e.seq) || x.ph == .finished)

/-- A press holds the reads of its bank (R32). -/
def bankFree (t b : Nat) (s : State) (_e : QEntry) : Bool :=
  match (s.tile t).prs.running with
  | some r => r.bank != b
  | none => true

def pdBank (d : W512) : Nat := dField d 41 1
/-- A READ or QUERY of the bank is running (R165, R190). -/
def Tile.reading (v : Tile) (b : Nat) : Bool :=
  (v.queue (b + 1)).any (fun e => e.ph != .waiting && (dOp e.d == 0x10 || dOp e.d == 0x12))

/-- Folds of the tile that have not ended hold queue 3 (R205); one press at a time (R164). -/
def Tile.prsIdle (v : Tile) : Bool := v.prs.running.isNone && !(v.bank 0).fold.run && !(v.bank 1).fold.run

def pressFree (t : Nat) (s : State) (e : QEntry) : Bool :=
  let v := s.tile t
  v.prsIdle && (1 < pdBank e.d || !v.reading (pdBank e.d))

/-- A matrix descriptor that targets the vat: MMVAT and VATZERO. -/
def vatOp (op : Nat) : Bool := op == 0x22 || op == 0x23

/-- A drain waits for the matrix work on the vat issued before it. -/
def drainFree (t : Nat) (s : State) (e : QEntry) : Bool :=
  ((s.tile t).queue 0).all (fun x => !(vatOp (dOp x.d) && x.seq < e.seq))

end Sys2Proof.Machine
end

