-- ==== Sys2Proof/Machine/CsrRead.lean ====
section
/-! DEFINITION. What every CSR reads as: the blocks of R474 and R475, field by field, with the field maps of the chapters that define
them. Fields are placed by their low bit; bits with no field read 0 (R17). -/

namespace Sys2Proof.Machine

/-- A register from its fields: low bit and value. -/
def reg (l : List (Nat × Nat)) : W64 := BitVec.ofNat 64 ((l.map (fun p => p.2 * 2 ^ p.1)).sum)

/-- Element `n` of a family of registers at `base`, `count` of them at a stride of 8. -/
def idx8 (off base count : Nat) : Option Nat :=
  if base ≤ off ∧ off < base + 8 * count then some ((off - base) / 8) else none

def NumCnt.at (c : NumCnt) (n : Nat) : W64 := ((c.cnt[n]?).getD 0#32).setWidth 64

/-- A NUMALM register: EN from bit 0, FIRED from bit `f`. -/
def NumCnt.alm (c : NumCnt) (f : Nat) : W64 := reg [(0, c.en.toNat), (f, c.fired.toNat)]

/-- The word at `off` of a byte list. -/
def listWord (l : List Byte) (off : Nat) : W64 := BitVec.ofNat 64 (lField l off 8)

/-! ### Tile blocks (R474) -/

/-- Block TILE of a physical tile, TILE_ID apart: its last temperature and its droop detector are given. -/
def tileRegOf (v : Tile) (temp : Byte) (droop off : Nat) : W64 :=
  match off with
  | 0x100 => reg [(0, temp.toNat), (8, droop)]
  | 0x288 => v.num.alm 16
  | 0x300 => v.seed
  | 0x308 => reg [(0, v.mxSeq.toNat), (32, v.vcSeq.toNat)]
  | 0x480 => v.rindCnt.setWidth 64
  | 0x500 => reg [(0, b2n v.shadow.en), (8, v.shadow.mxLog), (16, v.shadow.arLog), (32, v.shadow.thr8.toNat), (48, v.shadow.thr4.toNat)]
  | 0x508 => reg [(0, v.shadow.sampled.toNat), (32, v.shadow.mismatch.toNat), (48, v.shadow.skipped.toNat)]
  | _ =>
    match idx8 off 0x200 10, idx8 off 0x400 7, idx8 off 0x440 7 with
    | some n, _, _ => v.num.at n
    | _, some q, _ => ((v.faults[q]?).getD FaultReg.none).addr
    | _, _, some q =>
      let f := (v.faults[q]?).getD FaultReg.none
      reg [(0, b2n f.pend), (4, f.reason), (8, f.access), (16, f.ctx), (32, f.seq.toNat)]
    | _, _, _ => 0#64

/-- TILE_ID of a mapped tile, and the rest of its block. -/
def tileReg (s : State) (t off : Nat) : W64 :=
  let row := t / 32
  let col := s.physCol t
  if off = 0 then reg [(0, t), (16, row), (24, col), (31, 1)]
  else tileRegOf (s.tile t) (BitVec.ofNat 8 (smGet 0 s.pwr.temps (row * 33 + col))) (droopIdx row col) off

/-- Strands in a state. -/
def Tile.inState (v : Tile) (st : StrandSt) : Nat := (v.scu.strands.filter (fun p => p.2.st == st)).length

/-- Descriptors in queue `q` (SCU_QOCC): those that queue 6 has forwarded are at their edge units. -/
def Tile.occ (v : Tile) (q : Nat) : Nat :=
  if q = 6 then ((v.queue 6).filter (fun e => e.ph == .waiting)).length else (v.queue q).length

/-- HELDq: the head is held by WAIT_EN, FENCE, R32, R33 or a pending fault. -/
def State.headHeld (s : State) (t q : Nat) : Bool :=
  let v := s.tile t
  ((v.faults[q]?).getD FaultReg.none).pend ||
  (match v.next q with
   | none => false
   | some (i, e) =>
     !v.waitsDone i e ||
     (match q with
      | 0 => vatOp (dOp e.d) && !vatFree t s e
      | 1 => (dOp e.d == 0x10 || dOp e.d == 0x12) && !bankFree t 0 s e
      | 2 => (dOp e.d == 0x10 || dOp e.d == 0x12) && !bankFree t 1 s e
      | 3 => between 1 (dOp e.d) 3 && pdBank e.d ≤ 1 && v.reading (pdBank e.d)
      | 5 => dOp e.d == 0x30 && !drainFree t s e
      | _ => false))

/-- Grids with a strand on the tile that is not FREE. -/
def Tile.gridBits (v : Tile) : Nat :=
  ((List.range 16).map (fun g => if v.scu.strands.any (fun p => p.2.grid == g && p.2.st != .free) then 2 ^ g else 0)).sum

def scuReg (s : State) (t off : Nat) : W64 :=
  let v := s.tile t
  let n (st : StrandSt) : Nat := v.inState st
  match off with
  | 0x00 => reg [(0, 2048 - (n .ready + n .stalled + n .waiting + n .parked + n .done)), (16, n .ready), (32, n .stalled), (48, n .waiting)]
  | 0x08 => reg [(0, n .parked), (16, n .done)]
  | 0x10 => reg ((List.range 7).map (fun q => (8 * q, v.occ q + 128 * b2n (s.headHeld t q))))
  | 0x18 => reg ((s.holdBits t).zipIdx.map (fun p => (p.2, b2n p.1)) ++ [(16, s.mode.mepoch.toNat)])
  | 0x20 => reg [(0, v.gridBits)]
  | 0x28 => v.scu.issued
  | _ => 0#64

def arrReg (s : State) (t off : Nat) : W64 :=
  let v := s.tile t
  let press (b : Nat) : Bool := match v.prs.running with | some r => r.bank == b | none => false
  let read (b : Nat) : Bool := match v.running (b + 1) with | some e => dOp e.d == 0x10 || dOp e.d == 0x12 | none => false
  let stat (b : Nat) : Nat := (v.bank b).fmt + 4 * b2n (press b) + 8 * b2n (read b) + 16 * b2n (v.bank b).idx
  match off with
  | 0x00 => reg [(0, stat 0), (8, stat 1)]
  | 0x80 => s.lim.driftLim.setWidth 64
  | 0x88 => reg [(0, (v.bank 0).hit.toNat), (4, (v.bank 1).hit.toNat), (8, (v.bank 0).range.toNat), (12, (v.bank 1).range.toNat)]
  | 0x90 => reg [(0, v.arr.adcRange.toNat), (32, v.arr.adcSat.toNat)]
  | 0xA0 => (v.bank 0).reads
  | 0xA8 => (v.bank 1).reads
  | 0x100 => reg [(0, (v.bank 0).corr.rank), (8, (v.bank 0).fgen.toNat)]
  | 0x108 => reg [(0, (v.bank 1).corr.rank), (8, (v.bank 1).fgen.toNat)]
  | 0x138 => v.arr.spill.alm 8
  | 0x180 => reg [(0, v.arr.scored.toNat), (32, v.arr.excl.toNat)]
  | _ =>
    match idx8 off 0x40 8, idx8 off 0x110 4 with
    | some n, _ =>
      let tr := ((v.bank (n / 4)).trims[n % 4]?).getD Trim.reset
      reg [(0, tr.gainB.toNat), (16, tr.gainM.toNat), (32, tr.ofsB.toNat), (40, tr.ofsM.toNat)]
    | _, some n => v.arr.spill.at n
    | _, _ => 0#64

/-- The 16 bytes of a block entry (R177). -/
def Block.bytes (k : Block) : List Byte :=
  let row (r : Option Nat) : Nat := match r with | some n => n % 64 + 64 | .none => 0
  leBytes 8 (k.cycles.toNat + k.fails.toNat * 2 ^ 40 + row k.sprow0 * 2 ^ 48 + row k.sprow1 * 2 ^ 55 +
    b2n k.suspect * 2 ^ 62 + b2n k.retired * 2 ^ 63) ++
  leBytes 2 k.itermean.toNat ++ leBytes 1 k.itermax.toNat ++ leBytes 1 k.topup.toNat ++ leBytes 4 0

/-- The word at `off` of a tile's ledger (R178). -/
def ledgerWord (l : Ledger) (row col off : Nat) : W64 :=
  if off = 0 then reg [(0, 1), (16, row), (24, col), (32, l.allow.toNat)]
  else if off = 8 then (l.presses[0]?).getD 0#64
  else if off = 16 then (l.presses[1]?).getD 0#64
  else if 64 ≤ off ∧ off < 2112 then listWord (smGet Block.none l.blocks ((off - 64) / 16)).bytes ((off - 64) % 16)
  else if 2112 ≤ off ∧ off < 2496 then
    reg ((List.range 4).map (fun i => (16 * i, (smGet 0#16 l.cols ((off - 2112) / 2 + i)).toNat)))
  else 0#64

/-- The 2,560 bytes of a tile's ledger (R178). -/
def Ledger.bytes (l : Ledger) (row col : Nat) : List Byte :=
  ((List.range 320).map (fun i => leBytes 8 (ledgerWord l row col (8 * i)).toNat)).flatten

/-- The retired blocks of a bank (PRS_RETMAP_b). -/
def Prs.retired (p : Prs) (b : Nat) : Nat :=
  ((List.range 64).map (fun i => if (smGet Block.none p.ledger.blocks (64 * b + i)).retired then 2 ^ i else 0)).sum

def foldReg (f : Fold) : W64 :=
  reg [(0, b2n f.armed), (1, b2n f.run), (2, f.slot), (3, b2n f.fail), (4, b2n f.due), (16, f.k.toNat), (32, f.phase.toNat)]

def prsReg (s : State) (t off : Nat) : W64 :=
  let v := s.tile t
  let p := v.prs
  match off with
  | 0x00 =>
    let run := match p.running with | some r => [(0, 1), (1, r.bank), (2, r.op), (5, b2n r.escal)] | none => []
    reg (run ++ [(8, b2n (v.bank 0).refreq), (9, b2n (v.bank 1).refreq)])
  | 0x80 => (v.bank 0).presses
  | 0x88 => (v.bank 1).presses
  | 0x90 => reg [(0, p.failed.toNat), (32, p.remaps.toNat), (48, p.retires.toNat), (56, p.zeropress.toNat)]
  | 0xA0 => s.lim.wearLim.setWidth 64
  | 0xA8 => reg [(0, p.retired 0)]
  | 0xB0 => reg [(0, p.retired 1)]
  | 0xC0 => foldReg (v.bank 0).fold
  | 0xC8 => foldReg (v.bank 1).fold
  | _ =>
    match idx8 off 0x40 8 with
    | some n => listWord (v.bank (n / 4)).digest (8 * (n % 4))
    | none => if p.loaded ∧ 0x1000 ≤ off ∧ off < 0x1A00 then ledgerWord p.ledger (t / 32) (s.physCol t) (off - 0x1000) else 0#64

def mxeReg (s : State) (t off : Nat) : W64 :=
  let v := s.tile t
  match off with
  | 0x00 =>
    let comp := (v.bank 0).run.pend.any (·.work) || (v.bank 1).run.pend.any (·.work)
    let wait := match v.next 0 with | some (_, e) => vatOp (dOp e.d) && !vatFree t s e | none => false
    let drain := match v.running 5 with | some e => dOp e.d == 0x30 | none => false
    reg [(0, b2n (v.running 0).isSome), (1, b2n comp), (2, b2n wait), (3, b2n drain), (8, v.occ 0)]
  | 0x10 => v.mxe.issues
  | 0x18 => v.mxe.compiss
  | 0x20 => v.mxe.portwait
  | 0x28 => v.mxe.vatadds
  | 0x30 => v.mxe.vatpoison.setWidth 64
  | _ => 0#64

def halmReg (h : Halm) : W64 :=
  reg [(0, h.hibin.toNat), (8, h.lobin.toNat), (16, h.hifrac.toNat), (32, h.lofrac.toNat), (48, h.en.toNat)]

def vecReg (s : State) (t off : Nat) : W64 :=
  let v := s.tile t
  match off with
  | 0x00 =>
    let q (i : Nat) : Nat := ((v.vec.fbq[i]?).getD []).length
    let fold (b : Nat) : Bool := (v.bank b).fold.run && (v.bank b).fold.stage == .idle
    reg [(0, b2n (v.running 4).isSome), (1, b2n (fold 0 || fold 1)), (8, v.occ 4), (16, q 0), (24, q 1), (32, q 2)]
  | 0x10 => v.vec.portwait
  | 0x180 => v.vec.halmFired.setWidth 64
  | _ =>
    match idx8 off 0x100 16, idx8 off 0x1000 512 with
    | some n, _ => halmReg (smGet Halm.reset v.vec.halm n)
    | _, some n => reg [(0, (smGet 0#32 v.vec.hist (2 * n)).toNat), (32, (smGet 0#32 v.vec.hist (2 * n + 1)).toNat)]
    | _, _ => 0#64

def dmaReg (s : State) (t off : Nat) : W64 :=
  let v := s.tile t
  match off with
  | 0x00 =>
    let x := match v.running 5 with | some e => dOp e.d == 0x32 | none => false
    reg [(0, b2n (v.running 5).isSome), (1, b2n x), (8, v.occ 5)]
  | 0x10 => v.dma.bytes
  | 0x18 => v.dma.xlhit
  | 0x20 => v.dma.xlmiss
  | _ => 0#64

def tileBlock (s : State) (t o : Nat) : W64 :=
  match o / 0x10000 with
  | 0x70 => tileReg s t (o % 0x10000)
  | 0x71 => scuReg s t (o % 0x10000)
  | 0x72 => arrReg s t (o % 0x10000)
  | 0x73 => prsReg s t (o % 0x10000)
  | 0x74 => mxeReg s t (o % 0x10000)
  | 0x75 => vecReg s t (o % 0x10000)
  | 0x76 => dmaReg s t (o % 0x10000)
  | _ => 0#64

/-! ### Edge-unit blocks (R475) -/

/-- Whether a posted write waits: 0 translation, 1 power, 2 management, 3 eft, 4 + n update of stack n (R461). -/
def State.busyBit (s : State) (d : Nat) : Nat := b2n (smGet none s.posted d).isSome

/-- SAVED of a context; while its save is still being written it is not yet saved (R280). -/
def State.savedBit (s : State) (c : Nat) : Bool :=
  (smGet none s.xl.saved c).isSome && !(s.xl.phase == .writing && s.xl.cur == c)

def memReg0 (s : State) (off : Nat) : W64 :=
  match off with
  | 0x1080 => s.xl.inv
  | 0x1180 =>
    reg ([(0, s.xl.ctx), (4, s.xl.op), (8, s.xl.state)] ++ (match s.xl.runCtx with | some c => [(16, c), (20, 1)] | none => []))
  | _ =>
    match idx8 off 0x1000 16, idx8 off 0x1100 16 with
    | some n, _ => (s.xl.roots[n]?).getD 0#64
    | _, some n => ((s.xl.savebase[n]?).getD 0#64) ||| reg [(0, b2n (s.savedBit n))]
    | _, _ => 0#64

def memBlock (s : State) (n off : Nat) : W64 :=
  let k := (s.stackRegs[n]?).getD Stack.reset
  match off with
  | 0x00 => reg [(0, b2n k.ready), (1, if n = 0 then s.busyBit 0 else 0), (8, k.temp.toNat)]
  | 0x08 => reg [(0, k.corr.toNat), (24, k.uncorr.toNat), (40, k.ecs.toNat)]
  | 0x10 => reg [(0, k.mismatch.toNat), (32, k.partialBlk.toNat)]
  | _ => if n = 0 then memReg0 s off else 0#64

/-- Running descriptors of edge unit `edge`. -/
def State.atEdge (s : State) (edge : Nat) : Nat :=
  (s.tiles.map (fun p => ((p.2.queue 6).filter (fun e => e.ph == .running && dField e.d 16 2 == edge)).length)).sum

def updBlock (s : State) (n off : Nat) : W64 :=
  let u := (s.upd[n]?).getD Upd.reset
  match off with
  | 0x00 => reg [(0, b2n (0 < s.atEdge 0x100)), (1, s.busyBit (4 + n)), (8, s.atEdge 0x100)]
  | 0x10 => u.elems
  | 0x18 => u.remote
  | 0x288 => u.num.alm 16
  | 0x300 => u.seed
  | _ =>
    match idx8 off 0x200 3, idx8 off 0x400 32 with
    | some i, _ => u.num.at i
    | _, some c => ((u.seqs[c]?).getD 0#24).setWidth 64
    | _, _ => 0#64

def sqRead (r : SqRing) : W64 :=
  reg [(0, b2n r.en), (4, r.ctx), (8, r.log2n), (48, r.head.toNat)] ||| (r.base &&& 0xFFFFFFFFF000#64)

def eqRead (r : EqRing) : W64 :=
  reg [(0, b2n r.en), (1, b2n r.arm), (2, r.vec), (8, r.log2n), (48, r.tail.toNat)] ||| (r.base &&& 0xFFFFFFFFF000#64)

/-- The registers of port 18 only: identity, host configuration, rings, routes. -/
def lnkHost (s : State) (off : Nat) : W64 :=
  match off with
  | 0x100 => reg [(0, s.devId), (12, b2n s.lnk.idV)]
  | 0x108 => reg [(0, s.devRing), (8, s.host.aper)]
  | _ =>
    if 0x1000 ≤ off ∧ off < 0x1100 then
      if off % 16 = 0 then match s.sq[(off - 0x1000) / 16]? with | some r => sqRead r | none => 0#64 else 0#64
    else if 0x1200 ≤ off ∧ off < 0x1300 then
      match s.eq[(off - 0x1200) / 16]? with
      | some r => if off % 16 = 0 then eqRead r else reg [(0, r.head.toNat), (16, r.lost.toNat)]
      | none => 0#64
    else
      match idx8 off 0x4000 1024 with
      | some n => reg ((List.range 4).map (fun k => (16 * k, (smGet 0#16 s.lnk.route (4 * n + k)).toNat)))
      | none => 0#64

def lnkBlock (s : State) (p off : Nat) : W64 :=
  let x := (s.lnk.ports[p]?).getD (Port.reset false)
  match off with
  | 0x00 => reg [(0, x.st), (3, b2n x.x4), (4, b2n x.half), (8, x.laneOk.toNat), (16, x.peerDev), (28, x.peerPort)]
  | 0x08 => reg [(0, b2n x.en), (1, b2n x.x4ok), (8, x.bond), (16, x.txpreset.toNat)]
  | 0x10 => reg [(0, x.corr.toNat), (32, x.uncorr.toNat)]
  | 0x18 => reg [(0, x.replay.toNat), (32, x.retrain.toNat), (48, x.down.toNat)]
  | 0x20 => reg [(0, x.naksent.toNat), (16, x.nakrcvd.toNat), (32, x.timeout.toNat), (48, x.discard.toNat)]
  | 0x288 => x.num.alm 16
  | 0x300 => x.seed
  | 0x308 => x.seq.setWidth 64
  | _ =>
    match idx8 off 0x200 7 with
    | some n => x.num.at n
    | none => if p = 18 then lnkHost s off else 0#64

/-- The dispatch engine of a port has a request outstanding for a descriptor. -/
def State.dspBusy (s : State) (p : Nat) : Bool :=
  s.remotes.any (fun r => r.port == some p && r.queue == 6 &&
    ((s.tile r.tile).queue 6).any (fun e => e.seq == r.seq && dField e.d 16 2 == 0x300))

/-- A DISPATCH runs (DSP_STAT.PLAN). -/
def State.planRuns (s : State) : Bool :=
  s.tiles.any (fun p => (p.2.queue 6).any (fun e => e.ph == .running && dField e.d 16 2 == 0x300 && dOp e.d == 0x80))

def dspBlock (s : State) (p off : Nat) : W64 :=
  let d := s.dsp
  if off = 0 then
    reg ((0, b2n (s.dspBusy p)) :: (if p = 0 then [(1, b2n s.planRuns), (2, d.colls.length)] else []))
  else if p = 0 then
    match off with
    | 0x128 => d.tok.alm 8
    | 0x300 => d.seed
    | 0x308 => reg [(0, d.collDone.toNat), (32, d.collFailed.toNat), (48, min (d.stagedGroups / 65536) 65535)]
    | _ =>
      match idx8 off 0x100 3, idx8 off 0x200 7 with
      | some n, _ => d.tok.at n
      | _, some n => d.num.at n
      | _, _ => 0#64
  else 0#64

/-- CLU_STAT.STATE. -/
def State.cluState (s : State) : Nat :=
  let c := s.clu
  if c.held then 5 else if c.roll.isSome || c.rollDue.isSome then 4 else if c.ackDue then 3 else if c.sent then 2
  else if s.xl.runCtx.isSome then 1 else 0

def cluBlock (s : State) (off : Nat) : W64 :=
  let c := s.clu
  match off with
  | 0x00 => reg [(0, c.role), (2, b2n c.mgrOnly), (16, c.mgrId), (32, c.sbyId), (44, b2n c.sbyV), (48, c.nmem)]
  | 0x08 => s.epoch
  | 0x10 => c.ckpt
  | 0x18 => reg [(0, s.cluState), (3, b2n c.ckv), (4, b2n c.drain.isSome), (5, c.slot), (8, c.planGen)]
  | 0x20 => reg [(0, c.period.toNat), (16, c.miss)]
  | 0x28 => reg [(0, c.mins.toNat), (16, c.maxs.toNat), (32, c.snapEvery.toNat), (40, c.m0.toNat)]
  | 0x30 => reg [(0, c.nsteps.toNat), (32, c.tsec.toNat)]
  | 0x38 => reg [(0, c.holdSteps.toNat), (32, c.holdMs.toNat)]
  | 0x40 => reg [(0, c.commits.toNat), (32, c.rolls.toNat), (48, c.substs.toNat), (56, c.ckfail.toNat)]
  | _ => 0#64

/-- MP_IDXSTAT.RUNNING: refreshes of the MP that have not ended. -/
def State.mpRunning (s : State) : Nat :=
  (s.tiles.map (fun p => ((p.2.queue 3).filter (fun e => e.org == .mp)).length)).sum

/-- A fence is open, or the bitmap is partly set: the module may be mixed (R443). -/
def ModeSt.mixed (m : ModeSt) : Bool := m.fence || (m.ack != 0#1024 && m.ack != BitVec.allOnes 1024)

/-- The tiles of a bitmap. -/
def bitCount (b : BitVec 1024) : Nat := ((List.range 1024).filter (fun i => b.getLsbD i)).length

def mpBlock (s : State) (off : Nat) : W64 :=
  let m := s.mp
  match off with
  | 0x00 => reg [(0, 0x1024), (16, 0x42), (24, 0x30), (32, 1)]
  | 0x08 => reg [(0, s.busyBit 2), (1, m.state), (4, m.step), (8, m.imgErr), (12, m.imgWhich), (16, m.badTiles.length)]
  | 0x600 => reg [(0, m.interval)]
  | 0x700 => reg [(0, b2n s.mode.use), (4, s.mode.period.toNat), (24, s.mode.maxref)]
  | 0x708 => reg [(0, s.mpRunning), (16, m.failed.toNat), (32, m.done.toNat)]
  | 0x800 => reg [(0, s.mode.mepoch.toNat), (16, b2n s.mode.mixed), (20, bitCount s.mode.fenced)]
  | 0x900 => reg [(1, m.xState), (16, m.xFaulty), (27, m.xSuspect)]
  | 0x908 => m.xSeed
  | 0xA00 => reg [(0, m.diagRow), (8, m.diagCol), (16, m.diagOfs), (32, b2n m.diagValid)]
  | 0xA08 => m.diagData
  | _ =>
    match idx8 off 0x400 32, idx8 off 0x840 16 with
    | some n, _ => reg [(0, (s.skip[n]?).getD 32)]
    | _, some n => BitVec.ofNat 64 (s.mode.ack.toNat / 2 ^ (64 * n))
    | _, _ => 0#64

/-- The setpoint target (R421): the lowest that ranks 3 to 6 ask for, 0.80 V when none asks; never outside 0.55–0.80 V (R411). -/
def Pwr.target (p : Pwr) : Nat :=
  let asks := [p.thrV, p.capV, if p.paceEn then p.paceV else none, if p.learnEn then p.learnV else none].filterMap id
  max 550 (asks.foldl min 800)

/-- The governor sets the target (PACEON). -/
def Pwr.paceOn (p : Pwr) : Bool := p.paceEn && p.paceV == some p.target

/-- The setpoint moves toward its target. -/
def State.slewing (s : State) : Bool := s.rails.core && s.pwr.vset != s.pwr.target && !s.pwr.slewHold

def pwrBlock (s : State) (off : Nat) : W64 :=
  let p := s.pwr
  match off with
  | 0x00 => reg [(0, s.busyBit 1), (1, b2n (p.n < 64)), (2, b2n s.slewing), (3, b2n p.slewHold), (4, b2n (p.vset == 550)),
      (5, b2n p.throttle), (6, b2n p.paceOn), (8, p.n), (16, p.vset)]
  | 0x08 => reg [(0, p.capw), (16, p.capmax)]
  | 0x10 => reg [(0, p.effw), (16, p.reach)]
  | 0x18 => reg [(0, b2n p.paceEn), (16, p.paceTgt), (32, p.achieved)]
  | 0x20 => reg [(0, b2n p.learnEn), (8, p.lead), (16, p.profile.length)]
  | 0x28 => reg [(0, p.thresh), (8, p.hyst)]
  | 0x30 => s.holds.droop
  | 0x38 => reg [(0, p.events.toNat), (32, p.gatedUs.toNat)]
  | 0x40 => reg [(0, p.vin), (16, p.iin), (32, p.pin), (48, p.pavg)]
  | 0x48 => reg [(0, p.tmax), (8, p.ttile)]
  | 0x50 => p.flags.setWidth 64
  | _ => 0#64

def secBlock (s : State) (off : Nat) : W64 :=
  let c := s.sec
  match off with
  | 0x00 => reg [(0, b2n c.gecko), (1, b2n c.jtagOpen), (2, b2n c.noI3c), (3, b2n c.noHost)]
  | 0x08 => reg [(0, c.floor), (8, c.fwSvn), (16, c.flSvn), (24, b2n c.idFail)]
  | _ => 0#64

def logBlock (s : State) (off : Nat) : W64 :=
  let u := s.err
  match off with
  | 0x00 => reg ([(0, u.nextSeq.toNat), (32, u.waiting.length + b2n u.inHand.isSome), (44, b2n u.lostEsc)] ++
      (match u.inHand with | some r => [(41, 1), (42, r.cls)] | none => []))
  | 0x08 => reg (u.lost.zipIdx.map (fun p => (16 * p.2, p.1.toNat)))
  | _ =>
    if 0x8000 ≤ off ∧ off < 0x18000 then listWord (smGet [] u.ring ((off - 0x8000) / 64)) ((off - 0x8000) % 64) else 0#64

def eftBlock (s : State) (off : Nat) : W64 :=
  let e := s.eft
  match off with
  | 0x00 => s.time
  | 0x08 => reg [(0, s.busyBit 3), (1, e.pstate), (4, e.trip), (7, b2n e.lockout), (8, b2n e.rstLow), (9, b2n e.mpDead)]
  | 0x10 => reg [(0, b2n e.wakeEn)]
  | _ => 0#64

/-- Blocks by their number in the edge range; the LOG block takes two. -/
def edgeBlock (s : State) (k off : Nat) : W64 :=
  if k < 0x08 then memBlock s k off
  else if k < 0x10 then updBlock s (k - 0x08) off
  else if k < 0x23 then lnkBlock s (k - 0x10) off
  else if 0x28 ≤ k ∧ k < 0x3A then dspBlock s (k - 0x28) off
  else match k with
    | 0x40 => cluBlock s off
    | 0x48 => mpBlock s off
    | 0x49 => pwrBlock s off
    | 0x4A => secBlock s off
    | 0x4B => logBlock s off
    | 0x4C => logBlock s (0x10000 + off)
    | 0x4D => eftBlock s off
    | _ => 0#64

/-- The value of the register at the 8-byte aligned local address `a` (R469). -/
def csrRead (s : State) (a : Nat) : W64 :=
  if 0x10000000000 ≤ a ∧ a < 0x10200000000 then
    tileBlock s ((a - 0x10000000000) / 0x800000) ((a - 0x10000000000) % 0x800000)
  else if 0x20000000000 ≤ a ∧ a < 0x20001000000 then
    edgeBlock s ((a - 0x20000000000) / 0x10000) ((a - 0x20000000000) % 0x10000)
  else 0#64

/-- An access of the EFT block that the MP does not forward (R476): a read returns all ones, a write has no effect, and neither is logged. -/
def State.eftDark (s : State) (a : Nat) : Bool := 0x200004D0000 ≤ a && a < 0x200004E0000 && !s.mpRuns

/-- The value of a register as its reader gets it. -/
def State.csrValue (s : State) (a : Nat) : W64 := if s.eftDark a then BitVec.allOnes 64 else csrRead s a

end Sys2Proof.Machine
end

