-- ==== Sys2Proof/Machine/Route.lean ====
section
/-! DEFINITION. Ports, bonds and routes: how a packet leaves the device (R317–R327). -/

namespace Sys2Proof.Machine

def State.port (s : State) (p : Nat) : Port := (s.lnk.ports[p]?).getD (Port.reset false)

def State.modPort (s : State) (p : Nat) (f : Port → Port) : State :=
  { s with lnk := { s.lnk with ports := modAt s.lnk.ports p f } }

/-- The CSR block numbers of edge units, which serve as the edge unit's index of R325 (R475). -/
def unitPort (p : Nat) : Nat := 1024 + 0x10 + p
def unitDsp (p : Nat) : Nat := 1024 + 0x28 + p
def unitClu : Nat := 1024 + 0x40

/-- The channel of an opcode (R318, R344, R366): 0 command, 1 data, 2 management, 3 event. -/
def chanOf (opc : Nat) : Nat :=
  if opc = 0x01 ∨ opc = 0x03 ∨ opc = 0x10 ∨ opc = 0x12 then 1
  else if (0x30 ≤ opc ∧ opc ≤ 0x3F) ∨ opc = 0x40 then 2
  else if opc = 0x06 ∨ opc = 0x07 ∨ opc = 0x14 ∨ opc = 0x41 then 3
  else 0

/-- Opcodes that are answers, clutch messages or arms: no NAK answers them. -/
def unanswered (opc : Nat) : Bool :=
  [0x03, 0x04, 0x05, 0x07, 0x11, 0x13, 0x14, 0x40, 0x41].contains opc || (0x30 ≤ opc && opc ≤ 0x3F)

/-- Where the route table sends a packet (R326): this device (LOCAL), a bond, or nowhere. -/
inductive Hop where
  | loc
  | bond (b : Nat)
  | unreach
deriving DecidableEq, Repr

def State.routeEntry (s : State) (dev : Nat) : W16 := smGet 0#16 s.lnk.route dev

/-- The entry of a device id, this device's own among them. -/
def State.hopOf (s : State) (dev : Nat) : Hop :=
  let e := s.routeEntry dev
  if !e.getLsbD 15 then .unreach
  else if e.toNat % 32 = 30 then .loc
  else .bond (e.toNat % 32)

/-- The link chosen for a packet, as it keeps it: a bond, 30 for this device, 31 for none. -/
def Hop.code : Hop → Nat
  | .loc => 30
  | .bond b => b
  | .unreach => 31

/-- The link that was chosen for a packet when it reached the device (R326). -/
def Packet.hop (k : Packet) : Hop := if k.via = 30 then .loc else if 31 ≤ k.via then .unreach else .bond k.via

/-- A packet of this device with no data. -/
def State.mkPacket (s : State) (opc dst ctx tag addr value unit : Nat) : Packet :=
  { opc := opc, src := s.devId, dst := dst, hops := 0, ctx := ctx, tag := tag, addr := addr, value := value
    unit := unit, rind := none, words := [], via := 31, fmt := 0, info := 0, bad := false, syn := [] }

/-- A packet as the unit that takes it reads it (R259, R425): words with one bit in error corrected, uncorrectable ones marked. -/
def Packet.inFlight (k : Packet) : Packet :=
  let fix (x : (W32 × Bool) × Nat) : W32 × Bool :=
    match eccRead (smGet 0#7 k.syn x.2) with
    | .dataBit i => (x.1.1 ^^^ (1#32 <<< i), x.1.2)
    | .poison => (x.1.1, true)
    | .bad => (x.1.1, true)
    | _ => x.1
  { k with words := k.words.zipIdx.map fix, syn := [] }

/-- What the reading of a packet's words by a unit logs (R259, R425). -/
def State.readPacket (s : State) (unit : Nat) (k : Packet) : State :=
  k.syn.foldl (fun (s : State) (y : Nat × BitVec 7) =>
    let r (cls cause : Nat) : Rec :=
      { mkRec cls cause unit with ctx := some k.ctx, info0 := y.2.setWidth 64 }
    match eccRead y.2 with
    | .clean => s
    | .poison => s
    | .bad => s.detect (r clsDeferred cEccUncorr)
    | _ => s.detect (r clsCorrected cEccCorr)) s

def State.toMesh (s : State) (k : Packet) : State :=
  { s with lnk := { s.lnk with mesh := s.lnk.mesh ++ [{ k with via := 30 }] } }

/-- Send a packet: it takes the bond of its route entry, or goes over the mesh to this device; with no valid entry a request
is answered with UNREACH (R324, R326). -/
def State.send (s : State) (k : Packet) : State :=
  match s.hopOf k.dst with
  | .loc => s.toMesh k
  | .bond b => { s with out := s.out ++ [{ k with via := b }] }
  | .unreach =>
    if unanswered k.opc then s
    else s.toMesh { s.mkPacket 0x05 s.devId 0 k.tag 0 0 k.unit with info := 16 }

/-- The members of a bond that carry streams: UP or retraining, in port order (R325, R332); BOND 31 is no bond. -/
def State.members (s : State) (b : Nat) : List Nat :=
  if b = 31 then []
  else (List.range 18).filter (fun p => let x := s.port p; x.bond == b && !x.apart && (x.st == 5 || x.st == 6))

/-- The port of a packet's stream (R325). -/
def State.portOf (s : State) (k : Packet) : Option Nat :=
  let ms := s.members k.via
  if ms.isEmpty then none else ms[(k.unit + chanOf k.opc) % ms.length]?

end Sys2Proof.Machine
end

