-- ==== Sys2Proof/Machine/Bus.lean ====
section
/-! DEFINITION. The address map, translation, and the accesses of engines to memory, scratchpads, vats, CSRs, the host and
other devices (chapter 10, R259–R270, R328). -/

namespace Sys2Proof.Machine

/-! ### The local address map (R254, R255) -/

/-- What a local address names. -/
inductive Loc where
  | dram (a : Nat)
  | spad (t o : Nat)
  | vat (t o : Nat)
  | resv (t o : Nat)
  | csr (a : Nat)
  | host (a : Nat)
  | unassigned
deriving DecidableEq, Repr

def Loc.isHost : Loc → Bool
  | .host _ => true
  | _ => false

def dramTop : Nat := 0x9FD8000000
def tileBase : Nat := 0x10000000000
def selfBase : Nat := 0x10200000000
def edgeBase : Nat := 0x20000000000
def hostBase : Nat := 0x800000000000

/-- Window offset `o` of tile `t` (R255). -/
def windowLoc (t o : Nat) : Loc :=
  if o < 0x300000 then .spad t o
  else if o < 0x400000 then .resv t o
  else if o < 0x600000 then .vat t (o - 0x400000)
  else if o < 0x700000 then .resv t o
  else .csr (tileBase + t * 0x800000 + o)

/-- The local address map (R254). -/
def locOf (a : Nat) : Loc :=
  if a < dramTop then .dram a
  else if tileBase ≤ a ∧ a < selfBase then windowLoc ((a - tileBase) / 0x800000) ((a - tileBase) % 0x800000)
  else if edgeBase ≤ a ∧ a < edgeBase + 0x1000000 then .csr a
  else if hostBase ≤ a ∧ a < 2 ^ 48 then .host (a - hostBase)
  else .unassigned

/-- The local address of a place. -/
def Loc.addr : Loc → Nat
  | .dram a => a
  | .spad t o => tileBase + t * 0x800000 + o
  | .vat t o => tileBase + t * 0x800000 + 0x400000 + o
  | .resv t o => tileBase + t * 0x800000 + o
  | .csr a => a
  | .host a => hostBase + a
  | .unassigned => 0

/-- The stack of a DRAM address (R257). -/
def stackOf (a : Nat) : Nat := a / 0x1400000000

/-! ### Reads and writes of words, untranslated -/

def State.modStack (s : State) (n : Nat) (f : Stack → Stack) : State := { s with stackRegs := modAt s.stackRegs n f }

/-- The records and counts of a read that found syndrome `y` (R425, R259, R226). -/
def State.eccEvent (s : State) (loc : Loc) (y : BitVec 7) (ctx : Option Nat) : State :=
  let unit := match loc with | .dram a => uStack (stackOf a) | .spad t _ => t | .vat t _ => t | _ => uMgmt
  let r (c n : Nat) : Rec :=
    { mkRec c n unit with addr := BitVec.ofNat 64 loc.addr, info0 := y.setWidth 64, ctx := ctx }
  match eccRead y with
  | .clean => s
  | .poison => s
  | .bad =>
    let s := match loc with
      | .dram a => s.modStack (stackOf a) (fun k => { k with uncorr := satAdd 16 k.uncorr 1 })
      | .vat t _ => s.modTile t (fun v => { v with mxe := { v.mxe with vatpoison := satAdd 32 v.mxe.vatpoison 1 } })
      | _ => s
    s.detect (r clsDeferred cEccUncorr)
  | _ =>
    let s := match loc with
      | .dram a => s.modStack (stackOf a) (fun k => { k with corr := satAdd 24 k.corr 1 })
      | _ => s
    s.detect (r clsCorrected cEccCorr)

/-- The memory of a place, where it has one: the memory and the offset in it. -/
def State.memOf (s : State) : Loc → Option (Mem × Nat)
  | .dram a => some (s.dram, a)
  | .spad t o => some ((s.tile t).spad, o)
  | .vat t o => some ((s.tile t).vat, o)
  | .host a => some (s.hostMem, a)
  | _ => none

def State.setMem (s : State) (loc : Loc) (m : Mem) : State :=
  match loc with
  | .dram _ => { s with dram := m }
  | .spad t _ => s.modTile t (fun v => { v with spad := m })
  | .vat t _ => s.modTile t (fun v => { v with vat := m })
  | .host _ => { s with hostMem := m }
  | _ => s

/-- A command to stack `n` (R258): where it meets a command or address parity error it is retried once, and where the retry meets one too
the error is logged as class contained, under a cause that no rule gives (a free value, log 63). -/
def State.stackCmd (s : State) (n : Nat) (ctx : Option Nat) : State :=
  match ((s.stackRegs[n]?).getD Stack.reset).parity with
  | 0 => s
  | 1 => s.modStack n (fun k => { k with parity := 0 })
  | m + 2 =>
    let (c, s) := s.draw
    (s.modStack n (fun k => { k with parity := m })).detect { mkRec clsContained (c.toNat % 65536) (uStack n) with ctx := ctx }

/-- The command that an access to a place sends to a stack, where the place lies in DRAM. -/
def State.dramCmd (s : State) (loc : Loc) (ctx : Option Nat) : State :=
  match loc with
  | .dram a => s.stackCmd (stackOf a) ctx
  | _ => s

/-- Read the aligned word at a place: its data, whether it reads as poisoned, and the state with what the read logs. -/
def State.readLoc (s : State) (loc : Loc) (ctx : Option Nat) : (W32 × Bool) × State :=
  let s := s.dramCmd loc ctx
  match s.memOf loc with
  | some (m, o) =>
    let (d, p, y) := m.read32 o
    if y = 0#7 then ((d, p), s)
    else ((d, p), (s.setMem loc (m.afterRead o y)).eccEvent loc y ctx)
  | none =>
    match loc with
    | .csr a => ((BitVec.ofNat 32 (bitsOf (s.csrValue (a / 8 * 8)).toNat (8 * (a % 8)) 32), false), s)
    | _ => ((0#32, false), s)

/-- The tag store: what the stored tag of a block differs by from the CRC-32C of its contents (R261). A write recomputes
the tag (R262), so the difference becomes 0. -/
def State.clearRind (s : State) (loc : Loc) : State :=
  match loc with
  | .dram a => { s with dramRind := smSet 0#32 s.dramRind (a / 4096) 0#32 }
  | .spad t o => s.modTile t (fun v => { v with rind := smSet 0#32 v.rind (o / 4096) 0#32 })
  | _ => s

def State.rindDiff (s : State) (loc : Loc) : W32 :=
  match loc with
  | .dram a => smGet 0#32 s.dramRind (a / 4096)
  | .spad t o => smGet 0#32 (s.tile t).rind (o / 4096)
  | _ => 0#32

/-- Write the aligned word at a place for party `w`: the vat takes no store through a window (R225), reserved parts and
narrow CSR writes have no effect and log CSRACC (R255, R469). How wide a descriptor's access to a CSR page is, no rule says: an engine
reads the registers in words of 32 bits and its writes count as narrow, so no descriptor sets a register (DESIGN CHOICE, log 39). -/
def State.writeLoc (s : State) (w : Nat) (loc : Loc) (v : W32) (mark : Bool) : State :=
  let s := s.dramCmd loc none
  match loc with
  | .dram a => ({ s with dram := s.dram.put32 a v mark }).clearRind loc
  | .spad t o => (s.modTile t (fun x => { x with spad := x.spad.put32 o v mark })).clearRind loc
  | .host a => { s with hostMem := s.hostMem.put32 a v mark }
  | .unassigned => s
  | l => if s.eftDark l.addr then s else s.csrAcc w l.addr

/-- Write a word that running work makes (R491). -/
def State.putWord (s : State) (w : Nat) (loc : Loc) (v : W32) (mark : Bool) : State :=
  let (v, s) := s.made v
  s.writeLoc w loc v mark

/-- The words at the two ends of `n` bytes from `a`, where the bytes cover them only in part. -/
def partWords (a n : Nat) : List Nat :=
  let last := (a + n) / 4 * 4
  (if a % 4 ≠ 0 then [a / 4 * 4] else []) ++ (if (a + n) % 4 ≠ 0 ∧ (a % 4 = 0 ∨ last ≠ a / 4 * 4) then [last] else [])

/-- Write bytes at a place: a word that they cover only in part is read first, with what that read logs (R259). -/
def State.writeBytesLoc (s : State) (w : Nat) (loc : Loc) (l : List Byte) : State :=
  let s := s.dramCmd loc none
  match loc with
  | .dram a =>
    let s := (partWords a l.length).foldl (fun s x => (s.readLoc (.dram x) none).2) s
    ({ s with dram := s.dram.putBytes a l }).clearRind loc
  | .spad t o =>
    let s := (partWords o l.length).foldl (fun s x => (s.readLoc (.spad t x) none).2) s
    (s.modTile t (fun x => { x with spad := x.spad.putBytes o l })).clearRind loc
  | .host a => { s with hostMem := s.hostMem.putBytes a l }
  | .unassigned => s
  | l => if s.eftDark l.addr then s else s.csrAcc w l.addr

/-- A vat entry that the matrix engine or a drain writes (R223). -/
def State.writeVat (s : State) (t o : Nat) (v : W32) (mark : Bool) : State :=
  s.modTile t (fun x => { x with vat := x.vat.put32 o v mark })

/-! ### Table walks (R266–R268, R275, R276) -/

/-- A fault: the reason of R275, ACCESS of R276. -/
structure XlFault where
  reason : Nat
  access : Nat
deriving DecidableEq, Repr

/-- An 8-byte table entry, read from DRAM at a physical address; none when a word of it reads as poisoned. A table that
lies outside usable DRAM reads as a free value. -/
def State.tableEntry (s : State) (a : Nat) : Option Nat × State :=
  if a + 8 ≤ dramTop then
    let (lo, s) := s.readLoc (.dram a) none
    let (hi, s) := s.readLoc (.dram (a + 4)) none
    (if lo.2 || hi.2 then none else some (lo.1.toNat + hi.1.toNat * 2 ^ 32), s)
  else
    let (v, s) := s.draw
    (some v.toNat, s)

/-- The checks of an entry of level 1 or 2: the next table, or a fault with ACCESS 2. -/
def tableCheck (e : Nat) : Except XlFault Nat :=
  if !bitOf e 0 then .error ⟨1, 2⟩
  else if bitsOf e 1 11 ≠ 0 || bitsOf e 48 16 ≠ 0 then .error ⟨6, 2⟩
  else .ok (bitsOf e 12 36 * 4096)

/-- The checks of a leaf that do not depend on the access's target: V, then R267. -/
def leafCheck (e acc : Nat) : Except XlFault Unit :=
  if !bitOf e 0 then .error ⟨1, acc⟩
  else if bitsOf e 5 7 ≠ 0 || bitsOf e 60 4 ≠ 0 || bitsOf e 12 9 ≠ 0 || (!bitOf e 4 && bitsOf e 48 12 ≠ 0) then
    .error ⟨6, acc⟩
  else .ok ()

/-- Walk the three tables of context `ctx` for address `a`: the leaf entry, well-formed (R266, R267). A poisoned entry is
a TABLEERR fault and one record of class deferred (R275). -/
def State.walk (s : State) (unit ctx a acc : Nat) : Except XlFault Nat × State :=
  let root := bitsOf ((s.xl.roots[ctx]?).getD 0#64).toNat 12 36 * 4096
  let poisoned (s : State) : Except XlFault Nat × State :=
    (.error ⟨7, 2⟩,
     s.detect { mkRec clsDeferred cTableErr unit with addr := BitVec.ofNat 64 a, info0 := 7#64, ctx := some ctx })
  match s.tableEntry (root + 8 * bitsOf a 39 9) with
  | (none, s) => poisoned s
  | (some e1, s) =>
    match tableCheck e1 with
    | .error f => (.error f, s)
    | .ok t2 =>
      match s.tableEntry (t2 + 8 * bitsOf a 30 9) with
      | (none, s) => poisoned s
      | (some e2, s) =>
        match tableCheck e2 with
        | .error f => (.error f, s)
        | .ok t3 =>
          match s.tableEntry (t3 + 8 * bitsOf a 21 9) with
          | (none, s) => poisoned s
          | (some e3, s) =>
            match leafCheck e3 acc with
            | .error f => (.error f, s)
            | .ok _ => (.ok e3, s)

/-- The access checks of a well-formed leaf (R267, R268, R275). -/
def leafTarget (e a acc : Nat) : Except XlFault Target :=
  let pa := bitsOf e 21 27 * 0x200000 + bitsOf a 0 21
  if acc = 0 && !bitOf e 1 then .error ⟨2, acc⟩
  else if acc = 1 && !bitOf e 2 then .error ⟨3, acc⟩
  else if bitOf e 4 then .ok (.away (bitsOf e 48 12) pa)
  else match locOf pa with
    | .unassigned => .error ⟨5, acc⟩
    | .csr _ => if bitOf e 3 then .ok (.here pa) else .error ⟨4, acc⟩
    | _ => .ok (.here pa)

/-! ### The accesses of engines -/

/-- Who makes an access: the issuing tile, the unit code for records, the context, the descriptor (queue, place in the
issue order), and whether the tile's translation cache serves it (an edge unit keeps no translation, R270). -/
structure Agent where
  tile : Nat
  unit : Nat
  ctx : Nat
  queue : Nat
  seq : Nat
  cached : Bool
deriving DecidableEq, Repr

/-- Why a unit of work cannot be done now: a translation fault (R275), data from another device that has not arrived, a
record that ends the descriptor (R195, R427), or nothing to do yet. -/
inductive XErr where
  | fault (reason access addr : Nat)
  | wait
  | stop (r : Rec)
deriving DecidableEq, Repr

/-- The accesses of one unit of work, in order. -/
abbrev X := ExceptT XErr (StateM State)

def xFail {α : Type} (e : XErr) : X α := throw e

/-- Run an access that changes the state. -/
def xDo {α : Type} (f : State → α × State) : X α := ExceptT.lift (modifyGet f)

def xMod (f : State → State) : X Unit := ExceptT.lift (modify f)

def xState : X State := ExceptT.lift get

/-- Look a page up in the tile's translation cache (R269): the entry, and the cache with it moved to the front. -/
def cacheHit (c : List XlLine) (ctx page : Nat) : Option (W64 × List XlLine) :=
  match c.find? (fun l => l.ctx == ctx && l.page == page) with
  | some l => some (l.entry, l :: c.filter (fun x => !(x.ctx == ctx && x.page == page)))
  | none => none

/-- The leaf for an address, through the tile's cache or by a walk (R266, R269). How many look-ups an access makes is not
stated, so XLHIT moves by a free count; each miss is one walk. -/
def leafFor (g : Agent) (a acc : Nat) : X Nat := do
  let s ← xState
  let page := a / 0x200000
  let bad (f : XlFault) : X Nat := xFail (.fault f.reason f.access a)
  match (if g.cached then cacheHit (s.tile g.tile).dma.cache g.ctx page else none) with
  | some (e, c) =>
    xMod (fun s =>
      let (n, s) := s.draw
      s.modTile g.tile (fun v => { v with dma := { v.dma with cache := c, xlhit := v.dma.xlhit + n } }))
    pure e.toNat
  | none =>
    if g.cached then
      xMod (fun s => s.modTile g.tile (fun v => { v with dma := { v.dma with xlmiss := v.dma.xlmiss + 1 } }))
    let r ← xDo (fun s => s.walk g.tile g.ctx a acc)
    match r with
    | .error f => bad f
    | .ok e =>
      if g.cached then
        xMod (fun s => s.modTile g.tile (fun v =>
          { v with dma := { v.dma with cache := (⟨g.ctx, page, BitVec.ofNat 64 e⟩ :: v.dma.cache).take 512 } }))
      pure e

/-- Translate an address for an access (0 read, 1 write): the self window is an untranslated alias (R256). -/
def xlate (g : Agent) (a acc : Nat) : X Target := do
  if a ≥ 2 ^ 48 then xFail (.fault 6 acc a)
  else if selfBase ≤ a ∧ a ≤ 0x102FFFFFFFF then
    if a - selfBase < 0x600000 then pure (.here (tileBase + g.tile * 0x800000 + (a - selfBase)))
    else xFail (.fault 5 acc a)
  else
    let e ← leafFor g a acc
    match leafTarget e a acc with
    | .error f => xFail (.fault f.reason f.access a)
    | .ok r =>
      let s ← xState
      match r with
      | .here pa =>
        if s.host.fail.contains (g.tile, g.queue, g.seq) && (locOf pa).isHost then do
          xMod (fun s => { s with host := { s.host with fail := s.host.fail.filter (· != (g.tile, g.queue, g.seq)) } })
          xFail (.fault 8 acc a)
        else pure r
      | _ => pure r

/-! ### Overlap of what a descriptor reads and writes (R217, R238, R272) -/

/-- Where an address of a descriptor leads as things stand, with no access made; none where an access would fault. -/
def State.place (s : State) (g : Agent) (a acc : Nat) : Option Target :=
  if selfBase ≤ a ∧ a ≤ 0x102FFFFFFFF then
    if a - selfBase < 0x600000 then some (.here (tileBase + g.tile * 0x800000 + (a - selfBase))) else none
  else
    let e := match cacheHit (s.tile g.tile).dma.cache g.ctx (a / 0x200000) with
      | some (e, _) => some e.toNat
      | none => (s.walk g.tile g.ctx a acc).1.toOption
    e.bind (fun e => (leafTarget e a acc).toOption)

/-- The word at a descriptor address as it stands and whether it is marked, with no access made; none where the address does not lead to
a memory of this device. -/
def State.peek32 (s : State) (g : Agent) (a : Nat) : Option (W32 × Bool) :=
  match s.place g a 0 with
  | some (.here pa) => (s.memOf (locOf pa)).map (fun m => let r := m.1.read32 m.2; (r.1, r.2.1))
  | _ => none

/-- The `n` words from a descriptor address on as their memories read them; none for one that does not lie in a memory of this device. -/
def State.readHere (s : State) (g : Agent) (a : Nat) : Nat → List (Option (W32 × Bool)) × State
  | 0 => ([], s)
  | n + 1 =>
    let (w, s) := match s.place g a 0 with
      | some (.here pa) =>
        if (s.memOf (locOf pa)).isSome then
          let (w, s) := s.readLoc (locOf pa) (some g.ctx)
          (some w, s)
        else (none, s)
      | _ => (none, s)
    let (r, s) := s.readHere g (a + 4) n
    (w :: r, s)

/-- A vat range lies in the `len` bytes from `a`: one of the 1,024 tile windows or the self window (R232, R255, R256). -/
def vatHit (a len : Nat) : Bool :=
  let lo := max a tileBase
  let hi := min (a + max len 1) (selfBase + 0x800000)
  let o := (lo - tileBase) % 0x800000
  decide (lo < hi) && decide ((if o < 0x600000 then 0x400000 else 0xC00000) < o + (hi - lo))

/-- The same for rows of `n` bytes. -/
def rowsVat (base ld rows n : Nat) : Bool :=
  vatHit base ((rows - 1) * ld + n) && (List.range rows).any (fun i => vatHit (base + i * ld) n)

/-- Rows of `n` bytes at a stride. -/
structure Region where
  base : Nat
  ld : Nat
  rows : Nat
  n : Nat
deriving DecidableEq, Repr

/-- The bytes `[a, a + m)` touch a row of the region. -/
def Region.hits (x : Region) (a m : Nat) : Bool :=
  let j := if a < x.base + x.n then 0 else (a - x.base - x.n) / max x.ld 1 + 1
  j < x.rows && x.base + j * x.ld < a + m

/-- Two regions share an address. -/
def Region.meets (x y : Region) : Bool := (List.range y.rows).any (fun i => x.hits (y.base + i * y.ld) y.n)

/-- The 2 MiB pages of a region, with what each leads to. -/
def State.regionPages (s : State) (g : Agent) (x : Region) (acc : Nat) : List (Nat × Option Target) :=
  let p := x.base / 0x200000
  (List.range ((x.base + (x.rows - 1) * x.ld + x.n - 1) / 0x200000 + 1 - p)).map (fun i =>
    (p + i, s.place g ((p + i) * 0x200000) acc))

/-- Two regions share bytes under different addresses: a page of one and a page of the other lead to one place. Addresses are compared
2^50 up, so that no difference of pages is negative. -/
def State.aliased (s : State) (g : Agent) (src dst : Region) : Bool :=
  (s.regionPages g src 0).any (fun p => (s.regionPages g dst 1).any (fun q =>
    p.1 != q.1 && p.2.isSome && p.2 == q.2 &&
    (List.range dst.rows).any (fun i =>
      let a := max (dst.base + i * dst.ld) (q.1 * 0x200000)
      let b := min (dst.base + i * dst.ld + dst.n) ((q.1 + 1) * 0x200000)
      a < b && ({ src with base := src.base + 2 ^ 50 + q.1 * 0x200000 - p.1 * 0x200000 } : Region).hits (a + 2 ^ 50) (b - a))))

/-- What a descriptor reads and what it writes overlap. -/
def State.overlaps (s : State) (g : Agent) (src dst : Region) : Bool := src.meets dst || s.aliased g src dst

/-! ### Data at other devices (R328–R330) -/

/-- Change an entry of a queue; `q` 7 names work outside the queues. -/
def State.modEntry (s : State) (t q seq : Nat) (f : QEntry → QEntry) : State :=
  if q = 7 then { s with side := s.side.map (fun e => if e.seq = seq then f e else e) }
  else s.modTile t (fun v => v.setQueue q ((v.queue q).map (fun e => if e.seq = seq then f e else e)))

def State.entry (s : State) (t q seq : Nat) : Option QEntry :=
  (if q = 7 then s.side else (s.tile t).queue q).find? (fun e => e.seq == seq)

/-- Work outside the queues begins, in context `ctx`: `id` 2t + b is the fold of bank b of tile t, 2048 + r the code copy of ring r. -/
def State.sideStart (s : State) (id : Nat) (d : W512) (ctx : Nat) (r : Run) : State :=
  { s with side := s.side.filter (fun e => e.seq != id) ++ [⟨d, 0#16, .restore, id, ctx, 16, .running, r, false, false, []⟩] }

/-- Work outside the queues ends; its requests are forgotten. -/
def State.sideEnd (s : State) (id : Nat) : State :=
  { s with side := s.side.filter (fun e => e.seq != id), remotes := s.remotes.filter (fun r => !(r.queue == 7 && r.seq == id)) }

/-- A page that no leaf leads to: that of a request whose target no leaf named. -/
def noPage : Nat := 2 ^ 27

def QEntry.modRun (e : QEntry) (f : Run → Run) : QEntry := { e with run := f e.run }

/-- A request of a descriptor is sent: it is added to the outstanding requests with a fresh tag (R329). `page` is the page of the
leaf that led to its target, `into` where a block that it reads will go. -/
def State.requestPk (s : State) (g : Agent) (k : Packet) (len page : Nat) (into : Target) : State :=
  let s' := s.send { k with ctx := g.ctx, tag := s.nextTag, unit := g.unit }
  { s' with
    remotes := s.remotes ++ [⟨s.nextTag, k.dst, k.opc, g.tile, g.queue, g.seq, none, k.addr, len, g.ctx, page, into⟩]
    nextTag := (s.nextTag + 1) % 65536 }

/-- A request with the format code of its data (R317). -/
def State.request (s : State) (g : Agent) (opc dst addr len page : Nat) (into : Target) (rind : Option W32)
    (words : List (W32 × Bool)) (fmt : Nat) : State :=
  s.requestPk g { s.mkPacket opc dst g.ctx 0 addr len g.unit with rind := rind, words := words, fmt := fmt % 256 } len page into

/-- The 64-byte line of another device that the descriptor holds, asking for it first where it does not (R328). It does not ask while a write
of its own to that line is not acknowledged: reads and writes go by different channels, and no order holds between them (R327). -/
def remoteLine (g : Agent) (dev line page : Nat) : X RBuf := do
  let s ← xState
  match s.entry g.tile g.queue g.seq with
  | none => xFail .wait
  | some e =>
    match e.run.rbuf.find? (fun b => b.dev == dev && b.addr == line) with
    | some b => pure b
    | none =>
      if s.remotes.any (fun r => r.tile == g.tile && r.queue == g.queue && r.seq == g.seq && r.dst == dev &&
          ((r.opc == 0x02 && r.addr == line) || (r.opc == 0x01 && decide (r.addr ≤ line ∧ line < r.addr + r.len)))) then xFail .wait
      else do
        xMod (fun s => s.request g 0x02 dev line 64 page (.away dev line) none [] Config.rawFmt)
        xFail .wait

/-- Put a changed line of another device into the descriptor's buffer. -/
def remotePut (g : Agent) (b : RBuf) : X Unit :=
  xMod (fun s => s.modEntry g.tile g.queue g.seq (fun e => e.modRun (fun r =>
    { r with rbuf := b :: r.rbuf.filter (fun x => !(x.dev == b.dev && x.addr == b.addr)) })))

/-- The present entry of an agent's descriptor. -/
def xEntry (g : Agent) : X QEntry := do
  let s ← xState
  match s.entry g.tile g.queue g.seq with
  | some e => pure e
  | none => xFail .wait

def xRun (g : Agent) (f : Run → Run) : X Unit :=
  xMod (fun s => s.modEntry g.tile g.queue g.seq (fun e => e.modRun f))

/-- Read the aligned word at a descriptor address. -/
def xRead32 (g : Agent) (a : Nat) : X (W32 × Bool) := do
  match ← xlate g a 0 with
  | .here pa => xDo (fun s => s.readLoc (locOf pa) (some g.ctx))
  | .away dev pa =>
    let b ← remoteLine g dev (pa / 64 * 64) (a / 0x200000)
    pure ((b.words[(pa % 64) / 4]?).getD (0#32, false))

/-- A write of `n` bytes to DRAM is noted for the count of partly covered blocks (R262), by the bytes that it covers. -/
def noteCover (g : Agent) (loc : Loc) (n : Nat) (s : State) : State :=
  match loc with
  | .dram a =>
    let blk := a / 4096
    let mask := (2 ^ n - 1) * 2 ^ (a % 4096)
    s.modTile g.tile (fun v =>
      let l := v.dma.partials
      let k := g.queue + 8 * g.seq
      let old := ((l.find? (fun p => p.1 == k && p.2.1 == blk)).map (fun p => p.2.2)).getD 0
      let l' := (k, blk, old ||| mask) :: l.filter (fun x => !(x.1 == k && x.2.1 == blk))
      { v with dma := { v.dma with partials := l' } })
  | _ => s

/-- At the end of a descriptor, its partly covered blocks add 1 each to MEM_RINDCNT.PARTIAL (R262). -/
def State.countPartials (s : State) (t q seq : Nat) : State :=
  let k := q + 8 * seq
  let mine := (s.tile t).dma.partials.filter (fun p => p.1 == k && p.2.2 ≠ 2 ^ 4096 - 1)
  let s := mine.foldl (fun s p =>
    s.modStack (stackOf (p.2.1 * 4096)) (fun x => { x with partialBlk := satAdd 32 x.partialBlk 1 })) s
  s.modTile t (fun v => { v with dma := { v.dma with partials := v.dma.partials.filter (fun p => !(p.1 == k)) } })

/-- Write the aligned word at a descriptor address. -/
def xWrite32 (g : Agent) (a : Nat) (v : W32) (mark : Bool) : X Unit := do
  match ← xlate g a 1 with
  | .here pa =>
    xMod (fun s => noteCover g (locOf pa) 4 (s.putWord g.tile (locOf pa) v mark))
  | .away dev pa =>
    let v ← xDo (fun s => s.made v)
    let b ← remoteLine g dev (pa / 64 * 64) (a / 0x200000)
    remotePut g { b with words := b.words.set ((pa % 64) / 4) (v, mark), dirty := true }

/-- A place whose words can be marked by a store: a store through a tile window reaches no vat (R225). -/
def Loc.markable : Loc → Bool
  | .dram _ => true
  | .spad _ _ => true
  | .host _ => true
  | _ => false

/-- Write bytes that lie inside one word at a descriptor address, with a mark where they carry one. -/
def xWriteBytes (g : Agent) (a : Nat) (l : List Byte) (mark : Bool) : X Unit := do
  let v ← xDo (fun s => s.made (BitVec.ofNat 32 (leVal l)))
  let l := leBytes l.length v.toNat
  match ← xlate g a 1 with
  | .here pa =>
    xMod (fun s =>
      let s := noteCover g (locOf pa) l.length (s.writeBytesLoc g.tile (locOf pa) l)
      if mark && (locOf pa).markable then
        match s.memOf (locOf pa) with
        | some (m, o) => s.setMem (locOf pa) (m.setSyn o poisonSyn)
        | none => s
      else s)
  | .away dev pa =>
    let b ← remoteLine g dev (pa / 64 * 64) (a / 0x200000)
    let i := (pa % 64) / 4
    let old := (b.words[i]?).getD (0#32, false)
    let m := (Mem.mk [] []).put32 0 old.1 false
    let w := (m.putBytes (pa % 4) l).raw 0
    remotePut g { b with words := b.words.set i (w, old.2 || mark), dirty := true }

/-- The bytes `[a, a + n)`, at most 4, as a number, and whether a word they lie in reads as poisoned. -/
def xReadBytes (g : Agent) (a n : Nat) : X (Nat × Bool) := do
  let (w, p) ← xRead32 g (a / 4 * 4)
  if a % 4 + n ≤ 4 then pure (bitsOf w.toNat (8 * (a % 4)) (8 * n), p)
  else
    let (w', p') ← xRead32 g (a / 4 * 4 + 4)
    pure (bitsOf (w.toNat + w'.toNat * 2 ^ 32) (8 * (a % 4)) (8 * n), p || p')

/-- `n` consecutive words. -/
def xReadWords (g : Agent) (a : Nat) : Nat → X (List (W32 × Bool))
  | 0 => pure []
  | n + 1 => do
    let w ← xRead32 g a
    let r ← xReadWords g (a + 4) n
    pure (w :: r)

/-- Write a whole 64-byte line; at another device it replaces the line there without a read (R328). -/
def xPutLine (g : Agent) (a : Nat) (l : List (W32 × Bool)) : X Unit := do
  let l ← l.mapM (fun x => do
    let v ← xDo (fun s => s.made x.1)
    pure (v, x.2))
  match ← xlate g a 1 with
  | .here pa =>
    xMod (fun s => l.zipIdx.foldl (fun s p =>
      noteCover g (locOf (pa + 4 * p.2)) 4
        (s.writeLoc g.tile (locOf (pa + 4 * p.2)) p.1.1 p.1.2)) s)
  | .away dev pa => remotePut g ⟨dev, pa, l, true, a / 0x200000, none⟩

/-- Write consecutive words, whole lines as lines. -/
def xWriteWords (g : Agent) (a : Nat) (l : List (W32 × Bool)) : X Unit := go (l.length + 1) a l
where
  go : Nat → Nat → List (W32 × Bool) → X Unit
    | 0, _, _ => pure ()
    | n + 1, a, l =>
      match l with
      | [] => pure ()
      | w :: r =>
        if a % 64 = 0 ∧ 16 ≤ l.length then do
          xPutLine g a (l.take 16)
          go n (a + 64) (l.drop 16)
        else do
          xWrite32 g a w.1 w.2
          go n (a + 4) r

/-- At the end of a unit, the changed lines leave as WR packets, each in its format, and the buffer empties (R317, R328, R330). -/
def flushBy (g : Agent) (fmt : RBuf → Nat) : X Unit := do
  let s ← xState
  match s.entry g.tile g.queue g.seq with
  | none => pure ()
  | some e =>
    xMod (fun s =>
      let s := (e.run.rbuf.filter (·.dirty)).foldl (fun s b =>
        s.request g 0x01 b.dev b.addr 64 b.page (.away b.dev b.addr) none b.words (fmt b)) s
      s.modEntry g.tile g.queue g.seq (fun e => e.modRun (fun r => { r with rbuf := [] })))

/-- The same in one format. -/
def flushAs (g : Agent) (fmt : Nat) : X Unit := flushBy g (fun _ => fmt)

/-- The same where the data have no single format. -/
def flushRemote (g : Agent) : X Unit := flushAs g Config.rawFmt

/-! ### The issuing tile's own scratchpad -/

/-- The word at scratchpad offset `o` of the tile. -/
def xSpad (t o : Nat) (ctx : Nat) : X (W32 × Bool) := xDo (fun s => s.readLoc (.spad t o) (some ctx))

/-- The bytes `[o, o + 4n)` of the scratchpad as a record, and whether any word of it reads as poisoned. -/
def State.readRecord (s : State) (t o ctx : Nat) : Nat → (List Byte × Bool) × State
  | 0 => (([], false), s)
  | n + 1 =>
    let (w, s) := s.readLoc (.spad t o) (some ctx)
    let (r, s) := s.readRecord t (o + 4) ctx n
    ((leBytes 4 w.1.toNat ++ r.1, w.2 || r.2), s)

/-! ### Doing units of work -/

/-- Mark the word at a place. -/
def State.markLoc (s : State) (l : Loc) : State :=
  match s.memOf l with
  | some (m, o) => s.setMem l (m.setSyn o poisonSyn)
  | none => s

/-- A word that a read has found uncorrectable stays marked (R425), and in a vat counted (R226). -/
def State.keepMark (s : State) (l : Loc) : State :=
  match l with
  | .vat t _ => (s.markLoc l).modTile t (fun v => { v with mxe := { v.mxe with vatpoison := satAdd 32 v.mxe.vatpoison 1 } })
  | _ => s.markLoc l

/-- A state with the marks that the reads of a unit have left, by the records that `post` holds beyond those of `pre`. -/
def State.keepMarks (pre post : State) : State :=
  ((post.err.det.drop pre.err.det.length).filter (fun r => r.cause == cEccUncorr)).foldl (fun s r => s.keepMark (locOf r.addr.toNat)) pre

/-- What a failed unit leaves: nothing of its writes (the progress record stands before it, R56), but its translations,
its requests, its records with the marks that they go with, its draws, and the failures of the adapter that it has met. -/
def State.unitUndo (pre post : State) (t : Nat) : State :=
  { (pre.keepMarks post).modTile t (fun v => { v with dma := { v.dma with
      cache := (post.tile t).dma.cache, xlhit := (post.tile t).dma.xlhit, xlmiss := (post.tile t).dma.xlmiss } }) with
    out := post.out, remotes := post.remotes, nextTag := post.nextTag, lnk := post.lnk
    err := post.err, freeCtr := post.freeCtr, stackRegs := post.stackRegs, host := { pre.host with fail := post.host.fail } }

/-- Do one unit for tile `t`: its value and the state, or why it could not be done and what it leaves. -/
def runUnit {α : Type} (t : Nat) (x : X α) (s : State) : Except XErr α × State :=
  match x.run.run s with
  | (.ok a, s') => (.ok a, s')
  | (.error e, s') => (.error e, s.unitUndo s' t)

/-- Do units until one reports the end of the work (true), fails, the state between two units is a stop point, or the count runs out. -/
def runUntil (t : Nat) (x : X Bool) (stop : State → Bool) : Nat → State → Except XErr Bool × State
  | 0, s => (.ok false, s)
  | n + 1, s =>
    if stop s then (.ok false, s)
    else match runUnit t x s with
      | (.ok true, s) => (.ok true, s)
      | (.ok false, s) => runUntil t x stop n s
      | (.error e, s) => (.error e, s)

/-- Do units until one reports the end of the work (true), fails, or the count runs out. -/
def runUnits (t : Nat) (x : X Bool) : Nat → State → Except XErr Bool × State
  | 0, s => (.ok false, s)
  | n + 1, s =>
    match runUnit t x s with
    | (.ok true, s) => (.ok true, s)
    | (.ok false, s) => runUnits t x n s
    | (.error e, s) => (.error e, s)

end Sys2Proof.Machine
end

