-- ==== Sys2Proof/Machine/Flags.lean ====
section
/-! DEFINITION. The results and the conditions of the control instructions (R48, R59). The module has no flags register:
conditions are computed where an instruction asks for them. -/

namespace Sys2Proof.Machine

/-- 1 or 0. -/
def boolW (b : Bool) : W64 := if b then 1#64 else 0#64

/-- The ALU of R48: none for an fn above 15 (R49). Shifts take rb[5:0]. -/
def aluOp (fn : Nat) (a b : W64) : Option W64 :=
  match fn with
  | 0 => some (a + b)
  | 1 => some (a - b)
  | 2 => some (a &&& b)
  | 3 => some (a ||| b)
  | 4 => some (a ^^^ b)
  | 5 => some (a <<< (b.toNat % 64))
  | 6 => some (a >>> (b.toNat % 64))
  | 7 => some (a.sshiftRight (b.toNat % 64))
  | 8 => some (a * b)
  | 9 => some (BitVec.ofNat 64 (a.toNat * b.toNat / 2 ^ 64))
  | 10 => some (boolW (a.slt b))
  | 11 => some (boolW (a.ult b))
  | 12 => some (if a.slt b then a else b)
  | 13 => some (if a.slt b then b else a)
  | 14 => some (if a.ult b then a else b)
  | 15 => some (if a.ult b then b else a)
  | _ => none

/-- The conditions of the branches (R48). -/
def condEq (a b : W64) : Bool := a == b
def condNe (a b : W64) : Bool := a != b
def condLt (a b : W64) : Bool := a.slt b
def condGe (a b : W64) : Bool := !(a.slt b)
def condLtu (a b : W64) : Bool := a.ult b
def condGeu (a b : W64) : Bool := !(a.ult b)

end Sys2Proof.Machine
end

