-- ==== Sys2Proof/Machine/Strand.lean ====
section
/-! DEFINITION. Strands and sync counters (chapter 02): the front end of the strand control unit and every control
instruction. -/

namespace Sys2Proof.Machine

/-! ### Grids of strands -/

def State.gridOf (s : State) (num : Nat) : Option Grid := s.grids.find? (fun g => g.num == num)

/-- The context of a grid number. -/
def State.ctxOfGrid (s : State) (num : Nat) : Option Nat := (s.gridOf num).map (·.ctx)

/-- Fields of a grid record (R63). -/
def gField (r : List Byte) (off n : Nat) : Nat := lField r off n
def gStrands (r : List Byte) : Nat := gField r 20 2
def gRow0 (r : List Byte) : Nat := gField r 22 1
def gCol0 (r : List Byte) : Nat := gField r 23 1
def gRows (r : List Byte) : Nat := gField r 24 1
def gCols (r : List Byte) : Nat := gField r 25 1

/-- The tiles of a record's rectangle, in rank order (R65). -/
def gTiles (r : List Byte) : List Nat :=
  ((List.range (gRows r)).map (fun i =>
    (List.range (gCols r)).map (fun j => (gRow0 r + i) * 32 + gCol0 r + j))).flatten

/-- The rank of a tile in the rectangle (R65). -/
def gRank (r : List Byte) (t : Nat) : Nat := (t / 32 - gRow0 r) * gCols r + (t % 32 - gCol0 r)

/-! ### Ends of strands (R42, R49) -/

/-- Whether a descriptor of slot `k` is still in a queue of the tile. -/
def Tile.hasWork (v : Tile) (k : Nat) : Bool :=
  v.queues.any (fun q => q.any (fun e => e.org == .strand k))

/-- The slot of a DONE strand returns to FREE once every descriptor it issued has ended (R42). -/
def State.reap (s : State) (t k : Nat) : State :=
  s.modTile t (fun v =>
    if (v.strand k).st = .done ∧ v.hasWork k = false ∧ s.clu.heldFor t k = false then v.setStrand k Strand.none else v)

/-- Stop a strand with a record of class contained (R49): tile, slot and program counter. -/
def State.stopStrand (s : State) (t k cause : Nat) (addr : W64) : State :=
  let x := s.strand t k
  let r : Rec := { mkRec clsContained cause t with ctx := s.ctxOfGrid x.grid, slot := k, pc := x.pc, addr := addr }
  (((s.setStrand t k { x with st := .done, stopped := true, stall := .none }).detect r)).reap t k

/-- End a strand without a record of its own (its grid stops, or its descriptor was refused and recorded). -/
def State.endStrand (s : State) (t k : Nat) : State :=
  let x := s.strand t k
  if x.st = .free ∨ x.st = .done then s
  else (s.setStrand t k { x with st := .done, stopped := true, stall := .none }).reap t k

/-- Park a strand after its current instruction (R56): a STALLED one when its data or its queue slot has come; a DONE strand
stays DONE. -/
def State.parkStrand (s : State) (t k : Nat) : State :=
  let x := s.strand t k
  match x.st with
  | .free => s
  | .done => s
  | .parked => s
  | .stalled => s.setStrand t k { x with parkDue := true }
  | st => s.setStrand t k { x with st := .parked, prior := st }

/-- Unpark a strand: it returns to the state it had. -/
def State.unparkStrand (s : State) (t k : Nat) : State :=
  let x := s.strand t k
  if x.st = .parked then s.setStrand t k { x with st := x.prior, parkDue := false }
  else if x.parkDue then s.setStrand t k { x with parkDue := false }
  else s

/-- The instruction of a STALLED strand is done: the strand is READY, or parks where it is to park. -/
def Strand.unstall (x : Strand) : Strand :=
  if x.parkDue then { x with st := .parked, prior := .ready, stall := .none, parkDue := false }
  else { x with st := .ready, stall := .none }

/-! ### The front end (R43, R46) -/

/-- The slot may issue: READY, no tile hold, no other READY strand has gone longer without issuing. -/
def State.mayIssue (s : State) (t k : Nat) : Bool :=
  let v := s.tile t
  let x := v.strand k
  t < 1024 && k < 2048 && !s.held t && x.st == .ready &&
  v.scu.strands.all (fun p => p.2.st != .ready || x.stamp ≤ p.2.stamp)

/-- The word at the strand's program counter, where the fetch succeeds (R41, R49). -/
def State.fetchWord (s : State) (t k : Nat) : Option W32 :=
  let x := s.strand t k
  if x.bad.isSome || x.pc.toNat % 4 ≠ 0 || x.pc.toNat + 4 > 0x300000 then none
  else
    let (w, p, _) := (s.tile t).spad.read32 x.pc.toNat
    if p then none else some w

/-- The instruction that the strand would issue is the command's. -/
def State.issues (s : State) (t k : Nat) (i : Instr) : Bool :=
  s.mayIssue t k && (s.fetchWord t k).isSome && s.fetchWord t k == encode i

/-- An issue: SCU_ISSUED counts it, and the strand goes behind the others (R43). The fetch's read is made. -/
def State.issued (s : State) (t k : Nat) : State :=
  let x := s.strand t k
  let (_, s) := s.readLoc (.spad t x.pc.toNat) (s.ctxOfGrid x.grid)
  s.modTile t (fun v =>
    let v := { v with scu := { v.scu with issued := v.scu.issued + 1, clock := v.scu.clock + 1 } }
    v.setStrand k { v.strand k with stamp := v.scu.clock })

/-- Carry out an instruction when it is the one that the strand issues; otherwise nothing happens. -/
def State.scu (s : State) (t k : Nat) (i : Instr) (f : State → State) : State :=
  if s.issues t k i then f (s.issued t k) else s

/-- Go to the next instruction. -/
def Strand.advance (x : Strand) : Strand := { x with pc := x.pc + 4#32 }

/-- Write a result and go on. -/
def State.result (s : State) (t k rd : Nat) (v : W64) : State :=
  s.setStrand t k (((s.strand t k).setReg rd v).advance)

/-- Go to a branch or jump target formed in 64 bits; a target outside the scratchpad stays with the strand until the fetch
from it (R41). -/
def Strand.goto (x : Strand) (target : Int) : Strand :=
  if 0 ≤ target ∧ target < 0x300000 then { x with pc := BitVec.ofInt 32 target } else { x with bad := some target }

/-! ### Results -/

def doAlu (t k : Nat) (f : RFmt) (s : State) : State :=
  s.scu t k (.alu t k f) (fun s =>
    let x := s.strand t k
    match (if f.rsv = 0#8 then aluOp f.fn.toNat (x.reg f.ra.toNat) (x.reg f.rb.toNat) else none) with
    | some v => s.result t k f.rd.toNat v
    | none => s.stopStrand t k cStrand 0#64)

/-- rd = ra op imm18 (R48). -/
def doImm (t k : Nat) (i : Instr) (f : IFmt) (op : W64 → W64 → W64) (s : State) : State :=
  s.scu t k i (fun s => s.result t k f.rd.toNat (op ((s.strand t k).reg f.ra.toNat) (imm18 f)))

/-- rd = ra shifted by imm18[5:0]; imm18[17:6] must be 0 (R48, R49). -/
def doShift (t k : Nat) (i : Instr) (f : IFmt) (op : W64 → Nat → W64) (s : State) : State :=
  s.scu t k i (fun s =>
    if f.imm.toNat < 64 then s.result t k f.rd.toNat (op ((s.strand t k).reg f.ra.toNat) f.imm.toNat)
    else s.stopStrand t k cStrand 0#64)

def doLi (t k : Nat) (f : LFmt) (s : State) : State :=
  s.scu t k (.li t k f) (fun s => s.result t k f.rd.toNat (imm22 f))

def doShin (t k : Nat) (f : LFmt) (s : State) : State :=
  s.scu t k (.shin t k f) (fun s =>
    s.result t k f.rd.toNat ((((s.strand t k).reg f.rd.toNat) <<< 22) ||| f.imm.setWidth 64))

/-! ### Loads and stores (R48, R49) -/

/-- The address of an LD or ST, where it is allowed. -/
def ldAddr (x : Strand) (f : IFmt) : Option Nat :=
  let a := (x.reg f.ra.toNat + imm18 f).toNat
  if a % 8 = 0 ∧ a + 8 ≤ 0x300000 then some a else none

/-- LD: the strand is STALLED until its data arrives (R42). -/
def doLd (t k : Nat) (f : IFmt) (s : State) : State :=
  s.scu t k (.ld t k f) (fun s =>
    let x := s.strand t k
    match ldAddr x f with
    | none => s.stopStrand t k cStrand (x.reg f.ra.toNat + imm18 f)
    | some a => s.setStrand t k { x with st := .stalled, stall := .load f.rd.toNat a })

/-- The data of an LD arrives: rd is written and the strand is READY; a poisoned word stops it (R427). -/
def doLdDataArrival (t k : Nat) (s : State) : State :=
  let x := s.strand t k
  match x.stall with
  | .load rd a =>
    if x.st = .stalled then
      let ctx := s.ctxOfGrid x.grid
      let (lo, s) := s.readLoc (.spad t a) ctx
      let (hi, s) := s.readLoc (.spad t (a + 4)) ctx
      if lo.2 || hi.2 then s.stopStrand t k cPoisonCtl (BitVec.ofNat 64 a)
      else s.setStrand t k ((x.setReg rd (BitVec.ofNat 64 (lo.1.toNat + hi.1.toNat * 2 ^ 32))).advance).unstall
    else s
  | _ => s

def doSt (t k : Nat) (f : IFmt) (s : State) : State :=
  s.scu t k (.st t k f) (fun s =>
    let x := s.strand t k
    match ldAddr x f with
    | none => s.stopStrand t k cStrand (x.reg f.ra.toNat + imm18 f)
    | some a =>
      let v := (x.reg f.rd.toNat).toNat
      let s := s.putWord t (.spad t a) (BitVec.ofNat 32 v) false
      let s := s.putWord t (.spad t (a + 4)) (BitVec.ofNat 32 (v / 2 ^ 32)) false
      s.setStrand t k ((s.strand t k).advance))

/-! ### Branches and jumps (R41, R48) -/

def doBranch (t k : Nat) (i : Instr) (f : BFmt) (c : W64 → W64 → Bool) (s : State) : State :=
  s.scu t k i (fun s =>
    let x := s.strand t k
    if c (x.reg f.ra.toNat) (x.reg f.rb.toNat) then
      s.setStrand t k (x.goto ((x.pc.toNat : Int) + 4 * f.off.toInt))
    else s.setStrand t k x.advance)

def doJal (t k : Nat) (f : LFmt) (s : State) : State :=
  s.scu t k (.jal t k f) (fun s =>
    let x := s.strand t k
    s.setStrand t k ((x.setReg f.rd.toNat (x.pc.setWidth 64 + 4#64)).goto ((x.pc.toNat : Int) + 4 * f.imm.toInt)))

def doJalr (t k : Nat) (f : IFmt) (s : State) : State :=
  s.scu t k (.jalr t k f) (fun s =>
    let x := s.strand t k
    let target := (x.reg f.ra.toNat + imm18 f) &&& ~~~3#64
    s.setStrand t k ((x.setReg f.rd.toNat (x.pc.setWidth 64 + 4#64)).goto target.toInt))

/-! ### ISSUE (R49–R53) -/

/-- Put a descriptor at the tail of a queue, stamped with the mode epoch and its origin (R53). -/
def State.enqueue (s : State) (t q : Nat) (d : W512) (org : Origin) (ctx grid : Nat) : State :=
  s.modTile t (fun v =>
    let e : QEntry := ⟨d, s.mode.mepoch, org, v.scu.nextSeq, ctx, grid, .waiting, Run.start, false, false, []⟩
    let v := { v with scu := { v.scu with nextSeq := v.scu.nextSeq + 1 } }
    v.setQueue q (v.queue q ++ [e]))

/-- Whether queue `q` of the tile is full. A descriptor that queue 6 has forwarded to its edge unit takes no place there
(R52, R301). -/
def Tile.full (v : Tile) (q : Nat) : Bool :=
  queueDepth q ≤ (if q = 6 then ((v.queue 6).filter (fun e => e.ph == .waiting)).length else (v.queue q).length)

/-- ISSUE (R51–R53). A descriptor that finds its queue full keeps the bytes and the PATCH that it had at the ISSUE; it takes its mode epoch
when it enters the queue (DESIGN CHOICE, log 56: R53 says of neither which moment counts for a strand that stalls). -/
def doIssue (t k : Nat) (f : QFmt) (s : State) : State :=
  s.scu t k (.issue t k f) (fun s =>
    let x := s.strand t k
    let a := (x.reg f.ra.toNat).toNat
    let q := f.queue.toNat
    if f.rsv ≠ 0#13 ∨ 6 < q ∨ a % 64 ≠ 0 ∨ 0x300000 < a + 64 then s.stopStrand t k cStrand (BitVec.ofNat 64 a)
    else
      let ctx := (s.ctxOfGrid x.grid).getD 0
      let ((l, p), s) := s.readRecord t a ctx 16
      if p then s.stopStrand t k cPoisonCtl (BitVec.ofNat 64 a)
      else
        let d := if f.pe = 1#1 then withPatch (descOf l) (x.reg f.rb.toNat) else descOf l
        if headerOk t d = false then s.stopStrand t k cStrand (BitVec.ofNat 64 a)
        else if (s.tile t).full q then s.setStrand t k { x with st := .stalled, stall := .queue q d }
        else (s.enqueue t q d (.strand k) ctx x.grid).setStrand t k x.advance)

/-- A slot of queue `q` is free for a strand STALLED on it (R42, R53): its descriptor enters the queue, with the mode epoch of this moment
(DESIGN CHOICE, log 56), unless a source holds the tile (R46). -/
def doQueueSlotFreed (t q k : Nat) (s : State) : State :=
  let x := s.strand t k
  match x.stall with
  | .queue q' d =>
    if q' = q ∧ (s.tile t).full q = false ∧ s.held t = false ∧ x.st = .stalled then
      (s.enqueue t q d (.strand k) ((s.ctxOfGrid x.grid).getD 0) x.grid).setStrand t k x.advance.unstall
    else s
  | _ => s

/-! ### Counters (R57–R61) -/

/-- The counter of a format-C instruction where R49, R57 and R58 allow it. -/
def ctrOk (t c : Nat) (f : CFmt) (own dev : Bool) : Bool :=
  f.rsv = 0#2 && (!own || c / 64 == t) && (dev || !deviceCtr c)

/-- SIG: the update is in flight until COUNTER_UPDATE lands it. DESIGN CHOICE (log 56): so it is for a counter of the own tile
too, for which no latency is stated; the strand's own next RDC or WAIT may not see it yet. -/
def doSig (t k : Nat) (f : CFmt) (s : State) : State :=
  s.scu t k (.sig t k f) (fun s =>
    let x := s.strand t k
    let c := ctrId x f
    if ctrOk t c f false false then
      (s.setStrand t k x.advance).sendEvt c ((x.reg f.rv.toNat).setWidth 32) (.strand t k)
    else s.stopStrand t k cStrand 0#64)

/-- Apply the updates in flight from one source to one counter, in order (R60). -/
def State.landFrom (s : State) (src : EvtSrc) (c : Nat) : State :=
  let mine := s.evts.filter (fun e => decide (e.src = src) && e.ctr == c)
  let s := mine.foldl (fun s e => s.addCtr e.ctr e.inc) s
  { s with evts := s.evts.filter (fun e => !(decide (e.src = src) && e.ctr == c)) }

/-- SETC: updates from one strand to one counter arrive in program order (R60). -/
def doSetc (t k : Nat) (f : CFmt) (s : State) : State :=
  s.scu t k (.setc t k f) (fun s =>
    let x := s.strand t k
    let c := ctrId x f
    if ctrOk t c f true false then
      let s := s.landFrom (.strand t k) c
      (s.modTile t (fun v => v.putCtr (c % 64) ((x.reg f.rv.toNat).setWidth 32))).setStrand t k x.advance
    else s.stopStrand t k cStrand 0#64)

def doRdc (t k : Nat) (f : CFmt) (s : State) : State :=
  s.scu t k (.rdc t k f) (fun s =>
    let c := ctrId (s.strand t k) f
    if ctrOk t c f true true then s.result t k f.rv.toNat ((s.ctr c).setWidth 64)
    else s.stopStrand t k cStrand 0#64)

def doWait (t k : Nat) (f : CFmt) (s : State) : State :=
  s.scu t k (.wait t k f) (fun s =>
    let x := s.strand t k
    let c := ctrId x f
    let thr : W32 := (x.reg f.rv.toNat).setWidth 32
    if ctrOk t c f true false then
      if reached (s.ctr c) thr then s.setStrand t k x.advance
      else s.setStrand t k { x.advance with st := .waiting, waitC := c % 64, waitT := thr, rel := false }
    else s.stopStrand t k cStrand 0#64)

/-- A WAITING strand whose condition is true, or has been released by an update that made it true, becomes READY (R42, R61). -/
def doStrandWake (t k : Nat) (s : State) : State :=
  let x := s.strand t k
  if x.rel || reached ((s.tile t).ctr x.waitC) x.waitT then
    if x.st = .waiting then s.setStrand t k { x with st := .ready }
    else if x.st = .parked ∧ x.prior = .waiting then s.setStrand t k { x with prior := .ready }
    else s
  else s

/-- The tile whose mesh node an update leaves. -/
def EvtSrc.node : EvtSrc → Nat
  | .strand t _ => t
  | .queue t _ => t
  | .fold t _ => t

def EvtSrc.isQueue : EvtSrc → Bool
  | .queue _ _ => true
  | _ => false

/-- An update lands before one sent after it: both from one node to one other tile (R25), from one source to one counter (R60),
or the signals of one queue, wherever they go (R55). -/
def Evt.before (e x : Evt) : Bool :=
  (e.src.node == x.src.node && e.ctr / 64 == x.ctr / 64 && e.ctr / 64 != e.src.node) ||
  (e.src == x.src && (e.ctr == x.ctr || e.src.isQueue))

/-- Update `n` in flight reaches its counter, unless an earlier one that lands before it has not (R25, R55, R60). -/
def doCounterUpdate (n : Nat) (s : State) : State :=
  match s.evts[n]? with
  | none => s
  | some e =>
    if (s.evts.take n).any (fun e' => e'.before e) then s
    else ({ s with evts := dropAt s.evts n }).addCtr e.ctr e.inc

/-! ### GETID, YIELD, EXIT (R42, R48, R65) -/

/-- The identity value selected by imm18 (R65). -/
def State.identity (s : State) (t : Nat) (x : Strand) (n : Nat) : Option W64 :=
  let r := ((s.gridOf x.grid).map (·.record)).getD []
  let v (n : Nat) : Option W64 := some (BitVec.ofNat 64 n)
  match n with
  | 0 => v x.lin
  | 1 => v x.loc
  | 2 => v t
  | 3 => v (gRank r t)
  | 4 => v x.grid
  | 5 => v (gStrands r)
  | 6 => v (gRows r * gCols r)
  | 7 => v s.mode.mepoch.toNat
  | _ => none

def doGetid (t k : Nat) (f : IFmt) (s : State) : State :=
  s.scu t k (.getid t k f) (fun s =>
    match s.identity t (s.strand t k) f.imm.toNat with
    | some v => s.result t k f.rd.toNat v
    | none => s.stopStrand t k cStrand 0#64)

/-- YIELD: an issue already puts the strand behind every other READY strand (R42). -/
def doYield (t k : Nat) (f : NFmt) (s : State) : State :=
  s.scu t k (.yield t k f) (fun s =>
    if f.rsv = 0#26 then s.setStrand t k ((s.strand t k).advance) else s.stopStrand t k cStrand 0#64)

def doExit (t k : Nat) (f : NFmt) (s : State) : State :=
  s.scu t k (.exit t k f) (fun s =>
    if f.rsv = 0#26 then (s.setStrand t k { s.strand t k with st := .done }).reap t k
    else s.stopStrand t k cStrand 0#64)

/-- The strand's next fetch fails, reads a poisoned word, or gives an opcode absent from R48: it stops (R41, R49, R427).
After a branch or jump out of the scratchpad the program counter is still that of the branch. -/
def doInstructionFetchStop (t k : Nat) (s : State) : State :=
  if s.mayIssue t k then
    let x := s.strand t k
    if x.bad.isSome || x.pc.toNat % 4 ≠ 0 || x.pc.toNat + 4 > 0x300000 then s.stopStrand t k cStrand 0#64
    else
      let ((w, p), s) := s.readLoc (.spad t x.pc.toNat) (s.ctxOfGrid x.grid)
      if p then s.stopStrand t k cPoisonCtl (BitVec.ofNat 64 x.pc.toNat)
      else if (decodeCtl t k w).isNone then s.stopStrand t k cStrand 0#64
      else s
  else s

/-! ### The meanings -/

/-- The outcome of every meaning of this model: the next state. -/
abbrev Out := Host.Outcome State Fault Refusal

def execAlu (t k : Nat) (f : RFmt) (s : State) : Out := .next (doAlu t k f s)
def execAddi (t k : Nat) (f : IFmt) (s : State) : Out := .next (doImm t k (.addi t k f) f (· + ·) s)
def execAndi (t k : Nat) (f : IFmt) (s : State) : Out := .next (doImm t k (.andi t k f) f (· &&& ·) s)
def execOri (t k : Nat) (f : IFmt) (s : State) : Out := .next (doImm t k (.ori t k f) f (· ||| ·) s)
def execXori (t k : Nat) (f : IFmt) (s : State) : Out := .next (doImm t k (.xori t k f) f (· ^^^ ·) s)
def execShli (t k : Nat) (f : IFmt) (s : State) : Out := .next (doShift t k (.shli t k f) f (fun a n => a <<< n) s)
def execShri (t k : Nat) (f : IFmt) (s : State) : Out := .next (doShift t k (.shri t k f) f (fun a n => a >>> n) s)
def execSrai (t k : Nat) (f : IFmt) (s : State) : Out :=
  .next (doShift t k (.srai t k f) f (fun a n => a.sshiftRight n) s)
def execSlti (t k : Nat) (f : IFmt) (s : State) : Out :=
  .next (doImm t k (.slti t k f) f (fun a b => boolW (a.slt b)) s)
def execLi (t k : Nat) (f : LFmt) (s : State) : Out := .next (doLi t k f s)
def execShin (t k : Nat) (f : LFmt) (s : State) : Out := .next (doShin t k f s)
def execLd (t k : Nat) (f : IFmt) (s : State) : Out := .next (doLd t k f s)
def execLdDataArrival (t k : Nat) (s : State) : Out := .next (doLdDataArrival t k s)
def execSt (t k : Nat) (f : IFmt) (s : State) : Out := .next (doSt t k f s)
def execBeq (t k : Nat) (f : BFmt) (s : State) : Out := .next (doBranch t k (.beq t k f) f condEq s)
def execBne (t k : Nat) (f : BFmt) (s : State) : Out := .next (doBranch t k (.bne t k f) f condNe s)
def execBlt (t k : Nat) (f : BFmt) (s : State) : Out := .next (doBranch t k (.blt t k f) f condLt s)
def execBge (t k : Nat) (f : BFmt) (s : State) : Out := .next (doBranch t k (.bge t k f) f condGe s)
def execBltu (t k : Nat) (f : BFmt) (s : State) : Out := .next (doBranch t k (.bltu t k f) f condLtu s)
def execBgeu (t k : Nat) (f : BFmt) (s : State) : Out := .next (doBranch t k (.bgeu t k f) f condGeu s)
def execJal (t k : Nat) (f : LFmt) (s : State) : Out := .next (doJal t k f s)
def execJalr (t k : Nat) (f : IFmt) (s : State) : Out := .next (doJalr t k f s)
def execIssue (t k : Nat) (f : QFmt) (s : State) : Out := .next (doIssue t k f s)
def execQueueSlotFreed (t q k : Nat) (s : State) : Out := .next (doQueueSlotFreed t q k s)
def execSig (t k : Nat) (f : CFmt) (s : State) : Out := .next (doSig t k f s)
def execSetc (t k : Nat) (f : CFmt) (s : State) : Out := .next (doSetc t k f s)
def execRdc (t k : Nat) (f : CFmt) (s : State) : Out := .next (doRdc t k f s)
def execWait (t k : Nat) (f : CFmt) (s : State) : Out := .next (doWait t k f s)
def execGetid (t k : Nat) (f : IFmt) (s : State) : Out := .next (doGetid t k f s)
def execYield (t k : Nat) (f : NFmt) (s : State) : Out := .next (doYield t k f s)
def execExit (t k : Nat) (f : NFmt) (s : State) : Out := .next (doExit t k f s)
def execCounterUpdate (n : Nat) (s : State) : Out := .next (doCounterUpdate n s)
def execStrandWake (t k : Nat) (s : State) : Out := .next (doStrandWake t k s)
def execInstructionFetchStop (t k : Nat) (s : State) : Out := .next (doInstructionFetchStop t k s)

end Sys2Proof.Machine
end

