-- ==== Sys2Proof/Machine/Desc.lean ====
section
/-! DEFINITION. Descriptors in their queues (R51–R56, R70, R502): start, refusal, drop, completion. -/

namespace Sys2Proof.Machine

/-- A check of a descriptor's fields: an offending field is its byte offset and its value (R499). -/
abbrev Chk := Except (Nat × Nat)

def chk (ok : Bool) (off val : Nat) : Chk Unit := if ok then .ok () else .error (off, val)

/-- Bytes that must be 0 (R502). -/
def chkZero (d : W512) (off n : Nat) : Chk Unit := chk (dField d off n == 0) off (dField d off n)

/-- Bytes `off` to `off + n - 1` of a record must be 0; offsets in a record count from 0x100 (R499). -/
def chkZeroL (l : List Byte) (off n : Nat) : Chk Unit := chk (lField l off n == 0) (0x100 + off) (lField l off n)

/-- A 48-bit local address that is a multiple of 64, in field `off` (R256). Bits [63:48] are left to the translation. -/
def chkAddr (d : W512) (off : Nat) : Chk Unit := chk (dField d off 8 % 64 == 0) off (dField d off 8)

/-- What an engine makes of a descriptor at the moment it would start (R54): it starts with a run record, it is refused,
or a record that it reads is poisoned (R427). -/
inductive StartRes where
  | go (r : Run) (s : State)
  | refuse (off val : Nat) (s : State)
  | poison (addr : Nat) (s : State)

/-- The entry of queue `q` that may start now: no tile hold, no pending fault of the queue, its waits hold (R46, R54), and the power budget
allows it (R414). -/
def State.startable (s : State) (t q : Nat) : Option QEntry :=
  let v := s.tile t
  if t < 1024 && !((v.faults[q]?).getD FaultReg.none).pend then
    match v.next q with
    | some (i, e) => if v.waitsDone i e && !s.holdsStart t q e && !s.budgetHolds q e then some e else none
    | none => none
  else none

/-- The slot of the strand that issued an entry, or 0xFFFF. -/
def QEntry.slot (e : QEntry) : Nat := match e.org with | .strand k => k | _ => 0xFFFF

/-- A record about a descriptor: tile, queue, slot, context. -/
def State.descRec (s : State) (t q : Nat) (e : QEntry) (cls cause : Nat) : Rec :=
  { mkRec cls cause t with
    sub := q, ctx := some e.ctx, slot := e.slot
    pc := match e.org with | .strand k => (s.strand t k).pc | _ => 0#32 }

/-- Remove an entry from its queue and let its slot go (R42). -/
def State.removeEntry (s : State) (t q : Nat) (e : QEntry) : State :=
  let s := s.countPartials t q e.seq
  let s := s.modTile t (fun v => v.setQueue q ((v.queue q).filter (fun x => !(x.seq == e.seq))))
  match e.org with
  | .strand k => s.reap t k
  | _ => s

/-- Drop a descriptor: its DONE_CTR is not signalled. -/
def State.dropEntry (s : State) (t q : Nat) (e : QEntry) : State := s.removeEntry t q e

/-- End the strand that issued an entry (R70, R329). -/
def State.endIssuer (s : State) (t : Nat) (e : QEntry) : State :=
  match e.org with
  | .strand k => s.endStrand t k
  | _ => s

/-- Refuse a descriptor (R70): none of its work is done, the issuing strand stops, and a record of class contained names
the code or field (R499). A REFRESH of the management processor is recorded as R400 states. -/
def State.refuse (s : State) (t q : Nat) (e : QEntry) (off val : Nat) : State :=
  match e.org with
  | .mp =>
    let b := dField e.d 41 1
    let s := s.detect { mkRec clsContained cRefreshRef t with sub := b, ctx := some e.ctx }
    let s : State := { s with mp := { s.mp with failed := satAdd 16 s.mp.failed 1 } }
    (s.modTile t (fun v => v.modBank b (fun k => { k with refStopped := true }))).dropEntry t q e
  | _ =>
    let r := { s.descRec t q e clsContained cRefused with
      info0 := BitVec.ofNat 64 (dOp e.d + (val % 2 ^ 48) * 65536), info1 := BitVec.ofNat 64 off }
    ((s.detect r).endIssuer t e).dropEntry t q e

/-- A record read at the start is poisoned (R427): contained, cause POISONCTL. -/
def State.poisonStart (s : State) (t q : Nat) (e : QEntry) (addr : Nat) : State :=
  ((s.detect { s.descRec t q e clsContained cPoisonCtl with addr := BitVec.ofNat 64 addr }).endIssuer t e).dropEntry t q e

/-- The engine reads the words of its entry (R259, R425): what it finds wrong is logged, and a corrected word is clean from here on. Whether a
word reads as poisoned. -/
def State.readHead (s : State) (t q : Nat) (e : QEntry) : Bool × State :=
  let ws := e.words
  let s := ws.foldl (fun (s : State) (w : W32 × Bool × BitVec 7) =>
    let r (cls cause : Nat) : State := s.detect { mkRec cls cause t with sub := q, ctx := some e.ctx, info0 := w.2.2.setWidth 64 }
    match eccRead w.2.2 with
    | .clean => s
    | .poison => s
    | .bad => r clsDeferred cEccUncorr
    | _ => r clsCorrected cEccCorr) s
  (ws.any (fun w => w.2.1), s.modEntry t q e.seq (fun x => { x with d := e.d, syn := [] }))

/-- Let an engine take the entry that it is about to start: one with a poisoned word stops as a poisoned record does (R427). -/
def State.withHead (s : State) (t q : Nat) (e : QEntry) (k : QEntry → State → State) : State :=
  if e.syn = [] then k e s
  else
    let (bad, s) := s.readHead t q e
    if bad then s.poisonStart t q e 0 else k { e with syn := [] } s

/-- Start the next descriptor of queue `q` when it has the given ENG_OP, no coupling rule holds it, and its checks pass. -/
def State.startDesc (s : State) (t q op : Nat) (free : State → QEntry → Bool) (check : QEntry → State → StartRes) :
    State :=
  match s.startable t q with
  | none => s
  | some e =>
    if dOp e.d = op ∧ free s e then
      s.withHead t q e (fun e s =>
        match check e s with
        | .go r s => s.modEntry t q e.seq (fun e => { e with ph := .running, run := r })
        | .refuse off val s => s.refuse t q e off val
        | .poison a s => s.poisonStart t q e a)
    else s

/-- Checks without records to read. -/
def startChk (c : Chk Run) (s : State) : StartRes :=
  match c with
  | .ok r => .go r s
  | .error (off, val) => .refuse off val s

/-- Requests of an entry that have no response yet. -/
def State.owes (s : State) (t q seq : Nat) : Bool :=
  s.remotes.any (fun r => r.tile == t && r.queue == q && r.seq == seq)

/-- DONE_INC is sent to DONE_CTR when DONE_EN asks for it (R51, R55). -/
def State.signalDone (s : State) (t q : Nat) (e : QEntry) : State :=
  match e.org with
  | .strand _ => if dDoneEn e.d then s.sendEvt (dDoneCtr e.d) (dDoneInc e.d) (.queue t q) else s
  | .mp => { s with mp := { s.mp with done := satAdd 32 s.mp.done 1 } }
  | .restore => s

/-- A descriptor of queues 0 to 5 whose work is all done and acknowledged completes (R55). -/
def State.completeEntry (s : State) (t q : Nat) (e : QEntry) : State := (s.signalDone t q e).removeEntry t q e

/-- The grid of an entry is being stopped (R365, R422). -/
def State.stopping (s : State) (e : QEntry) : Bool := s.grids.any (fun g => g.num == e.grid && g.stopping)

/-- A finished descriptor leaves: it completes, or, where its grid is being stopped, it leaves unsignalled (R220, R253, R274, R307). -/
def State.leaveEntry (s : State) (t q : Nat) (e : QEntry) : State :=
  if s.stopping e then s.removeEntry t q e else s.completeEntry t q e

/-- Completions of queue 6 are applied in issue order (R55): finished entries at the front with nothing unacknowledged
leave. -/
def State.drainEdge (s : State) (t : Nat) : Nat → State
  | 0 => s
  | n + 1 =>
    match (s.tile t).queue 6 with
    | e :: _ => if e.ph = .finished ∧ s.owes t 6 e.seq = false then (s.leaveEntry t 6 e).drainEdge t n else s
    | [] => s

/-- An edge descriptor has completed at its unit. -/
def State.finishEdge (s : State) (t seq : Nat) : State :=
  (s.modEntry t 6 seq (fun e => { e with ph := .finished })).drainEdge t 33

/-- The agent of a tile engine for an entry. -/
def tileAgent (t q : Nat) (e : QEntry) : Agent := ⟨t, t, e.ctx, q, e.seq, true⟩

/-- A save brings the engines to their stop points (R280). -/
def State.saving (s : State) : Bool := s.xl.phase == .stopping

/-- The descriptor stands at its stop point until the context is restored. -/
def State.haltEntry (s : State) (t q seq : Nat) : State := s.modEntry t q seq (fun e => { e with halt := true })

/-- Droop gating or rationing pauses running work (R166, R220, R253, R274). -/
def State.paused (s : State) (t : Nat) : Bool :=
  ((s.holdBits t)[0]?).getD false || ((s.holdBits t)[1]?).getD false || ((s.holdBits t)[6]?).getD false

/-! ### Faults of descriptors (R56, R276) -/

/-- A descriptor takes a translation fault: it stays at its progress record, its queue holds, its strand is parked, the
tile's fault registers of the queue are set, and a FAULT frame is posted (R276). -/
def State.takeFault (s : State) (t q : Nat) (e : QEntry) (reason access addr : Nat) : State :=
  let n := s.xl.faultSeq
  let fr : FaultReg := ⟨true, BitVec.ofNat 64 addr, reason, access, e.ctx, n, e.seq⟩
  let s := { s with xl := { s.xl with faultSeq := n + 1 } }
  let s := s.modTile t (fun v => { v with faults := v.faults.set q fr })
  let s := match e.org with | .strand k => s.parkStrand t k | _ => s
  s.post (some e.ctx) 0x02
    (leBytes 2 (8 * t + q) ++ leBytes 1 reason ++ leBytes 1 access ++ leBytes 4 e.ctx ++ leBytes 4 n.toNat ++
     leBytes 4 0 ++ leBytes 8 addr)

/-- A bank whose READ or QUERY ends without completing has no read running. -/
def State.endRead (s : State) (t q : Nat) : State :=
  if q = 1 ∨ q = 2 then s.modTile t (fun v => v.modBank (q - 1) (fun k => { k with run := ARun.none })) else s

/-- What becomes of an entry whose unit of work failed: a fault is taken, one at a time per queue (R276); a record stops the
strand (R195), and the descriptor's earlier vectors that are not written stay unwritten (DESIGN CHOICE, log 58: R195 names only the output of
the vector itself); a wait for another device leaves it as it is. -/
def State.failEntry (s : State) (t q : Nat) (e : QEntry) (x : XErr) : State :=
  match x with
  | .fault r a ad => if (((s.tile t).faults[q]?).getD FaultReg.none).pend then s else s.takeFault t q e r a ad
  | .stop r => (((s.detect r).endIssuer t e).endRead t q).dropEntry t q e
  | .wait => s

/-- Do up to `n` units of the running head of queue `q`; at the end of the work the entry is finished, and completes once
nothing it sent is unacknowledged (R55, R330). A fault or a stop is taken where it falls. -/
def State.workEntry (s : State) (t q : Nat) (e : QEntry) (u : X Bool) (n : Nat) : State :=
  match runUnits t u n s with
  | (.ok true, s) =>
    if s.owes t q e.seq then s.modEntry t q e.seq (fun e => { e with ph := .finished }) else s.completeEntry t q e
  | (.ok false, s) => s
  | (.error x, s) => s.failEntry t q e x

/-! ### Starts that read a record through translation -/

/-- What the start of an edge descriptor finds. -/
inductive StartX where
  | go (r : Run)
  | refuse (off val : Nat)
  | poison (addr : Nat)

/-- Start the next descriptor of queue 6 at edge unit `edge` when it has the given ENG_OP and the unit can take it (R297). -/
def State.startEdge (s : State) (t op edge : Nat) (free : State → QEntry → Bool) (work : QEntry → X StartX) : State :=
  match s.startable t 6 with
  | none => s
  | some e =>
    if dOp e.d = op ∧ dField e.d 16 2 = edge ∧ free s e then
      s.withHead t 6 e (fun e s =>
        match runUnit t (work e) s with
        | (.error x, s) => s.failEntry t 6 e x
        | (.ok (.go r), s) => s.modEntry t 6 e.seq (fun e => { e with ph := .running, run := r })
        | (.ok (.refuse off val), s) => s.refuse t 6 e off val
        | (.ok (.poison a), s) => s.poisonStart t 6 e a)
    else s

/-! ### Which codes an engine defines (R51, R70) -/

def definedOps (q : Nat) : List Nat :=
  match q with
  | 0 => [0x20, 0x21, 0x22, 0x23, 0x24]
  | 1 => [0x10, 0x11, 0x12]
  | 2 => [0x10, 0x11, 0x12]
  | 3 => [0x01, 0x02, 0x03, 0x04, 0x05]
  | 4 => [0x40, 0x41, 0x42, 0x43, 0x44, 0x45, 0x46]
  | 5 => [0x30, 0x31, 0x32, 0x33]
  | _ => []

/-- The edge units and the codes each defines (R297, R331, R341, R362); EDGE is bytes 16–17. -/
def edgeOps (edge : Nat) : List Nat :=
  match edge with
  | 0x0100 => [0x60, 0x61]
  | 0x0200 => [0x70]
  | 0x0280 => [0x71]
  | 0x0300 => [0x80, 0x81, 0x82, 0x83]
  | 0x0400 => [0x90, 0x91, 0x92]
  | _ => []

/-- The head carries a code that its engine does not define: it is refused at the moment it would start (R51, R70); folds and the
running press hold queue 3 (R54, R205). -/
def doUndefinedEngOp (t q : Nat) (s : State) : State :=
  match s.startable t q with
  | none => s
  | some e =>
    let edge := dField e.d 16 2
    let ops := if q = 6 then edgeOps edge else definedOps q
    if q ≤ 6 ∧ ops.contains (dOp e.d) = false ∧ (q ≠ 3 ∨ (s.tile t).prsIdle = true) then
      s.withHead t q e (fun e s =>
        if q = 6 ∧ (edgeOps edge).isEmpty then s.refuse t q e 16 edge else s.refuse t q e 0 (dOp e.d))
    else s

def execUndefinedEngOp (t q : Nat) (s : State) : Out := .next (doUndefinedEngOp t q s)

end Sys2Proof.Machine
end

