-- ==== Sys2Proof/Machine/Num.lean ====
section
/-! DEFINITION. Exact numbers, rounding, the floating-point, MX, HLN8 and array formats
(03_number_formats.md), the accumulator and the overflow rules (04_scaling_rounding_overflow.md). -/

namespace Sys2Proof.Machine

/-- An exact dyadic number m * 2^e. -/
structure Dy where
  m : Int
  e : Int
deriving DecidableEq, Repr

/-- A finite floating-point value with its own sign, so that -0 stays -0 (R74). -/
structure Fx where
  neg : Bool
  m : Nat
  e : Int
deriving DecidableEq, Repr

/-- What a computing engine reads: none is a NaN or an infinity, which is read as a NaN (R119). -/
abbrev Val := Option Fx

/-- The exact number of a finite value. -/
def Fx.dy (x : Fx) : Dy := ⟨if x.neg then -(x.m : Int) else (x.m : Int), x.e⟩

/-- The mantissa of `x` in units of 2^e, for e at most x.e. -/
def dyAt (x : Dy) (e : Int) : Int := x.m * (2 : Int) ^ (x.e - e).toNat

def dyAdd (x y : Dy) : Dy :=
  let e := min x.e y.e
  ⟨dyAt x e + dyAt y e, e⟩

def dyNeg (x : Dy) : Dy := ⟨-x.m, x.e⟩

def dySub (x y : Dy) : Dy := dyAdd x (dyNeg y)

def dyMul (x y : Dy) : Dy := ⟨x.m * y.m, x.e + y.e⟩

def dyLt (x y : Dy) : Bool :=
  let e := min x.e y.e
  decide (dyAt x e < dyAt y e)

def dyLe (x y : Dy) : Bool := !(dyLt y x)

/-- floor(log2 |x|) of a non-zero number; 0 for zero. -/
def dyLog (x : Dy) : Int := (Nat.log2 x.m.natAbs : Int) + x.e

/-- The largest multiple of 2^g that is at most x (rounding toward minus infinity, R110). -/
def dyFloorAt (x : Dy) (g : Int) : Dy :=
  if g ≤ x.e then ⟨dyAt x g, g⟩ else ⟨Int.fdiv x.m ((2 : Int) ^ (g - x.e).toNat), g⟩

/-- The rounding modes of R112, the upward rounding of R101 and the 16 random bits of SR (R113). -/
inductive Rnd where
  | rne
  | trunc
  | up
  | sr (r : Nat)
deriving DecidableEq, Repr

/-- n / d to an integer (R112, R113). The magnitude is rounded; the caller keeps the sign. -/
def roundQuot (mode : Rnd) (n d : Nat) : Nat :=
  let q := n / d
  let r := n % d
  match mode with
  | .rne => if 2 * r > d || (2 * r == d && q % 2 == 1) then q + 1 else q
  | .trunc => q
  | .up => if r > 0 then q + 1 else q
  | .sr k => if k < r * 65536 / d then q + 1 else q

/-- floor(log2 (n / d)) for positive n and d. -/
def quotLog (n d : Nat) : Int :=
  let g : Int := (Nat.log2 n : Int) - (Nat.log2 d : Int)
  -- n / d < 2^g exactly when the estimate is one too high
  let lo := if 0 ≤ g then n < d * 2 ^ g.toNat else n * 2 ^ (-g).toNat < d
  if lo then g - 1 else g

/-- n / d in units of 2^g, rounded to an integer. -/
def roundUnit (mode : Rnd) (n d : Nat) (g : Int) : Nat :=
  if 0 ≤ g then roundQuot mode n (d * 2 ^ g.toNat) else roundQuot mode (n * 2 ^ (-g).toNat) d

/-- The magnitude pattern of n / d in a binary format of precision `p` whose smallest normal exponent is `emin`:
the exponent field above p - 1 fraction bits, not yet limited to the format's range. -/
def magPattern (p : Nat) (emin : Int) (mode : Rnd) (n d : Nat) : Nat :=
  if n = 0 then 0 else
  let e := max (quotLog n d) emin
  let g := e - (p - 1 : Nat)
  (e - emin).toNat * 2 ^ (p - 1) + roundUnit mode n d g

/-- Round n / d to FP32 (R112, R121): the pattern without its sign, and whether it was beyond the range. -/
def mag32 (mode : Rnd) (n d : Nat) : Nat × Bool :=
  let v := magPattern 24 (-126) mode n d
  if v ≥ 0x7F800000 then (0x7F7FFFFF, true) else (v, false)

/-- Round n / d to BF16: the pattern without its sign, and whether it was beyond the range. -/
def mag16 (mode : Rnd) (n d : Nat) : Nat × Bool :=
  let v := magPattern 8 (-126) mode n d
  if v ≥ 0x7F80 then (0x7F7F, true) else (v, false)

/-- numerator and denominator of |x|. -/
def dyQuot (x : Dy) : Nat × Nat :=
  if 0 ≤ x.e then (x.m.natAbs * 2 ^ x.e.toNat, 1) else (x.m.natAbs, 2 ^ (-x.e).toNat)

/-- The canonical quiet NaN (R75). -/
def nan32 : W32 := 0x7FC00000#32
def nan16 : W16 := 0x7FC0#16
def one32 : W32 := 0x3F800000#32

/-- An FP32 pattern from a sign and a magnitude pattern. -/
def pack32 (neg : Bool) (v : Nat) : W32 := BitVec.ofNat 32 (v + if neg then 0x80000000 else 0)
def pack16 (neg : Bool) (v : Nat) : W16 := BitVec.ofNat 16 (v + if neg then 0x8000 else 0)

/-- Round an exact number to FP32; `zneg` is the sign a zero number takes. Second: counted under SAT (R121). -/
def toF32 (mode : Rnd) (x : Dy) (zneg : Bool) : W32 × Bool :=
  let neg := if x.m = 0 then zneg else decide (x.m < 0)
  let (n, d) := dyQuot x
  let (v, sat) := mag32 mode n d
  (pack32 neg v, sat)

/-- Round an exact number to BF16. -/
def toBF16 (mode : Rnd) (x : Dy) (zneg : Bool) : W16 × Bool :=
  let neg := if x.m = 0 then zneg else decide (x.m < 0)
  let (n, d) := dyQuot x
  let (v, sat) := mag16 mode n d
  (pack16 neg v, sat)

/-- The value an FP32 pattern reads as (R73, R74, R119). -/
def val32 (w : W32) : Val :=
  let e := bitsOf w.toNat 23 8
  let f := bitsOf w.toNat 0 23
  let neg := bitOf w.toNat 31
  if e = 255 then none
  else if e = 0 then some ⟨neg, f, -149⟩
  else some ⟨neg, f + 0x800000, (e : Int) - 150⟩

/-- BF16 is bits [31:16] of an FP32 value (R73). -/
def bf32 (w : W16) : W32 := BitVec.ofNat 32 (w.toNat * 65536)

def val16 (w : W16) : Val := val32 (bf32 w)

/-- FP32 to BF16 in a rounding mode: a NaN or infinity gives the canonical NaN (R73, R75). -/
def cvt16 (mode : Rnd) (w : W32) : W16 × Bool :=
  match val32 w with
  | none => (nan16, false)
  | some x => toBF16 mode x.dy x.neg

/-- Whether a pattern is a NaN or an infinity. -/
def nonFin (w : W32) : Bool := (val32 w).isNone

/-! ### FP32 arithmetic: the exact result rounded once (R119, R120) -/

/-- The result of an FP32 operation: its pattern, and whether it counts under counter 0 (R121). -/
abbrev FRes := W32 × Bool

def f32Add (mode : Rnd) (a b : W32) : FRes :=
  match val32 a, val32 b with
  | some x, some y =>
    let s := dyAdd x.dy y.dy
    toF32 mode s (x.neg && y.neg && x.m == 0 && y.m == 0)
  | _, _ => (nan32, false)

def f32Neg (a : W32) : W32 := a ^^^ 0x80000000#32

def f32Abs (a : W32) : W32 := a &&& 0x7FFFFFFF#32

def f32Sub (mode : Rnd) (a b : W32) : FRes :=
  if nonFin b then (nan32, false) else f32Add mode a (f32Neg b)

def f32Mul (mode : Rnd) (a b : W32) : FRes :=
  match val32 a, val32 b with
  | some x, some y => toF32 mode (dyMul x.dy y.dy) (x.neg != y.neg)
  | _, _ => (nan32, false)

/-- a * b + c with one rounding. -/
def f32Fma (mode : Rnd) (a b c : W32) : FRes :=
  match val32 a, val32 b, val32 c with
  | some x, some y, some z =>
    let p := dyMul x.dy y.dy
    let pn := x.neg != y.neg
    toF32 mode (dyAdd p z.dy) (p.m == 0 && pn && z.neg && z.m == 0)
  | _, _, _ => (nan32, false)

/-- Division, correctly rounded; a non-zero value over a zero gives the largest finite value (R119). -/
def f32Div (mode : Rnd) (a b : W32) : FRes :=
  match val32 a, val32 b with
  | some x, some y =>
    let neg := x.neg != y.neg
    if y.m = 0 then
      if x.m = 0 then (nan32, false) else (pack32 neg 0x7F7FFFFF, true)
    else
      let (n1, d1) := dyQuot x.dy
      let (n2, d2) := dyQuot y.dy
      let (v, sat) := mag32 mode (n1 * d2) (d1 * n2)
      (pack32 neg v, sat)
  | _, _ => (nan32, false)

/-- Integer square root, one bit of the result per unit of fuel. -/
def isqrtGo : Nat → Nat → Nat → Nat
  | 0, _, r => r
  | k + 1, n, r => let c := r + 2 ^ k; isqrtGo k n (if c * c ≤ n then c else r)

/-- floor of the square root of n. -/
def isqrt (n : Nat) : Nat := isqrtGo (Nat.log2 n / 2 + 1) n 0

/-- A rational within 2^-60 relative of sqrt(n / d), below it by less than one unit and never on a rounding boundary
unless exact: numerator and denominator. -/
def sqrtQuot (n d : Nat) : Nat × Nat :=
  let k := Nat.log2 d + 100
  let x := n * 4 ^ k / d
  let r := isqrt x
  let exact := r * r == x && (n * 4 ^ k) % d == 0
  (2 * r + (if exact then 0 else 1), 2 * 2 ^ k)

/-- Square root, correctly rounded; of a negative value the canonical NaN, of -0 -0 (R119). -/
def f32Sqrt (mode : Rnd) (a : W32) : FRes :=
  match val32 a with
  | none => (nan32, false)
  | some x =>
    if x.m = 0 then (pack32 x.neg 0, false)
    else if x.neg then (nan32, false)
    else
      let (n, d) := dyQuot x.dy
      let (n', d') := sqrtQuot n d
      let (v, sat) := mag32 mode n' d'
      (pack32 false v, sat)

/-- The FP32 magnitude patterns within 1 ulp of n / d (R237); `k` picks one of them. -/
def within1ulp (n d k : Nat) : Nat :=
  let lo := (mag32 .trunc n d).1
  let cands := [lo, lo + 1, lo - 1, lo - 2].filter (fun v =>
    v ≤ 0x7F7FFFFF &&
    (match val32 (BitVec.ofNat 32 v), val32 (BitVec.ofNat 32 lo) with
     | some x, some y =>
       -- |x - n/d| ≤ 1 ulp, the ulp of lo
       let (xn, xd) := dyQuot x.dy
       let ulp := max (dyLog y.dy) (-126) - 23
       let diff := if xn * d ≥ n * xd then xn * d - n * xd else n * xd - xn * d
       if 0 ≤ ulp then diff ≤ xd * d * 2 ^ ulp.toNat else diff * 2 ^ (-ulp).toNat ≤ xd * d
     | _, _ => false))
  (cands[k % max cands.length 1]?).getD lo

/-- 2^(m / 2^64) in units of 2^-160, for m below 2^64, as a product of 2^(1/2), 2^(1/4), …: the first 150 bits are exact. Called with
64, m, 2 and 1 in those units. -/
def exp2Go : Nat → Nat → Nat → Nat → Nat
  | 0, _, _, v => v
  | k + 1, m, r, v =>
    let r := isqrt (r * 2 ^ 160)
    exp2Go k m r (if bitOf m k then v * r / 2 ^ 160 else v)

/-- 2^x: numerator and denominator of a number within 2^-60 relative of it. -/
def exp2Quot (x : Dy) : Nat × Nat :=
  let m := (dyFloorAt x (-64)).m
  let q := Int.fdiv m (2 ^ 64)
  let v := exp2Go 64 (Int.fmod m (2 ^ 64)).toNat (2 * 2 ^ 160) (2 ^ 160)
  if 0 ≤ q then (v * 2 ^ q.toNat, 2 ^ 160) else (v, 2 ^ (160 + (-q).toNat))

/-- The next `k` binary digits of the logarithm of x / 2^200, from 1 to below 2: squaring doubles the logarithm. -/
def log2Go : Nat → Nat → Nat → Nat
  | 0, _, l => l
  | k + 1, x, l =>
    let y := x * x / 2 ^ 200
    if 2 ^ 201 ≤ y then log2Go k (y / 2) (2 * l + 1) else log2Go k y (2 * l)

/-- log2 of a positive number in units of 2^-100, rounded down. -/
def log2Units (x : Fx) : Int :=
  let g := Nat.log2 x.m
  ((g : Int) + x.e) * 2 ^ 100 + (log2Go 100 (x.m * 2 ^ (200 - g)) 0 : Nat)

/-- The FP32 magnitude patterns within 1 ulp of a number that n / d approximates (R237); `k` picks one of them. The bound is widened by
2^-30 ulp, more than the approximation can be off. -/
def near1ulp (n d k : Nat) : Nat :=
  let lo := (mag32 .trunc n d).1
  let ulp := max (quotLog n d) (-126) - 23
  let cands := [lo, lo + 1, lo + 2, lo - 1, lo - 2].filter (fun v =>
    v ≤ 0x7F7FFFFF &&
    (match val32 (BitVec.ofNat 32 v) with
     | some x =>
       let (xn, xd) := dyQuot x.dy
       let diff := (if xn * d ≥ n * xd then xn * d - n * xd else n * xd - xn * d) * 2 ^ 30
       let one := (2 ^ 30 + 1) * (xd * d)
       if 0 ≤ ulp then diff ≤ one * 2 ^ ulp.toNat else diff * 2 ^ (-ulp).toNat ≤ one
     | none => false))
  (cands[k % max cands.length 1]?).getD lo

/-- RCP (0x10), RSQRT (0x11), EXP2 (0x12), LOG2 (0x13): NaN and zero cases by R119, EXP2 below the smallest subnormal +0 by R120,
the rest the part's fixed value within 1 ulp. -/
def f32Approx (op : Nat) (a : W32) : FRes :=
  match val32 a with
  | none => (nan32, false)
  | some x =>
    let pick := Config.approxPick op a
    match op with
    | 0x10 =>
      if x.m = 0 then (pack32 x.neg 0x7F7FFFFF, true)
      else
        let (n, d) := dyQuot x.dy
        if (mag32 .rne d n).2 then (pack32 x.neg 0x7F7FFFFF, true)
        else (pack32 x.neg (within1ulp d n pick), false)
    | 0x11 =>
      if x.m = 0 then (pack32 x.neg 0x7F7FFFFF, true)
      else if x.neg then (nan32, false)
      else
        let (n, d) := dyQuot x.dy
        let (n', d') := sqrtQuot d n
        (pack32 false (within1ulp n' d' pick), false)
    | 0x12 =>
      if dyLe ⟨128, 0⟩ x.dy then (pack32 false 0x7F7FFFFF, true)
      else if dyLt x.dy ⟨-149, 0⟩ then (0#32, false)
      else
        let (n, d) := exp2Quot x.dy
        (pack32 false (near1ulp n d pick), false)
    | _ =>
      if x.m = 0 then (pack32 true 0x7F7FFFFF, true)
      else if x.neg then (nan32, false)
      else
        let l := log2Units x
        if l = 0 then (pack32 (pick / 2 % 2 == 1 && pick % 2 == 1) (pick % 2), false)
        else (pack32 (decide (l < 0)) (near1ulp l.natAbs (2 ^ 100) pick), false)

/-! ### The stochastic generator (R114) -/

def golden64 : W64 := 0x9E3779B97F4A7C15#64

/-- The 16 random bits of a rounding (R114). -/
def srBits (seed : W64) (unit seq i : Nat) : Nat :=
  let x : W64 := BitVec.ofNat 64 (unit * 2 ^ 48 ||| (seq % 2 ^ 24) * 2 ^ 24 ||| i % 2 ^ 24)
  let z := (seed ^^^ x) + golden64
  let z := (z ^^^ (z >>> 30)) * 0xBF58476D1CE4E5B9#64
  let z := (z ^^^ (z >>> 27)) * 0x94D049BB133111EB#64
  let z := z ^^^ (z >>> 31)
  (z >>> 48).toNat

/-- The rounding of element `i` in the 2-bit mode of R112; 0b11 is refused before it gets here. -/
def rndOf (mode : Nat) (seed : W64) (unit seq i : Nat) : Rnd :=
  match mode with
  | 0 => .rne
  | 1 => .sr (srBits seed unit seq i)
  | _ => .trunc

/-! ### Formats (R69) -/

/-- Element size in bits; none for a reserved code (R69). -/
def fmtBits (c : Nat) : Option Nat :=
  match c with
  | 0x00 => some 32 | 0x01 => some 16
  | 0x04 => some 8 | 0x05 => some 8 | 0x06 => some 6 | 0x07 => some 6 | 0x08 => some 4
  | 0x09 => some 8 | 0x0C => some 8
  | 0x10 => some 8 | 0x11 => some 4 | 0x14 => some 8 | 0x15 => some 4
  | 0x18 => some 8 | 0x1C => some 8 | 0x1D => some 32
  | _ => none

/-- MX or HLN8 (blocks of 32 with an E8M0 scale). -/
def isBlockFmt (c : Nat) : Bool := [0x04, 0x05, 0x06, 0x07, 0x08, 0x09, 0x0C].contains c

/-- Exponent bits, fraction bits, bias and largest finite magnitude code of the MX floating formats (R77). -/
def mxParams (c : Nat) : Option (Nat × Nat × Int × Nat) :=
  match c with
  | 0x04 => some (4, 3, 7, 0x7E)
  | 0x05 => some (5, 2, 15, 0x7B)
  | 0x06 => some (3, 2, 3, 0x1F)
  | 0x07 => some (2, 3, 1, 0x1F)
  | 0x08 => some (2, 1, 1, 0x7)
  | _ => none

/-- The largest finite magnitude F of a format (04, "The rennet pass"); HLN8's is irrational: see fmtFPow. -/
def fmtF (c : Nat) : Dy :=
  match c with
  | 0x04 => ⟨448, 0⟩ | 0x05 => ⟨57344, 0⟩ | 0x06 => ⟨28, 0⟩ | 0x07 => ⟨15, -1⟩
  | 0x08 => ⟨6, 0⟩ | _ => ⟨127, -6⟩

/-- An element as it is held at an engine's input stage or on a link. -/
inductive MxElem where
  | num (x : Fx)      -- a finite value before the block scale
  | nan
deriving DecidableEq, Repr

/-- Decode one MX element code (R77, R79). An E5M2 infinity reads as a NaN (R80). -/
def mxDecode (c code : Nat) : MxElem :=
  match mxParams c with
  | some (eb, mb, bias, _) =>
    let neg := bitOf code (eb + mb)
    let e := bitsOf code mb eb
    let f := bitsOf code 0 mb
    let mag := bitsOf code 0 (eb + mb)
    if (c = 0x04 && mag == 0x7F) || (c = 0x05 && e == 31) then .nan
    else if e = 0 then .num ⟨neg, f, 1 - bias - mb⟩
    else .num ⟨neg, f + 2 ^ mb, (e : Int) - bias - mb⟩
  | none =>
    -- MXINT8 (R79)
    let n : Int := (BitVec.ofNat 8 code).toInt
    .num ⟨decide (n < 0), n.natAbs, -6⟩

/-- What an encoding did: the code and the counters it raises (R121). -/
structure Enc where
  code : Nat
  sat : Bool := false
  flush : Bool := false
  nonfin : Bool := false
deriving DecidableEq, Repr

/-- Encode |x| / (sT * 2^(E - 127)), given as n / d, with the sign of x, into an MX format (R72, R77, R79, R121). An element saturates when
its rounded value is beyond F, so 450 in E4M3 gives 448 and does not count; the same holds of every range of R121 (DESIGN CHOICE, log 60:
R121 does not say whether a value is beyond a range before or after rounding). -/
def mxEncode (c : Nat) (mode : Rnd) (neg : Bool) (n d : Nat) : Enc :=
  match mxParams c with
  | some (eb, mb, bias, top) =>
    let v := magPattern (mb + 1) (1 - bias) mode n d
    let sign := if neg then 2 ^ (eb + mb) else 0
    if v > top then { code := top + sign, sat := true }
    else if v = 0 then { code := 0, flush := decide (n ≠ 0) }   -- +0 (R80, R121)
    else { code := v + sign }
  | none =>
    let v := roundQuot mode (n * 64) d
    let w := if v > 127 then 127 else v
    { code := if neg && w ≠ 0 then 256 - w else w, sat := decide (v > 127), flush := decide (w = 0 ∧ n ≠ 0) }

/-- n / d at least 2^(k/32), exactly. -/
def geqRoot32 (n d : Nat) (k : Int) : Bool :=
  if 0 ≤ k then d ^ 32 * 2 ^ k.toNat ≤ n ^ 32 else d ^ 32 ≤ n ^ 32 * 2 ^ (-k).toNat

/-- The integer L from `lo` upward, at most `lo + fuel`, nearest to 16 log2 (n/d) (R83). -/
def hlnSearch (n d : Nat) : Nat → Int → Int
  | 0, l => l
  | k + 1, l => if geqRoot32 n d (2 * l + 1) then hlnSearch n d k (l + 1) else l

/-- HLN8 encoding of r = n / d with the sign of x (R83). -/
def hlnEncode (neg : Bool) (n d : Nat) : Enc :=
  if n = 0 then { code := 0x40 }
  else if !geqRoot32 n d (-127) then { code := 0x40, flush := true }
  else if geqRoot32 n d 127 then { code := 0x3F + (if neg then 0x80 else 0), sat := true }
  else
    let l := hlnSearch n d 126 (-63)
    { code := (l % 128).toNat + (if neg then 0x80 else 0) }

/-- The linear table T of R85. -/
def hlnTable : List Nat :=
  [2048, 2139, 2233, 2332, 2435, 2543, 2656, 2774, 2896, 3025, 3158, 3298, 3444, 3597, 3756, 3922]

/-- The log field of an HLN8 code, signed (R81). -/
def hlnLog (code : Nat) : Int := (BitVec.ofNat 7 code).toInt

/-- T[j] * 2^(q - 11) for the log sum k (R84). -/
def hlnLinear (k : Int) : Nat × Int :=
  let q := Int.fdiv k 16
  ((hlnTable[(k - 16 * q).toNat]?).getD 0, q - 11)

/-- An operand element at the matrix engine's input stage: its exact value, its HLN8 code where it has one, and the
non-finite mark (R80). -/
structure Opd where
  bad : Bool            -- NaN, infinity, an element under scale 0xFF, or a non-finite mark
  x : Dy                -- exact value, block scale included
  hln : Option Nat      -- the code, for an HLN8 pair (R84)
  scale : Int           -- E - 127
deriving DecidableEq, Repr

/-- An HLN8 element decoded by itself, by the table of R85 with k = L, and narrowed to BF16; other operands stay as they are. -/
def hlnSingle (o : Opd) : Opd :=
  match o.hln with
  | none => o
  | some c =>
    if c % 128 = 0x40 then ⟨c != 0x40, ⟨0, 0⟩, none, 0⟩
    else
      let (t, e) := hlnLinear (hlnLog c)
      match val16 (toBF16 .rne ⟨if 128 ≤ c then -(t : Int) else t, e + o.scale⟩ false).1 with
      | some y => ⟨false, y.dy, none, 0⟩
      | none => ⟨true, ⟨0, 0⟩, none, 0⟩

/-- Convert one memory value to the operand format under block scale `eb` and tensor scale `st` (R72, R80, R83): the
operand, and the counters it raises. -/
def opdOf (c : Nat) (w : W32) (eb : Nat) (st : W32) : Opd × Enc :=
  match val32 w with
  | none => (⟨true, ⟨0, 0⟩, none, 0⟩, { code := 0, nonfin := true })
  | some x =>
    if !isBlockFmt c then
      if c = 0x01 then
        let (b, sat) := toBF16 .rne x.dy x.neg
        match val16 b with
        | some y => (⟨false, y.dy, none, 0⟩, { code := b.toNat, sat := sat })
        | none => (⟨true, ⟨0, 0⟩, none, 0⟩, { code := b.toNat })
      else (⟨false, x.dy, none, 0⟩, { code := 0 })
    else if eb = 0xFF then (⟨true, ⟨0, 0⟩, none, 0⟩, { code := 0 })
    else
      let sc : Int := (eb : Int) - 127
      let (n0, d0) := dyQuot x.dy
      let (sn, sd) := match val32 st with | some y => dyQuot y.dy | none => (1, 1)
      let n := n0 * sd * (if sc < 0 then 2 ^ (-sc).toNat else 1)
      let d := d0 * sn * (if 0 ≤ sc then 2 ^ sc.toNat else 1)
      if c = 0x0C then
        let r := hlnEncode x.neg n d
        (⟨false, ⟨0, 0⟩, some r.code, sc⟩, r)
      else
        let r := mxEncode c .rne x.neg n d
        match mxDecode c r.code with
        | .num y => (⟨false, ⟨y.dy.m, y.e + sc⟩, none, sc⟩, r)
        | .nan => (⟨true, ⟨0, 0⟩, none, sc⟩, r)

/-- The exact product of two operand elements (R84, R209). -/
def opdMul (a b : Opd) : Dy :=
  match a.hln, b.hln with
  | some p, some q =>
    if p % 256 = 0x40 || q % 256 = 0x40 then ⟨0, 0⟩
    else
      let (t, e) := hlnLinear (hlnLog p + hlnLog q)
      let neg := bitOf p 7 != bitOf q 7
      ⟨if neg then -(t : Int) else t, e + a.scale + b.scale⟩
  | _, _ => dyMul a.x b.x

/-! ### The accumulator (R110, R111) -/

/-- The accumulator A, the side sum of R111 and whether a sum was held at the range's end (R121). -/
structure Accum where
  a : Dy
  side : Dy
  sat : Bool
deriving DecidableEq, Repr

def Accum.zero : Accum := ⟨⟨0, 0⟩, ⟨0, 0⟩, false⟩

/-- The largest exponent among the non-zero numbers of a list. -/
def maxLog (l : List Dy) : Option Int :=
  l.foldl (fun o x => if x.m = 0 then o else
    match o with | none => some (dyLog x) | some v => some (max v (dyLog x))) none

/-- An FP32 accumulator takes a sum whose exponent is not above e: where FP32 cannot hold it, one of its two neighbours; R110 does not say
which (DESIGN CHOICE, log 60). -/
def acc24 (s : Dy) : Dy :=
  let g := max (dyLog s - 23) (-149)
  let f := dyFloorAt s g
  if (dySub s f).m = 0 then s else if Config.accUp (dyAt s (-400)) then dyAdd f ⟨1, g⟩ else f

/-- One accumulation step over the products of one issue (R110, R111). -/
def accStep (acc : Accum) (ps : List Dy) : Accum :=
  match maxLog (acc.a :: ps) with
  | none => acc
  | some e =>
    let g := max (e - 23) (-149)
    let fl := ps.map (fun p => dyFloorAt p g)
    let s := fl.foldl dyAdd acc.a
    let lost := (ps.zip fl).foldl (fun n pf => if (dySub pf.1 pf.2).m = 0 then n else n + 1) 0
    let side := dyAdd acc.side ⟨lost, g - 1⟩
    let s := if s.m = 0 then s else if e < dyLog s then dyFloorAt s (max (dyLog s - 23) (-149)) else acc24 s
    let top : Dy := ⟨0xFFFFFF, 104⟩
    if dyLt top s then { a := top, side := side, sat := true }
    else if dyLt s (dyNeg top) then { a := dyNeg top, side := side, sat := true }
    else { a := s, side := side, sat := acc.sat }

/-- Steps over consecutive chunks of `kc` products, in ascending order (R209, R218). -/
def accSteps (kc : Nat) : Nat → Accum → List Dy → Accum
  | 0, acc, _ => acc
  | f + 1, acc, ps =>
    if ps.isEmpty then acc else accSteps kc f (accStep acc (ps.take kc)) (ps.drop kc)

/-- The finished dot product as FP32 (R111 where asked); a dot product with a bad element is the canonical NaN (R120). -/
def accDone (acc : Accum) (bias : Bool) : FRes :=
  let x := if bias then dyAdd acc.a acc.side else acc.a
  let (w, sat) := toF32 .rne x false
  (w, sat || acc.sat)

/-- One dot product under R110: pairs of operand elements in ascending K (R218). -/
def dotProduct (kc : Nat) (bias : Bool) (ps : List (Opd × Opd)) : FRes :=
  if ps.any (fun p => p.1.bad || p.2.bad) then (nan32, false)
  else
    let l := ps.map (fun p => opdMul p.1 p.2)
    accDone (accSteps kc (l.length + 1) Accum.zero l) bias

/-- Products per accumulator per issue of a format (R209). -/
def kcOf (c : Nat) : Nat :=
  match c with
  | 0x00 => 4
  | 0x01 => 32
  | 0x08 => 128
  | _ => 64

/-- A pair takes the kc of the slower member (R209). -/
def kcPair (a b : Nat) : Nat := min (kcOf a) (kcOf b)

/-! ### Scale selection (R101, R105, R153) -/

/-- The FP32 scale max(RU(n/d), 2^-126) (R101, R153). -/
def scaleRU (n d : Nat) : W32 :=
  pack32 false (max (mag32 .up n d).1 0x00800000)

/-- The FP32 value s at least amax / 2^(63/16), rounded upward (R101 for HLN8), by bisection over patterns. -/
def hlnScaleGo (n d : Nat) : Nat → Nat → Nat → Nat
  | 0, lo, _ => lo
  | k + 1, lo, hi =>
    if lo ≥ hi then lo
    else
      let mid := (lo + hi) / 2
      let (mn, md) := match val32 (BitVec.ofNat 32 mid) with | some x => dyQuot x.dy | none => (1, 1)
      -- mid^16 * 2^63 ≥ (n/d)^16
      if n ^ 16 * md ^ 16 ≤ mn ^ 16 * 2 ^ 63 * d ^ 16 then hlnScaleGo n d k lo mid
      else hlnScaleGo n d k (mid + 1) hi

/-- s_T of R101 for a format, from amax_T. -/
def tensorScale (c : Nat) (amaxT : W32) : W32 :=
  match val32 amaxT with
  | none => one32
  | some x =>
    if x.m = 0 then one32
    else
      let (n, d) := dyQuot x.dy
      if c = 0x0C then pack32 false (max (hlnScaleGo n d 33 1 0x7F7FFFFF) 0x00800000)
      else
        let (fn, fd) := dyQuot (fmtF c)
        scaleRU (n * fd) (d * fn)

/-- amax_b ≤ s_T * F * 2^c, exactly (R101). -/
def fitsScale (c : Nat) (bn bd sn sd : Nat) (k : Int) : Bool :=
  let bn := bn * (if k < 0 then 2 ^ (-k).toNat else 1)
  let sn := sn * (if 0 ≤ k then 2 ^ k.toNat else 1)
  if c = 0x0C then (bn * sd) ^ 16 ≤ (sn * bd) ^ 16 * 2 ^ 63
  else
    let (fn, fd) := dyQuot (fmtF c)
    bn * sd * fd ≤ sn * fn * bd

/-- The smallest c from `k` upward for which the block fits, at most 128. -/
def blockExpGo (c : Nat) (bn bd sn sd : Nat) : Nat → Int → Int
  | 0, k => k
  | f + 1, k => if fitsScale c bn bd sn sd k then k else blockExpGo c bn bd sn sd f (k + 1)

/-- The block scale E of R101 from the block maximum; none for a block with a NaN or an infinity. -/
def blockScale (c : Nat) (st : W32) (bmax : Val) : Nat :=
  match bmax with
  | none => 0xFF
  | some x =>
    if x.m = 0 then 0
    else
      let (bn, bd) := dyQuot x.dy
      let (sn, sd) := match val32 st with | some y => dyQuot y.dy | none => (1, 1)
      min (127 + blockExpGo c bn bd sn sd 300 (-127)).toNat 0xFE

/-- The larger of two magnitudes. -/
def maxMag (a b : W32) : W32 := if (f32Abs a).toNat < (f32Abs b).toNat then f32Abs b else f32Abs a

/-- The largest k from -127 to 127 with amax * 2^k at most Q (R105). -/
def shiftOfGo (n d q : Nat) : Nat → Int → Int
  | 0, k => k
  | f + 1, k =>
    if (if 0 ≤ k then n * 2 ^ k.toNat ≤ q * d else n ≤ q * d * 2 ^ (-k).toNat) then k
    else shiftOfGo n d q f (k - 1)

def shiftOf (amax : W32) (q : Nat) : Int :=
  match val32 amax with
  | none => 0
  | some x => if x.m = 0 then 0 else let (n, d) := dyQuot x.dy; shiftOfGo n d q 254 127

/-- x * 2^k rounded to an integer: sign and magnitude. -/
def scaledInt (mode : Rnd) (x : Fx) (k : Int) : Bool × Nat :=
  let (n, d) := dyQuot ⟨x.dy.m, x.e + k⟩
  (x.neg, roundQuot mode n d)

end Sys2Proof.Machine
end

