-- ==== Sys2Proof/Machine/Matrix.lean ====
section
/-! DEFINITION. The matrix engine (chapter 08), RESCORE (R397, R398) and the sampling of its tiles (R435). -/

namespace Sys2Proof.Machine

/-! ### Descriptor and product record (R215–R217) -/

/-- A product record (R216), 64 bytes, or a descriptor's own copy of it. -/
structure Prod where
  asc : Nat
  bsc : Nat
  sta : W32
  stb : W32
  lda : Nat
  ldb : Nat
  ldc : Nat
  astep : Nat
  bstep : Nat
  cstep : Nat
  srca : Nat
  srcb : Nat
deriving DecidableEq, Repr

def prodOf (l : List Byte) : Prod :=
  ⟨lField l 0 4, lField l 4 4, BitVec.ofNat 32 (lField l 8 4), BitVec.ofNat 32 (lField l 12 4), lField l 16 4,
   lField l 20 4, lField l 24 4, lField l 28 4, lField l 32 4, lField l 36 4, lField l 40 1, lField l 41 1⟩

/-- Fields of a matrix descriptor (R215). -/
def mmM (d : W512) : Nat := dField d 40 2
def mmN (d : W512) : Nat := dField d 42 2
def mmK (d : W512) : Nat := dField d 44 4
def mmFa (d : W512) : Nat := dField d 48 1
def mmFb (d : W512) : Nat := dField d 49 1
def mmTa (d : W512) : Bool := bitOf (dField d 50 1) 0
def mmBf (d : W512) : Bool := bitOf (dField d 50 1) 1
def mmBias (d : W512) : Bool := bitOf (dField d 50 1) 2
def mmFbq (d : W512) : Bool := bitOf (dField d 50 1) 3
def mmRmode (d : W512) : Nat := bitsOf (dField d 50 1) 4 2

/-- The element size in memory of an operand: its own format, or SRC for an MX or HLN8 operand (R212, R216). -/
def memSize (fmt src : Nat) : Nat :=
  if fmt = 0x00 then 4 else if fmt = 0x01 then 2 else if src = 0x01 then 2 else 4

/-- A format the matrix engine takes (R92). -/
def mmFmt (f : Nat) : Bool := f == 0x00 || f == 0x01 || isBlockFmt f

/-- A tensor scale: 0 for none, else positive, finite and normal (R98, R216). -/
def scaleOk (w : W32) : Bool := w == 0#32 || (0x00800000 ≤ w.toNat && w.toNat ≤ 0x7F7FFFFF)

/-- Operand A, and op(A) as it lies in memory (R212); operand B (R215, R216). -/
def mmRegA (d : W512) (r : Prod) : Region :=
  ⟨dField d 16 8 + dPatch d * r.astep, r.lda, if mmTa d then mmK d else mmM d,
   (if mmTa d then mmM d else mmK d) * memSize (mmFa d) r.srca⟩
def mmRegB (d : W512) (r : Prod) : Region :=
  ⟨dField d 24 8 + dPatch d * r.bstep, r.ldb, mmK d, mmN d * memSize (mmFb d) r.srcb⟩

/-- A BF16 operand does not lie in a vat (R71). -/
def Region.bfOk (x : Region) (size : Nat) : Bool := size != 2 || !rowsVat x.base x.ld x.rows x.n

/-- The checks of R215 to R217 that do not concern the target's end. For a VATZERO only K is ignored, with the conditions that K enters
(R215; DEDUCED, log 60). -/
def mmChk (op : Nat) (d : W512) (l : List Byte) : Chk Unit := do
  let r := prodOf l
  let a := memSize (mmFa d) r.srca
  let b := memSize (mmFb d) r.srcb
  let c := if mmBf d then 2 else 4
  let zero := op == 0x23
  chkAddr d 16
  chkAddr d 24
  chk (dField d 32 4 % 64 == 0) 32 (dField d 32 4)
  chk (1 ≤ mmM d) 40 (mmM d)
  chk (32 ≤ mmN d && mmN d ≤ 16384 && mmN d % 32 == 0) 42 (mmN d)
  if !zero then
    chk (32 ≤ mmK d && mmK d ≤ 16777216 && mmK d % 32 == 0) 44 (mmK d)
  chk (mmFmt (mmFa d) && (mmFa d != 0x0C || mmFb d == 0x0C)) 48 (mmFa d)
  chk (mmFmt (mmFb d) && (mmFb d != 0x0C || mmFa d == 0x0C)) 49 (mmFb d)
  chk (dField d 50 1 / 64 == 0 && mmRmode d != 3 && (op != 0x21 || !mmBf d) &&
    ((op != 0x22 && op != 0x23) || (!mmBf d && !mmFbq d))) 50 (dField d 50 1)
  chkZero d 51 5
  chk ((r.asc == 0) == !isBlockFmt (mmFa d)) 0x100 r.asc
  chk ((r.bsc == 0) == !isBlockFmt (mmFb d)) 0x104 r.bsc
  chk (scaleOk r.sta) 0x108 r.sta.toNat
  chk (scaleOk r.stb) 0x10C r.stb.toNat
  chk (r.lda % 64 == 0 && (if mmTa d then mmM d else if zero then 0 else mmK d) * a ≤ r.lda) 0x110 r.lda
  chk (mmN d * b ≤ r.ldb) 0x114 r.ldb
  chk (mmN d * c ≤ r.ldc) 0x118 r.ldc
  chk (r.astep % 64 == 0) 0x11C r.astep
  chk (r.bstep % 64 == 0) 0x120 r.bstep
  chk (r.cstep % 64 == 0) 0x124 r.cstep
  chk (r.srca == 0 || (r.srca == 1 && isBlockFmt (mmFa d))) 0x128 r.srca
  chk (r.srcb == 0 || (r.srcb == 1 && isBlockFmt (mmFb d))) 0x129 r.srcb
  chkZeroL l 42 22
  if !zero then
    chk ((mmRegA d r).bfOk a) 48 (mmFa d)
    chk ((mmRegB d r).bfOk b) 49 (mmFb d)

/-- C_OFS with its patch (R215). -/
def mmC (d : W512) (r : Prod) : Nat := dField d 32 4 + dPatch d * r.cstep

/-- C and the scale tables lie in the scratchpad, or the vat region in the vat (R217). -/
def mmEnds (op : Nat) (d : W512) (l : List Byte) : Chk Unit := do
  let r := prodOf l
  let c := if mmBf d then 2 else 4
  let last := mmC d r + (mmM d - 1) * r.ldc + c * mmN d
  if op = 0x22 ∨ op = 0x23 then chk (last ≤ 0x200000) 32 (dField d 32 4)
  else chk (last ≤ 0x300000) 32 (dField d 32 4)
  if op ≠ 0x23 then
    chk (!isBlockFmt (mmFa d) || r.asc + mmM d * (mmK d / 32) ≤ 0x300000) 0x100 r.asc
    chk (!isBlockFmt (mmFb d) || r.bsc + mmN d * (mmK d / 32) ≤ 0x300000) 0x104 r.bsc

/-- The start of a matrix descriptor: the record is read once, the fields are checked, and under SR the engine's seq
advances (R114, R215–R217). A descriptor whose RMODE is SR starts in SR mode where it has a BF16 output to round, so with OUTBF16 only
(DESIGN CHOICE, log 60: R215 applies RMODE only to that output). -/
def mmStart (t op : Nat) (e : QEntry) (s : State) : StartRes :=
  let d := e.d
  let ofs := dField d 36 4
  if ofs % 64 ≠ 0 ∨ 0x300000 < ofs + 64 then .refuse 36 ofs s
  else
    let ((l, p), s) := s.readRecord t ofs e.ctx 16
    if p then .poison ofs s
    else
      match (do mmChk op d l; mmEnds op d l : Chk Unit) with
      | .error (off, val) => .refuse off val s
      | .ok _ =>
        let sr := mmBf d && mmRmode d == 1
        let v := s.tile t
        let run := { Run.start with seed := v.seed, seq := v.mxSeq.toNat, snap := [l] }
        .go run (if sr then s.modTile t (fun v => { v with mxSeq := v.mxSeq + 1 }) else s)

def doMm (t : Nat) (s : State) : State := s.startDesc t 0 0x20 (fun _ _ => true) (mmStart t 0x20)
def doMmacc (t : Nat) (s : State) : State := s.startDesc t 0 0x21 (fun _ _ => true) (mmStart t 0x21)
def doMmvat (t : Nat) (s : State) : State := s.startDesc t 0 0x22 (vatFree t) (mmStart t 0x22)
def doVatzero (t : Nat) (s : State) : State := s.startDesc t 0 0x23 (vatFree t) (mmStart t 0x23)

/-! ### Operands -/

/-- One element in memory: its FP32 value and whether it is marked. -/
def xElem (g : Agent) (a size : Nat) : X (W32 × Bool) := do
  if size = 2 then
    let (v, p) ← xReadBytes g a 2
    pure (bf32 (BitVec.ofNat 16 v), p)
  else
    let (v, p) ← xReadBytes g a 4
    pure (BitVec.ofNat 32 v, p)

/-- The elements at a list of addresses. -/
def xElems (g : Agent) (size : Nat) : List Nat → X (List (W32 × Bool))
  | [] => pure []
  | a :: r => do
    let x ← xElem g a size
    let l ← xElems g size r
    pure (x :: l)

/-- The byte at a scratchpad offset, with its mark. -/
def xSpadByte (t ctx o : Nat) : X (Nat × Bool) := do
  let (w, p) ← xSpad t (o / 4 * 4) ctx
  pure (bitsOf w.toNat (8 * (o % 4)) 8, p)

/-- The scale bytes of `n` consecutive blocks. -/
def xScales (t ctx o : Nat) : Nat → X (List (Nat × Bool))
  | 0 => pure []
  | n + 1 => do
    let b ← xSpadByte t ctx o
    let r ← xScales t ctx (o + 1) n
    pure (b :: r)

/-- A converted operand line along K: the elements, the marks, the FP32 values read, and the counts of R122 that the
conversion raises (SAT, NONFIN, FLUSHBLK, FLUSHEL). -/
structure OpLine where
  elems : List Opd
  marks : List Bool
  raw : List W32
  sat : Nat
  nonfin : Nat
  flushBlk : Nat
  flushEl : Nat
deriving DecidableEq, Repr

/-- Convert the elements of a line under its block scales (R72, R80, R121, R123). -/
def convLine (fmt : Nat) (st : W32) (xs : List (W32 × Bool)) (sc : List (Nat × Bool)) : OpLine :=
  let r := xs.zipIdx.map (fun p => opdOf fmt p.1.1 (((sc[p.2 / 32]?).map (·.1)).getD 127) st)
  let cnt (f : Enc → Bool) : Nat := (r.filter (fun x => f x.2)).length
  let blocks := (List.range (xs.length / 32)).filter (fun b =>
    let es := (r.drop (32 * b)).take 32
    isBlockFmt fmt && es.any (fun x => x.2.flush) && es.all (fun x => x.2.code == (if fmt = 0x0C then 0x40 else 0)))
  let zeroed := blocks.filter (fun b =>
    ((xs.drop (32 * b)).take 32).all (fun x => !nonFin x.1) && (((sc[b]?).map (·.1)).getD 127) ≠ 0xFF)
  ⟨r.map (·.1), xs.zipIdx.map (fun p => p.1.2 || ((sc[p.2 / 32]?).map (·.2)).getD false), xs.map (·.1),
   cnt (·.sat), cnt (·.nonfin), zeroed.length, cnt (·.flush)⟩

/-- Row `m` of op(A) along K (R212, R213). -/
def xRowA (g : Agent) (d : W512) (r : Prod) (m : Nat) : X OpLine := do
  let a := memSize (mmFa d) r.srca
  let base := dField d 16 8 + dPatch d * r.astep
  let addrs := (List.range (mmK d)).map (fun k => if mmTa d then base + k * r.lda + m * a else base + m * r.lda + k * a)
  let xs ← xElems g a addrs
  let sc ← if isBlockFmt (mmFa d) then xScales g.tile g.ctx (r.asc + m * (mmK d / 32)) (mmK d / 32) else pure []
  pure (convLine (mmFa d) (if r.sta = 0#32 then one32 else r.sta) xs sc)

/-- Column `n` of B along K. -/
def xColB (g : Agent) (d : W512) (r : Prod) (n : Nat) : X OpLine := do
  let b := memSize (mmFb d) r.srcb
  let base := dField d 24 8 + dPatch d * r.bstep
  let xs ← xElems g b ((List.range (mmK d)).map (fun k => base + k * r.ldb + n * b))
  let sc ← if isBlockFmt (mmFb d) then xScales g.tile g.ctx (r.bsc + n * (mmK d / 32)) (mmK d / 32) else pure []
  pure (convLine (mmFb d) (if r.stb = 0#32 then one32 else r.stb) xs sc)

def xLines (f : Nat → X OpLine) : List Nat → X (List OpLine)
  | [] => pure []
  | i :: r => do
    let x ← f i
    let l ← xLines f r
    pure (x :: l)

/-! ### One tile of C -/

/-- A tensor scale of a record; the code 0 stands for 1.0 (R216). -/
def scaleOf (w : W32) : W32 := if w = 0#32 then one32 else w

/-- s = RNE(s_TA × s_TB) (R100), and whether it saturates. -/
def prodScale (r : Prod) : FRes := f32Mul .rne (scaleOf r.sta) (scaleOf r.stb)

/-- The scale of the wide recompute (R436): a source value in a wide format is not divided by its tensor scale (R72), so the scale of an
operand that the narrow product takes in an MX format has no part; a decoded HLN8 element stands under its tensor scale (R97). -/
def wideScale (d : W512) (r : Prod) : FRes :=
  let f (c : Nat) (s : W32) : W32 := if isBlockFmt c && c != 0x0C then one32 else scaleOf s
  f32Mul .rne (f (mmFa d) r.sta) (f (mmFb d) r.stb)

/-- An element of C before it is written: its FP32 value, its mark, whether it counts as saturated (R121). -/
structure CElem where
  v : W32
  mark : Bool
  sat : Bool
deriving DecidableEq, Repr

/-- D × s for one row and one column (R110, R111, R218). -/
def prodElem (kc : Nat) (bias : Bool) (s : W32) (a b : OpLine) : CElem :=
  let (v, s1) := dotProduct kc bias (a.elems.zip b.elems)
  let (w, s2) := f32Mul .rne v s
  ⟨w, a.marks.any id || b.marks.any id, s1 || s2⟩

/-- RNE(old + value) of MMACC and MMVAT (R218, R226). -/
def addOld (old : W32 × Bool) (c : CElem) : CElem :=
  let (v, s) := f32Add .rne old.1 c.v
  ⟨v, old.2 || c.mark, c.sat || s⟩

/-- The number of tiles of C. They are numbered, worked and queued in row-major order (DESIGN CHOICE, log 60: R219 leaves the order
open). -/
def mmTiles (d : W512) : Nat := ceilDiv (mmM d) 64 * (mmN d / 32)

def tileRows (d : W512) (i : Nat) : List Nat :=
  let m0 := i / (mmN d / 32) * 64
  (List.range (min 64 (mmM d - m0))).map (· + m0)

def tileCols (d : W512) (i : Nat) : List Nat := (List.range 32).map (· + i % (mmN d / 32) * 32)

/-- The wider of a format and BF16 (R436). -/
def wideFmt (f : Nat) : Nat := if f = 0x00 then 0x00 else 0x01

/-- A converted line again, in the wider format: an HLN8 element is decoded by the table of R85 and taken in BF16, an element of any other
format is taken from the source value as it was read (DEDUCED, log 60: R436 has each operand in the wider of its own format and BF16,
R85 decodes the HLN8 elements of the recompute). -/
def wideLine (f : Nat) (l : OpLine) : OpLine :=
  { l with elems := if f = 0x0C then l.elems.map hlnSingle else l.raw.map (fun w => (opdOf (wideFmt f) w 127 one32).1) }

/-- The limit on e in percent for a pair, the coarser member deciding; 0 for bit-exact (R436). -/
def shLimit (a b : Nat) : Nat :=
  let f (c : Nat) : Nat :=
    match c with
    | 0x0C => 6 | 0x09 => 8 | 0x04 => 12 | 0x07 => 12 | 0x05 => 24 | 0x06 => 24 | 0x08 => 60 | _ => 0
  max (f a) (f b)

/-- An operand lies wholly in the issuing tile's own scratchpad, by whichever address it is named (R211). -/
def State.ownSpad (s : State) (g : Agent) (x : Region) : Bool :=
  let win := tileBase + g.tile * 0x800000
  let last := x.base + (x.rows - 1) * x.ld + x.n
  (s.regionPages g x 0).all (fun p =>
    match p.2 with
    | some (.here pa) =>
      win ≤ pa + (max x.base (p.1 * 0x200000) - p.1 * 0x200000) && pa + (min last ((p.1 + 1) * 0x200000) - p.1 * 0x200000) ≤ win + 0x300000
    | _ => false)

/-- The issue count of a tile and the slots that the operand port loses (R209–R211); where an operand lies outside the
scratchpad, a free number of slots more. -/
def countIssues (t ctx : Nat) (d : W512) (r : Prod) (rows kc : Nat) (s : State) : State :=
  let n := rows * ceilDiv (mmK d) kc
  let num := kc * memSize (mmFa d) r.srca * rows + kc * 32 * memSize (mmFb d) r.srcb
  let lost := n * (ceilDiv num (512 * rows) - 1)
  let g : Agent := ⟨t, t, ctx, 0, 0, true⟩
  let own := s.ownSpad g (mmRegA d r) && s.ownSpad g (mmRegB d r)
  let (f, s) := if own then (0#64, s) else s.draw
  s.modTile t (fun v => { v with mxe := { v.mxe with
    issues := v.mxe.issues + BitVec.ofNat 64 n, portwait := v.mxe.portwait + BitVec.ofNat 64 lost + f } })

/-- Mark an entry of the vat; a newly marked one counts (R226). -/
def State.poisonVat (s : State) (t o : Nat) : State :=
  let s := if ((s.tile t).vat.read32 o).2.1 then s
    else s.modTile t (fun v => { v with mxe := { v.mxe with vatpoison := satAdd 32 v.mxe.vatpoison 1 } })
  s.modTile t (fun v => { v with vat := v.vat.setSyn o poisonSyn })

/-- VATZERO of `n` bytes from `a`: +0, and every entry wholly inside loses its mark (R226, R503). `joined` says that the row's zeroes
run on from the bytes before `a`, so that an entry across `a` is inside too, and `more` that they run on behind. An entry that the row
covers only in part is read first, with what the read of a flawed word logs and counts. -/
def State.zeroVat (s : State) (t ctx a n : Nat) (joined more : Bool) : State :=
  let s := if !joined && a % 4 != 0 then (s.readLoc (.vat t (a / 4 * 4)) (some ctx)).2 else s
  let s := if !more && (a + n) % 4 != 0 then (s.readLoc (.vat t ((a + n) / 4 * 4)) (some ctx)).2 else s
  let lo := if joined then a / 4 * 4 else roundUp a 4
  s.modTile t (fun v => { v with vat :=
    (List.range (((a + n) / 4 * 4 - lo) / 4)).foldl (fun m i => m.setSyn (lo + 4 * i) 0#7) (v.vat.putBytes a (List.replicate n 0#8)) })

/-- Write a committed element: to the vat, or to the scratchpad. A word that does not start at a multiple of 4 (R216 asks no multiple of
LDC) is written by its bytes, and marks both words that it touches. -/
def State.putC (s : State) (t : Nat) (vat : Bool) (w : ShWrite) : State :=
  let (v, s) := s.made w.v
  let w := { w with v := v }
  if w.addr % 4 ≠ 0 then
    let s := if vat then s.modTile t (fun x => { x with vat := x.vat.putBytes w.addr (leBytes 4 w.v.toNat) })
      else s.writeBytesLoc t (.spad t w.addr) (leBytes 4 w.v.toNat)
    if w.poison then [w.addr / 4 * 4, w.addr / 4 * 4 + 4].foldl (fun s a =>
        if vat then s.poisonVat t a else s.modTile t (fun v => { v with spad := v.spad.setSyn a poisonSyn })) s
    else s
  else if vat then
    let was := ((s.tile t).vat.read32 w.addr).2.1
    let s := if w.poison && !was then
        s.modTile t (fun v => { v with mxe := { v.mxe with vatpoison := satAdd 32 v.mxe.vatpoison 1 } })
      else s
    s.writeVat t w.addr w.v w.poison
  else s.writeLoc t (.spad t w.addr) w.v w.poison

/-- The words that a tile of results becomes (R212, R218): FP32 words, or pairs of BF16 values. -/
def packC (d : W512) (r : Prod) (cs : List (Nat × Nat × CElem)) (seed : W64) (unit seq : Nat) :
    List ShWrite × Nat :=
  if mmBf d then
    let bs := cs.map (fun p =>
      let (m, n, c) := p
      let (h, sat) := cvt16 (rndOf (mmRmode d) seed unit seq ((m * mmN d + n) % 2 ^ 24)) c.v
      (m, n, h, c.mark, sat || c.sat))
    let sat := (bs.filter (fun p => p.2.2.2.2)).length
    let words := bs.zipIdx.filterMap (fun p =>
      if p.2 % 2 = 0 then
        let (m, n, h, mk, _) := p.1
        let o := ((bs[p.2 + 1]?).map (fun q => (q.2.2.1, q.2.2.2.1))).getD (0#16, false)
        some ⟨mmC d r + m * r.ldc + 2 * n, 4, BitVec.ofNat 32 (h.toNat + o.1.toNat * 65536), mk || o.2⟩
      else none)
    (words, sat)
  else
    (cs.map (fun p => ⟨mmC d r + p.1 * r.ldc + 4 * p.2.1, 4, p.2.2.v, p.2.2.mark⟩),
     (cs.filter (fun p => p.2.2.sat)).length)

/-- How many of the next `n` units of a kind are samples that the shadow unit takes (R435), and the state with the units counted: a busy
unit skips each and counts it. Where MXLOG or ARLOG has been lowered, the count goes on at its remainder by the new period (DESIGN CHOICE,
log 31: R435 does not say where the count then stands). -/
def State.sampleDue (s : State) (t : Nat) (matrix : Bool) (n : Nat) : Nat × State :=
  let sh := (s.tile t).shadow
  if !sh.en then (0, s)
  else
    let p := 2 ^ (if matrix then sh.mxLog else sh.arLog)
    let c := (if matrix then sh.mxCount else sh.arCount) % p + n
    let sh' := if matrix then { sh with mxCount := c % p } else { sh with arCount := c % p }
    let s := s.modTile t (fun v => { v with shadow := sh' })
    if sh.sample.isSome then
      (0, s.modTile t (fun v => { v with shadow := { v.shadow with skipped := satAdd 16 v.shadow.skipped (c / p) } }))
    else (c / p, s)

/-- Pass a block to a finished-block sub-queue (R248). -/
def State.pushFbq (s : State) (t src : Nat) (b : FbEnt) : State :=
  s.modTile t (fun v => { v with vec := { v.vec with fbq := modAt v.vec.fbq src (fun l => l ++ [b]) } })

def Tile.fbqLen (v : Tile) (src : Nat) : Nat := ((v.vec.fbq[src]?).getD []).length

/-- The matrix engine's sub-queue has no place for one more block, one that the shadow unit holds counted (R248, R249). -/
def Tile.fbqFull (v : Tile) : Bool :=
  16 ≤ v.fbqLen 0 + (match v.shadow.sample with | some (.matrix _ _ _ _ _ _ _ blk) => blk.length | _ => 0)

/-- C overlaps A, B or a scale table (R217). -/
def mmOverlap (s : State) (g : Agent) (d : W512) (r : Prod) (vat : Bool) : Bool :=
  let c : Region := ⟨selfBase + (if vat then 0x400000 else 0) + mmC d r, r.ldc, mmM d, mmN d * (if mmBf d then 2 else 4)⟩
  s.overlaps g (mmRegA d r) c || s.overlaps g (mmRegB d r) c ||
  (isBlockFmt (mmFa d) && s.overlaps g ⟨selfBase + r.asc, 0, 1, mmM d * (mmK d / 32)⟩ c) ||
  (isBlockFmt (mmFb d) && s.overlaps g ⟨selfBase + r.bsc, 0, 1, mmN d * (mmK d / 32)⟩ c)

/-- Compute and commit tile `i` of C (R217–R219): true at the last tile. -/
def mmTile (t : Nat) (e : QEntry) : X Bool := do
  let d := e.d
  let op := dOp d
  let l := (e.run.snap[0]?).getD []
  let r := prodOf l
  let i := e.run.unit
  let rows := tileRows d i
  let cols := tileCols d i
  let last := i + 1 ≥ mmTiles d
  let vat := op == 0x22 || op == 0x23
  let step : State → State := fun s => s.modEntry t 0 e.seq (fun e => e.modRun (fun r => { r with unit := i + 1 }))
  if op = 0x23 then
    let n0 := cols.headD 0
    xMod (fun s => step (rows.foldl (fun s m => s.zeroVat t e.ctx (mmC d r + m * r.ldc + 4 * n0) (4 * cols.length) (n0 != 0)
      (n0 + cols.length < mmN d)) s))
    pure last
  else
    let g := tileAgent t 0 e
    let as ← xLines (xRowA g d r) rows
    let bs ← xLines (xColB g d r) cols
    let kc := kcPair (mmFa d) (mmFb d)
    let sc := prodScale r
    let grid (as bs : List OpLine) (kc : Nat) (sc : W32) : List (Nat × Nat × CElem) :=
      ((rows.zip as).map (fun ma => (cols.zip bs).map (fun nb =>
        (ma.1, nb.1, prodElem kc (mmBias d) sc ma.2 nb.2)))).flatten
    let prods := grid as bs kc sc.1
    let wide := grid (as.map (wideLine (mmFa d))) (bs.map (wideLine (mmFb d)))
      (kcPair (wideFmt (mmFa d)) (wideFmt (mmFb d))) (wideScale d r).1
    let old ← if op = 0x20 then pure [] else
      xElemsAt t g.ctx vat (prods.map (fun p => mmC d r + p.1 * r.ldc + 4 * p.2.1))
    let acc (ps : List (Nat × Nat × CElem)) : List (Nat × Nat × CElem) :=
      if op = 0x20 then ps else (ps.zip old).map (fun q => (q.1.1, q.1.2.1, addOld q.2 q.1.2.2))
    let laps := mmOverlap (← xState) g d r vat
    let cs ← if laps then freeC (acc prods) else pure (acc prods)
    let ws := acc wide
    let (words, sat) := packC d r cs e.run.seed (2 * t) e.run.seq
    let nan := (cs.filter (fun p => nonFin p.2.2.v)).length
    xMod (fun s =>
      let s := countIssues t g.ctx d r rows.length kc s
      let cnt (f : OpLine → Nat) : Nat :=
        (if i % (mmN d / 32) = 0 then (as.map f).sum else 0) + (if i < mmN d / 32 then (bs.map f).sum else 0)
      let olds := (old.filter (fun x => nonFin x.1)).length
      let s := s.numCounts t [(0, sat + cnt (·.sat) + (if i = 0 then b2n sc.2 else 0)), (1, nan), (2, cnt (·.nonfin) + olds), (5, cnt (·.flushBlk)), (6, cnt (·.flushEl))]
      let s := if op = 0x22 then
          s.modTile t (fun v => { v with mxe := { v.mxe with vatadds := v.mxe.vatadds + BitVec.ofNat 64 cs.length } })
        else s
      let (smp, s) := s.sampleDue t true 1
      let blk : FbEnt :=
        ⟨BitVec.ofNat 64 (selfBase + mmC d r + (rows.headD 0) * r.ldc + (cols.headD 0) * (if mmBf d then 2 else 4)),
         if mmBf d then 0x01 else 0x00, rows.length, 32, r.ldc, rows.headD 0, cols.headD 0, last⟩
      let blk := if mmFbq d then [blk] else []
      let s :=
        if 0 < smp then
          let x : Sample := .matrix 0 e.seq (cs.map (·.2.2.v)) (ws.map (·.2.2.v)) (shLimit (mmFa d) (mmFb d)) vat words blk
          s.modTile t (fun v => { v with shadow := { v.shadow with sample := some x } })
        else blk.foldl (fun s b => s.pushFbq t 0 b) (words.foldl (fun s w => s.putC t vat w) s)
      step s)
    pure last
where
  /-- Elements whose written values are unspecified (R217). -/
  freeC : List (Nat × Nat × CElem) → X (List (Nat × Nat × CElem))
    | [] => pure []
    | c :: r => do
      let v ← xDo (fun s => s.draw)
      let l ← freeC r
      pure ((c.1, c.2.1, { c.2.2 with v := v.setWidth 32 }) :: l)
  /-- Old values of C in the vat or the scratchpad. -/
  xElemsAt (t ctx : Nat) (vat : Bool) : List Nat → X (List (W32 × Bool))
    | [] => pure []
    | a :: r => do
      let loc (a : Nat) : Loc := if vat then .vat t a else .spad t a
      let x ← xDo (fun s => s.readLoc (loc (a / 4 * 4)) (some ctx))
      let y ← if a % 4 = 0 then pure (0#32, false) else xDo (fun s => s.readLoc (loc (a / 4 * 4 + 4)) (some ctx))
      let x := (BitVec.ofNat 32 (bitsOf (x.1.toNat + y.1.toNat * 2 ^ 32) (8 * (a % 4)) 32), x.2 || y.2)
      let l ← xElemsAt t ctx vat r
      pure (x :: l)

/-! ### RESCORE (R397, R398) -/

/-- A candidate: score and ID; empty entries carry the ID 0xFFFF_FFFF (R389, R393). -/
structure Cand where
  score : W32
  id : W32
  mark : Bool
deriving DecidableEq, Repr

def Cand.empty : Cand := ⟨0xFF7FFFFF#32, 0xFFFFFFFF#32, false⟩

def Cand.isEmpty (c : Cand) : Bool := c.id == 0xFFFFFFFF#32 || nonFin c.score

/-- Whether `a` ranks above `b` (R393): larger score first, equal scores by lower ID, empty entries last. -/
def Cand.above (a b : Cand) : Bool :=
  if a.isEmpty then false
  else if b.isEmpty then true
  else match val32 a.score, val32 b.score with
    | some x, some y => dyLt y.dy x.dy || (!dyLt x.dy y.dy && a.id.toNat < b.id.toNat)
    | _, _ => false

def candInsert (c : Cand) : List Cand → List Cand
  | [] => [c]
  | h :: r => if Cand.above c h then c :: h :: r else h :: candInsert c r

/-- Candidates in rank order; entries that rank equal keep their order. -/
def candSort (l : List Cand) : List Cand := l.foldl (fun acc c => candInsert c acc) []

/-- The two words of an entry; an entry that counts as empty is written as one (R393, R396). -/
def Cand.words (c : Cand) : List (W32 × Bool) :=
  if c.isEmpty then [(Cand.empty.score, c.mark), (Cand.empty.id, c.mark)] else [(c.score, c.mark), (c.id, c.mark)]

def rsNc (d : W512) : Nat := dField d 44 2

/-- The checks of RESCORE (R397). -/
def rescoreChk (d : W512) (l : List Byte) : Chk Unit := do
  let dd := lField l 20 2
  chkAddr d 16
  chkAddr d 24
  chkAddr d 32
  chk (1 ≤ rsNc d && rsNc d ≤ 1024) 44 (rsNc d)
  chkZero d 46 10
  chk (lField l 16 4 % 64 == 0 && 2 * dd ≤ lField l 16 4) 0x110 (lField l 16 4)
  chk (32 ≤ dd && dd ≤ 1024 && dd % 32 == 0) 0x114 dd
  chk (lField l 22 1 ≤ 1) 0x116 (lField l 22 1)
  chk (lField l 23 1 ≤ 1) 0x117 (lField l 23 1)
  chkZeroL l 24 40
  chk (!vatHit (dField d 24 8 + dPatch d * roundUp (2 * dd) 64) (2 * dd)) 24 (dField d 24 8)
  chk (!vatHit (lField l 0 8) (2 * dd)) 0x100 (lField l 0 8)

def rescoreStart (t : Nat) (e : QEntry) (s : State) : StartRes :=
  let ofs := dField e.d 40 4
  if ofs % 64 ≠ 0 ∨ 0x300000 < ofs + 64 then .refuse 40 ofs s
  else
    let ((l, p), s) := s.readRecord t ofs e.ctx 16
    if p then .poison ofs s
    else match rescoreChk e.d l with
      | .error (off, val) => .refuse off val s
      | .ok _ => .go { Run.start with snap := [l] } s

def doRescore (t : Nat) (s : State) : State := s.startDesc t 0 0x24 (fun _ _ => true) (rescoreStart t)

/-- Score one candidate exactly (R398), and count what saturates, what is read non-finite and a NaN that it gives (R121). Its row takes
`dd / 32` issues, and a free number of slots more where it lies outside the tile's scratchpad (R211). An entry is empty by its ID; the
score that it brings has no part. -/
def rescoreOne (g : Agent) (l : List Byte) (q : List (W32 × Bool)) (c : Cand) : X Cand := do
  if c.id = 0xFFFFFFFF#32 then pure { Cand.empty with mark := c.mark }
  else
    let dd := lField l 20 2
    let x := c.id.toNat
    let r := x / 1024 * (if lField l 22 1 = 1 then 1024 else 512) + x % 1024
    let base := lField l 0 8 + r * lField l 16 4
    let row ← xElems g 2 ((List.range dd).map (fun k => base + 2 * k))
    xMod (fun s =>
      let (f, s) := if s.ownSpad g ⟨base, 0, 1, 2 * dd⟩ then (0#64, s) else s.draw
      s.modTile g.tile (fun v => { v with mxe := { v.mxe with
        issues := v.mxe.issues + BitVec.ofNat 64 (dd / 32), portwait := v.mxe.portwait + f } }))
    let op (w : W32 × Bool) : Opd := (opdOf 0x01 w.1 127 one32).1
    let (v, sat) := dotProduct 32 (bitOf (lField l 23 1) 0) ((q.map op).zip (row.map op))
    let mark := c.mark || q.any (·.2) || row.any (·.2)
    let bad := (row.filter (fun x => nonFin x.1)).length
    if lField l 8 8 = 0 then
      xMod (fun s => s.numCounts g.tile [(0, b2n sat), (1, b2n (nonFin v)), (2, bad)])
      pure ⟨v, c.id, mark⟩
    else
      let o ← xReadBytes g (lField l 8 8 + 4 * r) 4
      let w := BitVec.ofNat 32 o.1
      let x := f32Add .rne v w
      xMod (fun s => s.numCounts g.tile [(0, b2n sat + b2n x.2), (1, b2n (nonFin x.1)), (2, bad + b2n (nonFin w))])
      pure ⟨x.1, c.id, mark || o.2⟩

def rescoreAll (g : Agent) (l : List Byte) (q : List (W32 × Bool)) : List Cand → X (List Cand)
  | [] => pure []
  | c :: r => do
    let x ← rescoreOne g l q c
    let xs ← rescoreAll g l q r
    pure (x :: xs)

/-- A rescored list (R398): rank order, with the candidates whose score is a NaN below every other and above the empty entries, in the
order given (DESIGN CHOICE, log 58: R393 ranks no NaN); a NaN is written as it is. -/
def rescored (l : List Cand) : List (W32 × Bool) :=
  let full := l.filter (fun c => c.id != 0xFFFFFFFF#32)
  let best := candSort (full.filter (fun c => !nonFin c.score)) ++ full.filter (fun c => nonFin c.score)
  (best.map (fun c => [(c.score, c.mark), (c.id, c.mark)])).flatten ++ ((l.filter (fun c => c.id == 0xFFFFFFFF#32)).map Cand.words).flatten

/-- The candidates of a list of word pairs. -/
def candsOf : List (W32 × Bool) → List Cand
  | a :: b :: r => ⟨a.1, b.1, a.2 || b.2⟩ :: candsOf r
  | _ => []

/-- The operands of a RESCORE: the candidate list, the query, and the row and the offset of each candidate that is not empty (R397,
R398). -/
def rsReads (d : W512) (l : List Byte) (cs : List Cand) : List Region :=
  let row (c : Cand) : Nat := c.id.toNat / 1024 * (if lField l 22 1 = 1 then 1024 else 512) + c.id.toNat % 1024
  let one (c : Cand) : List Region :=
    ⟨lField l 0 8 + row c * lField l 16 4, 0, 1, 2 * lField l 20 2⟩ ::
      (if lField l 8 8 = 0 then [] else [⟨lField l 8 8 + 4 * row c, 0, 1, 4⟩])
  ⟨dField d 16 8 + dPatch d * rsNc d * 8, 0, 1, rsNc d * 8⟩ ::
  ⟨dField d 24 8 + dPatch d * roundUp (2 * lField l 20 2) 64, 0, 1, 2 * lField l 20 2⟩ ::
  ((cs.filter (fun c => c.id != 0xFFFFFFFF#32)).map one).flatten

/-- The whole of a RESCORE: its list is written in rank order (R398); where the list overlaps an operand, the words written are
unspecified (R217, R398), so each is free. -/
def rescoreWork (t : Nat) (e : QEntry) : X Bool := do
  let d := e.d
  let g := tileAgent t 0 e
  let l := (e.run.snap[0]?).getD []
  let n := dPatch d
  let dd := lField l 20 2
  let cw ← xReadWords g (dField d 16 8 + n * rsNc d * 8) (2 * rsNc d)
  let q ← xElems g 2 ((List.range dd).map (fun k => dField d 24 8 + n * roundUp (2 * dd) 64 + 2 * k))
  let cs ← rescoreAll g l q (candsOf cw)
  xMod (fun s => s.numCount t 2 (q.filter (fun x => nonFin x.1)).length)
  let out := dField d 32 8 + n * rsNc d * 8
  let s ← xState
  let laps := (rsReads d l (candsOf cw)).any (fun r => s.overlaps g r ⟨out, 0, 1, rsNc d * 8⟩)
  let ws := rescored cs
  let ws ← if laps then do
      let fs ← xDo (freeWords ws.length)
      pure ((fs.zip ws).map (fun p => (p.1.1, p.2.2)))
    else pure ws
  xWriteWords g out ws
  flushRemote g
  pure true

/-! ### Reads beside the matrix engine (R199) -/

def rdNvec (d : W512) : Nat := dField d 52 2
def rdFbq (d : W512) : Bool := bitOf (dField d 54 1) 0

/-- The running read of a bank, where it may go on (R35, R46). -/
def State.bankRun (s : State) (t b : Nat) : Option QEntry :=
  let v := s.tile t
  if b < 2 ∧ s.paused t = false ∧ ((v.faults[b + 1]?).getD FaultReg.none).pend = false then
    match v.running (b + 1) with
    | some e => if dOp e.d = 0x10 ∨ dOp e.d = 0x12 then some e else none
    | none => none
  else none

/-- The sample in the shadow unit is this vector of this read (R435). -/
def Tile.sampleVec (v : Tile) (b seq vec : Nat) : Bool :=
  match v.shadow.sample with
  | some (.vector b' s' _ _ _ i) => b' == b && s' == seq && i == vec
  | _ => false

/-- The finished-block entries of a bank, those that wait for acknowledgements counted (R248, R249). -/
def Tile.fbHeld (v : Tile) (b : Nat) : Nat := v.fbqLen (b + 1) + (v.bank b).run.fbDue.length

/-- The place in the order of reading of a bank's next companion work, where the matrix engine can do it (R199): the first waiting vector
with work, unless the vectors in front wait for a comparison; or, after the last read, the divert batch, unless its rows have no place. -/
def State.compReady (s : State) (t b : Nat) : Option Nat :=
  match s.bankRun t b with
  | none => none
  | some e =>
    let v := s.tile t
    let r := (v.bank b).run
    match r.pend with
    | pv :: l => if v.sampleVec b e.seq pv.vec then none else ((pv :: l).find? (·.work)).map (·.order)
    | [] =>
      if dOp e.d = 0x10 ∧ r.vec = rdNvec e.d ∧ (rdFbq e.d && 16 ≤ v.fbHeld b) = false then r.divs.head?.map (·.order) else none

/-- Companion work of order `n` of bank `b` comes before that of the other bank (R199). -/
def State.compFirst (s : State) (t b n : Nat) : Bool :=
  match s.compReady t (1 - b) with
  | some o => n < o
  | none => true

/-- The tags of a descriptor's writes to other devices that are not acknowledged. -/
def State.writeTags (s : State) (t q seq : Nat) : List Nat :=
  (s.remotes.filter (fun r => r.opc == 0x01 && r.tile == t && r.queue == q && r.seq == seq)).map (·.tag)

/-- The rows of a READ that wait for acknowledgements: each is passed on once none of its own writes is outstanding (R248). -/
def State.flushDue (s : State) (t q seq : Nat) : State :=
  if (q = 1 ∨ q = 2) ∧ ((s.tile t).running q).any (fun e => e.seq == seq) = true then
    let out := s.writeTags t q seq
    let held (x : FbEnt × List Nat) : Bool := x.2.any out.contains
    let due := ((s.tile t).bank (q - 1)).run.fbDue
    let s' := (due.filter (fun x => !held x)).foldl (fun s x => s.pushFbq t q x.1) s
    s'.modTile t (fun v => v.modBank (q - 1) (fun k => { k with run := { k.run with fbDue := due.filter held } }))
  else s

/-! ### MATRIX_TILE_COMMIT (R219, R220, R249) -/

/-- A sample of an earlier descriptor of the queue is still in the shadow unit (R435). -/
def Tile.sampleOf (v : Tile) (q seq : Nat) (same : Bool) : Bool :=
  match v.shadow.sample with
  | some (.matrix q' s' _ _ _ _ _ _) => q' == q && (if same then s' == seq else s' != seq)
  | some (.vector b s' _ _ _ _) => b + 1 == q && (if same then s' == seq else s' != seq)
  | none => false

/-- The units of a queue-0 descriptor: tiles of C, or one for a RESCORE. -/
def matrixUnits (d : W512) : Nat := if dOp d = 0x24 then 1 else mmTiles d

/-- The engine commits the next tile of the running descriptor. It does not while droop gating or rationing pauses it, while companion work
is ready, which runs ahead of it (R199), while the finished-block sub-queue is full, or while its queue's fault is pending. A descriptor
whose grid is being stopped ends at this commit, unsignalled; under pre-emption it stops at this commit (R220). -/
def doMatrixTileCommit (t : Nat) (s : State) : State :=
  let v := s.tile t
  match v.running 0 with
  | none => s
  | some e =>
    if s.paused t || ((v.faults[0]?).getD FaultReg.none).pend || (mmFbq e.d && v.fbqFull && dOp e.d != 0x24) ||
       v.sampleOf 0 e.seq false || (s.saving && e.halt) || (s.compReady t 0).isSome || (s.compReady t 1).isSome then s
    else if matrixUnits e.d ≤ e.run.unit then s
    else
      match runUnit t (if dOp e.d = 0x24 then rescoreWork t e else do
          let last ← mmTile t e
          flushRemote (tileAgent t 0 e)
          pure last) s with
      | (.error x, s) => s.failEntry t 0 e x
      | (.ok _, s) =>
        let s := if dOp e.d = 0x24 then s.modEntry t 0 e.seq (fun e => e.modRun (fun r => { r with unit := 1 })) else s
        if s.stopping e then s.dropEntry t 0 e
        else if s.saving then s.haltEntry t 0 e.seq
        else s

def execMm (t : Nat) (s : State) : Out := .next (doMm t s)
def execMmacc (t : Nat) (s : State) : Out := .next (doMmacc t s)
def execMmvat (t : Nat) (s : State) : Out := .next (doMmvat t s)
def execVatzero (t : Nat) (s : State) : Out := .next (doVatzero t s)
def execRescore (t : Nat) (s : State) : Out := .next (doRescore t s)
def execMatrixTileCommit (t : Nat) (s : State) : Out := .next (doMatrixTileCommit t s)

end Sys2Proof.Machine
end

