-- ==== Sys2Proof/Machine/Array.lean ====
section
/-! DEFINITION. The array engine: reads, composition, spill, companion work, queries (chapters 05, 07, 15). -/

namespace Sys2Proof.Machine

/-! ### The image of a bank -/

def Bank.w8 (k : Bank) : Bool := k.fmt == 1

/-- Output columns of a format (R90). -/
def Bank.cols (k : Bank) : Nat := if k.w8 then 512 else 1024

/-- The weight code w at row `i` and column `j` (R88). -/
def Bank.weight (k : Bank) (i j : Nat) : Int :=
  if k.w8 then (smGet 0#8 k.codes (512 * i + j)).toInt
  else
    let b := smGet 0#8 k.codes (512 * i + j / 2)
    (BitVec.ofNat 4 (bitsOf b.toNat (4 * (j % 2)) 4)).toInt

/-- The stored value u of a weight (R88). -/
def Bank.stored (k : Bank) (i j : Nat) : Nat := (k.weight i j + (if k.w8 then 128 else 8)).toNat

/-- The scale s_w of a column. -/
def Bank.scale (k : Bank) (j : Nat) : W32 := smGet 0#32 k.scales j

/-- The macro of an output column (R90). -/
def Bank.macOf (k : Bank) (j : Nat) : Nat := j / (if k.w8 then 128 else 256)

/-- The wear block of a group of a macro (R171). -/
def blockOf (b m g : Nat) : Nat := 64 * b + 16 * m + g

def Prs.block (p : Prs) (n : Nat) : Block := smGet Block.none p.ledger.blocks n

/-- A slice of a column: its weight, whether its cells are multi-level, the low bit and the width of its bits of u
(R89). -/
def sliceOf (w8 : Bool) (s : Nat) : Nat × Bool × Nat × Nat :=
  if w8 then
    match s with
    | 0 => (128, false, 7, 1) | 1 => (64, false, 6, 1) | 2 => (32, false, 5, 1) | 3 => (16, false, 4, 1)
    | 4 => (4, true, 2, 2) | _ => (1, true, 0, 2)
  else
    match s with
    | 0 => (8, false, 3, 1) | 1 => (4, false, 2, 1) | _ => (1, true, 0, 2)

/-! ### Group codes (R131, R134, R135, R137) -/

/-- The rows of group `g` that plane `p` drives (R87). -/
def drivenRows (vs : List Nat) (g p : Nat) : List Nat :=
  ((List.range 64).map (· + 64 * g)).filter (fun i => bitOf ((vs[i]?).getD 0) p)

/-- One line of a macro: the column and slice it serves, or a reference column. -/
inductive Line where
  | data (j s : Nat)
  | ref (r : Nat)
deriving DecidableEq, Repr

def lineOf (w8 : Bool) (mac line : Nat) : Line :=
  if 768 ≤ line then .ref (line - 768)
  else if w8 then .data (mac * 128 + line / 6) (line % 6)
  else .data (mac * 256 + line / 3) (line % 3)

/-- The ideal count on a line's group and the largest count its cell type can give, for `n` driven rows (R134, R135,
R139). -/
def idealCode (k : Bank) (rows : List Nat) (l : Line) : Nat × Nat :=
  match l with
  | .data j s =>
    let (_, ml, lo, w) := sliceOf k.w8 s
    (((rows.map (fun i => bitsOf (k.stored i j) lo w)).sum), if ml then 3 * rows.length else rows.length)
  | .ref r =>
    if r < 2 then (rows.length, rows.length)
    else if r < 4 then (0, rows.length)
    else if r < 6 then (3 * rows.length, 3 * rows.length)
    else (0, 3 * rows.length)

/-- A group code after R135: the code used, whether it was clamped, whether the conversion reached 255. -/
def clampCode (n mx code : Nat) : Nat × Bool × Bool :=
  if n = 0 then (0, false, false)
  else let c := min code 255; (min c mx, decide (mx < c), decide (255 ≤ code))

/-- What the deviating codes of one vector do: the difference they make to P_j per column, the difference on the reference
columns per macro and reference column, the clamps, the conversions at 255 (plane, sub-plane, macro, group). -/
structure DevSum where
  dp : List (Nat × Int)
  ref : List (Nat × Nat × Int)
  clamps : Nat
  sats : List (Nat × Nat × Nat × Nat)
deriving DecidableEq, Repr

/-- The conversions that deviate, in the order of the planes, 7 or 3 down to 0 (R87); inside a plane in the order given. -/
def devKeys (devs : List AdcDev) : List (Nat × Nat × Nat × Nat) :=
  let keys := (devs.map (fun d => (d.plane, d.mac, d.line, d.group))).eraseDups
  ((List.range 8).reverse.map (fun p => keys.filter (fun x => x.1 == p))).flatten

/-- The deviations of planes (R131, R134, R135): one entry per line, group and plane. `subs` is how often each plane is read: twice in a
W4 read, once in a W8 read and in a calibration plane (R133). -/
def devSum (k : Bank) (b : Nat) (p : Prs) (vs : List Nat) (devs : List AdcDev) (subs : Nat) : DevSum :=
  (devKeys devs).foldl (fun acc key =>
    let (pl, mac, line, g) := key
    let rows := drivenRows vs g pl
    if rows.isEmpty || 4 ≤ mac || 776 ≤ line || 16 ≤ g || (p.block (blockOf b mac g)).retired then acc
    else
      let l := lineOf k.w8 mac line
      let (ideal, mx) := idealCode k rows l
      let codeOf (sub : Nat) : Nat :=
        ((devs.find? (fun d => d.plane == pl && d.mac == mac && d.line == line && d.group == g && d.sub == sub)).map
          (·.code)).getD ideal
      let cs : List (Nat × Bool × Bool) := (List.range subs).map (fun i => clampCode rows.length mx (codeOf i))
      let code := if subs = 2 then ((cs.map (·.1)).sum + 1) / 2 else (cs.map (·.1)).sum
      let diff : Int := (code : Int) - (ideal : Int)
      let acc := { acc with
        clamps := acc.clamps + (cs.filter (fun (x : Nat × Bool × Bool) => x.2.1)).length
        sats := acc.sats ++ (cs.zipIdx.filter (fun (x : (Nat × Bool × Bool) × Nat) => x.1.2.2)).map (fun (x : (Nat × Bool × Bool) × Nat) => (pl, x.2, mac, g)) }
      match l with
      | .data j s => { acc with dp := acc.dp ++ [(j, diff * ((sliceOf k.w8 s).1 * 2 ^ pl : Nat))] }
      | .ref r => { acc with ref := acc.ref ++ [(mac, r, diff)] }) ⟨[], [], 0, []⟩

/-- The first conversion at 255 in the order of conversion: planes 7 or 3 down to 0 (R87), in each plane its sub-planes in turn (R131), in a
sub-plane the order given. -/
def DevSum.firstSat (x : DevSum) : Option (Nat × Nat) :=
  (((List.range 8).reverse.map (fun p => (List.range 2).map (fun i =>
    x.sats.filter (fun y => y.1 == p && y.2.1 == i)))).flatten.flatten.head?).map (fun y => y.2.2)

/-- C_j of every column (R107, R137, R138): Σ w × a, and what the deviations make. -/
def columnSums (k : Bank) (as : List Int) (dp : List (Nat × Int)) : List Int :=
  let nz := as.zipIdx.filter (fun p => p.1 ≠ 0)
  (List.range k.cols).map (fun j =>
    nz.foldl (fun acc p => acc + p.1 * k.weight p.2 j) (0 : Int) +
    dp.foldl (fun acc q => if q.1 = j then acc + q.2 else acc) (0 : Int))

/-- The bank's image in memory (R437): the context of its last press and the address of its codes. -/
def Bank.imageAt (k : Bank) : Option (Nat × Nat) := k.press.map (fun p => (p.2, dField p.1 16 8 + dPatch p.1 * 0x80000))

/-- The weight that a code of an image stands for at column `j`, a poisoned code as 0 (R427). -/
def codeWeight (w8 : Bool) (j : Nat) (w : W32 × Bool) : Int :=
  let c := bitsOf w.1.toNat (8 * ((if w8 then j else j / 2) % 4)) 8
  if w.2 then 0
  else if w8 then (BitVec.ofNat 8 c).toInt
  else (BitVec.ofNat 4 (bitsOf c (4 * (j % 2)) 4)).toInt

/-- Row `i` of a bank's image in memory, each word read once (R425); where a word is not to be seen from here, the weights as pressed
(DESIGN CHOICE, log 31: R437 does not say what becomes of a sample whose image has no translation). -/
def State.imageRow (s : State) (t b : Nat) (k : Bank) (i : Nat) : List Int × State :=
  match k.imageAt with
  | none => ((List.range k.cols).map (k.weight i), s)
  | some (ctx, base) =>
    let (ws, s) := s.readHere ⟨t, t, ctx, b + 1, 0, true⟩ (base + 512 * i) 128
    ((List.range k.cols).map (fun j =>
      match (ws[(if k.w8 then j else j / 2) / 4]?).getD none with
      | none => k.weight i j
      | some w => codeWeight k.w8 j w), s)

/-- X_j = Σ w × a of every column, from the image in memory (R437): one row after another. -/
def State.imageSums (t b : Nat) (k : Bank) : List (Int × Nat) → List Int → State → List Int × State
  | [], acc, s => (acc, s)
  | (a, i) :: r, acc, s =>
    let (ws, s) := s.imageRow t b k i
    State.imageSums t b k r ((acc.zip ws).map (fun p => p.1 + a * p.2)) s

/-- y_j = RNE(C_j × s_w × 2^−k) (R109, R154). -/
def colValue (c : Int) (sw : W32) (k : Int) : W32 :=
  match val32 sw with
  | none => nan32
  | some x => (toF32 .rne (dyMul ⟨c, 0⟩ ⟨x.dy.m, x.e - k⟩) (decide (c < 0) != x.neg)).1

/-! ### Trims (R140–R142) -/

/-- n / d to the nearest integer; an exact half goes upward (DESIGN CHOICE, log 58: R140 says only "to the nearest step"). -/
def nearest (n : Int) (d : Nat) : Int := Int.fdiv (2 * n + d) (2 * d)

def clampGain (v : Int) : Int := max 0x0CCD (min 0x1400 v)
def clampOfs (v : Int) : Int := max (-128) (min 127 v)

/-- A trim moves towards the target `num / den`: all the way after a calibration plane, one eighth of the way after a vector, and is
rounded once, to the nearest step (R140). -/
def moveTrim (cal : Bool) (now num : Int) (den : Nat) : Int :=
  if cal then nearest num den else nearest (7 * now * den + num) (8 * den)

/-- The target of a gain trim, trim × E / M, as numerator and denominator; `m2` is twice the mean count M (two columns). With M = 0 the
target is the upper end of the range (DESIGN CHOICE, log 58: R140 leaves E / 0 open). -/
def gainTarget (trim e m2 : Nat) : Int × Nat := if m2 = 0 then (0x1400, 1) else ((trim * (2 * e) : Nat), m2)

/-- The target of an offset trim, in 1/64 count, from the sum of the level-0 codes of two columns over `n` group conversions each. The
trim is added to the code, so the mean code is taken off it (DESIGN CHOICE, log 58: R140 gives neither the sign nor a limit, and the
register is a signed byte). -/
def ofsTarget (trim : Int) (sum n : Nat) : Int × Nat := (trim * (2 * n : Nat) - (64 * sum : Nat), 2 * n)

/-- A gain trim after reference codes; with no expected count it stays. -/
def newGain (cal : Bool) (trim e m2 : Nat) : Int :=
  if e = 0 then trim else clampGain (moveTrim cal trim (gainTarget trim e m2).1 (gainTarget trim e m2).2)

/-- An offset trim after reference codes; with no conversion it stays. -/
def newOfs (cal : Bool) (trim : Int) (sum n : Nat) : Int :=
  if n = 0 then trim else clampOfs (moveTrim cal trim (ofsTarget trim sum n).1 (ofsTarget trim sum n).2)

/-- The trims of one macro after the reference codes of `planes` (R140): expected counts follow from the driven rows, the
codes differ from them by `ref`. -/
def updTrim (cal : Bool) (tr : Trim) (n : Nat) (convs : Nat) (ref : List (Nat × Int)) : Trim :=
  let d (r : Nat) : Int := (ref.filter (fun x => x.1 == r)).foldl (fun a x => a + x.2) 0
  ⟨BitVec.ofInt 16 (newGain cal tr.gainB.toNat n ((2 * n : Int) + d 0 + d 1).toNat),
   BitVec.ofInt 16 (newGain cal tr.gainM.toNat (3 * n) ((6 * n : Int) + d 4 + d 5).toNat),
   BitVec.ofInt 8 (newOfs cal tr.ofsB.toInt (d 2 + d 3).toNat convs),
   BitVec.ofInt 8 (newOfs cal tr.ofsM.toInt (d 6 + d 7).toNat convs)⟩

/-- Record DRIFTRANGE once per descriptor, and poison the macro until the next press (R142). -/
def rangeReached (t b m : Nat) (e : QEntry) (s : State) : State :=
  let k := (s.tile t).bank b
  let s := if k.run.rangeRec then s
    else s.detect { s.descRec t (b + 1) e clsDeferred cDriftRange with sub := 4 * b + m }
  s.modTile t (fun v => v.modBank b (fun k => { k with
    range := k.range ||| (1#4 <<< m), rangePoison := k.rangePoison ||| (1#4 <<< m)
    run := { k.run with rangeRec := true } }))

/-- A gain trim has reached LIMIT: HIT, one NOTICE, and a refresh request (R141, R170). -/
def limitReached (t b m : Nat) (s : State) : State :=
  let k := (s.tile t).bank b
  if k.hit.getLsbD m then s
  else
    let s := s.modTile t (fun v => v.modBank b (fun k => { k with hit := k.hit ||| (1#4 <<< m), refreq := true }))
    (s.notice t 5 (4 * b + m) 0).notice t 6 b 0

/-- Update the trims of macro `m` of the bank, with the alarms of R141 and R142. -/
def trimMacro (t b : Nat) (e : QEntry) (cal : Bool) (n convs : Nat) (ref : List (Nat × Nat × Int)) (s : State)
    (m : Nat) : State :=
  let k := (s.tile t).bank b
  let tr := (k.trims[m]?).getD Trim.reset
  let tr' := updTrim cal tr n convs ((ref.filter (fun x => x.1 == m)).map (·.2))
  let s := s.modTile t (fun v => v.modBank b (fun k => { k with trims := k.trims.set m tr' }))
  let lim := s.lim.driftLim.toNat
  let s := if lim ≤ tr'.gainB.toNat ∨ lim ≤ tr'.gainM.toNat then limitReached t b m s else s
  let atEnd (g : W16) : Bool := g.toNat ≤ 0x0CCD || 0x1400 ≤ g.toNat
  if atEnd tr'.gainB || atEnd tr'.gainM then rangeReached t b m e s else s

/-- The driven rows and the converted groups of a macro over the planes of a vector; retired groups take no part. -/
def macroDrive (p : Prs) (b m : Nat) (vs : List Nat) (planes : List Nat) : Nat × Nat :=
  planes.foldl (fun acc pl => (List.range 16).foldl (fun acc g =>
    if (p.block (blockOf b m g)).retired then acc
    else
      let n := (drivenRows vs g pl).length
      (acc.1 + n, acc.2 + if n = 0 then 0 else 1)) acc) (0, 0)

def trimAll (t b : Nat) (e : QEntry) (cal : Bool) (vs : List Nat) (planes : List Nat) (ref : List (Nat × Nat × Int))
    (s : State) : State :=
  (List.range 4).foldl (fun s m =>
    let (n, convs) := macroDrive (s.tile t).prs b m vs planes
    trimMacro t b e cal n convs ref s m) s

/-- The clamps and the conversions at 255 of a read are counted; the first at 255 of a descriptor is recorded and its
block marked SUSPECT (R135, R136). -/
def adcEvents (t b : Nat) (e : QEntry) (ds : DevSum) (s : State) : State :=
  let s := s.modTile t (fun v => { v with arr := { v.arr with
    adcRange := satAdd 32 v.arr.adcRange ds.clamps, adcSat := satAdd 32 v.arr.adcSat ds.sats.length } })
  match ds.firstSat with
  | none => s
  | some (m, g) =>
    let k := (s.tile t).bank b
    if k.run.satRec then s
    else
      let s := s.detect { s.descRec t (b + 1) e clsCorrected cAdcSat with sub := 4 * b + m, info1 := BitVec.ofNat 64 g }
      s.modTile t (fun v =>
        let v := v.modBank b (fun k => { k with run := { k.run with satRec := true } })
        let n := blockOf b m g
        { v with prs := { v.prs with ledger := { v.prs.ledger with
          blocks := smSet Block.none v.prs.ledger.blocks n { v.prs.block n with suspect := true } } } })

/-- The calibration plane of a descriptor, once (R133, R140): one plane, with every row driven. -/
def calibrate (t b : Nat) (e : QEntry) (s : State) : State :=
  let k := (s.tile t).bank b
  if k.run.calDone then s
  else
    let vs := List.replicate 1024 1
    let ds := devSum k b (s.tile t).prs vs ((k.run.calDevs.filter (fun d => d.sub == 0)).map (fun d => { d with plane := 0 })) 1
    let s := adcEvents t b e ds s
    let s := s.modTile t (fun v => v.modBank b (fun k => { k with run := { k.run with calDone := true } }))
    trimAll t b e true vs [0] ds.ref s

/-! ### READ, SETCORR, QUERY: bodies and starts (R187–R192, R390, R391) -/

def rdBf (d : W512) : Bool := bitOf (dField d 54 1) 1
def rdBias (d : W512) : Bool := bitOf (dField d 54 1) 2

/-- The layer record's fields (R188). -/
def lrBias (l : List Byte) : Nat := lField l 0 8
def lrMaster (l : List Byte) : Nat := lField l 8 8
def lrStride (l : List Byte) : Nat := lField l 16 4
def lrSrcSize (l : List Byte) : Nat := if lField l 20 1 = 0 then 4 else 2
def lrDivert (l : List Byte) : Bool := lField l 21 1 == 1
def lrSpill (l : List Byte) : Bool := bitOf (lField l 22 1) 0

/-- USE of the mode epoch that a descriptor carries (R391, R401, R443). -/
def State.useOf (s : State) (m : W16) : Bool := smGet false s.mode.hist m.toNat

/-- Where the side area's records start (R187). -/
def sideSpan (nvec : Nat) (spill : Bool) : Nat := 64 * ceilDiv nvec 64 + (if spill then 192 * nvec else 0)

def readChk (use : Bool) (k : Bank) (d : W512) (l : List Byte) : Chk Unit := do
  let src := dField d 24 8
  chk (k.fmt != 0 && !k.idx && !use) 0 (dOp d)
  chkAddr d 16
  chkAddr d 24
  chkAddr d 32
  chkAddr d 40
  chk (1 ≤ rdNvec d && rdNvec d ≤ 1024) 52 (rdNvec d)
  chk (dField d 54 1 < 8) 54 (dField d 54 1)
  chkZero d 55 1
  chk (lrBias l % 64 == 0) 0x100 (lrBias l)
  chk (lrMaster l % 64 == 0) 0x108 (lrMaster l)
  chk (lrMaster l == 0 || (lrStride l % 64 == 0 && 2 * k.cols ≤ lrStride l)) 0x110 (lrStride l)
  chk (lField l 20 1 ≤ 1) 0x114 (lField l 20 1)
  chk (lField l 21 1 ≤ 1) 0x115 (lField l 21 1)
  chk (lField l 22 1 ≤ 1) 0x116 (lField l 22 1)
  chkZeroL l 23 41
  chk (k.corr.rank == 0 || src != 0) 24 src
  let n := rdNvec d
  let side := sideSpan n (lrSpill l)
  let size := if bitOf (dField d 54 1) 1 then 2 else 4
  let codes := n * (if k.w8 then 1024 else 512)
  chk (!vatHit (dField d 16 8 + dPatch d * codes) codes) 16 (dField d 16 8)
  chk (src == 0 || lField l 20 1 == 0 || !vatHit (src + dPatch d * (2048 * n)) (2048 * n)) 0x114 (lField l 20 1)
  chk (size == 4 || !vatHit (dField d 32 8 + dPatch d * (2 * n * k.cols)) (2 * n * k.cols)) 54 (dField d 54 1)
  chk (!vatHit (dField d 40 8 + dPatch d * side) side) 40 (dField d 40 8)
  chk (lrMaster l == 0 || !rowsVat (lrMaster l) (lrStride l) 1024 (2 * k.cols)) 0x108 (lrMaster l)
  chk (!lrDivert l || (src != 0 && lrMaster l != 0)) 0x115 (lField l 21 1)
  chk (!lrSpill l || lrMaster l != 0) 0x116 (lField l 22 1)

/-- Where a descriptor's input lies: codes and shift bytes. -/
structure InputAt where
  codes : Nat
  side : Nat

/-- Vector `i` is seen at the start to need an analogue read (R133): it is not a zero vector (R143) and its shift byte is not 0x80 (R144),
the two kinds that "Inputs that need no read" names; a diverted vector and one whose shift byte is poisoned count as needing one (DESIGN
CHOICE, log 58). Input that is not to be seen from here says nothing, and the plane then runs before the first such vector
(`lateCalibrate`). -/
def State.needsRead (s : State) (g : Agent) (w8 : Bool) (x : InputAt) (i : Nat) : Bool :=
  let zero : W32 := if w8 then 0x80808080#32 else 0x88888888#32
  let n := if w8 then 1024 else 512
  let shift := match s.peek32 g ((x.side + i) / 4 * 4) with
    | some (w, p) => p || bitsOf w.toNat (8 * ((x.side + i) % 4)) 8 != 0x80
    | none => false
  shift && (List.range (n / 4)).any (fun j =>
    match s.peek32 g (x.codes + n * i + 4 * j) with
    | some (w, _) => w != zero
    | none => false)

/-- A started read: the bank takes a copy of its slot (R192), and the calibration plane runs where some vector needs an analogue read
(R133). -/
def armRun (t b : Nat) (e : QEntry) (cal : List AdcDev) (snap : List (List Byte)) (x : InputAt) (nv : Nat) (s : State) : StartRes :=
  let k := (s.tile t).bank b
  let s' := s.modTile t (fun v => v.modBank b (fun k => { k with run := { ARun.none with corr := k.corr, calDevs := cal } }))
  .go { Run.start with snap := snap }
    (if (List.range nv).any (s.needsRead (tileAgent t (b + 1) e) k.w8 x) then calibrate t b e s' else s')

/-- The input of a READ (R187, R188). -/
def rdInput (w8 : Bool) (d : W512) (l : List Byte) : InputAt :=
  let nv := rdNvec d
  ⟨dField d 16 8 + dPatch d * (nv * (if w8 then 1024 else 512)), dField d 40 8 + dPatch d * sideSpan nv (lrSpill l)⟩

def readStart (t b : Nat) (cal : List AdcDev) (e : QEntry) (s : State) : StartRes :=
  let ofs := dField e.d 48 4
  if ofs % 64 ≠ 0 ∨ 0x300000 < ofs + 64 then .refuse 48 ofs s
  else
    let ((l, p), s) := s.readRecord t ofs e.ctx 16
    if p then .poison ofs s
    else match readChk (s.useOf e.mepoch) ((s.tile t).bank b) e.d l with
      | .error (off, val) => .refuse off val s
      | .ok _ => armRun t b e cal [l] (rdInput ((s.tile t).bank b).w8 e.d l) (rdNvec e.d) s

def doRead (t b : Nat) (cal : List AdcDev) (s : State) : State :=
  if b < 2 then s.startDesc t (b + 1) 0x10 (bankFree t b) (readStart t b cal) else s

def setcorrChk (cols : Nat) (d : W512) : Chk Unit := do
  let r := dField d 32 1
  chk (r == 0 || (dField d 16 8 != 0 && dField d 16 8 % 64 == 0)) 16 (dField d 16 8)
  chk (r == 0 || (dField d 24 8 != 0 && dField d 24 8 % 64 == 0)) 24 (dField d 24 8)
  chk (r ≤ 64) 32 r
  chkZero d 33 23
  chk (r == 0 || !vatHit (dField d 16 8) (1024 * roundUp (2 * r) 64)) 16 (dField d 16 8)
  chk (r == 0 || !vatHit (dField d 24 8) (r * 2 * cols)) 24 (dField d 24 8)

/-- SETCORR arms the slot (R191) and completes. -/
def doSetcorr (t b : Nat) (s : State) : State :=
  if b < 2 then
    let s := s.startDesc t (b + 1) 0x11 (fun _ _ => true) (fun e s =>
      match setcorrChk ((s.tile t).bank b).cols e.d with
      | .error (off, val) => .refuse off val s
      | .ok _ => .go Run.start (s.modTile t (fun v => v.modBank b (fun k => { k with corr :=
          ⟨BitVec.ofNat 64 (dField e.d 16 8), BitVec.ofNat 64 (dField e.d 24 8), dField e.d 32 1, e.ctx⟩ }))))
    match (s.tile t).running (b + 1) with
    | some e => if dOp e.d = 0x11 then s.completeEntry t (b + 1) e else s
    | none => s
  else s

def qyNvec (d : W512) : Nat := dField d 48 2
def qyOfsEn (d : W512) : Bool := bitOf (dField d 50 1) 0

/-- The input of a QUERY (R390). -/
def qyInput (w8 : Bool) (d : W512) : InputAt :=
  ⟨dField d 16 8 + dPatch d * (qyNvec d * (if w8 then 1024 else 512)), dField d 24 8 + dPatch d * (64 * ceilDiv (qyNvec d) 64)⟩

def queryChk (use : Bool) (k : Bank) (d : W512) : Chk Unit := do
  chk (k.fmt != 0 && k.idx && use) 0 (dOp d)
  chkAddr d 16
  chkAddr d 24
  chkAddr d 32
  chkAddr d 40
  chk (1 ≤ qyNvec d && qyNvec d ≤ 1024) 48 (qyNvec d)
  chk (dField d 50 1 ≤ 1) 50 (dField d 50 1)
  chkZero d 51 1
  chk (!vatHit (qyInput k.w8 d).codes (qyNvec d * (if k.w8 then 1024 else 512))) 16 (dField d 16 8)
  chk (!vatHit (qyInput k.w8 d).side (qyNvec d)) 24 (dField d 24 8)
  chk (!qyOfsEn d || (dField d 52 4 % 64 == 0 && dField d 52 4 + 4 * k.cols ≤ 0x300000)) 52 (dField d 52 4)

/-- QUERY starts: the live mask and the offsets are read once (R390). A translation fault on the mask is taken. -/
def doQuery (t b : Nat) (cal : List AdcDev) (s : State) : State :=
  if b < 2 then
    match s.startable t (b + 1) with
    | none => s
    | some e =>
      if dOp e.d = 0x12 ∧ bankFree t b s e then
        s.withHead t (b + 1) e (fun e s =>
          let d := e.d
          let k := (s.tile t).bank b
          match queryChk (s.useOf e.mepoch) k d with
          | .error (off, val) => s.refuse t (b + 1) e off val
          | .ok _ =>
            let g := tileAgent t (b + 1) e
            let m := dField d 40 8
            match runUnit t (if m = 0 then pure [] else xReadWords g m 32) s with
            | (.error x, s) => s.failEntry t (b + 1) e x
            | (.ok ws, s) =>
              let mask := (ws.map (fun w => leBytes 4 w.1.toNat)).flatten
              let ((ofs, p), s) := if qyOfsEn d then s.readRecord t (dField d 52 4) e.ctx k.cols else (([], false), s)
              if ws.any (·.2) then s.poisonStart t (b + 1) e m
              else if p then s.poisonStart t (b + 1) e (dField d 52 4)
              else if k.w8 ∧ m ≠ 0 ∧ lField mask 64 64 ≠ 0 then s.refuse t (b + 1) e 0x140 (lField mask 64 64)
              else match armRun t b e cal [mask, ofs] (qyInput k.w8 d) (qyNvec d) s with
                | .go r s => s.modEntry t (b + 1) e.seq (fun e => { e with ph := .running, run := r })
                | _ => s)
      else s
  else s

/-! ### One vector -/

/-- The input of one vector: its signed codes, whether a code is marked, its shift byte, whether that is marked. -/
structure VecIn where
  as : List Int
  mark : Bool
  shift : Int
  shiftMark : Bool
deriving DecidableEq, Repr

/-- Load vector `i` of a read: codes in the layout of R86, the shift byte (R187, R390). -/
def loadVec (g : Agent) (w8 : Bool) (codes side i : Nat) : X VecIn := do
  let ws ← xReadWords g (codes + i * (if w8 then 1024 else 512)) (if w8 then 256 else 128)
  let (sb, sm) ← xReadBytes g (side + i) 1
  let bytes := (ws.map (fun w => leBytes 4 w.1.toNat)).flatten
  let as : List Int :=
    if w8 then bytes.map (fun b => (b.toNat : Int) - 128)
    else (bytes.map (fun b => [(bitsOf b.toNat 0 4 : Int) - 8, (bitsOf b.toNat 4 4 : Int) - 8])).flatten
  pure ⟨as, ws.any (·.2), (BitVec.ofNat 8 sb).toInt, sm⟩

/-- The calibration plane of a descriptor whose input was not to be seen at its start (R133), before a vector with input that is not all
zero. -/
def lateCalibrate (t b : Nat) (e : QEntry) (vi : VecIn) (s : State) : State :=
  if vi.as.all (· == 0) then s else calibrate t b e s

/-- The stored input value of an element (R86). -/
def storedIn (w8 : Bool) (a : Int) : Nat := (a + (if w8 then 128 else 8)).toNat

/-- The macros whose outputs are poisoned (R142, R175), and the one record that each descriptor posts for a trim at the end of its
range (R142). -/
def poisonedMacros (t b : Nat) (e : QEntry) (s : State) : BitVec 4 × State :=
  let k := (s.tile t).bank b
  let m := k.rangePoison ||| k.codePoison ||| k.zeroPoison
  if k.rangePoison = 0#4 ∨ k.run.rangeRec then (m, s)
  else
    let mac := ((List.range 4).find? (fun i => k.rangePoison.getLsbD i)).getD 0
    (m, (s.detect { s.descRec t (b + 1) e clsDeferred cDriftRange with sub := 4 * b + mac }).modTile t
      (fun v => v.modBank b (fun k => { k with run := { k.run with rangeRec := true } })))

/-- The outputs of a vector with no analogue read: the same value in every column, marked in poisoned macros. -/
def plainRead (t b : Nat) (e : QEntry) (v : W32) (mark : Bool) (s : State) : List (W32 × Bool) × State :=
  let k := (s.tile t).bank b
  let (m, s) := poisonedMacros t b e s
  ((List.range k.cols).map (fun j => (v, mark || m.getLsbD (k.macOf j))), s)

/-- The y_j of a vector with an analogue read, and the state with its trims, counts and records (R137–R142). Also the
C_j for the shadow unit. -/
def analogRead (t b : Nat) (e : QEntry) (vi : VecIn) (devs : List AdcDev) (s : State) :
    (List (W32 × Bool) × List Int) × State :=
  let s := calibrate t b e s
  let k := (s.tile t).bank b
  let vs := vi.as.map (storedIn k.w8)
  let planes := List.range (if k.w8 then 8 else 4)
  let ds := devSum k b (s.tile t).prs vs (devs.filter (fun d => d.plane < planes.length)) (if k.w8 then 1 else 2)
  let cs := columnSums k vi.as ds.dp
  let s := adcEvents t b e ds s
  let s := trimAll t b e false vs planes ds.ref s
  let s := s.modTile t (fun v => v.modBank b (fun k => { k with reads := k.reads + 1 }))
  let (m, s) := poisonedMacros t b e s
  ((cs.zipIdx.map (fun p => (colValue p.1 (k.scale p.2) vi.shift, vi.mark || m.getLsbD (k.macOf p.2))), cs), s)

/-- A spill record (R193): its fields, or none where it is malformed (R195). -/
structure SpillRec where
  nclamp : Nat
  ents : List (Nat × W32)
deriving DecidableEq, Repr

def strictAsc : List Nat → Bool
  | a :: b :: r => a < b && strictAsc (b :: r)
  | _ => true

def spillOf (l : List Byte) : Option SpillRec :=
  let nc := lField l 0 2
  let ne := lField l 2 1
  let fl := lField l 3 1
  let ents := (List.range ne).map (fun m => (lField l (64 + 8 * m) 2, BitVec.ofNat 32 (lField l (68 + 8 * m) 4)))
  if ne = min nc 16 ∧ fl = (if 16 < nc then 1 else 0) ∧ lField l 4 60 = 0 ∧
     (List.range ne).all (fun m => lField l (66 + 8 * m) 2 == 0) ∧ strictAsc (ents.map (·.1)) ∧
     ents.all (fun p => p.1 < 1024) then some ⟨nc, ents⟩
  else none

/-- Read and check the spill record of a vector (R195, R427). The vector shows in a record of the log by ADDR, the address of the spill
record: R499 leaves INFO0 and INFO1 at 0. -/
def xSpill (g : Agent) (e : QEntry) (b addr : Nat) : X SpillRec := do
  let ws ← xReadWords g addr 48
  let s ← xState
  let r := { s.descRec g.tile (b + 1) e clsContained cPoisonCtl with addr := BitVec.ofNat 64 addr, sub := 4 * b }
  if ws.any (·.2) then xFail (.stop r)
  else match spillOf ((ws.map (fun w => leBytes 4 w.1.toNat)).flatten) with
    | some x => pure x
    | none => xFail (.stop { r with cause := cSpillRec })

/-- Count spill events (R198); an alarm posts a NOTICE of source 2. -/
def State.spillCount (s : State) (t b n k : Nat) : State :=
  let (c, ev) := (s.tile t).arr.spill.count n k
  let s := s.modTile t (fun v => { v with arr := { v.arr with spill := c } })
  if ev then s.notice t 2 (4 * b + n) 0 else s

/-- Source activations of a vector as BF16 operands (R184, R197), with the conversion's counts. -/
def xSource (g : Agent) (d : W512) (l : List Byte) (i : Nat) : X (List (W32 × Bool)) :=
  let size := lrSrcSize l
  xElems g size ((List.range 1024).map (fun r =>
    dField d 24 8 + dPatch d * (rdNvec d * 1024 * size) + (i * 1024 + r) * size))

/-- RNE to BF16 at the input stage. -/
def bfIn (w : W32) : W32 := bf32 (cvt16 .rne w).1
def bfOpd (w : W32) : Opd := (opdOf 0x01 (bfIn w) 127 one32).1

/-- SAT and NONFIN counts of a BF16 conversion of many values. -/
def bfCounts (l : List W32) : Nat × Nat :=
  ((l.filter (fun w => (cvt16 .rne w).2)).length, (l.filter nonFin).length)

/-- The issues of companion work (R199, MXE_COMPISS), with its tiles counted for the sampling (R435); a companion tile is
BF16, so its comparison is bit-exact and passes. -/
def companionIssues (t n tiles : Nat) (s : State) : State :=
  let s := s.modTile t (fun v => { v with mxe := { v.mxe with
    issues := v.mxe.issues + BitVec.ofNat 64 n, compiss := v.mxe.compiss + BitVec.ofNat 64 n } })
  let (smp, s) := s.sampleDue t true tiles
  s.modTile t (fun v => { v with shadow := { v.shadow with sampled := satAdd 32 v.shadow.sampled smp } })

/-- A vector with an analogue read may be a sample (R435): the shadow unit holds its C_j and X_j. -/
def State.sampleRead (s : State) (t b seq : Nat) (vi : VecIn) (cs : List Int) (vec : Nat) : State :=
  let (smp, s) := s.sampleDue t false 1
  if 0 < smp then
    let k := (s.tile t).bank b
    let (xs, s) := State.imageSums t b k (vi.as.zipIdx.filter (fun p => p.1 ≠ 0)) (List.replicate k.cols 0) s
    let x : Sample := .vector b seq cs xs k.w8 vec
    s.modTile t (fun v => { v with shadow := { v.shadow with sample := some x } })
  else s

/-- z_j of the correction lane and the spill entries (R183, R184, R196), one value per column, and the counts (SAT,
NONFIN). Elements of A, B and the master rows are read for each vector, and a non-finite one counts once for each (DESIGN CHOICE, log 50:
R121 does not say how often). -/
def xCompanion (g : Agent) (e : QEntry) (l : List Byte) (c : Corr) (cols : Nat) (pv : PendVec) :
    X (List CElem × Nat × Nat) := do
  let d := e.d
  let bias := rdBias d
  let xs ← if 0 < c.rank then xSource g d l pv.vec else pure []
  let rowA := roundUp (2 * c.rank) 64
  let am ← xElemRows g 2 c.rank ((if 0 < c.rank then List.range 1024 else []).map (fun i => c.a.toNat + i * rowA))
  let bm ← xElemRows g 2 cols ((List.range c.rank).map (fun m => c.b.toNat + m * 2 * cols))
  let ms ← xElemRows g 2 cols (pv.spill.map (fun p => lrMaster l + p.1 * lrStride l))
  let xo := xs.map (fun x => (bfOpd x.1, x.2))
  let h := (List.range c.rank).map (fun m =>
    let col := am.map (fun r => (r[m]?).getD (0#32, false))
    let (v, sat) := dotProduct 32 bias ((xo.map (·.1)).zip (col.map (fun w => bfOpd w.1)))
    let (hb, sat2) := cvt16 .rne v
    (bf32 hb, xo.any (·.2) || col.any (·.2), sat || sat2))
  let z := (List.range cols).map (fun j =>
    let lane := (h.zip bm).map (fun p => (bfOpd p.1.1, bfOpd ((p.2[j]?).getD (0#32, false)).1))
    let sp := (pv.spill.zip ms).map (fun p => (bfOpd p.1.2, bfOpd ((p.2[j]?).getD (0#32, false)).1))
    let (v, sat) := dotProduct 32 bias (lane ++ sp)
    ⟨v, h.any (·.2.1) || bm.any (fun r => ((r[j]?).getD (0#32, false)).2) ||
        ms.any (fun r => ((r[j]?).getD (0#32, false)).2), sat⟩)
  let n1 := bfCounts (xs.map (·.1))
  let n2 := bfCounts (pv.spill.map (·.2))
  let n3 := ((am ++ bm ++ ms).map (fun r => (r.filter (fun w => nonFin w.1)).length)).sum
  pure (z, n1.1 + n2.1 + (h.filter (·.2.2)).length + (z.filter (·.sat)).length, n1.2 + n2.2 + n3)
where
  /-- Rows of `n` elements at given addresses. -/
  xElemRows (g : Agent) (size n : Nat) : List Nat → X (List (List (W32 × Bool)))
    | [] => pure []
    | a :: r => do
      let x ← xElems g size ((List.range n).map (fun j => a + j * size))
      let xs ← xElemRows g size n r
      pure (x :: xs)

/-- Write the outputs of a vector: out_j = RNE(RNE(y_j + z_j) + b_j), in FP32 or BF16 (R182, R185). -/
def xOutputs (g : Agent) (e : QEntry) (l : List Byte) (cols vec : Nat) (y : List (W32 × Bool)) (z : List CElem)
    (nonfin : Bool) : X Unit := do
  let d := e.d
  let size := if rdBf d then 2 else 4
  let base := dField d 32 8 + dPatch d * (rdNvec d * cols * size) + vec * cols * size
  let bs ← if lrBias l = 0 then pure [] else xReadWords g (lrBias l) cols
  let outs := y.zipIdx.map (fun p =>
    if nonfin then (nan32, p.1.2)
    else
      let zj := (z[p.2]?).getD ⟨0#32, false, false⟩
      let bj := (bs[p.2]?).getD (0#32, false)
      ((f32Add .rne (f32Add .rne p.1.1 zj.v).1 bj.1).1, p.1.2 || zj.mark || bj.2))
  if rdBf d then xWriteWords g base (packPairs (outs.map (fun p => ((cvt16 .rne p.1).1, p.2))))
  else xWriteWords g base outs
where
  packPairs : List (W16 × Bool) → List (W32 × Bool)
    | a :: b :: r => (BitVec.ofNat 32 (a.1.toNat + b.1.toNat * 65536), a.2 || b.2) :: packPairs r
    | [a] => [(a.1.setWidth 32, a.2)]
    | [] => []

/-- Change the bank's running read. -/
def State.modARun (s : State) (t b : Nat) (f : ARun → ARun) : State :=
  s.modTile t (fun v => v.modBank b (fun k => { k with run := f k.run }))

/-- A vector's row has been written: NaN outputs of a non-finite vector count (R144), and FBQ passes the row on once it is visible (R248).
`old` are the writes that were outstanding before the row's own. -/
def rowWritten (t b : Nat) (e : QEntry) (cols vec : Nat) (nonfin last : Bool) (old : List Nat) (s : State) : State :=
  let d := e.d
  let size := if rdBf d then 2 else 4
  let base := dField d 32 8 + dPatch d * (rdNvec d * cols * size) + vec * cols * size
  let s := if nonfin then s.numCount t 1 cols else s
  if rdFbq d then
    let x : FbEnt := ⟨BitVec.ofNat 64 base, if rdBf d then 0x01 else 0x00, 1, cols, cols * size, vec, 0, last⟩
    let own := (s.writeTags t (b + 1) e.seq).filter (fun n => !old.contains n)
    (s.modARun t b (fun r => { r with fbDue := r.fbDue ++ [(x, own)] })).flushDue t (b + 1) e.seq
  else s

/-- Read the next vector of a READ (R143–R144, R185, R195–R200). A zero vector gives +0 on every column, one whose scale is a NaN too
(R143 says "exactly +0", R154 that every output of such a column is a NaN: DESIGN CHOICE, log 58). -/
def readVector (t b : Nat) (e : QEntry) (devs : List AdcDev) : X Unit := do
  let d := e.d
  let g := tileAgent t (b + 1) e
  let s ← xState
  let k := (s.tile t).bank b
  let l := (e.run.snap[0]?).getD []
  let i := k.run.vec
  let nv := rdNvec d
  let inp := rdInput k.w8 d l
  let side := inp.side
  let vi ← loadVec g k.w8 inp.codes side i
  let nonfin := !vi.shiftMark && vi.shift == -128
  let sp ← if lrSpill l && !nonfin then xSpill g e b (side + 64 * ceilDiv nv 64 + 192 * i) else pure ⟨0, []⟩
  let ovf := 16 < sp.nclamp
  let div := lrDivert l && ovf
  let fresh := k.run.high ≤ i
  -- spill events are counted once per vector (R198, R123)
  if fresh then
    xMod (fun s =>
      let s := if div then s.spillCount t b 3 1
        else
          let s := s.spillCount t b 0 sp.ents.length
          if ovf then (s.spillCount t b 1 (sp.nclamp - 16)).spillCount t b 2 1 else s
      s.modARun t b (fun r => { r with high := i + 1 }))
  let next : State → State := fun s => s.modARun t b (fun r => { r with vec := i + 1 })
  let place (s : State) : Nat × State :=
    let o := (s.tile t).arr.order
    (o, s.modTile t (fun v => { v with arr := { v.arr with order := o + 1 } }))
  let pendIt (y : List (W32 × Bool)) (nf : Bool) (s : State) : State :=
    let (o, s) := place s
    let pv : PendVec := ⟨i, y, nf, sp.ents, !nf && (0 < k.run.corr.rank || !sp.ents.isEmpty), o, 0, false⟩
    next (s.modARun t b (fun r => { r with pend := r.pend ++ [pv] }))
  if div then
    xMod (fun s =>
      let s := lateCalibrate t b e vi s
      let (m, s) := poisonedMacros t b e s
      let (o, s) := place s
      next (s.modARun t b (fun r => { r with divs := r.divs ++ [⟨i, vi.mark || vi.shiftMark, m, o⟩] })))
  else if vi.shiftMark then
    xMod (fun s =>
      let (v, s) := (poisonedMacros t b e (lateCalibrate t b e vi s)).2.draw
      pendIt (List.replicate k.cols (v.setWidth 32, true)) false s)
  else if nonfin then xMod (fun s => let (y, s) := plainRead t b e nan32 vi.mark s; pendIt y true s)
  else if vi.as.all (· == 0) then xMod (fun s => let (y, s) := plainRead t b e 0#32 vi.mark s; pendIt y false s)
  else
    xMod (fun s =>
      let ((y, cs), s) := analogRead t b e vi devs s
      pendIt y false (s.sampleRead t b e.seq vi cs i))

/-! ### One query (R392–R395) -/

/-- Score the next vector of a QUERY; its candidate list waits to be written (R435). A vector whose shift byte is 0x80 or poisoned has an all
empty list and leaves out every live column (R392, R394); it has no outputs, so nothing counts under counter 1 (DESIGN CHOICE, log 58). -/
def queryVector (t b : Nat) (e : QEntry) (devs : List AdcDev) : X Unit := do
  let d := e.d
  let g := tileAgent t (b + 1) e
  let s ← xState
  let k := (s.tile t).bank b
  let i := k.run.vec
  let mask := (e.run.snap[0]?).getD []
  let ofs := (e.run.snap[1]?).getD []
  let inp := qyInput k.w8 d
  let vi ← loadVec g k.w8 inp.codes inp.side i
  let nonfin := vi.shiftMark || vi.shift == -128
  let live (j : Nat) : Bool := mask.isEmpty || bitOf (lField mask (j / 8) 1) (j % 8)
  let zero := vi.as.all (· == 0)
  if vi.shiftMark then xMod (lateCalibrate t b e vi)
  let ys ← if nonfin then pure []
    else if zero then xDo (plainRead t b e 0#32 vi.mark)
    else xDo (fun s =>
      let ((y, cs), s) := analogRead t b e vi devs s
      (y, s.sampleRead t b e.seq vi cs i))
  let scored := ys.zipIdx.filterMap (fun p =>
    if live p.2 then
      let o : W32 := BitVec.ofNat 32 (lField ofs (4 * p.2) 4)
      let v := if !qyOfsEn d then p.1.1 else if zero then o else (f32Add .rne p.1.1 o).1
      some (p.2, v, p.1.2)
    else none)
  let good := scored.filter (fun p => !p.2.2 && !nonFin p.2.1)
  let excl := if nonfin then ((List.range k.cols).filter live).length else scored.length - good.length
  let list := (candSort (good.map (fun p => ⟨p.2.1, BitVec.ofNat 32 ((2 * t + b) * 1024 + p.1), false⟩))).take 32
  let full := list ++ List.replicate (32 - list.length) Cand.empty
  xMod (fun s =>
    let ar := (s.tile t).arr
    let pv : PendVec := ⟨i, (full.map Cand.words).flatten.map (fun w => (w.1, w.2 || vi.shiftMark)), false, [], false, ar.order, excl,
      !nonfin && !zero⟩
    (s.modTile t (fun v => { v with arr := { v.arr with order := ar.order + 1 } })).modARun t b (fun r =>
      { r with vec := i + 1, pend := r.pend ++ [pv] }))

/-! ### The rows -/

/-- Write the candidate list of the first waiting query (R393), and count it (R392). -/
def writeList (t b : Nat) (e : QEntry) (pv : PendVec) : X Unit := do
  let g := tileAgent t (b + 1) e
  xWriteWords g (dField e.d 32 8 + dPatch e.d * (256 * qyNvec e.d) + 256 * pv.vec) pv.y
  flushRemote g
  xMod (fun s =>
    (s.modTile t (fun v => { v with arr := { v.arr with
      scored := satAdd 32 v.arr.scored (b2n pv.scored), excl := satAdd 32 v.arr.excl pv.excl } })).modARun t b (fun r =>
        { r with pend := r.pend.tail }))

/-- Write the first waiting vector's outputs (R182, R199). -/
def writeRow (t b : Nat) (e : QEntry) (pv : PendVec) : X Unit := do
  let g := tileAgent t (b + 1) e
  let s ← xState
  let k := (s.tile t).bank b
  let l := (e.run.snap[0]?).getD []
  let old := s.writeTags t (b + 1) e.seq
  let (z, sat, nf) ← if pv.work then xCompanion { g with ctx := g.ctx } e l k.run.corr k.cols pv else pure ([], 0, 0)
  xOutputs g e l k.cols pv.vec pv.y z pv.nonfin
  flushAs g (if rdBf e.d then 0x01 else 0x00)
  xMod (fun s =>
    let s := s.numCounts t [(0, sat), (2, nf)]
    let r := k.run.corr.rank
    let s := if pv.work then
        companionIssues t (ceilDiv 1024 32 * ceilDiv r 32 + (k.cols / 32) * ceilDiv (r + pv.spill.length) 32) (k.cols / 32) s
      else s
    let last := k.run.pend.length == 1 && k.run.divs.isEmpty && k.run.vec == rdNvec e.d
    let s := rowWritten t b e k.cols pv.vec pv.nonfin last old s
    s.modARun t b (fun r => { r with pend := r.pend.tail }))

/-- Write what the first waiting vector gives: the list of a query, the outputs of a read. -/
def writePend (t b : Nat) (e : QEntry) (pv : PendVec) : X Unit :=
  if dOp e.d = 0x12 then writeList t b e pv else writeRow t b e pv

/-- A fault in a READ: the vectors from the first one whose output is not written are read again (R190). -/
def rewindRead (t b vec : Nat) (s : State) : State :=
  s.modARun t b (fun r => { r with vec := vec, pend := [], divs := r.divs.filter (·.vec < vec) })

/-- The vectors of a bank's READ that wait for companion work are read again (R190). -/
def State.rewindPend (s : State) (t b : Nat) : State :=
  match ((s.tile t).bank b).run.pend with
  | pv :: _ => rewindRead t b pv.vec s
  | [] => s

/-- A unit of a READ or QUERY failed: after a fault the first vector that is not written is read again (R190). -/
def State.failRead (s : State) (t b : Nat) (e : QEntry) (x : XErr) : State :=
  match x with
  | .fault r a ad => (s.rewindPend t b).failEntry t (b + 1) e (.fault r a ad)
  | x => s.failEntry t (b + 1) e x

/-- ARRAY_VECTOR_DONE: the next vector of the running descriptor is read. The bank pauses while 8 vectors wait (R200) or
the finished-block sub-queue has no place (R249), and stops after the vector in progress under pre-emption (R280). -/
def doArrayVectorDone (t b : Nat) (devs : List AdcDev) (s : State) : State :=
  match s.bankRun t b with
  | none => s
  | some e =>
    let v := s.tile t
    let r := (v.bank b).run
    let q := dOp e.d == 0x12
    if (if q then qyNvec e.d else rdNvec e.d) ≤ r.vec || 8 ≤ r.pend.length ||
       (!q && rdFbq e.d && 16 ≤ v.fbHeld b + r.pend.length) || (s.saving && e.halt) then s
    else
      match runUnit t (do
          if q then queryVector t b e devs else readVector t b e devs
          flushRemote (tileAgent t (b + 1) e)) s with
      | (.error x, s) => s.failRead t b e x
      | (.ok _, s) =>
        let s := if s.saving then s.haltEntry t (b + 1) e.seq else s
        -- a vector that waits for nothing is written at once
        let k := (s.tile t).bank b
        match k.run.pend with
        | [pv] =>
          if pv.work || (s.tile t).sampleOf (b + 1) e.seq true then s
          else match runUnit t (writePend t b e pv) s with
            | (.error x, s) => s.failRead t b e x
            | (.ok _, s) => s
        | _ => s

/-- COMPANION_WORK_DONE: the matrix engine gives z_j of the bank's first waiting vector, and its outputs are written. The
banks are served in the order in which their vectors were read (R199). -/
def doCompanionWorkDone (t b : Nat) (s : State) : State :=
  match s.bankRun t b with
  | none => s
  | some e =>
    let v := s.tile t
    match (v.bank b).run.pend with
    | [] => s
    | pv :: _ =>
      if (pv.work && !s.compFirst t b pv.order) || v.sampleVec b e.seq pv.vec then s
      else match runUnit t (writePend t b e pv) s with
        | (.error x, s) => s.failRead t b e x
        | (.ok _, s) => s

/-- The master slice of a descriptor that diverts vectors is read once (R197), and its non-finite elements count; the run holds its bytes
and a mark per element. -/
def readSlice (t b : Nat) (e : QEntry) : X Unit := do
  let g := tileAgent t (b + 1) e
  let k := ((← xState).tile t).bank b
  let l := (e.run.snap[0]?).getD []
  let ms ← xCompanion.xElemRows g 2 k.cols ((List.range 1024).map (fun i => lrMaster l + i * lrStride l))
  let all := ms.flatten
  flushRemote g
  xMod (fun s => s.numCount t 2 (all.filter (fun w => nonFin w.1)).length)
  xRun g (fun r => { r with snap := [l, (all.map (fun w => leBytes 2 (w.1.toNat / 65536))).flatten,
    all.map (fun w => BitVec.ofNat 8 (b2n w.2))] })

/-- Element (i, j) of the slice that the run holds. -/
def sliceElem (e : QEntry) (cols i j : Nat) : W32 × Bool :=
  let n := i * cols + j
  (bf32 (BitVec.ofNat 16 (lField ((e.run.snap[1]?).getD []) (2 * n) 2)), ((e.run.snap[2]?).getD [])[n]? == some 1#8)

/-- z_j of a diverted vector: Σ x_i × master[i][j] (R197); the outputs are written, marked as those of a read vector are (R142, R175, R427).
-/
def divertOne (t b : Nat) (e : QEntry) (dv : DivVec) : X Unit := do
  let vec := dv.vec
  let g := tileAgent t (b + 1) e
  let s ← xState
  let k := (s.tile t).bank b
  let l := (e.run.snap[0]?).getD []
  let old := s.writeTags t (b + 1) e.seq
  let xs ← xSource g e.d l vec
  let xo := xs.map (fun x => bfOpd x.1)
  let z := (List.range k.cols).map (fun j =>
    let col := (List.range 1024).map (fun i => sliceElem e k.cols i j)
    let (v, sat) := dotProduct 32 (rdBias e.d) (xo.zip (col.map (fun w => bfOpd w.1)))
    (⟨v, xs.any (·.2) || col.any (·.2), sat⟩ : CElem))
  xOutputs g e l k.cols vec ((List.range k.cols).map (fun j => (0#32, dv.mark || dv.macs.getLsbD (k.macOf j)))) z false
  flushAs g (if rdBf e.d then 0x01 else 0x00)
  xMod (fun s =>
    let n := bfCounts (xs.map (·.1))
    let s := s.numCounts t [(0, n.1 + (z.filter (·.sat)).length), (2, n.2)]
    let s := companionIssues t (k.cols / 32 * 32) (k.cols / 32) s
    let last := k.run.divs.length == 1
    let s := rowWritten t b e k.cols vec false last old s
    s.modARun t b (fun r => { r with divs := r.divs.tail }))

/-- The next unit of a divert batch: the slice, then the vectors in order. -/
def divertUnit (t b : Nat) (vec : DivVec) (e : QEntry) : X Unit := do
  let g := tileAgent t (b + 1) e
  match (← xState).entry t (b + 1) e.seq with
  | none => xFail .wait
  | some e => do
    if e.run.snap.length < 2 then readSlice t b e
    match (← xState).entry g.tile g.queue g.seq with
    | none => xFail .wait
    | some e => divertOne t b e vec

/-- The divert batch: vectors in order, while their rows have a place in the finished-block queue. -/
def divertAll (t b : Nat) (e : QEntry) : Nat → State → State
  | 0, s => s
  | n + 1, s =>
    match ((s.tile t).bank b).run.divs with
    | [] => s
    | vec :: _ =>
      if rdFbq e.d && 16 ≤ (s.tile t).fbHeld b then s
      else match runUnit t (divertUnit t b vec e) s with
        | (.error x, s) => s.failEntry t (b + 1) e x
        | (.ok _, s) => divertAll t b e n s

/-- DIVERT_BATCH: after the descriptor's last analogue read, its diverted vectors are computed (R197). The batch has the place of its first
vector in the order in which the banks' vectors were read (R199; DESIGN CHOICE, log 58: the rule does not place a batch). -/
def doDivertBatch (t b : Nat) (s : State) : State :=
  match s.bankRun t b with
  | none => s
  | some e =>
    let r := ((s.tile t).bank b).run
    if dOp e.d = 0x10 ∧ r.vec = rdNvec e.d ∧ r.pend = [] ∧ s.compFirst t b ((r.divs.head?.map (·.order)).getD 0) then divertAll t b e r.divs.length s else s

/-- Whether the work of a READ or QUERY is all done. -/
def readDone (v : Tile) (b : Nat) (e : QEntry) : Bool :=
  let r := (v.bank b).run
  r.vec == (if dOp e.d = 0x12 then qyNvec e.d else rdNvec e.d) && r.pend.isEmpty && r.divs.isEmpty && r.fbDue.isEmpty &&
  !v.sampleOf (b + 1) e.seq true

def execRead (t b : Nat) (cal : List AdcDev) (s : State) : Out := .next (doRead t b cal s)
def execArrayVectorDone (t b : Nat) (devs : List AdcDev) (s : State) : Out := .next (doArrayVectorDone t b devs s)
def execDivertBatch (t b : Nat) (s : State) : Out := .next (doDivertBatch t b s)
def execCompanionWorkDone (t b : Nat) (s : State) : Out := .next (doCompanionWorkDone t b s)
def execSetcorr (t b : Nat) (s : State) : Out := .next (doSetcorr t b s)
def execQuery (t b : Nat) (cal : List AdcDev) (s : State) : Out := .next (doQuery t b cal s)

end Sys2Proof.Machine
end

