-- ==== Sys2Proof/Machine/Stream.lean ====
section
/-! DEFINITION. Streams of elements (R95, R232, R498): reading, converting and writing elements of the stored formats. -/

namespace Sys2Proof.Machine

/-- The formats that the vector engine reads and writes (R95). -/
def streamFmt (f : Nat) : Bool := [0x00, 0x01, 0x10, 0x11, 0x14, 0x15, 0x18].contains f

def streamBits (f : Nat) : Nat := (fmtBits f).getD 32

/-- The bytes that `n` elements of a format take. -/
def streamLen (f n : Nat) : Nat := ceilDiv (n * streamBits f) 8

def intF32 (n : Int) : W32 := (toF32 .rne ⟨n, 0⟩ false).1

/-- The FP32 value of a stored element (R95). -/
def elemValue (f v : Nat) : W32 :=
  match f with
  | 0x00 => BitVec.ofNat 32 v
  | 0x01 => bf32 (BitVec.ofNat 16 v)
  | 0x10 => intF32 ((v : Int) - 128)
  | 0x11 => intF32 ((v : Int) - 8)
  | 0x14 => intF32 (BitVec.ofNat 8 v).toInt
  | 0x15 => intF32 (BitVec.ofNat 4 v).toInt
  | _ => if v = 0xFF then nan32 else (toF32 .rne ⟨1, (v : Int) - 127⟩ false).1

/-- Element `i` of a stream at `base`, as stored bits. -/
def xStream (g : Agent) (f base i : Nat) : X (Nat × Bool) := do
  let b := streamBits f
  let a := base + i * b / 8
  let (w, p) ← xRead32 g (a / 4 * 4)
  pure (bitsOf w.toNat (8 * (a % 4) + (if b = 4 then 4 * (i % 2) else 0)) b, p)

/-- Elements `j` to `j + n - 1` of a stream as FP32 values. -/
def xStreamVals (g : Agent) (f base j : Nat) : Nat → X (List (W32 × Bool))
  | 0 => pure []
  | n + 1 => do
    let (v, p) ← xStream g f base j
    let r ← xStreamVals g f base (j + 1) n
    pure ((elemValue f v, p) :: r)

/-- Write bytes with marks from `a` upward, word by word: a word that is covered whole takes its own mark, a word that is
covered in part keeps an old one (R427). -/
def xPutBytes (g : Agent) (a : Nat) (l : List (Byte × Bool)) : X Unit := go (l.length + 1) a l
where
  go : Nat → Nat → List (Byte × Bool) → X Unit
    | 0, _, _ => pure ()
    | n + 1, a, l =>
      if l.isEmpty then pure ()
      else do
        let k := 4 - a % 4
        let now := l.take k
        let mark := now.any (·.2)
        if now.length = 4 then xWrite32 g a (BitVec.ofNat 32 (leVal (now.map (·.1)))) mark
        else xWriteBytes g a (now.map (·.1)) mark
        go n (a + k) (l.drop k)

/-- Two nibbles to a byte, the first in the low half (R86). -/
def packNibbles : List (Nat × Bool) → List (Byte × Bool)
  | a :: b :: r => (BitVec.ofNat 8 (a.1 % 16 + 16 * (b.1 % 16)), a.2 || b.2) :: packNibbles r
  | [a] => [(BitVec.ofNat 8 (a.1 % 16), a.2)]
  | [] => []

/-- Write stored elements from index `j` of a stream. The other nibble of a half-written byte stays as it is. -/
def xPutElems (g : Agent) (f base j : Nat) (l : List (Nat × Bool)) : X Unit := do
  let b := streamBits f
  if b = 4 then
    let a := base + j / 2
    let l ← if j % 2 = 1 then do
        let (o, _) ← xReadBytes g a 1
        pure ((o % 16, false) :: l)
      else pure l
    let l ← if l.length % 2 = 1 then do
        let (o, _) ← xReadBytes g (a + l.length / 2) 1
        pure (l ++ [(o / 16, false)])
      else pure l
    xPutBytes g a (packNibbles l)
  else
    xPutBytes g (base + j * (b / 8)) ((l.map (fun p => (leBytes (b / 8) p.1).map (fun x => (x, p.2)))).flatten)

/-- What writing an element does: the stored bits, and whether it counts under SAT, NANOUT, FLUSHEL (R121, R498). -/
structure Stored where
  code : Nat
  sat : Bool
  nan : Bool
  flush : Bool
deriving DecidableEq, Repr

/-- The code of integer `n` in an array input or weight format (R86, R88). -/
def intCode (f : Nat) (n : Int) : Nat :=
  match f with
  | 0x10 => (n + 128).toNat
  | 0x11 => (n + 8).toNat
  | 0x14 => (BitVec.ofInt 8 n).toNat
  | _ => (BitVec.ofInt 4 n).toNat

def intQ (f : Nat) : Nat := if f = 0x10 ∨ f = 0x14 then 127 else 7

/-- |x| rounded to a power of two: its exponent (R498). -/
def pow2Round (mode : Rnd) (x : Dy) : Int :=
  let f := dyLog x
  let (n, d) := dyQuot ⟨x.m, x.e - f⟩
  match mode with
  | .rne =>
    if 2 * (n - d) > d then f + 1
    else if 2 * (n - d) = d then (if (127 + f) % 2 = 0 then f else f + 1)
    else f
  | m => f + (roundQuot m n d : Int) - 1

/-- Convert an FP32 result to a destination format (R240, R498). -/
def storeElem (f : Nat) (mode : Rnd) (w : W32) : Stored :=
  match f with
  | 0x00 => if nonFin w then ⟨nan32.toNat, false, true, false⟩ else ⟨w.toNat, false, false, false⟩
  | 0x01 => let (h, sat) := cvt16 mode w; ⟨h.toNat, sat, nonFin w, false⟩
  | 0x18 =>
    match val32 w with
    | none => ⟨0xFF, false, true, false⟩
    | some x =>
      if x.m = 0 then ⟨0, false, false, false⟩
      else
        let p := pow2Round mode x.dy
        if p < -127 then ⟨0, false, false, true⟩
        else if 127 < p then ⟨0xFE, true, false, false⟩
        else ⟨(127 + p).toNat, false, false, false⟩
  | f =>
    match val32 w with
    | none => ⟨intCode f 0, false, true, false⟩
    | some x =>
      let (neg, v) := scaledInt mode x 0
      let q := intQ f
      let sgn (k : Nat) : Int := if neg then -(k : Int) else k
      if q < v then ⟨intCode f (sgn q), true, false, false⟩
      else ⟨intCode f (sgn v), false, false, decide (v = 0 ∧ x.m ≠ 0)⟩

/-! ### Exponent histograms (R251, R439) -/

/-- The bin of an FP32 pattern (R251). -/
def histBin (w : W32) : Nat :=
  match val32 w with
  | none => if bitsOf w.toNat 0 23 = 0 then 62 else 63
  | some x => if x.m = 0 then 0 else (min (max (dyLog x.dy + 32) 1) 62).toNat

/-- Count elements into a histogram set. -/
def State.histBins (s : State) (t set : Nat) (bins : List Nat) : State :=
  s.modTile t (fun v => { v with vec := { v.vec with hist := bins.foldl (fun h b =>
    smSet 0#32 h (64 * set + b) (satAdd 32 (smGet 0#32 h (64 * set + b)) 1)) v.vec.hist } })

def State.histCount (s : State) (t set : Nat) (vals : List W32) : State := s.histBins t set (vals.map histBin)

/-- The alarms of a set, checked when a descriptor that counts into it completes (R439). -/
def State.histAlarms (s : State) (t set : Nat) : State :=
  let v := (s.tile t).vec
  let a := smGet Halm.reset v.halm set
  let c (b : Nat) : Nat := (smGet 0#32 v.hist (64 * set + b)).toNat
  let sum (lo hi : Nat) : Nat := ((List.range 64).filter (fun b => lo ≤ b && b ≤ hi) |>.map c).sum
  let total := sum 0 63
  if total < 65536 then s
  else
    let fires : List Bool :=
      [ a.en.getLsbD 0 && decide (0 < c 62 + c 63),
        a.en.getLsbD 1 && decide (a.hifrac.toNat * total < sum a.hibin.toNat 61 * 65536),
        a.en.getLsbD 2 && decide (a.lofrac.toNat * total < sum 1 a.lobin.toNat * 65536) ]
    fires.zipIdx.foldl (fun s p =>
      let n := 3 * set + p.2
      if p.1 && !(s.tile t).vec.halmFired.getLsbD n then
        (s.modTile t (fun v => { v with vec := { v.vec with halmFired := v.vec.halmFired ||| (1#48 <<< n) } })).notice
          t 8 (4 * set + p.2) 0
      else s) s

end Sys2Proof.Machine
end

