-- ==== Sys2Proof/Machine/Vector.lean ====
section
/-! DEFINITION. The vector engine (chapter 09): programs, finished blocks, the rennet pass, quantisation, and the merge of
candidate lists (R396). -/

namespace Sys2Proof.Machine

/-! ### Programs (R235–R237) -/

/-- An instruction of a vector program (R236). -/
structure VIns where
  op : Nat
  d : Nat
  a : Nat
  b : Nat
  c : Nat
  bimm : Bool
  cimm : Bool
  rmode : Nat
  rsv : Nat
  imm : W32
  top : Nat
deriving DecidableEq, Repr

def vinsOf (l : List Byte) (i : Nat) : VIns :=
  let w := lField l (16 * i) 8
  ⟨bitsOf w 0 8, bitsOf w 8 3, bitsOf w 11 3, bitsOf w 14 3, bitsOf w 17 3, bitOf w 20, bitOf w 21, bitsOf w 22 2,
   bitsOf w 24 8, BitVec.ofNat 32 (bitsOf w 32 32), lField l (16 * i + 8) 8⟩

/-- How many sources an operation takes; none for a code outside R237. -/
def vecArity (op : Nat) : Option Nat :=
  if op = 0x04 ∨ op = 0x09 then some 3
  else if [0x01, 0x02, 0x03, 0x05, 0x06, 0x14].contains op then some 2
  else if [0x07, 0x08, 0x0A, 0x10, 0x11, 0x12, 0x13, 0x15, 0x20, 0x21, 0x22].contains op then some 1
  else none

def VIns.arity (i : VIns) : Nat := (vecArity i.op).getD 0
def VIns.useB (i : VIns) : Bool := 2 ≤ i.arity && !i.bimm
def VIns.useC (i : VIns) : Bool := 3 ≤ i.arity && !i.cimm
def VIns.red (i : VIns) : Bool := i.op == 0x20 || i.op == 0x21 || i.op == 0x22

/-- The source streams that an instruction reads. -/
def VIns.srcs (i : VIns) : List Nat := [i.a] ++ (if i.useB then [i.b] else []) ++ (if i.useC then [i.c] else [])

/-- The checks of one instruction (R236, R237, R247): SEL takes c, which is its third source. -/
def vinsChk (fbq : Bool) (n : Nat) (i : VIns) : Chk Unit := do
  let o := 0x100 + 16 * n
  chk (vecArity i.op).isSome o i.op
  chk (!fbq || i.d != 0) (o + 1) i.d
  chk (i.useB || i.b == 0) (o + 1) i.b
  chk (i.useC || i.c == 0) (o + 2) i.c
  chk (!i.bimm || 2 ≤ i.arity) (o + 2) (b2n i.bimm)
  chk (!i.cimm || 3 ≤ i.arity) (o + 2) (b2n i.cimm)
  chk (i.rmode != 3) (o + 2) i.rmode
  chk (i.rsv == 0) (o + 3) i.rsv
  chk (i.bimm || i.cimm || i.imm == 0#32) (o + 4) i.imm.toNat
  chk (i.top == 0) (o + 8) i.top

def vprogChk (fbq : Bool) (l : List Byte) (n : Nat) : Chk Unit :=
  (List.range n).forM (fun i => vinsChk fbq i (vinsOf l i))

/-! ### Descriptor fields (R242) -/

def vProg (d : W512) : Nat := dField d 16 4
def vTab (d : W512) : Nat := dField d 20 4
def vN (d : W512) : Nat := dField d 24 4
def vNinstr (d : W512) : Nat := dField d 28 1
def vHset (d : W512) : Nat := dField d 29 1
def vSrc (d : W512) : Nat := dField d 30 1
def vGather (d : W512) : Bool := bitOf (dField d 31 1) 0
def vBlocks (d : W512) : Nat := dField d 32 4
def vBmax (d : W512) : Nat := dField d 36 4
def vAmax (d : W512) : Nat := dField d 40 4
def vTcols (d : W512) : Nat := dField d 44 4

/-- Stream `i` of the table for block number `k`: address and format (R235, R242, R250). -/
def streamOf (d : W512) (tab : List Byte) (k i : Nat) : Nat × Nat :=
  (lField tab (16 * i) 8 + (dPatch d + k) * lField tab (16 * i + 12) 4, lField tab (16 * i + 8) 1)

/-- Width of the blocks of a source (R247): matrix tiles are 32 columns wide, a bank's rows as wide as its format. -/
def blockWidth (v : Tile) (src : Nat) : Nat := if src = 0 then 32 else (v.bank (src - 1)).cols

def vfieldChk (v : Tile) (fbq : Bool) (d : W512) : Chk Unit := do
  chk (vProg d % 16 == 0 && vProg d + 16 * vNinstr d ≤ 0x300000) 16 (vProg d)
  chk (vTab d % 64 == 0 && vTab d < 0x300000) 20 (vTab d)
  chk (fbq || (1 ≤ vN d && vN d ≤ 16777216)) 24 (vN d)
  chk (1 ≤ vNinstr d && vNinstr d ≤ 64) 28 (vNinstr d)
  chk (vHset d < 16) 29 (vHset d)
  chk (if fbq then vSrc d ≤ 2 else vSrc d == 0) 30 (vSrc d)
  chk (dField d 31 1 ≤ (if fbq then 1 else 0)) 31 (dField d 31 1)
  chk (if fbq then 1 ≤ vBlocks d && vBlocks d ≤ 65535 else vBlocks d == 0) 32 (vBlocks d)
  if vGather d then
    chk (vBmax d % 64 == 0 && vBmax d < 0x300000) 36 (vBmax d)
    chk (vAmax d % 64 == 0 && vAmax d < 0x300000) 40 (vAmax d)
    chk (vTcols d % 32 == 0) 44 (vTcols d)
    chk (blockWidth v (vSrc d) % 32 == 0) 31 (dField d 31 1)
  chkZero d 48 8

/-- The checks of the table entries (R232, R235): the reserved bytes of every entry that is read (R502), the fields of those that the
program names. A stream that lies in a vat range, for any block that it is advanced to, is refused. -/
def vtabChk (fbq : Bool) (d : W512) (prog tab : List Byte) : Chk Unit :=
  let is := (List.range (vNinstr d)).map (vinsOf prog)
  let used (i : Nat) : Bool := (!fbq || i != 0) && is.any (fun x => x.d == i || x.srcs.contains i)
  let full (i : Nat) : Bool := is.any (fun x => (x.d == i && !x.red) || x.srcs.contains i)
  (List.range 8).forM (fun i => do
    if used i then
      let o := 0x100 + 16 * i
      let f := lField tab (16 * i + 8) 1
      chk (lField tab (16 * i) 8 % 64 == 0) o (lField tab (16 * i) 8)
      chk (streamFmt f) (o + 8) f
    if 16 * i < tab.length then
      chk (lField tab (16 * i + 9) 3 == 0) (0x109 + 16 * i) (lField tab (16 * i + 9) 3)
    if used i then
      let o := 0x100 + 16 * i
      let f := lField tab (16 * i + 8) 1
      chk (lField tab (16 * i + 12) 4 % 64 == 0) (o + 12) (lField tab (16 * i + 12) 4)
      let len := if full i && !fbq then streamLen f (vN d) else streamLen f 1
      chk (!((List.range (if fbq then vBlocks d else 1)).any (fun k => vatHit (streamOf d tab k i).1 len))) o
        (streamOf d tab 0 i).1)

/-- A vector descriptor that starts takes the tile's seed; under SR the engine's seq advances (R114, R115). -/
def vecGo (t : Nat) (sr : Bool) (snap : List (List Byte)) (s : State) : StartRes :=
  let v := s.tile t
  .go { Run.start with seed := v.seed, seq := v.vcSeq.toNat, snap := snap }
    (if sr then s.modTile t (fun v => { v with vcSeq := v.vcSeq + 1 }) else s)

/-- A RUN or FBQRUN starts. Its program is started in SR mode where any of its instructions has RMODE SR, whether or not that instruction's
value rounds (DESIGN CHOICE, log 60: R114 does not say what makes a program one). Of its stream table the entries from 0 to the highest
index that the program names are read and checked (DESIGN CHOICE, log 60: R502 has up to eight entries and gives no count). -/
def progStart (t : Nat) (fbq : Bool) (e : QEntry) (s : State) : StartRes :=
  let d := e.d
  match vfieldChk (s.tile t) fbq d with
  | .error (off, val) => .refuse off val s
  | .ok _ =>
    let ((pl, pp), s) := s.readRecord t (vProg d) e.ctx (4 * vNinstr d)
    if pp then .poison (vProg d) s
    else match vprogChk fbq pl (vNinstr d) with
      | .error (off, val) => .refuse off val s
      | .ok _ =>
        let is := (List.range (vNinstr d)).map (vinsOf pl)
        let top := (is.map (fun x => (x.d :: x.srcs).foldl max 0)).foldl max 0 + 1
        if 0x300000 < vTab d + 16 * top then .refuse 20 (vTab d) s
        else
          let ((tl, tp), s) := s.readRecord t (vTab d) e.ctx (4 * top)
          if tp then .poison (vTab d) s
          else match vtabChk fbq d pl tl with
            | .error (off, val) => .refuse off val s
            | .ok _ => vecGo t (is.any (fun x => x.rmode == 1)) [pl, tl] s

def doRun (t : Nat) (s : State) : State := s.startDesc t 4 0x40 (fun _ _ => true) (progStart t false)
def doFbqrun (t : Nat) (s : State) : State := s.startDesc t 4 0x41 (fun _ _ => true) (progStart t true)

/-! ### Element operations (R237, R240) -/

/-- MIN or MAX. Which of two equal zeros it gives is not stated: a fixed choice per operand. -/
def vecMinMax (op : Nat) (a b : W32) : W32 :=
  match val32 a, val32 b with
  | some x, some y =>
    if x.m = 0 ∧ y.m = 0 ∧ x.neg ≠ y.neg then (if Config.approxPick op a % 2 = 0 then a else b)
    else if dyLt y.dy x.dy then (if op = 0x05 then b else a)
    else if op = 0x05 then a else b
  | _, _ => nan32

/-- SEL: a NaN c gives the canonical NaN; the operand not selected has no effect. -/
def vecSel (a b c : W32) : W32 :=
  match val32 c with
  | none => nan32
  | some z =>
    let r := if !z.neg && z.m ≠ 0 then a else b
    if nonFin r then nan32 else r

/-- The FP32 result of an operation on one element, rounded once, and whether it counts under SAT (R119–R121, R237). -/
def vecOp (op : Nat) (m : Rnd) (a b c : W32) : FRes :=
  match op with
  | 0x01 => f32Add m a b
  | 0x02 => f32Sub m a b
  | 0x03 => f32Mul m a b
  | 0x04 => f32Fma m a b c
  | 0x05 => (vecMinMax 0x05 a b, false)
  | 0x06 => (vecMinMax 0x06 a b, false)
  | 0x07 => (if nonFin a then nan32 else f32Abs a, false)
  | 0x08 => (if nonFin a then nan32 else f32Neg a, false)
  | 0x09 => (vecSel a b c, false)
  | 0x0A => (if nonFin a then nan32 else a, false)
  | 0x14 => f32Div m a b
  | 0x15 => f32Sqrt m a
  | op => f32Approx op a

/-- RCP, RSQRT, EXP2, LOG2: their FP32 value is fixed whatever RMODE says (R240). -/
def vecFixed (op : Nat) : Bool := 0x10 ≤ op && op ≤ 0x13

/-- One element as it is written: computed in FP32 and converted (R240). -/
def vecElem (i : VIns) (f : Nat) (m : Rnd) (a b c : W32) : Stored :=
  let (w, sat) := vecOp i.op (if f = 0x00 then m else .rne) a b c
  let r := storeElem f m w
  { r with sat := r.sat || sat }

/-- Whether the instruction's writes round under SR (R240). -/
def VIns.srUsed (i : VIns) (f : Nat) : Bool := i.rmode == 1 && !(f == 0x00 && (vecFixed i.op || i.red))

/-- One step of a lane or of the tree (R239): the value and whether it saturated. -/
def lanePut (op : Nat) (x y : W32) : FRes :=
  match op with
  | 0x20 => f32Add .rne x y
  | 0x21 => (vecMinMax 0x06 x y, false)
  | _ => (if nonFin y then x else vecMinMax 0x06 x (f32Abs y), false)

/-- The binary tree over the lanes that hold a value (R239), with the saturations. -/
def laneTree (op : Nat) : Nat → List W32 → W32 × Nat
  | 0, l => (l.headD 0#32, 0)
  | n + 1, l =>
    let (l', k) := level l
    let (w, k') := laneTree op n l'
    (w, k + k')
where
  level : List W32 → List W32 × Nat
    | a :: b :: r =>
      let (w, sat) := lanePut op a b
      let (l, k) := level r
      (w :: l, k + b2n sat)
    | l => (l, 0)

/-! ### Running a program (R238, R250–R252) -/

/-- A slot that waits for a stream any part of which lies outside the scratchpad is counted; how many are lost is not stated (R234). -/
def xPortwait (g : Agent) (streams : List Region) : X Unit := do
  let s ← xState
  if streams.all (s.ownSpad g) then pure ()
  else xMod (fun s =>
    let (n, s) := s.draw
    s.modTile g.tile (fun v => { v with vec := { v.vec with portwait := v.vec.portwait + n } }))

/-- Elements `j` to `j + n - 1` of a finished block in row-major order (R250). -/
def xBlockVals (g : Agent) (b : FbEnt) (j : Nat) : Nat → X (List (W32 × Bool))
  | 0 => pure []
  | n + 1 => do
    let size := if b.fmt = 0x00 then 4 else 2
    let x ← xElem g (b.addr.toNat + j / b.cols * b.stride + j % b.cols * size) size
    let r ← xBlockVals g b (j + 1) n
    pure (x :: r)

/-- The values of one operand of an instruction. -/
def xOperand (g : Agent) (d : W512) (tab : List Byte) (k : Nat) (blk : Option FbEnt) (use imm : Bool) (iw : W32)
    (i j n : Nat) : X (List (W32 × Bool)) :=
  if imm then pure (List.replicate n (iw, false))
  else if use then
    match blk with
    | some b => if i = 0 then xBlockVals g b j n else let (a, f) := streamOf d tab k i; xStreamVals g f a j n
    | none => let (a, f) := streamOf d tab k i; xStreamVals g f a j n
  else pure (List.replicate n (0#32, false))

/-- The place of a source stream, rows at a stride for a finished block, and how many bits an element has. -/
def srcRange (d : W512) (tab : List Byte) (k : Nat) (blk : Option FbEnt) (n i : Nat) : Region × Nat :=
  let own := let (a, f) := streamOf d tab k i; (⟨a, 0, 1, streamLen f n⟩, streamBits f)
  match blk with
  | some b =>
    if i = 0 then
      (⟨b.addr.toNat, b.stride, b.rows, b.cols * (if b.fmt = 0x00 then 4 else 2)⟩, if b.fmt = 0x00 then 32 else 16)
    else own
  | none => own

/-- The counts of written elements (R121, R498). -/
def storedCounts (l : List Stored) : List (Nat × Nat) :=
  [(0, (l.filter (·.sat)).length), (1, (l.filter (·.nan)).length), (6, (l.filter (·.flush)).length)]

/-- Write results, count them, and advance the SR index. Where the destination overlaps a source at another base, the
written values are unspecified (R238): each is a free value. -/
def xEmit (g : Agent) (i : VIns) (f base j set : Nat) (free : Bool) (l : List (Stored × Bool)) : X Unit := do
  let codes ← if free then
      xDo (fun s => l.foldl (fun (acc : List (Nat × Bool) × State) p =>
        let (v, s) := acc.2.draw
        (acc.1 ++ [(v.toNat % 2 ^ streamBits f, p.2)], s)) (([], s) : List (Nat × Bool) × State))
    else pure (l.map (fun p => (p.1.code, p.2)))
  xPutElems g f base j codes
  xMod (fun s =>
    let s := s.numCounts g.tile (storedCounts (l.map (·.1)))
    s.histCount g.tile set (codes.map (fun p => elemValue f p.1)))
  if i.srUsed f then xRun g (fun r => { r with sri := r.sri + l.length })

/-- One slice of one instruction: 128 elements, or one where a destination is updated in place with wider elements. A non-finite element
of any operand that the instruction has counts under counter 2: one of a source that SEL does not select, and an immediate once for each
element (DESIGN CHOICE, log 60: R121 does not say whether those are read). -/
def xSlice (g : Agent) (d : W512) (prog tab : List Byte) (blk : Option FbEnt) (n : Nat) : X Unit := do
  let e ← xEntry g
  let r := e.run
  let i := vinsOf prog r.unit
  let (da, df) := streamOf d tab r.blk i.d
  let ranges := i.srcs.map (srcRange d tab r.blk blk n)
  let dlen := if i.red then streamLen df 1 else streamLen df n
  let s ← xState
  let laps := ranges.any (fun x => x.1.base != da && s.overlaps g x.1 ⟨da, 0, 1, dlen⟩)
  let widen := !i.red && ranges.any (fun x => x.1.base == da && x.2 < streamBits df)
  let m := min 128 (n - r.sub)
  let g1 := if widen then 1 else 128
  xPortwait g (⟨da, 0, 1, dlen⟩ :: ranges.map (·.1))
  if i.red then
    let xs ← xOperand g d tab r.blk blk true false 0#32 i.a r.sub m
    let nf := (xs.filter (fun x => nonFin x.1)).length
    let lanes := if r.sub = 0 then [] else r.acc.take 128
    let mark := (r.sub ≠ 0 && (r.acc[128]?).getD 0#32 != 0#32) || xs.any (·.2)
    let stepped := xs.zipIdx.map (fun x =>
      match lanes[x.2]? with
      | some old => lanePut i.op old x.1.1
      | none => if i.op = 0x22 then lanePut 0x22 0#32 x.1.1 else (if nonFin x.1.1 then nan32 else x.1.1, false))
    let lanes' := stepped.map (·.1) ++ lanes.drop stepped.length
    let sats := (stepped.filter (·.2)).length
    xMod (fun s => s.numCounts g.tile [(2, nf), (0, sats)])
    if n ≤ r.sub + m then
      let (w, k) := laneTree i.op 8 lanes'
      let mode := rndOf i.rmode r.seed (2 * g.tile + 1) r.seq (r.sri % 2 ^ 24)
      xMod (fun s => s.numCount g.tile 0 k)
      xEmit g i df da 0 (vHset d) laps [(storeElem df (if df = 0x00 then .rne else mode) w, mark)]
      xRun g (fun r => { r with unit := r.unit + 1, sub := 0, acc := [] })
    else
      let pad := lanes' ++ List.replicate (128 - lanes'.length) 0#32
      xRun g (fun r => { r with sub := r.sub + m, acc := pad ++ [if mark then 1#32 else 0#32] })
  else
    pieces g d tab blk i da df laps g1 r.sub m
    xRun g (fun r => if n ≤ r.sub + m then { r with unit := r.unit + 1, sub := 0 } else { r with sub := r.sub + m })
where
  /-- The slice in pieces of `g1` elements, each read whole and then written. -/
  pieces (g : Agent) (d : W512) (tab : List Byte) (blk : Option FbEnt) (i : VIns) (da df : Nat) (laps : Bool)
      (g1 j : Nat) : Nat → X Unit
    | 0 => pure ()
    | m + 1 => do
      let e ← xEntry g
      let r := e.run
      let k := min g1 (m + 1)
      let as ← xOperand g d tab r.blk blk true false 0#32 i.a j k
      let bs ← xOperand g d tab r.blk blk i.useB i.bimm i.imm i.b j k
      let cs ← xOperand g d tab r.blk blk i.useC i.cimm i.imm i.c j k
      let ops := as.zip (bs.zip cs)
      let nf := ([as, bs, cs].map (fun l => (l.filter (fun x => nonFin x.1)).length)).sum
      let out := ops.zipIdx.map (fun p =>
        let (a, b, c) := p.1
        let mode := rndOf i.rmode r.seed (2 * g.tile + 1) r.seq ((r.sri + p.2) % 2 ^ 24)
        (vecElem i df mode a.1 b.1 c.1, a.2 || b.2 || c.2))
      xMod (fun s => s.numCount g.tile 2 nf)
      xEmit g i df da j (vHset d) laps out
      if g1 = 1 then pieces g d tab blk i da df laps g1 (j + 1) m else pure ()

/-- The next slice of a RUN; true at its end. -/
def runUnitOf (g : Agent) : X Bool := do
  let e ← xEntry g
  let prog := (e.run.snap[0]?).getD []
  let tab := (e.run.snap[1]?).getD []
  if vNinstr e.d ≤ e.run.unit then pure true
  else do
    xSlice g e.d prog tab none (vN e.d)
    flushAs g (streamOf e.d tab e.run.blk (vinsOf prog e.run.unit).d).2
    let e ← xEntry g
    pure (vNinstr e.d ≤ e.run.unit)

/-- The larger of two finite magnitudes; a non-finite value takes no part. -/
def amaxFold (m : W32) (x : W32) : W32 := if nonFin x then m else maxMag m x

/-- Phase A fused into a finished block with the elements `vals` (R250, R244): run maxima and the partial amax_T. Entries beyond the
scratchpad are not written; a NaN maximum of such an entry counts under NANOUT all the same (DESIGN CHOICE, log 50: no rule says what
becomes of the entry). -/
def xGather (g : Agent) (d : W512) (b : FbEnt) (vals : List (W32 × Bool)) : X Unit := do
  let nb := vTcols d / 32
  let runs := (List.range b.rows).map (fun r => (List.range (b.cols / 32)).map (fun c => (r, 32 * c))) |>.flatten
  let put (o : Nat) (v : W32) (mk : Bool) : X Unit :=
    if o + 4 ≤ 0x300000 then xMod (fun s => s.putWord g.tile (.spad g.tile o) v mk) else pure ()
  runs.forM (fun p => do
    let xs := (vals.drop (p.1 * b.cols + p.2)).take 32
    let m := if xs.any (fun x => nonFin x.1) then nan32 else xs.foldl (fun m x => amaxFold m x.1) 0#32
    xMod (fun s => s.numCount g.tile 1 (b2n (nonFin m)))
    put (vBmax d + 4 * ((b.row0 + p.1) * nb + (b.col0 + p.2) / 32)) m (xs.any (·.2)))
  let old ← xSpad g.tile (vAmax d) g.ctx
  let m := vals.foldl (fun m x => amaxFold m x.1) (amaxFold 0#32 old.1)
  put (vAmax d) m (old.2 || vals.any (·.2))
  xMod (fun s => s.numCount g.tile 2 ((vals.filter (fun x => nonFin x.1)).length + b2n (nonFin old.1)))

/-- The next slice of an FBQRUN's present block; true when the block's program has completed and it is dequeued. The block is counted and
gathered as the engine takes it, before its program writes (R102, R251). -/
def fbqUnitOf (g : Agent) : X Bool := do
  let e ← xEntry g
  let s ← xState
  let prog := (e.run.snap[0]?).getD []
  let tab := (e.run.snap[1]?).getD []
  let src := vSrc e.d
  match (s.tile g.tile).vec.fbq[src]? with
  | some (b :: rest) =>
    let n := b.rows * b.cols
    if e.run.unit = 0 ∧ e.run.sub = 0 then do
      let vals ← xBlockVals g b 0 n
      if vGather e.d then xGather g e.d b vals
      xMod (fun s => s.histCount g.tile (vHset e.d) (vals.map (·.1)))
    if e.run.unit < vNinstr e.d then
      xSlice g e.d prog tab (some b) n
      flushAs g (streamOf e.d tab e.run.blk (vinsOf prog e.run.unit).d).2
    let e ← xEntry g
    if vNinstr e.d ≤ e.run.unit then do
      flushRemote g
      xMod (fun s =>
        s.modTile g.tile (fun v => { v with vec := { v.vec with fbq := v.vec.fbq.set src rest } }))
      xRun g (fun r => { r with unit := 0, sub := 0, blk := r.blk + 1 })
      pure true
    else do
      flushRemote g
      pure false
  | _ => xFail .wait

/-- The running vector descriptor, where it may go on (R253). -/
def State.vecRunning (s : State) (t : Nat) : Option QEntry :=
  let v := s.tile t
  if s.paused t || ((v.faults[4]?).getD FaultReg.none).pend then none else v.running 4

/-- FBQ_BLOCK_DONE: the running FBQRUN takes the next block of its sub-queue; under pre-emption, and where its grid is being stopped, it stops
at a 128-element boundary of the block, which a free count chooses, and takes no further block (R253). -/
def doFbqBlockDone (t : Nat) (s : State) : State :=
  match s.vecRunning t with
  | none => s
  | some e =>
    if dOp e.d = 0x41 ∧ e.run.blk < vBlocks e.d ∧ ((s.saving || s.stopping e) && e.halt) = false then
      match (s.tile t).vec.fbq[vSrc e.d]? with
      | some (b :: _) =>
        let all := vNinstr e.d * (b.rows * b.cols / 128 + 1) + 1
        let stop := s.saving || s.stopping e
        let (n, s) := if stop then s.drawUpTo all else (all, s)
        match runUnits t (fbqUnitOf (tileAgent t 4 e)) n s with
        | (.error x, s) => s.failEntry t 4 e x
        | (.ok _, s) => if stop then s.haltEntry t 4 e.seq else s
      | _ => s
    else s

/-! ### The rennet pass (R101, R243, R244) -/

def rgRows (d : W512) : Nat := dField d 36 4
def rgCols (d : W512) : Nat := dField d 40 4
def rgLd (d : W512) : Nat := dField d 44 4
def rgSize (d : W512) : Nat := if dField d 48 1 = 0 then 4 else 2
def rgBlocks (d : W512) : Nat := rgRows d * rgCols d / 32
def rgT (d : W512) : Nat := dField d 16 8 + dPatch d * (rgRows d * rgLd d)
def rgB (d : W512) : Nat := dField d 24 8 + dPatch d * (4 * rgBlocks d)
def rgRegion (d : W512) : Region := ⟨rgT d, rgLd d, rgRows d, rgCols d * rgSize d⟩

def rgChk (d : W512) : Chk Unit := do
  let ax := dField d 49 1
  chkAddr d 16
  chkAddr d 24
  chk (dField d 32 4 % 64 == 0 && dField d 32 4 < 0x300000) 32 (dField d 32 4)
  chk (1 ≤ rgRows d && rgRows d ≤ 16777216 && (ax != 1 || rgRows d % 32 == 0)) 36 (rgRows d)
  chk (1 ≤ rgCols d && rgCols d ≤ 16777216 && (ax != 0 || rgCols d % 32 == 0)) 40 (rgCols d)
  chk (rgLd d % 64 == 0) 44 (rgLd d)
  chk (dField d 48 1 ≤ 1) 48 (dField d 48 1)
  chk (ax ≤ 1) 49 ax
  chkZero d 50 6
  chk (!rowsVat (rgT d) (rgLd d) (rgRows d) (rgCols d * rgSize d)) 16 (dField d 16 8)
  chk (!vatHit (rgB d) (4 * rgBlocks d)) 24 (dField d 24 8)

def doRgather (t : Nat) (s : State) : State :=
  s.startDesc t 4 0x42 (fun _ _ => true) (fun e s =>
    match rgChk e.d with
    | .error (off, val) => .refuse off val s
    | .ok _ => vecGo t false [] s)

/-- The addresses of the 32 elements of block `k`, in the order of the block maxima (R243). -/
def rgBlock (d : W512) (k : Nat) : List Nat :=
  if dField d 49 1 = 0 then
    let r := 32 * k / rgCols d
    let c := 32 * k % rgCols d
    (List.range 32).map (fun i => rgT d + r * rgLd d + (c + i) * rgSize d)
  else
    let c := k / (rgRows d / 32)
    let r := 32 * (k % (rgRows d / 32))
    (List.range 32).map (fun i => rgT d + (r + i) * rgLd d + c * rgSize d)

/-- 128 elements of an RGATHER: four blocks. `acc` holds the partial amax_T and its mark. -/
def rgUnit (g : Agent) : X Bool := do
  let e ← xEntry g
  let d := e.d
  let k := 4 * e.run.unit
  let n := min 4 (rgBlocks d - k)
  let am := (e.run.acc[0]?).getD 0#32
  let mk := (e.run.acc[1]?).getD 0#32
  xPortwait g [rgRegion d, ⟨rgB d, 0, 1, 4 * rgBlocks d⟩]
  let xs ← xElems g (rgSize d) (((List.range n).map (fun i => rgBlock d (k + i))).flatten)
  (List.range n).forM (fun i => do
    let b := (xs.drop (32 * i)).take 32
    let m := if b.any (fun x => nonFin x.1) then nan32 else b.foldl (fun m x => amaxFold m x.1) 0#32
    xMod (fun s => s.numCount g.tile 1 (b2n (nonFin m)))
    xWrite32 g (rgB d + 4 * (k + i)) m (b.any (·.2)))
  let am := xs.foldl (fun m x => amaxFold m x.1) am
  let mk := if xs.any (·.2) then 1#32 else mk
  let last : Bool := rgBlocks d ≤ k + n
  if last then xMod (fun s => s.putWord g.tile (.spad g.tile (dField d 32 4)) am (mk != 0#32))
  flushAs g 0x00
  xMod (fun s => s.numCount g.tile 2 (xs.filter (fun x => nonFin x.1)).length)
  xRun g (fun r => { r with unit := r.unit + 1, acc := [am, mk] })
  pure last

def rsN (d : W512) : Nat := dField d 40 4
def rsB (d : W512) : Nat := dField d 16 8 + dPatch d * (4 * rsN d)
def rsE (d : W512) : Nat := dField d 24 8 + dPatch d * rsN d
def rsS (d : W512) : Nat := dField d 32 4 + dPatch d * 4

def rsChk (d : W512) : Chk Unit := do
  let am := BitVec.ofNat 32 (dField d 36 4)
  chkAddr d 16
  chkAddr d 24
  chk (dField d 32 4 % 64 == 0 && rsS d + 4 ≤ 0x300000) 32 (dField d 32 4)
  chk ((!nonFin am && !bitOf am.toNat 31) || am == 0x80000000#32) 36 am.toNat
  chk (1 ≤ rsN d && rsN d ≤ 16777216) 40 (rsN d)
  chkZero d 44 4
  chk (isBlockFmt (dField d 48 1)) 48 (dField d 48 1)
  chkZero d 49 7
  chk (!vatHit (rsB d) (4 * rsN d)) 16 (dField d 16 8)
  chk (!vatHit (rsE d) (rsN d)) 24 (dField d 24 8)

def doRset (t : Nat) (s : State) : State :=
  s.startDesc t 4 0x43 (fun _ _ => true) (fun e s =>
    match rsChk e.d with
    | .error (off, val) => .refuse off val s
    | .ok _ => vecGo t false [] s)

/-- 128 blocks of an RSET (R101, R244). A NaN maximum counts under counter 3 as R244 says and not under counter 2 (DESIGN CHOICE, log 60:
R244 takes it as a block with a NaN and names no counter 2). -/
def rsUnit (g : Agent) : X Bool := do
  let e ← xEntry g
  let d := e.d
  let k := 128 * e.run.unit
  let n := min 128 (rsN d - k)
  let fmt := dField d 48 1
  let st := tensorScale fmt (BitVec.ofNat 32 (dField d 36 4))
  xPortwait g [⟨rsB d, 0, 1, 4 * rsN d⟩, ⟨rsE d, 0, 1, rsN d⟩]
  let xs ← xReadWords g (rsB d + 4 * k) n
  let es := xs.map (fun x => (blockScale fmt st (val32 (f32Abs x.1)), x.2))
  xPutBytes g (rsE d + k) (es.map (fun p => (BitVec.ofNat 8 p.1, p.2)))
  let last : Bool := rsN d ≤ k + n
  if last then xMod (fun s => s.putWord g.tile (.spad g.tile (rsS d)) st false)
  flushAs g 0x18
  xMod (fun s => s.numCounts g.tile
    [(3, (es.filter (fun p => p.1 == 0xFF)).length), (4, (xs.filter (fun x => f32Abs x.1 == 0#32)).length)])
  xRun g (fun r => { r with unit := r.unit + 1 })
  pure last

/-! ### Activation quantisation (R105, R106, R193, R194, R245) -/

def aqTau (d : W512) : W32 := BitVec.ofNat 32 (dField d 40 4)
def aqNvec (d : W512) : Nat := dField d 44 2
def aqSize (d : W512) : Nat := if dField d 46 1 = 0 then 4 else 2
def aqFmt (d : W512) : Nat := dField d 47 1
def aqMode (d : W512) : Nat := bitsOf (dField d 48 1) 0 2
def aqSpill (d : W512) : Bool := bitOf (dField d 48 1) 2
def aqCodeLen (d : W512) : Nat := if aqFmt d = 0x10 then 1024 else 512
def aqSrc (d : W512) : Nat := dField d 16 8 + dPatch d * (aqNvec d * 1024 * aqSize d)
def aqCode (d : W512) : Nat := dField d 24 8 + dPatch d * (aqNvec d * aqCodeLen d)
def aqSide (d : W512) : Nat := dField d 32 8 + dPatch d * sideSpan (aqNvec d) (aqSpill d)

def aqChk (d : W512) : Chk Unit := do
  chkAddr d 24
  chkAddr d 32
  chk (scaleOk (aqTau d)) 40 (aqTau d).toNat
  chk (1 ≤ aqNvec d && aqNvec d ≤ 1024) 44 (aqNvec d)
  chk (dField d 46 1 ≤ 1) 46 (dField d 46 1)
  chk (aqFmt d == 0x10 || aqFmt d == 0x11) 47 (aqFmt d)
  chk (dField d 48 1 < 8 && aqMode d != 3 && (!aqSpill d || aqTau d != 0#32)) 48 (dField d 48 1)
  chk (dField d 49 1 < 16) 49 (dField d 49 1)
  chkZero d 50 6
  chk (!vatHit (aqSrc d) (aqNvec d * 1024 * aqSize d)) 16 (dField d 16 8)
  chk (!vatHit (aqCode d) (aqNvec d * aqCodeLen d)) 24 (dField d 24 8)
  chk (!vatHit (aqSide d) (sideSpan (aqNvec d) (aqSpill d))) 32 (dField d 32 8)

def doActq (t : Nat) (s : State) : State :=
  s.startDesc t 4 0x44 (fun _ _ => true) (fun e s =>
    match aqChk e.d with
    | .error (off, val) => .refuse off val s
    | .ok _ => vecGo t (aqMode e.d == 1) [] s)

/-- One quantised element: its code a, whether it was clamped (R105). -/
structure QElem where
  a : Int
  clamped : Bool
deriving DecidableEq, Repr

def quantElem (mode : Rnd) (q : Nat) (k : Int) (x : W32) : QElem :=
  match val32 x with
  | none => ⟨0, false⟩
  | some v =>
    let (neg, n) := scaledInt mode v k
    let m := min n q
    ⟨if neg then -(m : Int) else m, decide (q < n)⟩

/-- a × 2^(−k) as FP32. -/
def dequant (a k : Int) : W32 := (toF32 .rne ⟨a, -k⟩ false).1

/-- The larger |e| ranks first, ties to the lower row (R194). -/
def excessInsert (x : Nat × W32) : List (Nat × W32) → List (Nat × W32)
  | [] => [x]
  | y :: r => if (f32Abs y.2).toNat < (f32Abs x.2).toNat then x :: y :: r else y :: excessInsert x r

/-- The 192 bytes of a spill record (R193, R194), from the excesses of the clamped rows in row order. -/
def spillBytes (es : List (Nat × W32)) : List Byte :=
  let best := (es.foldl (fun l x => excessInsert x l) []).take 16
  let kept := es.filter (fun x => best.contains x)
  let n := es.length
  let body := leBytes 2 n ++ leBytes 1 (min n 16) ++ leBytes 1 (b2n (16 < n)) ++ List.replicate 60 0#8 ++
    (kept.map (fun p => leBytes 2 p.1 ++ leBytes 2 0 ++ leBytes 4 p.2.toNat)).flatten
  body ++ List.replicate (192 - body.length) 0#8

/-- The shift k of a vector from its largest magnitude (R105, R106). -/
def aqShift (d : W512) (xs : List W32) : Int :=
  if xs.all (fun x => f32Abs x == 0#32) then 0
  else shiftOf (if aqTau d = 0#32 then xs.foldl amaxFold 0#32 else aqTau d) (intQ (aqFmt d))

/-- The quantised elements `r` and on of a vector `i` (R105, R106). -/
def aqElems (g : Agent) (d : W512) (run : Run) (i r : Nat) (bad : Bool) (k : Int) (xs : List W32) : List QElem :=
  if bad then List.replicate xs.length ⟨0, false⟩
  else xs.zipIdx.map (fun x =>
    quantElem (rndOf (aqMode d) run.seed (2 * g.tile + 1) run.seq ((i * 1024 + r + x.2) % 2 ^ 24)) (intQ (aqFmt d)) k x.1)

/-- 128 elements of an ACTQ (R253): of each vector, eight slices read the source, and eight write the codes; the last writes the shift
byte and the spill record. `acc` holds a mark and the elements read so far. A mark on any source element marks the vector's codes,
shift byte and record. -/
def aqUnit (g : Agent) : X Bool := do
  let e ← xEntry g
  let d := e.d
  let i := e.run.unit / 16
  let j := e.run.unit % 16
  xPortwait g [⟨aqSrc d, 0, 1, aqNvec d * 1024 * aqSize d⟩, ⟨aqCode d, 0, 1, aqNvec d * aqCodeLen d⟩,
    ⟨aqSide d, 0, 1, sideSpan (aqNvec d) (aqSpill d)⟩]
  if j < 8 then
    let old := if j = 0 then [0#32] else e.run.acc
    let xs ← xElems g (aqSize d) ((List.range 128).map (fun r => aqSrc d + (i * 1024 + 128 * j + r) * aqSize d))
    let mk := if xs.any (·.2) then 1#32 else old.headD 0#32
    flushRemote g
    xMod (fun s => s.numCount g.tile 2 (xs.filter (fun x => nonFin x.1)).length)
    xRun g (fun r => { r with unit := r.unit + 1, acc := mk :: (old.tail ++ xs.map (·.1)) })
    pure false
  else
    let mark := e.run.acc.headD 0#32 != 0#32
    let all := e.run.acc.tail
    let bad := all.any nonFin
    let k : Int := if bad then 0 else aqShift d all
    let r := 128 * (j - 8)
    let xs := (all.drop r).take 128
    let qs := aqElems g d e.run i r bad k xs
    xPutElems g (aqFmt d) (aqCode d + i * aqCodeLen d) r (qs.map (fun c => (intCode (aqFmt d) c.a, mark)))
    flushAs g (aqFmt d)
    if j = 15 then
      let sb : Byte := if bad then 0x80#8 else BitVec.ofInt 8 k
      xPutBytes g (aqSide d + i) [(sb, mark)]
      if aqSpill d then
        let es := (all.zip (aqElems g d e.run i 0 bad k all)).zipIdx.filterMap (fun p =>
          if p.1.2.clamped then some (p.2, (f32Sub .rne p.1.1 (dequant p.1.2.a k)).1) else none)
        xPutBytes g (aqSide d + 64 * ceilDiv (aqNvec d) 64 + 192 * i) ((spillBytes es).map (fun b => (b, mark)))
    flushRemote g
    xMod (fun s =>
      let clamped := (qs.filter (·.clamped)).length
      let flushed := if bad then 0 else ((xs.zip qs).filter (fun p => p.2.a == 0 && f32Abs p.1 != 0#32)).length
      let zero := all.all (fun x => f32Abs x == 0#32)
      let s := s.numCounts g.tile [(6, flushed), (7, b2n (j == 15 && zero)), (8, b2n (j == 15 && bad)),
        (9, if aqTau d = 0#32 then clamped else 0)]
      s.histCount g.tile (dField d 49 1) (qs.map (fun c => dequant c.a k)))
    xRun g (fun r => { r with unit := r.unit + 1 })
    pure (decide (16 * aqNvec d ≤ e.run.unit + 1))

/-! ### Weight quantisation (R153, R246) -/

/-- A weight quantisation: master, codes and scales, the stride and the format, the rounding and its seed (R114), and the
histogram set (a fold counts into none). -/
structure WqJob where
  master : Nat
  code : Nat
  scale : Nat
  stride : Nat
  fmt : Nat
  rmode : Nat
  seed : W64
  seq : Nat
  hset : Option Nat
deriving DecidableEq, Repr

def wqCols (fmt : Nat) : Nat := if fmt = 0x14 then 512 else 1024

/-- s_w of a column from its maximum; a NaN maximum stands for a column with a NaN or an infinity (R153). -/
def wqScale (fmt : Nat) (am : W32) : W32 :=
  match val32 am with
  | none => nan32
  | some x => if x.m = 0 then one32 else let (n, d) := dyQuot x.dy; scaleRU n (d * intQ fmt)

/-- w = round(m / s_w), clamped (R153). -/
def wqCode (mode : Rnd) (fmt : Nat) (m sw : W32) : Int :=
  match val32 m, val32 sw with
  | some x, some y =>
    let (n1, d1) := dyQuot x.dy
    let (n2, d2) := dyQuot y.dy
    let w := min (roundQuot mode (n1 * d2) (d1 * n2)) (intQ fmt)
    if x.neg then -(w : Int) else w
  | _, _ => 0

/-- The 128-column slices of a row, and the units of a weight quantisation: 1,024 rows, the scales, 1,024 rows (R153, R253). -/
def wqSlices (fmt : Nat) : Nat := wqCols fmt / 128
def wqUnits (fmt : Nat) : Nat := 2049 * wqSlices fmt

/-- The format of what a step writes: the scales, or codes. -/
def wqFmtAt (fmt i : Nat) : Nat := if i / wqSlices fmt = 1024 then 0x00 else fmt

/-- The bin of w × s_w (R251). -/
def wqBin (w : Int) (sw : W32) : Nat :=
  match val32 sw with
  | none => 63
  | some y =>
    let v := dyMul ⟨w, 0⟩ y.dy
    if v.m = 0 then 0 else (min (max (dyLog v + 32) 1) 62).toNat

/-- Step `i` of a weight quantisation over what the earlier steps hold (column maxima, then their marks), 128 columns each: rows 0 to
1,023 of the first pass, the scales, rows 0 to 1,023 of the second pass. True at the last. A column with a NaN scale counts once under
counter 1, where the scale is written (R121). -/
def wqStep (g : Agent) (j : WqJob) (i : Nat) (acc : List W32) : X (List W32 × Bool) := do
  let cols := wqCols j.fmt
  let sl := wqSlices j.fmt
  let row := i / sl
  let c0 := 128 * (i % sl)
  let acc := if acc.isEmpty then List.replicate (2 * cols) 0#32 else acc
  let ams := (acc.drop c0).take 128
  let mks := ((acc.drop (cols + c0)).take 128).map (· != 0#32)
  let masters (r : Nat) : X (List (W32 × Bool)) :=
    xElems g 2 ((List.range 128).map (fun c => j.master + r * j.stride + 2 * (c0 + c)))
  xPortwait g [⟨j.master, j.stride, 1024, 2 * cols⟩, ⟨j.code, 0, 1, 0x80000⟩, ⟨j.scale, 0, 1, 4 * cols⟩]
  if row < 1024 then
    let xs ← masters row
    let maxes := (xs.zip ams).map (fun x => if nonFin x.1.1 || nonFin x.2 then nan32 else maxMag x.2 x.1.1)
    let marks := (xs.zip mks).map (fun x => if x.1.2 || x.2 then 1#32 else 0#32)
    xMod (fun s => s.numCount g.tile 2 (xs.filter (fun x => nonFin x.1)).length)
    pure (acc.take c0 ++ maxes ++ (acc.take (cols + c0)).drop (c0 + 128) ++ marks ++ acc.drop (cols + c0 + 128), false)
  else if row = 1024 then
    xWriteWords g (j.scale + 4 * c0) ((ams.map (wqScale j.fmt)).zip mks)
    xMod (fun s => s.numCount g.tile 1 (ams.filter nonFin).length)
    pure (acc, false)
  else
    let r := row - 1025
    let xs ← masters r
    let sws := ams.map (wqScale j.fmt)
    let ws := ((xs.zip mks).zip sws).zipIdx.map (fun x =>
      let ((m, mk), sw) := x.1
      let mode := rndOf j.rmode j.seed (2 * g.tile + 1) j.seq ((r * cols + c0 + x.2) % 2 ^ 24)
      (wqCode mode j.fmt m.1 sw, m.2 || mk))
    xPutElems g j.fmt (j.code + 512 * r) c0 (ws.map (fun p => (intCode j.fmt p.1, p.2)))
    match j.hset with
    | some h => xMod (fun s => s.histBins g.tile h ((ws.zip sws).map (fun p => wqBin p.1.1 p.2)))
    | none => pure ()
    pure (acc, decide (i + 1 = wqUnits j.fmt))

def wqJob (d : W512) (r : Run) : WqJob :=
  let n := dPatch d
  let stride := dField d 40 4
  ⟨dField d 16 8 + n * (1024 * stride), dField d 24 8 + n * 0x80000, dField d 32 8 + n * 0x1000, stride, dField d 44 1,
   dField d 45 1, r.seed, r.seq, some (dField d 46 1)⟩

def wqChk (d : W512) : Chk Unit := do
  let j := wqJob d Run.start
  let cols := wqCols j.fmt
  chkAddr d 16
  chkAddr d 24
  chkAddr d 32
  chk (j.stride % 64 == 0 && 2 * cols ≤ j.stride) 40 j.stride
  chk (j.fmt == 0x14 || j.fmt == 0x15) 44 j.fmt
  chk (j.rmode ≤ 2) 45 j.rmode
  chk (dField d 46 1 < 16) 46 (dField d 46 1)
  chkZero d 47 9
  chk (!rowsVat j.master j.stride 1024 (2 * cols)) 16 (dField d 16 8)
  chk (!vatHit j.code 0x80000) 24 (dField d 24 8)
  chk (!vatHit j.scale (4 * cols)) 32 (dField d 32 8)

def doWquant (t : Nat) (s : State) : State :=
  s.startDesc t 4 0x45 (fun _ _ => true) (fun e s =>
    match wqChk e.d with
    | .error (off, val) => .refuse off val s
    | .ok _ => vecGo t (dField e.d 45 1 == 1) [] s)

def wqUnit (g : Agent) : X Bool := do
  let e ← xEntry g
  let (acc, last) ← wqStep g (wqJob e.d e.run) e.run.unit e.run.acc
  flushAs g (wqFmtAt (dField e.d 44 1) e.run.unit)
  xRun g (fun r => { r with unit := r.unit + 1, acc := acc })
  pure last

/-! ### TOPMERGE (R396) -/

def tmL (d : W512) : Nat := dField d 32 2
def tmLen (d : W512) : Nat := dField d 34 2
def tmK (d : W512) : Nat := dField d 36 2
def tmNq (d : W512) : Nat := dField d 38 2
def tmIn (d : W512) : Nat := dField d 16 8 + dPatch d * (tmNq d * tmL d * tmLen d * 8)
def tmOut (d : W512) : Nat := dField d 24 8 + dPatch d * (tmNq d * tmK d * 8)

def tmChk (d : W512) : Chk Unit := do
  chkAddr d 16
  chkAddr d 24
  chk (1 ≤ tmL d && tmL d ≤ 1024) 32 (tmL d)
  chk (32 ≤ tmLen d && tmLen d ≤ 1024 && tmLen d % 32 == 0) 34 (tmLen d)
  chk (32 ≤ tmK d && tmK d ≤ 1024 && tmK d % 32 == 0) 36 (tmK d)
  chk (1 ≤ tmNq d && tmNq d ≤ 1024) 38 (tmNq d)
  chkZero d 40 16
  chk (!vatHit (tmIn d) (tmNq d * tmL d * tmLen d * 8)) 16 (dField d 16 8)
  chk (!vatHit (tmOut d) (tmNq d * tmK d * 8)) 24 (dField d 24 8)

def doTopmerge (t : Nat) (s : State) : State :=
  s.startDesc t 4 0x46 (fun _ _ => true) (fun e s =>
    match tmChk e.d with
    | .error (off, val) => .refuse off val s
    | .ok _ => vecGo t false [] s)

/-- One query of a TOPMERGE: its K best entries. A mark on any input entry marks every written entry, and a non-finite score read counts
(R121). -/
def tmUnit (g : Agent) : X Bool := do
  let e ← xEntry g
  let d := e.d
  let i := e.run.unit
  let n := tmL d * tmLen d
  xPortwait g [⟨tmIn d, 0, 1, tmNq d * tmL d * tmLen d * 8⟩, ⟨tmOut d, 0, 1, tmNq d * tmK d * 8⟩]
  let ws ← xReadWords g (tmIn d + i * n * 8) (2 * n)
  let mark := ws.any (·.2)
  let good := (candsOf ws).filter (fun c => !c.isEmpty)
  let best := (candSort good).take (tmK d)
  let full := best ++ List.replicate (tmK d - best.length) Cand.empty
  xWriteWords g (tmOut d + i * tmK d * 8) ((full.map Cand.words).flatten.map (fun w => (w.1, mark)))
  flushRemote g
  xMod (fun s => s.numCount g.tile 2 ((ws.zipIdx.filter (fun p => p.2 % 2 == 0 && nonFin p.1.1)).length))
  xRun g (fun r => { r with unit := i + 1 })
  pure (decide (tmNq d ≤ i + 1))

/-! ### Units of queue 4 -/

/-- The next unit of the running descriptor of queue 4; none for an FBQRUN, which goes by blocks. -/
def vecUnit (g : Agent) (op : Nat) : Option (X Bool) :=
  match op with
  | 0x40 => some (runUnitOf g)
  | 0x42 => some (rgUnit g)
  | 0x43 => some (rsUnit g)
  | 0x44 => some (aqUnit g)
  | 0x45 => some (wqUnit g)
  | 0x46 => some (tmUnit g)
  | _ => none

/-- A bound on the units of a descriptor of queue 4. -/
def vecUnits (d : W512) : Nat :=
  match dOp d with
  | 0x40 => vNinstr d * (vN d / 128 + 1)
  | 0x42 => rgBlocks d
  | 0x43 => rsN d
  | 0x44 => 16 * aqNvec d
  | 0x45 => wqUnits (dField d 44 1)
  | _ => tmNq d

/-- The histogram set that a descriptor counts into (R251). -/
def vecHset (d : W512) : Option Nat :=
  match dOp d with
  | 0x40 => some (vHset d)
  | 0x41 => some (vHset d)
  | 0x44 => some (dField d 49 1)
  | 0x45 => some (dField d 46 1)
  | _ => none

def execRun (t : Nat) (s : State) : Out := .next (doRun t s)
def execFbqrun (t : Nat) (s : State) : Out := .next (doFbqrun t s)
def execFbqBlockDone (t : Nat) (s : State) : Out := .next (doFbqBlockDone t s)
def execRgather (t : Nat) (s : State) : Out := .next (doRgather t s)
def execRset (t : Nat) (s : State) : Out := .next (doRset t s)
def execActq (t : Nat) (s : State) : Out := .next (doActq t s)
def execWquant (t : Nat) (s : State) : Out := .next (doWquant t s)
def execTopmerge (t : Nat) (s : State) : Out := .next (doTopmerge t s)

end Sys2Proof.Machine
end

