-- ==== Sys2Proof/Machine/Press.lean ====
section
/-! DEFINITION. The press controller: presses, verify failures, remaps, the wear ledger (chapter 06). -/

namespace Sys2Proof.Machine

/-! ### Descriptors (R157) -/

def pdCode (d : W512) : Nat := dField d 16 8 + dPatch d * 0x80000
def pdScale (d : W512) : Nat := dField d 24 8 + dPatch d * 0x1000
def pdOld (d : W512) : Nat := dField d 32 8
def pdFmt (d : W512) : Nat := dField d 40 1
def pdIdx (d : W512) : Bool := bitOf (dField d 42 1) 0
def pdOldScale (d : W512) : Nat := dField d 48 8

/-- The bank's format code (ARR_BANKSTAT) of a format of R69. -/
def fmtBank (f : Nat) : Nat := if f = 0x14 then 1 else 2

/-! ### The image as it is read (R152, R155) -/

/-- A part of an image as bytes with marks: the bytes first, then one mark byte for each word. -/
abbrev Part := List Byte

def partOf (ws : List (W32 × Bool)) : Part :=
  (ws.map (fun w => leBytes 4 w.1.toNat)).flatten ++ ws.map (fun w => if w.2 then 1#8 else 0#8)

def Part.data (p : Part) : List Byte := List.take (p.length / 5 * 4) p
def Part.mark (p : Part) (word : Nat) : Bool := (p[p.length / 5 * 4 + word]?).getD 0#8 != 0#8

/-- The parts of an image from word `i` of a read of scales and rows: part 0 the scales, part 1 + r code row r. -/
def xPart (g : Agent) (code scale fmt i : Nat) : X Part := do
  if i = 0 then
    let ws ← xReadWords g scale (wqCols fmt)
    pure (partOf ws)
  else
    let ws ← xReadWords g (code + 512 * (i - 1)) 128
    pure (partOf ws)

/-- The digest of an image (R155): its format code, its code bytes, its scale bytes, as they were read. -/
def imageDigest (fmt : Nat) (parts : List Part) : List Byte :=
  shake256 (BitVec.ofNat 8 fmt :: ((parts.drop 1).map Part.data).flatten ++ (parts.headD []).data)

/-- The digest of an image in memory. -/
def xDigest (g : Agent) (code scale fmt : Nat) : X (List Byte) := do
  let sc ← xPart g code scale fmt 0
  let ws ← xReadWords g code 131072
  pure (shake256 (BitVec.ofNat 8 fmt :: (ws.map (fun w => leBytes 4 w.1.toNat)).flatten ++ sc.data))

/-- The next part of a press's image; true when all are read. -/
def pressUnit (g : Agent) : X Bool := do
  let e ← xEntry g
  let i := e.run.unit
  if 1025 ≤ i then pure true
  else do
    let p ← xPart g (pdCode e.d) (pdScale e.d) (pdFmt e.d) i
    flushRemote g
    xRun g (fun r => { r with unit := i + 1, snap := r.snap ++ [p] })
    pure (decide (1025 ≤ i + 1))

/-! ### What is pressed (R154, R175, R427) -/

/-- A code byte of an image row as it is pressed: 0 where its word is poisoned or its block is retired. -/
def pressedByte (p : Prs) (b r k : Nat) (row : Part) (v : Byte) : Byte :=
  if row.mark (k / 4) || (p.block (blockOf b (k / 128) (r / 64))).retired then 0#8 else v

def pressedRow (p : Prs) (b r : Nat) (row : Part) : List (Nat × Byte) :=
  row.data.zipIdx.filterMap (fun x =>
    let v := pressedByte p b r x.2 row x.1
    if v = 0#8 then none else some (512 * r + x.2, v))

/-- The codes that an image presses, as a sparse map. -/
def pressedCodes (p : Prs) (b : Nat) (parts : List Part) : SMap Byte :=
  ((parts.drop 1).zipIdx.map (fun x => pressedRow p b x.2 x.1)).flatten

/-- The scales of an image: a poisoned one is taken as the canonical NaN. -/
def pressedScales (parts : List Part) : SMap W32 :=
  let sc := parts.headD []
  ((List.range (sc.data.length / 4)).map (fun j =>
    (j, if sc.mark j then nan32 else BitVec.ofNat 32 (lField sc.data (4 * j) 4)))).filter (fun x => x.2 ≠ 0#32)

/-- The poisoned words of an image's codes: row and word. -/
def poisonWords (parts : List Part) : List (Nat × Nat) :=
  ((parts.drop 1).zipIdx.map (fun x => ((List.range 128).filter (fun w => x.1.mark w)).map (fun w => (x.2, w)))).flatten

/-- The retired blocks in which an image gives a non-zero code (R175), as macro and group. -/
def retiredHits (p : Prs) (b : Nat) (parts : List Part) : List (Nat × Nat) :=
  (((parts.drop 1).zipIdx.map (fun x => x.1.data.zipIdx.filterMap (fun y =>
    if y.1 ≠ 0#8 ∧ (p.block (blockOf b (y.2 / 128) (x.2 / 64))).retired then some (y.2 / 128, x.2 / 64) else none))).flatten).eraseDups

/-! ### The ledger (R171, R172, R177–R181) -/

def State.modPrs (s : State) (t : Nat) (f : Prs → Prs) : State := s.modTile t (fun v => { v with prs := f v.prs })

def State.modBlock (s : State) (t n : Nat) (f : Block → Block) : State :=
  s.modPrs t (fun p => { p with ledger := { p.ledger with
    blocks := smSet Block.none p.ledger.blocks n (f (p.block n)) } })

/-- A block undergoes a press (R177); reaching the limit posts an event (R181). -/
def State.wear (s : State) (t b mg : Nat) : State :=
  let n := 64 * b + mg
  let old := ((s.tile t).prs.block n).cycles
  let c := satAdd 40 old 1
  let s := s.modBlock t n (fun k => { k with cycles := c })
  if old.toNat < s.lim.wearLim.toNat ∧ s.lim.wearLim.toNat ≤ c.toNat then s.notice t 7 b n else s

/-- The same for a block that is in use (R175). -/
def State.wearBlock (s : State) (t b mg : Nat) : State :=
  if ((s.tile t).prs.block (64 * b + mg)).retired then s else s.wear t b mg

def State.retireBlock (s : State) (t n : Nat) : State :=
  (s.modBlock t n (fun k => { k with retired := true })).modPrs t (fun p => { p with retires := satAdd 8 p.retires 1 })

/-- The first free spare column of a macro. -/
def freeCol (l : Ledger) (base : Nat) : Option Nat :=
  (List.range 24).find? (fun i => (smGet 0#16 l.cols (base + i)).getLsbD 15 == false)

/-- The map entry of a spare column. -/
def Ledger.spare (l : Ledger) (base i : Nat) : W16 := smGet 0#16 l.cols (base + i)

/-- The column, working or reference, that a physical column in use serves: its own, or the one that it replaces. Of two spares for one
column the later is in use (DESIGN CHOICE, log 59). -/
def Ledger.serves (l : Ledger) (base c : Nat) : Option Nat :=
  let only (from_ : Nat) (w : W16) : Bool := (List.range 24).all (fun i => i < from_ || l.spare base i != w)
  if c < 768 ∨ (792 ≤ c ∧ c < 800) then (if only 0 (BitVec.ofNat 16 (0x8000 + c)) then some c else none)
  else if 768 ≤ c ∧ c < 792 ∧ (l.spare base (c - 768)).getLsbD 15 ∧ only (c - 767) (l.spare base (c - 768)) then
    some ((l.spare base (c - 768)).toNat % 1024)
  else none

/-- Whether the cell of a row index at a working or reference column of a macro is multi-level, and its level (R89, R139). -/
def cellTarget (k : Bank) (m row col : Nat) : Bool × Nat :=
  match lineOf k.w8 m (if 792 ≤ col then col - 24 else col) with
  | .data j s =>
    let (_, ml, lo, w) := sliceOf k.w8 s
    (ml, bitsOf (k.stored row j) lo w)
  | .ref r => if r < 2 then (false, 1) else if r < 4 then (false, 0) else if r < 6 then (true, 3) else (true, 0)

/-- The verify bands (R159), in 10⁻⁶ G_u. -/
def inBand (ml : Bool) (level g : Nat) : Bool :=
  match level with
  | 0 => g ≤ 20000
  | 1 => if ml then 980000 ≤ g && g ≤ 1020000 else 985000 ≤ g && g ≤ 1015000
  | 2 => 1970000 ≤ g && g ≤ 2030000
  | _ => 2960000 ≤ g && g ≤ 3040000

/-- Whether the cell at a working or reference column fails verify (R160), in a press that takes the bank from `k0` to `k`: a FULL resets
every cell, a DELTA the cells whose level changes, with two pulses and verifies at most; a cell above level 0 has 13
iterations, and a level-0 cell that is only topped up has its reset pulses. A cell above level 0 that is only topped up gets no reset
first (DESIGN CHOICE, log 59: R160 leaves open whether a top-up includes step 2). A DELTA measures no other cell than these, the reference
columns and those of SUSPECT blocks (R174). -/
def cellFails (k0 k : Bank) (suspect : Bool) (op : Nat) (full : Bool) (c : CellFail) (col : Nat) : Bool :=
  let (ml, level) := cellTarget k c.mac c.row col
  let changed := cellTarget k0 c.mac c.row col != (ml, level)
  let reset := full || (op == 2 && changed)
  let seen := reset || op == 3 || 792 ≤ col || suspect
  seen && ((reset && !(c.resets.take 2).any (inBand ml 0)) ||
    (level != 0 && !(c.its.take (if reset then 13 else 14)).any (inBand ml level)) ||
    (level == 0 && !reset && !(c.its.take 1 ++ c.resets.take 2).any (inBand ml 0)))

/-- A press as its verify sees it: the bank before and after, the operation, whether it runs as a FULL. -/
structure Verify where
  before : Bank
  after : Bank
  op : Nat
  full : Bool

/-- The column at which a measured cell counts as failed, if it does: not in a block that was retired before the pass. -/
def Verify.failed (w : Verify) (p : Prs) (b : Nat) (c : CellFail) : Option Nat :=
  let k := p.block (blockOf b c.mac (c.row / 64))
  if 4 ≤ c.mac ∨ 1024 ≤ c.row ∨ k.retired then none
  else (p.ledger.serves (24 * (4 * b + c.mac)) c.col).filter (cellFails w.before w.after k.suspect w.op w.full c)

/-- One cell that failed verify (R171): FAILS counts it, and the first possible action is taken. `old` is the ledger at the start of the
pass; `seen` holds the rows and columns that this pass has already replaced; a further failure there, or in a block that the pass has
retired, takes no second action. A repair round presses the rows and columns `only` that the pass before replaced, and no other cell
(R172). After the third repair round the block is retired (R172). -/
def failCell (t b : Nat) (last : Bool) (w : Verify) (old : Prs) (only : Option (List (Nat × Nat × Bool))) (acc : State × List (Nat × Nat × Bool)) (c : CellFail) :
    State × List (Nat × Nat × Bool) :=
  match (w.failed old b c).filter (fun col =>
    only.all (fun l => l.contains (c.mac, c.row, true) || l.contains (c.mac, col, false))) with
  | none => acc
  | some col =>
    let (s, seen) := acc
    let n := blockOf b c.mac (c.row / 64)
    let k := (s.tile t).prs.block n
    let s := (s.modBlock t n (fun k => { k with fails := satAdd 8 k.fails 1 })).modPrs t
      (fun p => { p with failed := satAdd 32 p.failed 1 })
    let used (s : State) : State := s.modPrs t (fun p => { p with remaps := satAdd 16 p.remaps 1 })
    if k.retired then (s, seen)
    else if last then (s.retireBlock t n, seen)
    else if seen.contains (c.mac, c.row, true) || seen.contains (c.mac, col, false) then (s, seen)
    else if k.sprow0.isNone then
      (used (s.modBlock t n (fun k => { k with sprow0 := some (c.row % 64) })), (c.mac, c.row, true) :: seen)
    else if k.sprow1.isNone then
      (used (s.modBlock t n (fun k => { k with sprow1 := some (c.row % 64) })), (c.mac, c.row, true) :: seen)
    else
      let base := 24 * (4 * b + c.mac)
      match freeCol (s.tile t).prs.ledger base with
      | some i =>
        let m : W16 := BitVec.ofNat 16 (0x8000 + col)
        (used (s.modPrs t (fun p => { p with ledger := { p.ledger with
          cols := smSet 0#16 p.ledger.cols (base + i) m } })), (c.mac, col, false) :: seen)
      | none => (s.retireBlock t n, seen)

/-- One pass of failures; also the rows and columns that it replaced. -/
def failPass (t b : Nat) (last : Bool) (w : Verify) (only : Option (List (Nat × Nat × Bool))) (l : List CellFail) (s : State) :
    State × List (Nat × Nat × Bool) :=
  l.foldl (failCell t b last w (s.tile t).prs only) (s, [])

/-- The failures of a FULL and of its repair rounds, at most three, while rounds assign spares (R172). -/
def failRounds (t b : Nat) (w : Verify) (only : Option (List (Nat × Nat × Bool))) : Nat → List (List CellFail) → State → State
  | _, [], s => s
  | i, l :: r, s =>
    let (s, seen) := failPass t b (decide (3 ≤ i)) w only l s
    if !seen.isEmpty && i < 3 then failRounds t b w (some seen) (i + 1) r s else s

/-! ### Starts (R54, R156–R158, R165, R205, R401) -/

def pressChk (op : Nat) (use : Bool) (v : Tile) (d : W512) : Chk Unit := do
  let k := v.bank (pdBank d)
  chkAddr d 16
  chkAddr d 24
  chk (if op = 2 then pdOld d % 64 == 0 else pdOld d == 0) 32 (pdOld d)
  chk (pdFmt d == 0x14 || pdFmt d == 0x15) 40 (pdFmt d)
  chk (pdBank d ≤ 1) 41 (pdBank d)
  chk (dField d 42 1 ≤ 1) 42 (dField d 42 1)
  chkZero d 43 5
  chk (if op = 2 then pdOldScale d % 64 == 0 else pdOldScale d == 0) 48 (pdOldScale d)
  chk (!vatHit (pdCode d) 0x80000) 16 (pdCode d)
  chk (op != 2 || !vatHit (pdOld d) 0x80000) 32 (pdOld d)
  if op ≠ 3 then chk (pdIdx d == use) 42 (dField d 42 1)
  if op ≠ 1 then
    chk (k.fmt != 0) 41 (pdBank d)
    chk (k.fmt == fmtBank (pdFmt d)) 40 (pdFmt d)
  if op = 3 then chk (pdIdx d == k.idx) 42 (dField d 42 1)

/-- The press begins: the bank is under press, and a FULL of the job disarms the bank's fold (R201). -/
def State.beginPress (s : State) (t op b : Nat) : State :=
  let s := s.modPrs t (fun p => { p with running := some (PrsRun.start b op false (op == 1)) })
  if op = 1 then s.modTile t (fun v => v.modBank b (fun k => { k with fold := { k.fold with armed := false } })) else s

/-- The present image that a DELTA or REFRESH names: codes, scales, and the byte of the field. -/
def presentImage (d : W512) : Nat × Nat × Nat := if dOp d = 2 then (pdOld d, pdOldScale d, 32) else (pdCode d, pdScale d, 16)

/-- The digest of the present image is compared with the bank's (R158): a fault leaves the bank under press (R166), a digest that differs
refuses the descriptor. Whether the press goes on. -/
def State.pressCheck (s : State) (t : Nat) (e : QEntry) : Bool × State :=
  let (code, scale, off) := presentImage e.d
  match runUnit t (xDigest (tileAgent t 3 e) code scale (pdFmt e.d)) s with
  | (.error x, s) => (false, s.failEntry t 3 e x)
  | (.ok h, s) =>
    if h = ((s.tile t).bank (pdBank e.d)).digest then
      (true, s.modPrs t (fun p => { p with running := p.running.map (fun r => { r with checked := true }) }))
    else (false, (s.modPrs t (fun p => { p with running := none })).refuse t 3 e off (dField e.d off 8))

/-- Start the press at the head of queue 3. A DELTA or REFRESH checks the present image before its first pulse (R158). -/
def doPress (t op : Nat) (s : State) : State :=
  match s.startable t 3 with
  | none => s
  | some e =>
    if dOp e.d = op ∧ pressFree t s e then
      s.withHead t 3 e (fun e s =>
        match pressChk op (s.useOf e.mepoch) (s.tile t) e.d with
        | .error (off, val) => s.refuse t 3 e off val
        | .ok _ =>
          let s := (s.modEntry t 3 e.seq (fun e => { e with ph := .running, run := Run.start })).beginPress t op (pdBank e.d)
          if op = 1 then s else (s.pressCheck t e).2)
    else s

def doFull (t : Nat) (s : State) : State := doPress t 1 s
def doDelta (t : Nat) (s : State) : State := doPress t 2 s
def doRefresh (t : Nat) (s : State) : State := doPress t 3 s

/-! ### Completion (R155, R161, R170–R177) -/

/-- The blocks (16 × macro + group) that hold a cell whose code a new image changes. -/
def changedBlocks (k : Bank) (new : SMap Byte) : List Nat :=
  (List.range 64).filter (fun mg =>
    let g := mg % 16
    let m := mg / 16
    (List.range 64).any (fun r => (List.range 128).any (fun c =>
      let a := 512 * (64 * g + r) + 128 * m + c
      smGet 0#8 k.codes a != smGet 0#8 new a)))

/-- A bank that stops holding an image (R145, R166). Its macros stay marked until a FULL clears the marks (R175, R427). -/
def Bank.emptied (k : Bank) : Bank :=
  { k with fmt := 0, idx := false, codes := [], scales := [], digest := List.replicate 32 0#8, press := none }

/-- A mask over the macros of a list. -/
def macMask (l : List Nat) : BitVec 4 := l.foldl (fun m i => m ||| (1#4 <<< i)) 0#4

/-- What is wrong with an image: whether it holds poison, the macros with a poisoned code (R427), those with a code in a retired row (R175).
-/
structure ImagePoison where
  any : Bool
  codes : BitVec 4
  zeros : BitVec 4

/-- A bank's marks after a press of an image: a FULL whose image holds no poison clears those of R427, one whose image has no code in a
retired row those of R175. -/
def Bank.marked (k : Bank) (full : Bool) (x : ImagePoison) : Bank :=
  { k with codePoison := if full && !x.any then 0#4 else k.codePoison ||| x.codes
           zeroPoison := if full && x.zeros == 0#4 then 0#4 else k.zeroPoison ||| x.zeros }

/-- Poison of an image (R427, R175): records of class deferred, ZEROPRESS, and the macros whose outputs are poisoned. -/
def State.pressPoison (s : State) (t b : Nat) (r : Rec) (code scale : Nat) (parts : List Part) : State × ImagePoison :=
  let ws := poisonWords parts
  let sc := parts.headD []
  let badScale := (List.range (sc.data.length / 4)).find? (fun j => sc.mark j)
  let s := match ws with
    | (row, w) :: _ =>
      s.detect { r with cls := clsDeferred, cause := cPoisonData, sub := 4 * b + w / 32
                        addr := BitVec.ofNat 64 (code + 512 * row + 4 * w) }
    | [] => s
  let s := match badScale with
    | some j => s.detect { r with cls := clsDeferred, cause := cPoisonData, sub := 4 * b
                                  addr := BitVec.ofNat 64 (scale + 4 * j) }
    | none => s
  let hits := retiredHits (s.tile t).prs b parts
  let s := match hits with
    | (m, g) :: _ =>
      (s.detect { r with cls := clsDeferred, cause := cZeroPress, sub := 4 * b + m
                         info1 := BitVec.ofNat 64 (blockOf b m g) }).modPrs t
        (fun p => { p with zeropress := satAdd 8 p.zeropress 1 })
    | [] => s
  (s, ⟨!ws.isEmpty || badScale.isSome, macMask (ws.map (fun x => x.2 / 32)), macMask (hits.map (·.1))⟩)

/-- What a press that ends before its last row has read of its image `d`: the poison and the codes in retired rows that it met are reported
and stay marked (R175, R427). -/
def State.partPoison (s : State) (t b : Nat) (r : Rec) (d : W512) (parts : List Part) : State :=
  let (s, x) := s.pressPoison t b r (pdCode d) (pdScale d) parts
  s.modTile t (fun v => v.modBank b (fun k => k.marked false x))

/-- The remap of a bank as the ledger now has it (R128, R172). -/
def remapOf (p : Prs) (b : Nat) : SMap (Option Nat × Option Nat) × SMap W16 :=
  ((List.range 64).filterMap (fun mg =>
      let k := p.block (64 * b + mg)
      if k.sprow0 = none ∧ k.sprow1 = none then none else some (mg, (k.sprow0, k.sprow1))),
   (p.ledger.cols.filter (fun x => x.1 / 96 == b)).map (fun x => (x.1 - 96 * b, x.2)))

/-- The running press of image `d` as verify sees it. -/
def Tile.verify (v : Tile) (b op : Nat) (full : Bool) (d : W512) (parts : List Part) : Verify :=
  let k := v.bank b
  ⟨k, { k with fmt := fmtBank (pdFmt d), codes := pressedCodes v.prs b parts }, op, full⟩

/-- The blocks that a press which is no FULL pulses. -/
def partialWear (k0 : Bank) (op : Nat) (codes : SMap Byte) (out : PressOut) : List Nat :=
  ((if op = 2 then changedBlocks k0 codes else []) ++ out.topups.map (·.1) ++ out.iters.map (·.1)).eraseDups.filter (· < 64)

/-- TOPUP of the bank's blocks after a REFRESH (R177). -/
def State.noteTopups (s : State) (t b : Nat) (out : PressOut) : State :=
  (List.range 64).foldl (fun s mg => s.modBlock t (64 * b + mg) (fun k =>
    { k with topup := satAdd 8 0#8 (((out.topups.find? (fun x => x.1 == mg)).map (·.2)).getD 0) })) s

/-- A press of image `d` is complete. `full` says that it ended as a FULL; `r` is the record template; `fold` presses keep
the INDEX flag. -/
def State.pressDone (s : State) (t b op : Nat) (full fold : Bool) (d : W512) (ctx : Nat) (r : Rec) (parts : List Part)
    (out : PressOut) : State :=
  let w := (s.tile t).verify b op full d parts
  let worn := if full then List.range 64 else partialWear w.before op w.after.codes out
  let s := worn.foldl (fun s mg => s.wearBlock t b mg) s
  let s := if full then failRounds t b w none 0 (out.fails :: out.repair.take 3) s else s
  let (s, poison) := s.pressPoison t b r (pdCode d) (pdScale d) parts
  let codes := pressedCodes (s.tile t).prs b parts
  let s := (List.range 64).foldl (fun s mg =>
    s.modBlock t (64 * b + mg) (fun k =>
      let it := out.iters.find? (fun x => x.1 == mg)
      let k := { k with suspect := false }
      match it with
      | some x => { k with itermean := BitVec.ofNat 16 (min x.2.1 (13 * 256)), itermax := BitVec.ofNat 8 (min x.2.2 13) }
      | none => k)) s
  let s := if op = 3 ∧ full = false then s.noteTopups t b out else s
  let s := s.modPrs t (fun p => { p with
    running := none
    ledger := { p.ledger with presses := modAt p.ledger.presses b (· + 1) } })
  let (rows, cols) := remapOf (s.tile t).prs b
  let digest := imageDigest (pdFmt d) parts
  let refreshed := full || op = 3
  let now := s.time
  s.modTile t (fun v => v.modBank b (fun k =>
    let k := { k with
      fmt := fmtBank (pdFmt d), codes := codes, scales := pressedScales parts, digest := digest
      presses := k.presses + 1, rangePoison := 0#4
      press := if op = 3 then k.press else some (d, ctx)
      idx := if op = 3 || fold then k.idx else pdIdx d }
    let k := k.marked full poison
    let k := if full then
        { k with trims := List.replicate 4 Trim.reset, hit := 0#4, range := 0#4, rowMap := rows, colMap := cols
                 refStopped := false }
      else k
    if refreshed then { k with age := 0, hot := 0, refreq := false, pressedAt := now } else k))

/-- Verify found failures in a DELTA or a REFRESH: remaps are assigned, and the descriptor continues as a FULL of the same
image (R173). The blocks that the part up to here pulsed stay noted: the press is one press for each (R161). -/
def State.escalate (s : State) (t b op : Nat) (d : W512) (parts : List Part) (out : PressOut) : State :=
  let w := (s.tile t).verify b op false d parts
  let worn := partialWear w.before op w.after.codes out
  let old := (s.tile t).prs
  let s := if op = 3 then s.noteTopups t b out else s
  let s := (failPass t b false w none out.fails s).1
  let gone := worn.filter (fun mg => !(old.block (64 * b + mg)).retired && ((s.tile t).prs.block (64 * b + mg)).retired)
  (gone.foldl (fun s mg => s.wear t b mg) s).modPrs t
    (fun p => { p with running := p.running.map (fun r => { r with escal := true, pulsed := worn }) })

/-- Whether verify finds a failed cell in the row visits of the press (R173). -/
def State.verifyFails (s : State) (t b op : Nat) (d : W512) (parts : List Part) (out : PressOut) : Bool :=
  out.fails.any (fun c => (((s.tile t).verify b op false d parts).failed (s.tile t).prs b c).isSome)

/-- The blocks that the running press has pulsed when it has come to row `rows` of the image (R161, R166). -/
def PrsRun.pulsedTo (pr : PrsRun) (k : Bank) (rows : Nat) (part : SMap Byte) : List Nat :=
  (pr.pulsed ++
    (if pr.escal ∨ pr.op = 1 then (List.range 64).filter (fun mg => mg % 16 * 64 < rows)
     else if pr.op = 2 then changedBlocks k (part ++ k.codes.filter (fun x => 512 * rows ≤ x.1))
     else [])).eraseDups

/-- The accesses that a running press still makes to its images. -/
def pressAhead (t : Nat) (e : QEntry) : X Bool := do
  let s ← xState
  if (s.tile t).prs.running.any (fun r => !r.checked) then
    let (code, scale, _) := presentImage e.d
    let _ ← xDigest (tileAgent t 3 e) code scale (pdFmt e.d)
    pure true
  else pressUnit (tileAgent t 3 e)

/-- PRESS_COMPLETE: the running press of queue 3 reads what is left of its image and completes, or continues as a FULL. -/
def doPressComplete (t : Nat) (out : PressOut) (s : State) : State :=
  match (s.tile t).prs.running, (s.tile t).running 3 with
  | some pr, some e =>
    if pr.fold || s.paused t || ((((s.tile t).faults[3]?).getD FaultReg.none).pend) then s
    else
      let (go, s) := if pr.checked then (true, s) else s.pressCheck t e
      match if go then runUnits t (pressUnit (tileAgent t 3 e)) 1026 s else (.error .wait, s) with
      | (.error x, s) => s.failEntry t 3 e x
      | (.ok _, s) =>
        let parts := ((s.entry t 3 e.seq).map (fun e => e.run.snap)).getD []
        if pr.op ≠ 1 ∧ pr.escal = false ∧ s.verifyFails t pr.bank pr.op e.d parts out then
          (s.escalate t pr.bank pr.op e.d parts out).modEntry t 3 e.seq (fun e => { e with run := Run.start })
        else
          let full := pr.op == 1 || pr.escal
          let s := s.pressDone t pr.bank pr.op full false e.d e.ctx (s.descRec t 3 e clsDeferred cPoisonData) parts out
          s.completeEntry t 3 e
  | _, _ => s

/-- A press that is dropped while it runs (R166): an aborted FULL or DELTA, or an escalated REFRESH, leaves the bank empty;
the pulses given count towards wear. Which blocks of its rows a REFRESH has topped up is a free choice, and a DELTA tops up its reference
columns and SUSPECT blocks after its row visits, so that an aborted one counts none of those pulses (DESIGN CHOICE, log 59). -/
def State.abortPress (s : State) (t : Nat) (e : QEntry) : State :=
  match (s.tile t).prs.running with
  | none => s
  | some pr =>
    let b := pr.bank
    let k := (s.tile t).bank b
    let rows := e.run.unit - 1
    let (any, s) := s.draw
    let topped := if pr.op = 3 ∧ pr.escal = false then
      (List.range 64).filter (fun mg => mg % 16 * 64 < rows && any.getLsbD mg) else []
    let done := topped ++ pr.pulsedTo k rows (pressedCodes (s.tile t).prs b e.run.snap)
    let s := done.foldl (fun s mg => s.wearBlock t b mg) s
    let s := s.partPoison t b (s.descRec t 3 e clsDeferred cPoisonData) e.d e.run.snap
    let s := s.modPrs t (fun p => { p with running := none })
    if pr.op = 3 && !pr.escal then s else s.modTile t (fun v => v.modBank b Bank.emptied)

def execFull (t : Nat) (s : State) : Out := .next (doFull t s)
def execDelta (t : Nat) (s : State) : Out := .next (doDelta t s)
def execRefresh (t : Nat) (s : State) : Out := .next (doRefresh t s)
def execPressComplete (t : Nat) (out : PressOut) (s : State) : Out := .next (doPressComplete t out s)

end Sys2Proof.Machine
end

