-- ==== Sys2Proof/Machine/Fold.lean ====
section
/-! DEFINITION. Folds of the correction slot (R201–R205, R504). -/

namespace Sys2Proof.Machine

/-! ### FOLDARM and FOLDCLR (R201) -/

def faK (d : W512) : Nat := dField d 50 2
def faStride (d : W512) : Nat := dField d 60 4

/-- The checks of FOLDARM (R201), the master slices (BF16) and the codes outside every vat among them (R71). -/
def foldarmChk (use : Bool) (v : Tile) (d : W512) : Chk Unit := do
  let b := dField d 48 1
  let k := v.bank b
  chk (!use) 0 (dOp d)
  chkAddr d 32
  chkAddr d 40
  chk (b ≤ 1) 48 b
  chk (dField d 49 1 ≤ 1) 49 (dField d 49 1)
  chk (1 ≤ faK d) 50 (faK d)
  chk (dField d 52 2 < faK d) 52 (dField d 52 2)
  chk (dField d 54 1 ≤ 1) 54 (dField d 54 1)
  chkZero d 55 1
  chkZero d 58 2
  chk (faStride d % 64 == 0 && (if k.fmt = 0 then 1024 else 2 * k.cols) ≤ faStride d) 60 (faStride d)
  let n := 1023 * faStride d + 2 * (if k.fmt = 0 then 512 else k.cols)
  chk (!vatHit (dField d 16 8) n) 16 (dField d 16 8)
  chk (!vatHit (dField d 24 8) n) 24 (dField d 24 8)
  chk (!vatHit (dField d 32 8) 0x100000) 32 (dField d 32 8)

def foldclrChk (d : W512) : Chk Unit := do
  chkZero d 16 32
  chk (dField d 48 1 ≤ 1) 48 (dField d 48 1)
  chkZero d 49 15

/-- Complete the running head of queue 3 when it has the given code: FOLDARM and FOLDCLR complete at once. -/
def State.completeNow (s : State) (t op : Nat) : State :=
  match (s.tile t).running 3 with
  | some e => if dOp e.d = op then s.completeEntry t 3 e else s
  | none => s

def State.modFold (s : State) (t b : Nat) (f : Fold → Fold) : State :=
  s.modTile t (fun v => v.modBank b (fun k => { k with fold := f k.fold }))

def doFoldarm (t : Nat) (s : State) : State :=
  (s.startDesc t 3 0x04 (fun s _ => (s.tile t).prsIdle) (fun e s =>
    let d := e.d
    match foldarmChk (s.useOf e.mepoch) (s.tile t) d with
    | .error (off, val) => .refuse off val s
    | .ok _ =>
      let a (o : Nat) : W64 := BitVec.ofNat 64 (dField d o 8)
      .go Run.start (s.modFold t (dField d 48 1) (fun _ =>
        { Fold.reset with
          armed := true, slot := dField d 49 1, k := BitVec.ofNat 16 (faK d), phase := BitVec.ofNat 16 (dField d 52 2)
          masterA := a 16, masterB := a 24, codeAddr := a 32, scaleAddr := a 40
          rmode := dField d 54 1, ctr := dField d 56 2, stride := BitVec.ofNat 32 (faStride d), ctx := e.ctx })))).completeNow t 0x04

def doFoldclr (t : Nat) (s : State) : State :=
  (s.startDesc t 3 0x05 (fun s _ => (s.tile t).prsIdle) (fun e s =>
    match foldclrChk e.d with
    | .error (off, val) => .refuse off val s
    | .ok _ => .go Run.start (s.modFold t (dField e.d 48 1) (fun f => { f with armed := false })))).completeNow t 0x05

/-! ### Failure (R204, R504) -/

/-- The number of a bank's fold among the work outside the queues. -/
def foldId (t b : Nat) : Nat := 2 * t + b

/-- A fold fails at a step of R202: FAIL is set and FOLD_CTR is not signalled. -/
def State.foldFail (s : State) (t b step reason addr : Nat) : State :=
  let f := ((s.tile t).bank b).fold
  let s := (s.modFold t b (fun f => { f with fail := true, run := false, stage := .idle })).sideEnd (foldId t b)
  s.detect { mkRec clsContained cFoldFail t with
    sub := 4 * b, ctx := some f.ctx, addr := BitVec.ofNat 64 addr, info0 := BitVec.ofNat 64 reason
    info1 := BitVec.ofNat 64 step }

/-- What an access that a fold could not make says of it: the reason of R275 and the address. -/
def foldWhy : XErr → Nat × Nat
  | .fault r _ a => (r, a)
  | _ => (0, 0)

/-- The agent of a fold: the tile's engines, in the fold's context. -/
def foldAgent (t b : Nat) (f : Fold) : Agent := ⟨t, t, f.ctx, 7, foldId t b, true⟩

/-- The progress record of a fold. -/
def State.foldRun (s : State) (t b : Nat) : Run := ((s.entry t 7 (foldId t b)).map (·.run)).getD Run.start

/-- A step of a fold has ended: its progress record starts again for the next. -/
def State.foldNext (s : State) (t b : Nat) : State := s.modEntry t 7 (foldId t b) (fun e => { e with run := Run.start })

/-! ### Step 1: quantisation (R202, R246) -/

def foldSlotCode (f : Fold) (slot : Nat) : Nat := f.codeAddr.toNat + slot * 0x80000
def foldSlotScale (f : Fold) (slot : Nat) : Nat := f.scaleAddr.toNat + slot * 0x1000

/-- The DELTA descriptor of a fold: the new image in slot 1 − SLOT (R202). -/
def foldDesc (b : Nat) (k : Bank) : W512 :=
  let f := k.fold
  BitVec.ofNat 512 (2 + foldSlotCode f (1 - f.slot) * 2 ^ 128 + foldSlotScale f (1 - f.slot) * 2 ^ 192 +
    foldSlotCode f f.slot * 2 ^ 256 + (if k.fmt = 1 then 0x14 else 0x15) * 2 ^ 320 + b * 2 ^ 328 +
    foldSlotScale f f.slot * 2 ^ 384)

/-- The quantisation of a fold: the master slice that its progress record names, into slot 1 − SLOT. -/
def foldJob (k : Bank) (r : Run) : WqJob :=
  let f := k.fold
  ⟨r.sub, foldSlotCode f (1 - f.slot), foldSlotScale f (1 - f.slot), f.stride.toNat, if k.fmt = 1 then 0x14 else 0x15, f.rmode,
   r.seed, r.seq, none⟩

/-- The next step of a fold's quantisation; true at the last. -/
def foldWq (t b : Nat) (g : Agent) : X Bool := do
  let e ← xEntry g
  let s ← xState
  let (acc, last) ← wqStep g (foldJob ((s.tile t).bank b) e.run) e.run.unit e.run.acc
  flushAs g (wqFmtAt (foldJob ((s.tile t).bank b) e.run).fmt e.run.unit)
  xRun g (fun r => { r with unit := r.unit + 1, acc := acc })
  pure last

/-- The quantisation goes on to its end, to a fault, or to data of another device that has not arrived (R268). -/
def State.foldQuantise (s : State) (t b : Nat) : State :=
  match runUnits t (foldWq t b (foldAgent t b ((s.tile t).bank b).fold)) (wqUnits (foldJob ((s.tile t).bank b) Run.start).fmt) s with
  | (.ok _, s) => (s.foldNext t b).modFold t b (fun f => { f with stage := .quantised })
  | (.error .wait, s) => s
  | (.error x, s) => s.foldFail t b 1 (foldWhy x).1 (foldWhy x).2

/-- A due fold begins: the slice of the buffer that epoch `e` has made active (R292) is quantised into slot 1 − SLOT, unless droop gating
or rationing holds the vector engine. On an empty bank the fold has no format to quantise in, and fails as a refused DELTA (DESIGN CHOICE,
log 59: no rule says what a fold of an empty bank does). A ROW_STRIDE that fails its recheck (R204) is reported as step 1 (DESIGN CHOICE,
log 59: R202 gives this check no step). -/
def State.beginFold (s : State) (t b : Nat) (e : W64) : State :=
  let k := (s.tile t).bank b
  let f := k.fold
  let s := s.modFold t b (fun f => { f with run := true, due := false, stage := .idle })
  if k.fmt = 0 then s.foldFail t b 2 0 0
  else if f.stride.toNat % 64 ≠ 0 ∨ f.stride.toNat < 2 * k.cols then s.foldFail t b 1 0 0
  else
    let v := s.tile t
    let master := if e.getLsbD 0 then f.masterB else f.masterA
    let r : Run := { Run.start with sub := master.toNat, seed := v.seed, seq := v.vcSeq.toNat }
    let s := if f.rmode = 1 then s.modTile t (fun v => { v with vcSeq := v.vcSeq + 1 }) else s
    let s := s.sideStart (foldId t b) (foldDesc b k) f.ctx r
    if s.paused t then s else s.foldQuantise t b

def Fold.dueAt (f : Fold) (e : W64) : Bool := f.armed && e.toNat % (max f.k.toNat 1) == f.phase.toNat

/-- Folds of a saved context that come due are marked in the save area (R205). -/
def State.markSaved (s : State) (t : Nat) (e : W64) : State :=
  let mark (v : SavedTile) : SavedTile := { v with banks := v.banks.map (fun k =>
    if k.fold.dueAt e then { k with fold := { k.fold with due := true } } else k) }
  { s with xl := { s.xl with saved := s.xl.saved.map (fun x =>
      match x.2 with
      | some c => (x.1, some { c with tiles := c.tiles.map (fun y => if y.1 = t then (y.1, mark y.2) else y) })
      | none => x) } }

/-- TILE_COMMIT: the tile receives the commit of an epoch, and every armed fold that is due begins, bank 0 first. Folds of an
earlier commit end first. -/
def doTileCommit (t : Nat) (s : State) : State :=
  let v := s.tile t
  match v.commits with
  | [] => s
  | e :: rest =>
    if (v.bank 0).fold.run || (v.bank 1).fold.run then s
    else
      let s := s.modTile t (fun v => { v with commits := rest })
      let s := s.markSaved t e
      [0, 1].foldl (fun s b => if ((s.tile t).bank b).fold.dueAt e then s.beginFold t b e else s) s

/-! ### Steps 2 and 3: the DELTA (R202–R204) -/

/-- FOLD_DELTA_START: a quantisation that waited for another device or a hold goes on; then, with no press and no READ of the bank running and
bank 0's fold not before this one, the DELTA starts. A digest that does not match refuses it, and the fold fails (R158, R204). -/
def doFoldDeltaStart (t b : Nat) (s : State) : State :=
  let f := ((s.tile t).bank b).fold
  let s := if b < 2 ∧ f.run ∧ f.stage = .idle ∧ s.paused t = false then s.foldQuantise t b else s
  let v := s.tile t
  let k := v.bank b
  if b < 2 ∧ k.fold.run ∧ k.fold.stage = .quantised ∧ v.prs.running = none ∧ v.reading b = false ∧
     (b = 0 ∨ (v.bank 0).fold.run = false) ∧ s.owes t 7 (foldId t b) = false ∧ s.paused t = false ∧
     s.overBudget true = false then
    let d := foldDesc b k
    match runUnit t (xDigest (foldAgent t b k.fold) (pdOld d) (pdOldScale d) (pdFmt d)) s with
    | (.error .wait, s) => s
    | (.error x, s) => s.foldFail t b 2 (foldWhy x).1 (foldWhy x).2
    | (.ok h, s) =>
      if h = k.digest then
        ((s.foldNext t b).modPrs t (fun p => { p with running := some (PrsRun.start b 2 true true) })).modFold t b
          (fun f => { f with stage := .pressing })
      else s.foldFail t b 2 0 0
  else s

/-- The parts of an image outside the queues, as far as they can be read. -/
def foldParts (t : Nat) (g : Agent) (d : W512) : Nat → Nat → List Part → State → Option XErr × List Part × State
  | 0, _, ps, s => (none, ps, s)
  | n + 1, i, ps, s =>
    match runUnit t (xPart g (pdCode d) (pdScale d) (pdFmt d) i) s with
    | (.error x, s) => (some x, ps, s)
    | (.ok p, s) => foldParts t g d n (i + 1) (ps ++ [p]) s

/-- A fault of the DELTA: after its first pulse the bank is empty, the slot's rank 0 and the fold disarmed (R504). -/
def State.foldPressFault (s : State) (t b : Nat) (parts : List Part) (x : XErr) : State :=
  let k := (s.tile t).bank b
  let s := s.partPoison t b { mkRec clsDeferred cPoisonData t with ctx := some k.fold.ctx } (foldDesc b k) parts
  let worn := match (s.tile t).prs.running with
    | some pr => pr.pulsedTo k (parts.length - 1) (pressedCodes (s.tile t).prs b parts)
    | none => []
  let s := s.modPrs t (fun p => { p with running := none })
  let s := worn.foldl (fun s mg => s.wearBlock t b mg) s
  let s := if worn.isEmpty then s
    else (s.modTile t (fun v => v.modBank b (fun k => { k.emptied with corr := { k.corr with rank := 0 } }))).modFold t b
      (fun f => { f with armed := false })
  s.foldFail t b 2 (foldWhy x).1 (foldWhy x).2

/-- FOLD_DELTA_COMPLETE: the DELTA completes; in the same step the slot's rank becomes 0, the fold generation increases by
1, and SLOT flips (R202 step 3). -/
def doFoldDeltaComplete (t : Nat) (out : PressOut) (s : State) : State :=
  match (s.tile t).prs.running with
  | none => s
  | some pr =>
    if !pr.fold || s.paused t then s
    else
      let b := pr.bank
      let k := (s.tile t).bank b
      match runUnits t (pressUnit (foldAgent t b k.fold)) 1026 s with
      | (.error .wait, s) => s
      | (.error x, s) => s.foldPressFault t b (s.foldRun t b).snap x
      | (.ok _, s) =>
        let parts := (s.foldRun t b).snap
        if pr.escal = false ∧ s.verifyFails t b 2 (foldDesc b k) parts out then
          (s.escalate t b 2 (foldDesc b k) parts out).foldNext t b
        else
          let r : Rec := { mkRec clsDeferred cPoisonData t with ctx := some k.fold.ctx }
          let s := s.pressDone t b 2 pr.escal true (foldDesc b k) k.fold.ctx r parts out
          (s.foldNext t b).modTile t (fun v => v.modBank b (fun k => { k with
            fgen := k.fgen + 1
            fold := { k.fold with stage := .pressed, formerB := k.corr, slot := 1 - k.fold.slot }
            corr := { k.corr with rank := 0 } }))

/-! ### Steps 4 and 5 (R202) -/

/-- Write +0 to `n` words from `a`. -/
def xZeroWords (g : Agent) (a : Nat) : Nat → X Unit
  | 0 => pure ()
  | n + 1 => do
    xWrite32 g a 0#32 false
    xZeroWords g (a + 4) n

/-- Zero the next 64 bytes of the `n` words from `a`; true when all are zero. -/
def foldZero (g : Agent) (a n : Nat) : X Bool := do
  let e ← xEntry g
  let i := 16 * e.run.unit
  if n ≤ i then pure true
  else do
    xZeroWords g (a + 4 * i) (min 16 (n - i))
    flushRemote g
    xRun g (fun r => { r with unit := r.unit + 1 })
    pure (decide (n ≤ i + 16))

/-- FOLD_COMPLETE: the former B factor is zeroed, as far as it can be reached (R504), and FOLD_CTR is signalled once every write is
acknowledged. The increment is 1 (DESIGN CHOICE, log 59: R202 names none). -/
def doFoldComplete (t b : Nat) (s : State) : State :=
  let k := (s.tile t).bank b
  let f := k.fold
  if b < 2 ∧ f.run ∧ f.stage = .pressed ∧ s.paused t = false then
    let g : Agent := { foldAgent t b f with ctx := f.formerB.ctx }
    let n := f.formerB.rank * k.cols / 2
    match runUnits t (foldZero g f.formerB.b.toNat n) (n / 16 + 2) s with
    | (.error .wait, s) => s
    | (.error x, s) => s.foldFail t b 4 (foldWhy x).1 (foldWhy x).2
    | (.ok _, s) =>
      if s.owes t 7 (foldId t b) then s
      else ((s.modFold t b (fun f => { f with run := false, stage := .idle })).sideEnd (foldId t b)).sendEvt f.ctr 1#32 (.fold t b)
  else s

def execFoldarm (t : Nat) (s : State) : Out := .next (doFoldarm t s)
def execFoldclr (t : Nat) (s : State) : Out := .next (doFoldclr t s)
def execTileCommit (t : Nat) (s : State) : Out := .next (doTileCommit t s)
def execFoldDeltaStart (t b : Nat) (s : State) : Out := .next (doFoldDeltaStart t b s)
def execFoldDeltaComplete (t : Nat) (out : PressOut) (s : State) : Out := .next (doFoldDeltaComplete t out s)
def execFoldComplete (t b : Nat) (s : State) : Out := .next (doFoldComplete t b s)

end Sys2Proof.Machine
end

