-- ==== Sys2Proof/Machine/Mover.lean ====
section
/-! DEFINITION. The mover: vat drains, copies, transposition, fills (R229–R231, R263, R264, R271–R274). -/

namespace Sys2Proof.Machine

/-! ### Bodies (R229, R272) -/

def vdDst (d : W512) : Nat := dField d 16 8 + dPatch d * (dField d 36 2 * dField d 32 4)
def vdVat (d : W512) : Nat := dField d 24 4
def vdVld (d : W512) : Nat := dField d 28 4
def vdDld (d : W512) : Nat := dField d 32 4
def vdRows (d : W512) : Nat := dField d 36 2
def vdCols (d : W512) : Nat := dField d 38 2
def vdZero (d : W512) : Bool := bitOf (dField d 40 1) 0

def mvRows (d : W512) : Nat := dField d 40 4
def mvBytes (d : W512) : Nat := dField d 44 4
def mvSld (d : W512) : Nat := dField d 32 4
def mvDld (d : W512) : Nat := dField d 36 4
def mvEsz (d : W512) : Nat := dField d 48 1

/-- Rows that the destination has: XPOSE writes COLS rows of ROWS elements. -/
def mvDstRows (d : W512) : Nat := if dOp d = 0x32 then mvBytes d else mvRows d
def mvSrc (d : W512) : Nat := dField d 16 8 + dPatch d * (mvRows d * mvSld d)
def mvDst (d : W512) : Nat := dField d 24 8 + dPatch d * (mvDstRows d * mvDld d)
def mvSrcRow (d : W512) : Nat := if dOp d = 0x32 then mvBytes d * mvEsz d else mvBytes d
def mvDstRow (d : W512) : Nat := if dOp d = 0x32 then mvRows d * mvEsz d else mvBytes d

/-- The source and the destination of a COPY or an XPOSE overlap (R272). -/
def mvOverlap (s : State) (g : Agent) (d : W512) : Bool :=
  s.overlaps g ⟨mvSrc d, mvSld d, mvRows d, mvSrcRow d⟩ ⟨mvDst d, mvDld d, mvDstRows d, mvDstRow d⟩

def vdChk (d : W512) : Chk Unit := do
  chkAddr d 16
  chk (vdVat d % 64 == 0 && vdVat d + (vdRows d - 1) * vdVld d + 4 * vdCols d ≤ 0x200000) 24 (vdVat d)
  chk (vdVld d % 64 == 0 && 4 * vdCols d ≤ vdVld d) 28 (vdVld d)
  chk (vdDld d % 64 == 0 && 4 * vdCols d ≤ vdDld d) 32 (vdDld d)
  chk (1 ≤ vdRows d && vdRows d ≤ 16384) 36 (vdRows d)
  chk (16 ≤ vdCols d && vdCols d ≤ 16384 && vdCols d % 16 == 0) 38 (vdCols d)
  chk (dField d 40 1 ≤ 1) 40 (dField d 40 1)
  chkZero d 41 15
  chk (!rowsVat (vdDst d) (vdDld d) (vdRows d) (4 * vdCols d)) 16 (dField d 16 8)

def mvChk (d : W512) : Chk Unit := do
  let op := dOp d
  if op = 0x33 then chkZero d 16 8 else chkAddr d 16
  chkAddr d 24
  if op = 0x33 then chkZero d 32 4
  else chk (mvSld d % 64 == 0 && mvSrcRow d ≤ mvSld d) 32 (mvSld d)
  chk (mvDld d % 64 == 0 && mvDstRow d ≤ mvDld d) 36 (mvDld d)
  if op = 0x32 then
    chk (32 ≤ mvRows d && mvRows d ≤ 65536 && mvRows d % 32 == 0) 40 (mvRows d)
    chk (32 ≤ mvBytes d && mvBytes d ≤ 65536 && mvBytes d % 32 == 0) 44 (mvBytes d)
    chk (mvEsz d == 2 || mvEsz d == 4) 48 (mvEsz d)
  else
    chk (1 ≤ mvRows d && mvRows d ≤ 16777216) 40 (mvRows d)
    chk (64 ≤ mvBytes d && mvBytes d ≤ 16777216 && mvBytes d % 64 == 0) 44 (mvBytes d)
    chkZero d 48 1
  chkZero d 49 3
  if op ≠ 0x33 then chkZero d 52 4
  chk (!rowsVat (mvDst d) (mvDld d) (mvDstRows d) (mvDstRow d)) 24 (dField d 24 8)

/-! ### Starts (R33, R230) -/

def doVdrain (t : Nat) (s : State) : State :=
  s.startDesc t 5 0x30 (drainFree t) (fun e s => startChk (do vdChk e.d; pure Run.start) s)
def doCopy (t : Nat) (s : State) : State :=
  s.startDesc t 5 0x31 (fun _ _ => true) (fun e s => startChk (do mvChk e.d; pure Run.start) s)
def doXpose (t : Nat) (s : State) : State :=
  s.startDesc t 5 0x32 (fun _ _ => true) (fun e s => startChk (do mvChk e.d; pure Run.start) s)
def doFill (t : Nat) (s : State) : State :=
  s.startDesc t 5 0x33 (fun _ _ => true) (fun e s => startChk (do mvChk e.d; pure Run.start) s)

/-! ### Whole blocks with their tags (R263, R264) -/

def wordsCrc (l : List (W32 × Bool)) : W32 := crc32c ((l.map (fun w => leBytes 4 w.1.toNat)).flatten)

/-- A tag travels with a COPY between DRAM and a scratchpad, and with every transfer to another device (R263). -/
def tagTravels : Loc → Loc → Bool
  | .dram _, .spad _ _ => true
  | .spad _ _, .dram _ => true
  | .dram _, .unassigned => true
  | .spad _ _, .unassigned => true
  | _, _ => false

def Loc.unit : Loc → Nat
  | .dram a => uStack (stackOf a)
  | .spad t _ => t
  | .vat t _ => t
  | _ => uMgmt

/-- A tag mismatch on the way to `dst` is counted where the destination is (R264). -/
def State.countRind (s : State) (dst : Loc) : State :=
  match dst with
  | .dram a => s.modStack (stackOf a) (fun k => { k with mismatch := satAdd 32 k.mismatch 1 })
  | .spad t _ => s.modTile t (fun v => { v with rindCnt := satAdd 32 v.rindCnt 1 })
  | _ => s

/-- Record RINDMIS (R264, R499). -/
def State.rindMis (s : State) (unit sub ctx : Nat) (src dst : Nat) (tagOf stored : W32) : State :=
  s.detect { mkRec clsDeferred cRindMis unit with
    sub := sub, ctx := some ctx, addr := BitVec.ofNat 64 src, info1 := BitVec.ofNat 64 dst
    info0 := BitVec.ofNat 64 (tagOf.toNat + stored.toNat * 2 ^ 32) }

/-- A whole block from another device: asked for, or taken from the descriptor's buffer. -/
def remoteBlock (g : Agent) (dev a page : Nat) (into : Target) : X RBuf := do
  let s ← xState
  match s.entry g.tile g.queue g.seq with
  | none => xFail .wait
  | some e =>
    match e.run.rbuf.find? (fun b => b.dev == dev && b.addr == a && b.words.length == 1024) with
    | some b => pure b
    | none =>
      if s.remotes.any (fun r => r.opc == 0x02 && r.tile == g.tile && r.queue == g.queue && r.seq == g.seq &&
          r.dst == dev && r.addr == a) then xFail .wait
      else do
        xMod (fun s => s.request g 0x02 dev a 4096 page into none [] Config.rawFmt)
        xFail .wait

/-- Move one whole aligned block with its tag: a tag that did not match where the block came from does not match where it goes, and
unspecified words (R272) go with the tag over them. -/
def copyBlock (g : Agent) (sa da : Nat) (free : Bool) : X Unit := do
  let src ← xlate g sa 0
  let dst ← xlate g da 1
  let dloc := match dst with | .here pa => locOf pa | .away _ _ => .unassigned
  let (ws, diff, carried) ← match src with
    | .here pa => do
      let ws ← xReadWords g sa 1024
      let s ← xState
      let tagOf := wordsCrc ws
      let diff := s.rindDiff (locOf pa)
      if tagTravels (locOf pa) dloc && diff != 0#32 then
        xMod (fun s => (s.rindMis (locOf pa).unit 0 g.ctx pa
          (match dst with | .here x => x | .away _ x => x) tagOf (tagOf ^^^ diff)).countRind dloc)
        pure (ws.map (fun w => (w.1, true)), diff, true)
      else pure (ws, 0#32, tagTravels (locOf pa) dloc)
    | .away dev pa => do
      let b ← remoteBlock g dev pa (sa / 0x200000) dst
      pure (b.words, match b.rind with | some x => x ^^^ wordsCrc b.words | none => 0#32, true)
  let ws ← if free then freeWords ws else pure ws
  let tag := if carried then some (wordsCrc ws ^^^ diff) else none
  match dst with
  | .here _ => xWriteWords g da ws
  | .away dev pa => xMod (fun s => s.request g 0x01 dev pa 4096 (da / 0x200000) (.away dev pa) tag ws Config.rawFmt)
where
  /-- The same number of free words, with their marks. -/
  freeWords : List (W32 × Bool) → X (List (W32 × Bool))
    | [] => pure []
    | w :: r => do
      let v ← xDo (fun s => s.draw)
      let l ← freeWords r
      pure ((v.setWidth 32, w.2) :: l)

/-! ### Units of work (R274) -/

def moved (g : Agent) (n : Nat) : X Unit :=
  xMod (fun s => s.modTile g.tile (fun v => { v with dma := { v.dma with bytes := v.dma.bytes + BitVec.ofNat 64 n } }))

/-- Advance the progress record by `n` bytes of a row of `row` bytes; true at the end of the last row. -/
def mvAdvance (g : Agent) (rows row n : Nat) : X Bool := do
  let e ← xEntry g
  let r := e.run
  let (u, o) := if row ≤ r.sub + n then (r.unit + 1, 0) else (r.unit, r.sub + n)
  xRun g (fun r => { r with unit := u, sub := o })
  pure (decide (rows ≤ u))

def vdUnit (g : Agent) : X Bool := do
  let e ← xEntry g
  let d := e.d
  if vdRows d ≤ e.run.unit then pure true
  else do
    let a := vdVat d + e.run.unit * vdVld d + e.run.sub
    let ws ← readVat g a 16
    xWriteWords g (vdDst d + e.run.unit * vdDld d + e.run.sub) ws
    if vdZero d then
      xMod (fun s => (List.range 16).foldl (fun s i => s.writeVat g.tile (a + 4 * i) 0#32 false) s)
    flushAs g 0x00
    moved g 64
    mvAdvance g (vdRows d) (4 * vdCols d) 64
where
  readVat (g : Agent) (a : Nat) : Nat → X (List (W32 × Bool))
    | 0 => pure []
    | n + 1 => do
      let w ← xDo (fun s => s.readLoc (.vat g.tile a) (some g.ctx))
      let r ← readVat g (a + 4) n
      pure (w :: r)

/-- A COPY moves whole aligned blocks where it can, and 64-byte transfers elsewhere. -/
def cpUnit (g : Agent) : X Bool := do
  let e ← xEntry g
  let d := e.d
  if mvRows d ≤ e.run.unit then pure true
  else do
    let sa := mvSrc d + e.run.unit * mvSld d + e.run.sub
    let da := mvDst d + e.run.unit * mvDld d + e.run.sub
    let free := mvOverlap (← xState) g d
    let n := if sa % 4096 = 0 ∧ da % 4096 = 0 ∧ e.run.sub + 4096 ≤ mvBytes d then 4096 else 64
    if n = 4096 then copyBlock g sa da free
    else do
      let ws ← xReadWords g sa 16
      let ws ← if free then copyBlock.freeWords ws else pure ws
      xWriteWords g da ws
    flushRemote g
    moved g n
    mvAdvance g (mvRows d) (mvBytes d) n

def flUnit (g : Agent) : X Bool := do
  let e ← xEntry g
  let d := e.d
  if mvRows d ≤ e.run.unit then pure true
  else do
    xWriteWords g (mvDst d + e.run.unit * mvDld d + e.run.sub)
      (List.replicate 16 (BitVec.ofNat 32 (dField d 52 4), false))
    flushRemote g
    moved g 64
    mvAdvance g (mvRows d) (mvBytes d) 64

/-- A 32 × 32 sub-block of an XPOSE, in the order of the destination. Elements of two bytes pair into words. -/
def xpUnit (g : Agent) : X Bool := do
  let e ← xEntry g
  let d := e.d
  let nrb := mvRows d / 32
  let total := nrb * (mvBytes d / 32)
  let es := mvEsz d
  if total ≤ e.run.unit then pure true
  else do
    let c0 := e.run.unit / nrb * 32
    let r0 := e.run.unit % nrb * 32
    let free := mvOverlap (← xState) g d
    let rows ← readRows g d r0 c0 32
    (List.range 32).forM (fun i => do
      let col := rows.map (fun r => (r[i]?).getD (0, false))
      let ws : List (W32 × Bool) := if es = 4 then col.map (fun p => (BitVec.ofNat 32 p.1, p.2))
        else (List.range 16).map (fun j =>
          let a := (col[2 * j]?).getD (0, false)
          let b := (col[2 * j + 1]?).getD (0, false)
          (BitVec.ofNat 32 (a.1 + 65536 * b.1), a.2 || b.2))
      let ws ← if free then copyBlock.freeWords ws else pure ws
      xWriteWords g (mvDst d + (c0 + i) * mvDld d + r0 * es) ws)
    flushRemote g
    moved g (1024 * es)
    xRun g (fun r => { r with unit := r.unit + 1 })
    pure (decide (total ≤ e.run.unit + 1))
where
  readElems (g : Agent) (a es : Nat) : Nat → X (List (Nat × Bool))
    | 0 => pure []
    | n + 1 => do
      let x ← xReadBytes g a es
      let r ← readElems g (a + es) es n
      pure (x :: r)
  readRows (g : Agent) (d : W512) (r c : Nat) : Nat → X (List (List (Nat × Bool)))
    | 0 => pure []
    | n + 1 => do
      let x ← readElems g (mvSrc d + r * mvSld d + c * mvEsz d) (mvEsz d) 32
      let l ← readRows g d (r + 1) c n
      pure (x :: l)

/-- The next unit of a mover descriptor. -/
def mvUnit (g : Agent) (op : Nat) : Option (X Bool) :=
  match op with
  | 0x30 => some (vdUnit g)
  | 0x31 => some (cpUnit g)
  | 0x32 => some (xpUnit g)
  | 0x33 => some (flUnit g)
  | _ => none

/-- The destination of a mover descriptor's next transfer (R274). -/
def mvDest (d : W512) (r : Run) : Nat :=
  if dOp d = 0x30 then vdDst d + r.unit * vdDld d + r.sub else mvDst d + r.unit * mvDld d + r.sub

/-- The mover stands at a 4 KiB boundary of the destination: at one, past the page of address `a`, or between sub-blocks of an XPOSE. -/
def State.atPage (s : State) (t seq a : Nat) : Bool :=
  match s.entry t 5 seq with
  | some e => dOp e.d == 0x32 || mvDest e.d e.run % 4096 == 0 || mvDest e.d e.run / 4096 != a / 4096
  | none => true

/-- A bound on the units of a mover descriptor. -/
def mvUnits (d : W512) : Nat :=
  if dOp d = 0x30 then vdRows d * (vdCols d / 16) + 1
  else if dOp d = 0x32 then (mvRows d / 32) * (mvBytes d / 32) + 1
  else mvRows d * (mvBytes d / 64) + 1

def execVdrain (t : Nat) (s : State) : Out := .next (doVdrain t s)
def execCopy (t : Nat) (s : State) : Out := .next (doCopy t s)
def execXpose (t : Nat) (s : State) : Out := .next (doXpose t s)
def execFill (t : Nat) (s : State) : Out := .next (doFill t s)

end Sys2Proof.Machine
end

