-- ==== Sys2Proof/Machine/Update.lean ====
section
/-! DEFINITION. The update engines (R297–R307). -/

namespace Sys2Proof.Machine

/-! ### Descriptor and record (R298–R300) -/

def upRec (d : W512) : Nat := dField d 24 8 + dPatch d * 128
def upEpoch (d : W512) : Nat := dField d 32 8
def upOut (d : W512) : Nat := dField d 40 8

/-- A tensor record (R299). -/
structure TRec where
  g : Nat
  gs : Nat
  pa : Nat
  pb : Nat
  sa : Nat
  sb : Nat
  mofs : Nat
  vofs : Nat
  n : Nat
  opt : Nat
  ng : Nat
  flags : Nat
  hyper : List W32
deriving DecidableEq, Repr

def trecOf (l : List Byte) : TRec :=
  ⟨lField l 0 8, lField l 8 8, lField l 16 8, lField l 24 8, lField l 32 8, lField l 40 8, lField l 48 4, lField l 52 4,
   lField l 56 4, lField l 60 1, lField l 61 1, lField l 62 1,
   (List.range 8).map (fun i => BitVec.ofNat 32 (lField l (64 + 4 * i) 4))⟩

def TRec.h (r : TRec) (i : Nat) : W32 := (r.hyper[i]?).getD 0#32
def TRec.lr (r : TRec) : W32 := r.h 0
def TRec.b1 (r : TRec) : W32 := r.h 1
def TRec.b2 (r : TRec) : W32 := r.h 2
def TRec.eps (r : TRec) : W32 := r.h 3
def TRec.wd (r : TRec) : W32 := r.h 4
def TRec.bc1 (r : TRec) : W32 := r.h 5
def TRec.bc2 (r : TRec) : W32 := r.h 6
def TRec.gscale (r : TRec) : W32 := r.h 7
def TRec.whey (r : TRec) : Bool := bitOf r.flags 0
def TRec.prmode (r : TRec) : Nat := bitsOf r.flags 1 2
def TRec.mrmode (r : TRec) : Nat := bitsOf r.flags 3 2
def TRec.hasM (r : TRec) : Bool := r.opt ≠ 0
def TRec.hasV (r : TRec) : Bool := r.opt == 2

/-- Some rounding of the record is stochastic. -/
def TRec.sr (r : TRec) : Bool := (!r.whey && r.prmode == 1) || (r.hasM && r.mrmode == 1)

/-- A finite value that is at least 0; −0 is not negative. -/
def nonNeg (w : W32) : Bool := match val32 w with | some x => !x.neg || x.m == 0 | none => false

/-- A value in [0, 1). -/
def unitRange (w : W32) : Bool := match val32 w with | some x => (!x.neg || x.m == 0) && dyLt x.dy ⟨1, 0⟩ | none => false

/-- A finite value of at least 1. -/
def atLeastOne (w : W32) : Bool := match val32 w with | some x => dyLe ⟨1, 0⟩ x.dy | none => false

/-- The `len` bytes from `a` touch a tile window. -/
def tileHit (a len : Nat) : Bool := decide (a < selfBase + 0x800000) && decide (tileBase < a + len)

/-- The checks of a tensor record (R300), with the places of its formats (R71): BF16 not in a vat, whey in DRAM only. -/
def trecChk (l : List Byte) : Chk Unit := do
  let r := trecOf l
  let addr (off : Nat) (v : Nat) : Chk Unit := chk (v % 64 == 0) (0x100 + off) v
  addr 0 r.g
  addr 8 r.gs
  addr 16 r.pa
  addr 24 r.pb
  addr 32 r.sa
  addr 40 r.sb
  addr 48 r.mofs
  addr 52 r.vofs
  chk (1 ≤ r.n && r.n ≤ 2 ^ 30) 0x138 r.n
  chk (r.opt ≤ 3) 0x13C r.opt
  chk (1 ≤ r.ng && r.ng ≤ 8) 0x13D r.ng
  chk (r.prmode ≤ 1 && r.mrmode ≤ 1 && r.flags < 32) 0x13E r.flags
  chkZeroL l 63 1
  let bf (off a n : Nat) (use : Bool) : Chk Unit := chk (!use || !vatHit a (2 * n)) (0x100 + off) a
  bf 16 r.pa r.n true
  bf 24 r.pb r.n true
  bf 32 (r.sa + r.mofs) r.n (r.opt != 0)
  bf 40 (r.sb + r.mofs) r.n (r.opt != 0)
  bf 32 (r.sa + r.vofs) r.n (r.opt == 2)
  bf 40 (r.sb + r.vofs) r.n (r.opt == 2)
  chk (!r.whey || !tileHit r.sa r.n) 0x120 r.sa
  chk (!r.whey || !tileHit r.sb r.n) 0x128 r.sb
  chk (nonNeg r.lr) 0x140 r.lr.toNat
  chk (unitRange r.b1) 0x144 r.b1.toNat
  chk (unitRange r.b2) 0x148 r.b2.toNat
  chk (r.opt != 2 || (scaleOk r.eps && r.eps != 0#32)) 0x14C r.eps.toNat
  chk (nonNeg r.wd) 0x150 r.wd.toNat
  chk (r.opt != 2 || atLeastOne r.bc1) 0x154 r.bc1.toNat
  chk (r.opt != 2 || atLeastOne r.bc2) 0x158 r.bc2.toNat
  chk (nonNeg r.gscale) 0x15C r.gscale.toNat
  chkZeroL l 96 32

def upChk (op : Nat) (epoch : W64) (d : W512) : Chk Unit := do
  chkZero d 18 6
  chkAddr d 24
  chk (upEpoch d == (if op = 0x60 then (epoch + 1).toNat else 0)) 32 (upEpoch d)
  chk (if op = 0x60 then upOut d == 0 else upOut d % 64 == 0) 40 (upOut d)
  chkZero d 48 8

/-! ### Starts (R293, R301) -/

/-- An entry that the update engines hold. -/
def updHeld (e : QEntry) : Bool := e.ph == .running && dField e.d 16 2 == 0x0100 && (dOp e.d == 0x60 || dOp e.d == 0x61)

/-- The descriptors that the update engines hold. -/
def State.updEntries (s : State) : List QEntry := (s.tiles.map (fun p => (p.2.queue 6).filter updHeld)).flatten

def updFree (s : State) (_e : QEntry) : Bool := s.updEntries.length < 64

/-- The agent of an edge unit for an entry; `u` is the source unit of R325. -/
def edgeAgent (t u : Nat) (e : QEntry) : Agent := ⟨t, u, e.ctx, 6, e.seq, false⟩

def bytesOfWords (ws : List (W32 × Bool)) : List Byte := (ws.map (fun w => leBytes 4 w.1.toNat)).flatten

/-- The index of the update engines among the edge units, for R325. -/
def updUnit : Nat := 1024 + 8

/-- The record is read once; `blk` holds the order of arrival, `snap` the record. -/
def upStart (t op : Nat) (e : QEntry) : X StartX := do
  let s ← xState
  match upChk op s.epoch e.d with
  | .error (off, val) => pure (.refuse off val)
  | .ok _ =>
    let ws ← xReadWords (edgeAgent t updUnit e) (upRec e.d) 32
    if ws.any (·.2) then pure (.poison (upRec e.d))
    else
      let l := bytesOfWords ws
      match trecChk l with
      | .error (off, val) => pure (.refuse off val)
      | .ok _ =>
        xMod (fun s => { s with updNext := s.updNext + 1 })
        pure (.go { Run.start with blk := s.updNext, snap := [l], acc := if op = 0x61 then List.replicate 520 0#32 else [] })

def doUpdate (t : Nat) (s : State) : State := s.startEdge t 0x60 0x0100 updFree (upStart t 0x60)
def doGnorm (t : Nat) (s : State) : State := s.startEdge t 0x61 0x0100 updFree (upStart t 0x61)

/-! ### One element (R302–R304) -/

/-- sign(x): +1, −1 or +0; a NaN stays a NaN. -/
def f32Sign (w : W32) : W32 :=
  match val32 w with
  | none => nan32
  | some x => if x.m = 0 then 0#32 else if x.neg then 0xBF800000#32 else one32

/-- g of an element (R302), and how many of its operations saturated (R119). -/
def gradOf (r : TRec) (srcs : List W32) : W32 × Nat :=
  let (x, n) := srcs.foldl (fun (a : W32 × Nat) w => let (y, s) := f32Add .rne a.1 w; (y, a.2 + b2n s)) (0#32, 0)
  let (y, s) := f32Mul .rne x r.gscale
  (y, n + b2n s)

/-- p_new, m and v of an element (R302), and how many operations saturated (R119). -/
def optStep (r : TRec) (g p m v : W32) : (W32 × W32 × W32) × Nat :=
  let omb1 := (f32Sub .rne one32 r.b1).1
  let omb2 := (f32Sub .rne one32 r.b2).1
  let last (u m' v' : W32) (sats : List Bool) : (W32 × W32 × W32) × Nat :=
    let (x, s1) := f32Fma .rne r.wd p u
    let (y, s2) := f32Fma .rne (f32Neg r.lr) x p
    ((y, m', v'), ((sats ++ [s1, s2]).map b2n).sum)
  match r.opt with
  | 0 => last g 0#32 0#32 []
  | 1 =>
    let (m', s1) := f32Fma .rne r.b1 m g
    last m' m' 0#32 [s1]
  | 2 =>
    let (x, s1) := f32Mul .rne omb1 g
    let (m', s2) := f32Fma .rne r.b1 m x
    let (y, s3) := f32Mul .rne g g
    let (z, s4) := f32Mul .rne omb2 y
    let (v', s5) := f32Fma .rne r.b2 v z
    let (num, s6) := f32Mul .rne m' r.bc1
    let (c, s7) := f32Mul .rne v' r.bc2
    let (q, s8) := f32Sqrt .rne c
    let (den, s9) := f32Add .rne q r.eps
    let (u, s10) := f32Div .rne num den
    last u m' v' [s1, s2, s3, s4, s5, s6, s7, s8, s9, s10]
  | _ =>
    let (x, s1) := f32Mul .rne omb1 g
    let (w, s2) := f32Fma .rne r.b1 m x
    let (y, s3) := f32Mul .rne omb2 g
    let (m', s4) := f32Fma .rne r.b2 m y
    last (f32Sign w) m' 0#32 [s1, s2, s3, s4]

/-- A master with its whey (R117): BF16, whey byte, saturated, NaN. -/
def wheyStore (w : W32) : W16 × Byte × Bool × Bool :=
  match val32 w with
  | none => (nan16, 0#8, false, true)
  | some x =>
    let mag := (f32Abs w).toNat
    let up := roundQuot .rne mag 256
    let (k, sat) := if 0x7F7FFF < up then (0x7F7FFF, true) else (up, false)
    (BitVec.ofNat 16 (k / 256 + if x.neg then 0x8000 else 0), BitVec.ofNat 8 k, sat, false)

/-- The stack and channel of the engine that takes an element, from the local address of its bytes (R257, R301). -/
def engineOf (a : Nat) : Nat × Nat :=
  if a < dramTop then (stackOf a, (a % 0x1400000000 / 4096) % 32) else (0, (a / 4096) % 32)

def targetAddr : Target → Nat
  | .here a => a
  | .away _ a => a

def State.modUpd (s : State) (k : Nat) (f : Upd → Upd) : State := { s with upd := modAt s.upd k f }

def State.updOf (s : State) (k : Nat) : Upd := (s.upd[k]?).getD Upd.reset

/-- Count events of counter `n` in a stack's engines; an alarm posts a NOTICE of source 3. -/
def State.updCount (s : State) (k n c : Nat) : State :=
  let (x, ev) := (s.updOf k).num.count n c
  let s := s.modUpd k (fun u => { u with num := x })
  if ev then s.notice (uStack k) 3 n 0 else s

/-- Operand bytes that stack `k`'s engines fetch from elsewhere (R306). -/
def fetchCount (k : Nat) (t : Target) (n : Nat) (s : State) : State :=
  let own := match t with | .here a => decide (a < dramTop) && stackOf a == k | .away _ _ => false
  if own then s else s.modUpd k (fun u => { u with remote := u.remote + BitVec.ofNat 64 n })

/-- Read the `n` bytes from `a`, inside one 64-byte line, as an operand of stack `k`'s engines: bytes with marks. -/
def xOperandBytes (g : Agent) (k a n : Nat) : X (List (Byte × Bool)) := do
  let t ← xlate g a 0
  xMod (fetchCount k t n)
  let ws ← xReadWords g (a / 4 * 4) ((a % 4 + n + 3) / 4)
  let l := (ws.map (fun w => (leBytes 4 w.1.toNat).map (fun b => (b, w.2)))).flatten
  pure ((l.drop (a % 4)).take n)

/-- Elements of `size` bytes from a byte list. -/
def elemAt (l : List (Byte × Bool)) (size i : Nat) : Nat × Bool :=
  let x := (l.drop (size * i)).take size
  (leVal (x.map (·.1)), x.any (·.2))

/-- The gradient sources of `m` elements from `n`. -/
def xGrads (g : Agent) (r : TRec) (k n m : Nat) : Nat → X (List (List (Byte × Bool)))
  | 0 => pure []
  | i + 1 => do
    let l ← xGrads g r k n m i
    let x ← xOperandBytes g k (r.g + i * r.gs + 4 * n) (4 * m)
    pure (l ++ [x])

/-- The seed and seq that engine `c` of the descriptor has for SR, starting its SR work if need be (R303, R115). -/
def xSrOf (g : Agent) (r : TRec) (stk ch : Nat) : X (W64 × Nat) := do
  let e ← xEntry g
  let c := 32 * stk + ch
  match (e.run.snap.drop 1).find? (fun l => lField l 0 2 == c) with
  | some l => pure (BitVec.ofNat 64 (lField l 2 8), lField l 10 4)
  | none =>
    if r.sr then do
      let s ← xState
      let u := s.updOf stk
      let q := (u.seqs[ch]?).getD 0#24
      xMod (fun s => s.modUpd stk (fun u => { u with seqs := modAt u.seqs ch (· + 1) }))
      xRun g (fun x => { x with snap := x.snap ++ [leBytes 2 c ++ leBytes 8 u.seed.toNat ++ leBytes 4 q.toNat] })
      pure (u.seed, q.toNat)
    else pure (0#64, 0)

/-- What an element's computation gives. -/
structure UpOut where
  p : W16
  whey : Byte
  m : W16
  v : W16
  mark : Bool
  sats : Nat
  nans : Nat
  nonfin : Nat
deriving DecidableEq, Repr

/-- Element `n` from its operands. -/
def upElem (r : TRec) (unit seq : Nat) (seed : W64) (n : Nat) (gs : List (Nat × Bool)) (p wh m v : Nat × Bool) : UpOut :=
  let srcs := gs.map (fun x => BitVec.ofNat 32 x.1)
  let pw : W32 := BitVec.ofNat 32 (p.1 * 65536 + if r.whey then wh.1 * 256 else 0)
  let mw := bf32 (BitVec.ofNat 16 m.1)
  let vw := bf32 (BitVec.ofNat 16 v.1)
  let (g, gsat) := gradOf r srcs
  let ((pn, m', v'), osat) := optStep r g pw mw vw
  let rnd (mode f : Nat) : Rnd := rndOf mode seed unit seq ((3 * n + f) % 2 ^ 24)
  let (pb, wb, sp, np) : W16 × Byte × Bool × Bool :=
    if r.whey then wheyStore pn
    else let (h, s) := cvt16 (rnd r.prmode 0) pn; (h, 0#8, s, nonFin pn)
  let (mb, sm) := cvt16 (rnd r.mrmode 1) m'
  let (vb, sv) := cvt16 (rnd r.mrmode 2) v'
  ⟨pb, wb, mb, vb,
   gs.any (·.2) || p.2 || (r.whey && wh.2) || (r.hasM && m.2) || (r.hasV && v.2),
   gsat + osat + b2n sp + b2n (r.hasM && sm) + b2n (r.hasV && sv),
   b2n np + b2n (r.hasM && nonFin m') + b2n (r.hasV && nonFin v'),
   (srcs.filter nonFin).length + b2n (nonFin pw) + b2n (r.hasM && nonFin mw) + b2n (r.hasV && nonFin vw)⟩

/-- Sixteen elements of an UPDATE, all of whose operands lie in one line each; true at the end (R302–R304). -/
def upUnit (g : Agent) : X Bool := do
  let e ← xEntry g
  let r := trecOf ((e.run.snap[0]?).getD [])
  let n := 16 * e.run.unit
  if r.n ≤ n then pure true
  else do
    let m := min 16 (r.n - n)
    let odd := bitOf (upEpoch e.d) 0
    let (pr, pw, sr, sw) := if odd then (r.pa, r.pb, r.sa, r.sb) else (r.pb, r.pa, r.sb, r.sa)
    let dst ← xlate g (pw + 2 * n) 1
    let (stk, ch) := engineOf (targetAddr dst)
    let gs ← xGrads g r stk n m r.ng
    let ps ← xOperandBytes g stk (pr + 2 * n) (2 * m)
    let ws ← if r.whey then xOperandBytes g stk (sr + n) m else pure []
    let ms ← if r.hasM then xOperandBytes g stk (sr + r.mofs + 2 * n) (2 * m) else pure []
    let vs ← if r.hasV then xOperandBytes g stk (sr + r.vofs + 2 * n) (2 * m) else pure []
    let (seed, seq) ← xSrOf g r stk ch
    let os := (List.range m).map (fun i =>
      upElem r (0x800 + 32 * stk + ch) seq seed (n + i) (gs.map (fun l => elemAt l 4 i)) (elemAt ps 2 i) (elemAt ws 1 i)
        (elemAt ms 2 i) (elemAt vs 2 i))
    let put16 (a : Nat) (f : UpOut → W16) : X Unit :=
      xPutBytes g a ((os.map (fun o => (leBytes 2 (f o).toNat).map (fun b => (b, o.mark)))).flatten)
    if r.whey then xPutBytes g (sw + n) (os.map (fun o => (o.whey, o.mark)))
    put16 (pw + 2 * n) (·.p)
    if r.hasM then put16 (sw + r.mofs + 2 * n) (·.m)
    if r.hasV then put16 (sw + r.vofs + 2 * n) (·.v)
    let wl ← if r.whey then (do
        match ← xlate g (sw + n) 1 with
        | .away dev pa => pure (some (dev, pa / 64 * 64))
        | .here _ => pure none) else pure none
    flushBy g (fun b => if wl = some (b.dev, b.addr) then 0x1C else 0x01)
    let bad := os.any (·.mark) && !bitOf e.run.sri 0
    xMod (fun s =>
      let s := s.updCount stk 0 ((os.map (·.sats)).sum)
      let s := s.updCount stk 1 ((os.map (·.nans)).sum)
      let s := s.updCount stk 2 ((os.map (·.nonfin)).sum)
      let s := s.modUpd stk (fun u => { u with elems := u.elems + BitVec.ofNat 64 m })
      if bad then
        s.detect { mkRec clsDeferred cPoisonData (uStack stk) with
          sub := ch, ctx := some g.ctx, addr := BitVec.ofNat 64 (pw + 2 * n) }
      else s)
    xRun g (fun x => { x with unit := x.unit + 1, sri := if os.any (·.mark) then 1 else x.sri })
    pure (decide (r.n ≤ n + m))

/-! ### GNORM (R305) -/

/-- Sixteen elements of a GNORM: `acc` holds the 256 engine sums, the 256 non-finite counts, and a mark per stack. -/
def gnChunk (g : Agent) (r : TRec) (n m : Nat) : X Unit := do
  let src ← xlate g (r.g + 4 * n) 0
  let (stk, ch) := engineOf (targetAddr src)
  let gs ← xGrads g r stk n m r.ng
  let c := 32 * stk + ch
  let vals := (List.range m).map (fun i => gradOf r (gs.map (fun l => BitVec.ofNat 32 (elemAt l 4 i).1)))
  let good := (vals.map (·.1)).filter (fun x => !nonFin x)
  let mark := gs.any (fun l => l.any (·.2))
  let e ← xEntry g
  let (sum, sats) := good.foldl (fun (a : W32 × Nat) v =>
    let (y, s1) := f32Mul .rne v v
    let (z, s2) := f32Add .rne a.1 y
    (z, a.2 + b2n s1 + b2n s2)) ((e.run.acc[c]?).getD 0#32, (vals.map (·.2)).sum)
  xRun g (fun x =>
    let acc := (x.acc.set c sum).set (256 + c) ((x.acc[256 + c]?).getD 0#32 + BitVec.ofNat 32 (m - good.length))
    { x with acc := if mark then acc.set (512 + stk) 1#32 else acc })
  xMod (fun s =>
    (s.updCount stk 0 sats).updCount stk 2 (m - good.length))

def gnUnit (g : Agent) : X Bool := do
  let e ← xEntry g
  let r := trecOf ((e.run.snap[0]?).getD [])
  let n := 16 * e.run.unit
  if n < r.n then do
    gnChunk g r n (min 16 (r.n - n))
    flushRemote g
    xRun g (fun x => { x with unit := x.unit + 1 })
    pure false
  else do
    let acc := e.run.acc
    let a (i : Nat) : W32 := (acc[i]?).getD 0#32
    let trees := (List.range 8).map (fun k => laneTree 0x20 5 ((List.range 32).map (fun c => a (32 * k + c))))
    let sums := trees.map (·.1)
    let cnts := (List.range 8).map (fun k => ((List.range 32).map (fun c => (a (256 + 32 * k + c)).toNat)).sum)
    let mark (k : Nat) : Bool := a (512 + k) != 0#32
    xWriteWords g (upOut e.d) (sums.zipIdx.map (fun p => (p.1, mark p.2)) ++
      cnts.zipIdx.map (fun p => (BitVec.ofNat 32 (min p.1 0xFFFFFFFF), mark p.2)))
    flushRemote g
    xMod (fun s => trees.zipIdx.foldl (fun s p => s.updCount p.2 0 p.1.2) s)
    xRun g (fun x => { x with unit := x.unit + 1 })
    pure true

/-- The next unit of a descriptor of the update engines. -/
def updUnitOf (g : Agent) (op : Nat) : X Bool := if op = 0x60 then upUnit g else gnUnit g

def updUnits (e : QEntry) : Nat := (trecOf ((e.run.snap[0]?).getD [])).n / 16 + 3

/-- Each engine starts its share of a descriptor after its share of every earlier one (R301): the oldest held descriptor goes
first. -/
def State.updFirst (s : State) (e : QEntry) : Bool := s.updEntries.all (fun x => e.run.blk ≤ x.run.blk)

def execUpdate (t : Nat) (s : State) : Out := .next (doUpdate t s)
def execGnorm (t : Nat) (s : State) : Out := .next (doGnorm t s)

end Sys2Proof.Machine
end

