-- ==== Sys2Proof/Machine/Link.lean ====
section
/-! DEFINITION. The Rinov ports: flits and their coding, retry, credits, training and retraining (R310–R323, R332). -/

namespace Sys2Proof.Machine

/-! ### Packets as slots (R315–R319) -/

/-- The 32 header bytes of a packet of `len` slots (R317, R344, R366). -/
def Packet.header (k : Packet) (len : Nat) : List Byte :=
  [BitVec.ofNat 8 k.opc, BitVec.ofNat 8 (k.hops % 4 + if k.rind.isSome then 4 else 0)] ++ leBytes 2 len ++
  leBytes 2 k.dst ++ leBytes 2 k.src ++ leBytes 8 k.addr ++ leBytes 2 k.tag ++ leBytes 1 k.ctx ++ leBytes 1 k.fmt ++
  leBytes 4 (k.rind.getD 0#32).toNat ++ leBytes 4 k.value ++ leBytes 4 k.info

/-- The slots of a list of words, four to a slot; a slot with a poisoned word is poisoned (R319). -/
def wordSlots : Nat → List (W32 × Bool) → List Slot
  | 0, _ => []
  | n + 1, ws =>
    if ws.isEmpty then []
    else
      let h := ws.take 4
      let bytes := (h.map (fun w => leBytes 4 w.1.toNat)).flatten
      ⟨bytes ++ List.replicate (16 - bytes.length) 0#8, false, h.any (·.2)⟩ :: wordSlots n (ws.drop 4)

/-- A packet's slots: two header slots, then its data (R316). -/
def Packet.slots (k : Packet) : List Slot :=
  let data := wordSlots (k.words.length + 1) k.words
  let h := k.header (2 + data.length)
  [⟨h.take 16, true, false⟩, ⟨h.drop 16, false, false⟩] ++ data

/-- The words of data slots, each with its slot's mark (R319). -/
def slotWords (l : List Slot) : List (W32 × Bool) :=
  (l.map (fun x => (List.range 4).map (fun i => (BitVec.ofNat 32 (lField x.bytes (4 * i) 4), x.poison)))).flatten

/-- LEN of a header slot (R317). -/
def slotLen (x : Slot) : Nat := lField x.bytes 2 2

/-- A whole packet from its slots. A LEN that is not the number of its slots (0 or 1) and reserved header bits that are not 0 make it
malformed (R317, R344: byte 28 to 31 are reserved outside NAK, dispatch, collective and clutch packets). -/
def Packet.ofSlots (l : List Slot) (unit : Nat) : Packet :=
  let h := ((l.take 2).map (·.bytes)).flatten
  let b1 := lField h 1 1
  let opc := lField h 0 1
  let info := lField h 28 4
  { opc := opc, hops := b1 % 4
    dst := lField h 4 2 % 4096, src := lField h 6 2 % 4096, addr := lField h 8 8, tag := lField h 16 2
    ctx := lField h 18 1 % 16, fmt := lField h 19 1
    rind := if bitOf b1 2 then some (BitVec.ofNat 32 (lField h 20 4)) else none
    value := lField h 24 4, info := info, words := slotWords (l.drop 2), unit := unit, via := 31
    bad := b1 ≥ 8 || lField h 4 2 ≥ 4096 || lField h 6 2 ≥ 4096 || lField h 18 1 ≥ 16 || l.length < 2 || lField h 2 2 != l.length ||
      258 < l.length || (opc < 0x10 && info ≥ 256) || (opc < 0x10 && opc ≠ 5 && info ≠ 0)
    syn := [] }

/-! ### Flits (R315) -/

/-- A whole flit: header, body (bytes 4 to 251) and FCRC over bytes 0 to 251. -/
def flitBytes (seq typ ack : Nat) (nak : Bool) (body : List Byte) : List Byte :=
  let l := leBytes 2 (seq % 4096 + 4096 * typ) ++ leBytes 2 (ack % 4096 + if nak then 4096 else 0) ++ body
  l ++ leBytes 4 (crc32c l).toNat

/-- The body of a flit: two credit returns, 15 slots, SOP and POISON. -/
def flitBody (ret : List (Nat × Nat)) (slots : List Slot) : List Byte :=
  let r (i : Nat) : Nat := match ret[i]? with | some (p, n) => p + 16 * n | none => 0
  let mask (f : Slot → Bool) : Nat := (slots.zipIdx.map (fun x => if f x.1 then 2 ^ x.2 else 0)).sum
  leBytes 2 (r 0) ++ leBytes 2 (r 1) ++ (slots.map (·.bytes)).flatten ++
  List.replicate (240 - 16 * slots.length) 0#8 ++ leBytes 2 (mask (·.sop)) ++ leBytes 2 (mask (·.poison))

/-! ### Scrambling, framing and lanes (R310–R312) -/

/-- One step of the PRBS31 sequence x^31 + x^28 + 1: the state holds the last 31 bits, the newest lowest. -/
def prbsStep (x : BitVec 31) : BitVec 31 :=
  (x <<< 1) ||| (if x.getLsbD 30 != x.getLsbD 27 then 1#31 else 0#31)

/-- Eight bits of the sequence as a byte, first bit lowest. -/
def prbsByte : Nat → BitVec 31 → Nat → Nat × BitVec 31
  | 0, x, acc => (acc, x)
  | n + 1, x, acc =>
    let y := prbsStep x
    prbsByte n y (acc + if y.getLsbD 0 then 2 ^ (7 - n) else 0)

/-- Flit bits XORed with the sequence (R312). -/
def scramble (x : BitVec 31) : List Byte → List Byte × BitVec 31
  | [] => ([], x)
  | b :: r =>
    let (m, x) := prbsByte 8 x 0
    let (l, x) := scramble x r
    ((b ^^^ BitVec.ofNat 8 m) :: l, x)

/-- The five bytes of frame control (R312). -/
def frameControl (fnum : Nat) : List Byte :=
  let l := 0xB4#8 :: leBytes 3 (fnum % 2 ^ 24)
  l ++ [crc8 l]

/-- Bits of a byte list in ascending order, bit 0 first (R311). -/
def bitsOfBytes (l : List Byte) : List Bool :=
  (l.map (fun b => (List.range 8).map (fun i => b.getLsbD i))).flatten

/-- Symbols of 10 bits, the first bit lowest (R311). -/
def tenBits : Nat → List Bool → List (BitVec 10)
  | 0, _ => []
  | n + 1, l =>
    BitVec.ofNat 10 (((l.take 10).zipIdx.map (fun p => if p.1 then 2 ^ p.2 else 0)).sum) :: tenBits n (l.drop 10)

/-- The 1,088 code symbols of a frame in the order A0, B0, A1, B1, … (R311). -/
def frameSymbols (fnum : Nat) (flits : List (List Byte)) : List (BitVec 10) :=
  let bits := bitsOfBytes (frameControl fnum ++ flits.flatten)
  let a := rsEncode (tenBits 514 bits)
  let b := rsEncode (tenBits 514 (bits.drop 5140))
  ((a.zip b).map (fun p => [p.1, p.2])).flatten

/-- The PAM4 level of a bit pair (R310). -/
def pam4 (pair : Nat) : Int :=
  match pair with
  | 0 => -3
  | 1 => -1
  | 3 => 1
  | _ => 3

/-- What a lane sends for a frame: symbol k goes to lane k mod 8, or to lane k mod 4 of the half in use; five unit intervals a
symbol, bit pair [1:0] first (R310, R311, R314). -/
def laneLevels (syms : List (BitVec 10)) (lanes lane : Nat) : List Int :=
  ((syms.zipIdx.filter (fun p => p.2 % lanes == lane)).map (fun p =>
    (List.range 5).map (fun i => pam4 (bitsOf p.1.toNat (2 * i) 2)))).flatten

/-- A step of the PRBS13 sequence x^13 + x^12 + x^2 + x + 1 of DETECT (R313): the state holds the last 13 bits, the newest lowest. -/
def prbs13Step (x : BitVec 13) : BitVec 13 :=
  (x <<< 1) ||| (if (x.getLsbD 12 != x.getLsbD 11) != (x.getLsbD 1 != x.getLsbD 0) then 1#13 else 0#13)

/-- `n` levels of the sequence, two bits each. -/
def prbs13Levels : Nat → BitVec 13 → List Int
  | 0, _ => []
  | n + 1, x =>
    let y := prbs13Step x
    let z := prbs13Step y
    pam4 (b2n (y.getLsbD 0) + 2 * b2n (z.getLsbD 0)) :: prbs13Levels n z

/-- A training block of a lane in DETECT: its header gives the lane number, then PRBS13. The header's form and its length and the
sequence's start and length are not stated: they are those of Config. -/
def trainingBlock (l : Nat) : List Int := Config.trainHeader l ++ prbs13Levels (Config.trainLength l) (Config.trainSeed l)

/-- The levels on lane `l` of a port: nothing while its transmitters are off, training blocks in DETECT, its last whole frame while it
is UP. What the lanes carry while equalisers adapt and lanes are aligned is not stated. -/
def Port.lane (x : Port) (l : Nat) : List Int :=
  if x.st = 0 ∨ x.st = 7 then []
  else if x.st = 1 then trainingBlock l
  else if x.st ≠ 5 then Config.trainLane x.st l
  else match x.last with
    | none => []
    | some (n, flits) =>
      let syms := frameSymbols n flits
      if x.x4 then (if l / 4 = (if x.half then 1 else 0) then laneLevels syms 4 (l % 4) else [])
      else laneLevels syms 8 l

/-- The levels on lane `l` of port `p`; under EXTEST the transmitters follow the boundary cells (R491). -/
def State.lane (s : State) (p l : Nat) : List Int :=
  if s.extest then [Config.cellLevel (s.cell (2 + 8 * p + l))] else (s.port p).lane l

/-! ### Sending (R316, R320–R322) -/

def poolOf (k : Packet) : Nat := 4 * chanOf k.opc + k.hops % 4

/-- The order of the channels at a port: events, management, then command and data alternate (R321). -/
def chanOrder (x : Port) : List Nat := if x.lastData then [3, 2, 0, 1] else [3, 2, 1, 0]

/-- The first waiting packet of a channel that this port may send: its stream is placed here, it is the first of its stream in its
pool, and its pool holds credits for every slot. The host port uses hop class 0 only (R320). -/
def State.nextPacket (s : State) (p ch : Nat) : Option (Nat × Packet) :=
  let x := s.port p
  (s.out.zipIdx.find? (fun q =>
    let k := q.1
    chanOf k.opc == ch && s.portOf k == some p && (p != 18 || k.hops == 0) && k.slots.length ≤ (x.credits[poolOf k]?).getD 0 &&
    (s.out.take q.2).all (fun o => !(poolOf o == poolOf k && o.unit == k.unit && o.dst == k.dst)))).map
    (fun q => (q.2, q.1))

/-- Take the next packet of a port: credits are spent, its tag has left (R329). -/
def State.takePacket (s : State) (p : Nat) : Option (List Slot × State) :=
  match (chanOrder (s.port p)).findSome? (fun ch => s.nextPacket p ch) with
  | none => none
  | some (i, k) =>
    let l := k.inFlight.slots
    let own := k.src == s.devId
    let left (r : Remote) : Remote := if own && r.tag == k.tag && r.opc == k.opc then { r with port := some p } else r
    let s := s.readPacket (uPort p) k
    let s := { s with out := dropAt s.out i, remotes := s.remotes.map left }
    some (l, s.modPort p (fun x => { x with
        credits := modAt x.credits (poolOf k) (· - l.length)
        lastData := if chanOf k.opc = 1 then true else if chanOf k.opc = 0 then false else x.lastData }))

/-- Up to `n` slots for the next flit: the rest of the packet in progress, then whole packets as credits allow. -/
def State.fillSlots (s : State) (p : Nat) : Nat → Nat → List Slot → List Slot × State
  | 0, _, acc => (acc, s)
  | fuel + 1, n, acc =>
    if n = 0 then (acc, s)
    else
      match (s.port p).cur with
      | c :: r => (s.modPort p (fun x => { x with cur := r })).fillSlots p fuel (n - 1) (acc ++ [c])
      | [] =>
        match s.takePacket p with
        | none => (acc, s)
        | some (l, s) => (s.modPort p (fun x => { x with cur := l })).fillSlots p fuel n acc

/-- The credit returns of a flit (R315): the first two pools that have slots to return. -/
def giveNow (x : Port) : List (Nat × Nat) :=
  ((x.give.zipIdx.filter (fun p => p.1 ≠ 0)).take 2).map (fun p => (p.2, min p.1 4095))

def takeGive (x : Port) (l : List (Nat × Nat)) : Port :=
  { x with give := l.foldl (fun g p => modAt g p.1 (· - p.2)) x.give }

/-- A flit goes on the lanes: scrambled, in the frame (R311, R312). -/
def Port.putFlit (x : Port) (flit : List Byte) : Port :=
  let (l, t) := scramble x.tx flit
  let f := x.frame ++ [l]
  if f.length = 5 then { x with tx := t, frame := [], last := some (x.fnumTx, f), fnumTx := (x.fnumTx + 1) % 2 ^ 24 }
  else { x with tx := t, frame := f }

/-- The flit that carries `body` with the port's present ACK and NAK; the NAK then has gone. -/
def Port.sendFlit (x : Port) (seq typ : Nat) (body : List Byte) : Port :=
  let y := x.putFlit (flitBytes seq typ ((x.rxSeq + 4095) % 4096) x.nakDue body)
  { y with nakDue := false }

/-- FLIT_TIME: the port's transmitter sends a flit: one from the retry buffer, a new DATA flit, or IDLE. After a fatal error only
IDLE flits are sent (R422). -/
def doFlitTime (p : Nat) (s : State) : State :=
  let x := s.port p
  if x.st ≠ 5 ∨ 19 ≤ p then s
  else
    let idle (s : State) : State := s.modPort p (fun x =>
      let g := giveNow x
      (takeGive x g).sendFlit x.txSeq 0 (flitBody g []))
    if s.holds.fatal then idle s
    else
      match x.retry[x.resend]? with
      | some f => s.modPort p (fun x => ({ x with resend := x.resend + 1 }).sendFlit f.seq 1 f.body)
      | none =>
        if min 512 x.depth ≤ x.retry.length then idle s
        else
          let (slots, s) := s.fillSlots p 40 15 []
          if slots.isEmpty then idle s
          else s.modPort p (fun x =>
            let g := giveNow x
            let body := flitBody g slots
            let y := takeGive x g
            ({ y with
              txSeq := (x.txSeq + 1) % 4096
              retry := x.retry ++ [TxFlit.mk x.txSeq body]
              resend := x.resend + 1 }).sendFlit x.txSeq 1 body)

/-! ### Receiving (R312, R322) -/

/-- The frame control of a received frame: lock is lost after four bad ones in a row (R312). -/
def Port.frameSeen (x : Port) (fc : List Byte) : Port :=
  let want := frameControl x.fnumRx
  let good := fc == want
  let n := if good then 0 else x.badFrames + 1
  let roll := 10 ^ 6 ≤ x.winFrames + 1
  { x with
    fnumRx := (x.fnumRx + 1) % 2 ^ 24, badFrames := n, lockLost := x.lockLost || 4 ≤ n
    winFrames := if roll then 0 else x.winFrames + 1, winBad := if roll then 0 else x.winBad }

/-- Take accepted slots into packets (R316): LEN of the first slot ends the packet; a slot that starts none and continues
none is empty. -/
def Port.accept (x : Port) (unit : Nat) : List Slot → Port
  | [] => x
  | c :: r =>
    let asm := if c.sop then [c] else if x.asm.isEmpty then [] else x.asm ++ [c]
    match asm with
    | [] => x.accept unit r
    | h :: _ =>
      if max 2 (slotLen h) ≤ asm.length then
        ({ x with asm := [], rcvd := x.rcvd ++ [Packet.ofSlots asm unit] }).accept unit r
      else ({ x with asm := asm }).accept unit r

/-- The 15 slots of a flit. -/
def flitSlots (l : List Byte) : List Slot :=
  (List.range 15).map (fun i =>
    ⟨(l.drop (8 + 16 * i)).take 16, bitOf (lField l 248 2) i, bitOf (lField l 250 2) i⟩)

/-- Flits up to and including ACK are covered (R322). -/
def Port.acked (x : Port) (ack : Nat) : Port :=
  match x.retry with
  | [] => x
  | f :: _ =>
    let n := (ack + 4096 - f.seq) % 4096 + 1
    if n ≤ x.retry.length then
      { x with retry := x.retry.drop n, resend := x.resend - n, replays := 0 }
    else x

/-- The packets of a port from the `n`th on have just arrived, and take the link that the route table gives now (R326). -/
def State.routeNew (p n : Nat) (s : State) : State :=
  s.modPort p (fun x => { x with rcvd := x.rcvd.take n ++ (x.rcvd.drop n).map (fun k => { k with via := (s.hopOf k.dst).code }) })

/-- FLIT_RECEIVE: `flit` as received and not yet descrambled, with the codewords corrected and uncorrectable since the last flit,
and the frame control where a frame starts. -/
def doFlitReceive (p : Nat) (flit : List Byte) (corr uncorr : Nat) (fc : Option (List Byte)) (s : State) : State :=
  let x := s.port p
  if x.st ≠ 5 ∨ 19 ≤ p ∨ flit.length ≠ 256 then s
  else State.routeNew p x.rcvd.length <| s.modPort p (fun x =>
    let x := match fc with | some l => x.frameSeen l | none => x
    let (l, rx) := scramble x.rx flit
    let x := { x with
      rx := rx, corr := satAdd 32 x.corr corr, uncorr := satAdd 32 x.uncorr uncorr, winBad := x.winBad + uncorr }
    let head := lField l 0 2
    let typ := head / 4096
    let good := uncorr = 0 && !x.lockLost && typ ≤ 1 && crc32c (l.take 252) == BitVec.ofNat 32 (lField l 252 4)
    let bad (x : Port) : Port := if x.nakSent then x else { x with nakDue := true, nakSent := true }
    if good then
      let x := x.acked (lField l 2 2 % 4096)
      let x := if bitOf (lField l 2 2) 12 then { x with nakReq := true } else x
      let credit (x : Port) : Port := [4, 6].foldl (fun x o =>
        let c := lField l o 2
        { x with credits := modAt x.credits (c % 16) (· + c / 16) }) x
      if typ = 0 then
        let x := credit x
        if head % 4096 = x.rxSeq then x else bad x
      else if head % 4096 = x.rxSeq then
        (credit { x with rxSeq := (x.rxSeq + 1) % 4096, nakSent := false }).accept (unitPort p) (flitSlots l)
      else bad x
    else bad x)

/-- A replay starts (R322): the flits from ACK + 1 are sent again in order; 16 replays of one flit make the port retrain. -/
def Port.startReplay (x : Port) : Port :=
  { x with resend := 0, nakReq := false, replay := satAdd 32 x.replay 1, replays := x.replays + 1 }

def doFlitNakResend (p : Nat) (s : State) : State :=
  let x := s.port p
  if x.st = 5 ∧ x.nakReq then s.modPort p Port.startReplay else s

/-- ACK_TIMEOUT_RESEND: the ACK has not advanced for 1,650 flit times. -/
def doAckTimeoutResend (p : Nat) (s : State) : State :=
  let x := s.port p
  if x.st = 5 ∧ x.retry ≠ [] then s.modPort p Port.startReplay else s

/-! ### Training (R313, R314) -/

/-- A LINK event (R339). -/
def State.linkEvent (s : State) (p : Nat) : State :=
  let x := s.port p
  s.post none 0x08 (leBytes 1 p ++ leBytes 1 x.st ++ leBytes 2 x.peerDev)

/-- The lanes that the receiver pairs see, by the numbers in the headers: any pair may carry any lane, at either polarity (R492). -/
def seenLanes (pairs : List (Option (Nat × Bool))) : Byte :=
  (List.range 8).foldl (fun (m : Byte) (l : Nat) => if pairs.any (fun x => x.any (fun y => y.1 == l)) then m ||| 1#8 <<< l else m) 0#8

/-- LINK_DETECT: the peer is seen on all lanes, or on one healthy half where X4OK allows it; fabric ports wait for their id. Each receiver
maps its lane and corrects its polarity. -/
def doLinkDetect (p : Nat) (pairs : List (Option (Nat × Bool))) (s : State) : State :=
  let x := s.port p
  let lanes := seenLanes pairs
  let all := lanes = 0xFF#8
  let lo := lanes &&& 0x0F#8 = 0x0F#8
  let hi := lanes &&& 0xF0#8 = 0xF0#8
  if x.st = 1 ∧ p < 19 ∧ (p = 18 ∨ s.lnk.idV) ∧ (all ∨ (x.x4ok ∧ (lo ∨ hi))) then
    s.modPort p (fun x => { x with st := 2, laneOk := lanes, x4 := !all, half := !all && !lo, rxMap := pairs })
  else s

/-- The healthy lanes carry the port: all eight, or one half where X4OK allows it (R313, R314). -/
def Port.carries (x : Port) : Bool :=
  x.laneOk == 0xFF#8 || (x.x4ok && (x.laneOk &&& 0x0F#8 == 0x0F#8 || x.laneOk &&& 0xF0#8 == 0xF0#8))

/-- LINK_EQ_DONE: every lane in use is good enough. -/
def doLinkEqDone (p : Nat) (s : State) : State :=
  let x := s.port p
  if x.carries = false then s
  else if x.st = 2 then s.modPort p (fun x => { x with st := 3 })
  else if x.st = 6 ∧ x.sub = 0 then s.modPort p (fun x => { x with sub := 1 })
  else s

/-- What port `p` sends at PARAM (R313, R320): device id, port number, bond id, credits per pool, retry depth. The host port uses hop
class 0 only. -/
def State.paramOf (s : State) (p : Nat) : PeerParam :=
  ⟨s.devId, p, (s.port p).bond, if p = 18 then hostPools advertised else advertised, 512⟩

/-- LINK_DESKEW_DONE: the lanes are aligned, and the port sends its parameters. -/
def doLinkDeskewDone (p : Nat) (s : State) : State :=
  let x := s.port p
  if x.st = 3 then s.modPort p (fun x => { x with st := 4, sent := some (s.paramOf p) })
  else if x.st = 6 ∧ x.sub = 1 then s.modPort p (fun x => { x with sub := 2, sent := some (s.paramOf p) })
  else s

/-- A port goes UP: frame 0 follows, with fresh scramblers (R312); the first time with the peer's credits. -/
def Port.up (x : Port) (peer : PeerParam) : Port :=
  let again := x.st == 6
  let hi := x.laneOk &&& 0x0F#8 ≠ 0x0F#8
  { x with
    st := 5, x4 := x.laneOk ≠ 0xFF#8, half := x.laneOk ≠ 0xFF#8 && hi, fails := 0, lockLost := false, badFrames := 0
    winFrames := 0, winBad := 0, replays := 0, fnumTx := 0, fnumRx := 0, tx := BitVec.allOnes 31, rx := BitVec.allOnes 31
    frame := [], peerDev := peer.dev, peerPort := peer.port
    credits := if again then x.credits else peer.credits, depth := if again then x.depth else peer.depth }

def Port.goDown (x : Port) : Port := { x with st := 7, down := satAdd 8 x.down 1, cur := [], asm := [] }

/-- A retrain starts: retry buffers, sequence numbers and credits are kept; a record of class corrected is logged (R314). -/
def State.startRetrain (s : State) (p lane : Nat) : State :=
  (s.modPort p (fun x => { x with st := 6, sub := 0, fails := 0, retrain := satAdd 16 x.retrain 1 })).detect
    { mkRec clsCorrected cLinkRetrain (uPort p) with sub := lane }

def doLinkRetrain (p : Nat) (why : RetrainWhy) (s : State) : State :=
  let x := s.port p
  let due : Bool := match why with
    | .frameLock => x.lockLost
    | .uncorrectable => decide (64 < x.winBad)
    | .replays => decide (16 ≤ x.replays)
  if x.st = 5 ∧ p < 19 ∧ due then s.startRetrain p 0 else s

/-- LANE_LOSS: the lane is no longer healthy, and an UP port retrains, to ×4 on the healthy half where X4OK allows it. -/
def doLaneLoss (p lane : Nat) (s : State) : State :=
  let x := s.port p
  if p < 19 ∧ lane < 8 ∧ x.laneOk.getLsbD lane then
    let s := s.modPort p (fun x => { x with laneOk := x.laneOk &&& ~~~(1#8 <<< lane) })
    if x.st = 5 then s.startRetrain p lane else s
  else s

def doRetrainAttemptFailed (p : Nat) (s : State) : State :=
  let x := s.port p
  if x.st = 6 ∧ p < 19 ∧ x.fails < 2 then s.modPort p (fun x => { x with fails := x.fails + 1, sub := 0 }) else s

/-! ### Failed requests (R329) -/

/-- The unit that a record of cause REMOTE names: the tile of the descriptor. Its collective, if it has one, ends. -/
def State.endColl (s : State) (t seq : Nat) : State :=
  if s.dsp.colls.any (fun c => c.tile == t && c.seq == seq) then
    { s with dsp := { s.dsp with
      colls := s.dsp.colls.filter (fun c => !(c.tile == t && c.seq == seq))
      collFailed := satAdd 16 s.dsp.collFailed 1 } }
  else s

/-- Requests of a descriptor that ends are forgotten; their late responses find no tag and are dropped (R329). -/
def State.forget (s : State) (t q seq : Nat) : State :=
  { s with remotes := s.remotes.filter (fun r => !(r.tile == t && r.queue == q && r.seq == seq)) }

/-- A request of work outside the queues fails: a code copy refuses its grid (R278), and a fold fails at its step, beside the record of
the request (R329; DESIGN CHOICE, log 58: the manual gives a fold no such failure). -/
def State.sideFails (s : State) (r : Remote) (reason : Nat) : State :=
  if 2048 ≤ r.seq then s.modEntry 0 7 r.seq (fun e => { e with ph := .finished })
  else
    let t := r.seq / 2
    let b := r.seq % 2
    let f := ((s.tile t).bank b).fold
    let s := s.detect { mkRec clsContained cRemote t with
      sub := 4 * b, ctx := some f.ctx, info0 := BitVec.ofNat 64 (r.dst + reason * 65536), info1 := BitVec.ofNat 64 r.addr }
    match f.stage with
    | .idle => s.foldFail t b 1 0 0
    | .quantised => s.foldFail t b 2 0 0
    | .pressing => s.foldPressFault t b (s.foldRun t b).snap .wait
    | .pressed => s.foldFail t b 4 0 0

/-- A request fails: the descriptor stops at its progress record, unsignalled; its strand stops; a record of class contained names
DST, the reason and the address (R329, R499). -/
def State.failRemote (s : State) (r : Remote) (reason : Nat) : State :=
  let s := { s with remotes := s.remotes.filter (fun x => x.tag != r.tag) }
  match s.entry r.tile r.queue r.seq with
  | none => s
  | some e =>
    if r.queue = 7 then s.sideFails r reason
    else
    let rec' := { s.descRec r.tile r.queue e clsContained cRemote with
      info0 := BitVec.ofNat 64 (r.dst + reason * 65536), info1 := BitVec.ofNat 64 r.addr }
    let s := (s.detect rec').endIssuer r.tile e
    let s := if r.queue = 3 then s.abortPress r.tile e else s
    let s := ((s.forget r.tile r.queue r.seq).endColl r.tile r.seq).endRead r.tile r.queue
    let s := s.dropEntry r.tile r.queue e
    if r.queue = 6 then s.drainEdge r.tile 33 else s

/-- A port goes DOWN (R314): a LINK event, a record of class corrected while another member of its bond is UP and of class contained
otherwise. Requests in flight on the port fail; so do those that wait for a bond with no member left (R325, R329). -/
def State.portDown (s : State) (p : Nat) : State :=
  let x := s.port p
  let s := (s.modPort p Port.goDown).linkEvent p
  let live := (s.members x.bond).any (fun q => (s.port q).st == 5)
  let s := s.detect { mkRec (if live then clsCorrected else clsContained) cLinkDown (uPort p) with ctx := s.xl.runCtx }
  let dead := x.bond != 31 && (s.members x.bond).isEmpty
  let waits := s.out.filter (fun k => dead && k.via == x.bond && k.src == s.devId)
  let lost := s.remotes.filter (fun r => r.port == some p || waits.any (fun k => k.tag == r.tag && k.opc == r.opc))
  let s := { s with out := s.out.filter (fun k => !(dead && k.via == x.bond)) }
  lost.foldl (fun s r => if s.remotes.any (fun y => y.tag == r.tag) then s.failRemote r 0xFF else s) s

/-- LINK_DOWN: the third retrain in a row fails. -/
def doLinkDown (p : Nat) (s : State) : State :=
  let x := s.port p
  if x.st = 6 ∧ p < 19 ∧ x.fails = 2 then s.portDown p else s

/-- LINK_PARAM_DONE: the port goes UP; with a duplicate id it goes DOWN (R361), with an unexpected peer, or a peer other than
its bond's, it stays out of every bond (R325, R332). -/
def doLinkParamDone (p : Nat) (peer : PeerParam) (s : State) : State :=
  let x := s.port p
  if p < 19 ∧ (x.st = 4 ∨ (x.st = 6 ∧ x.sub = 2)) ∧ x.carries = true then
    if p < 18 ∧ peer.dev = s.devId then
      (s.modPort p (fun x => { x with peerDev := peer.dev, peerPort := peer.port })).portDown p
    else
      let peer := if p = 18 then { peer with credits := hostPools peer.credits } else peer
      let other := (s.members x.bond).any (fun q => q != p && (s.port q).peerDev != peer.dev)
      let odd := p < 18 && ((match x.expect with | some d => d != peer.dev | none => false) || (x.bond != 31 && other))
      let s := s.modPort p (fun x => { x.up peer with apart := odd })
      if odd then s.linkEvent p else s
  else s

def execFlitTime (p : Nat) (s : State) : Out := .next (doFlitTime p s)
def execFlitReceive (p : Nat) (flit : List Byte) (corr uncorr : Nat) (fc : Option (List Byte)) (s : State) : Out :=
  .next (doFlitReceive p flit corr uncorr fc s)
def execFlitNakResend (p : Nat) (s : State) : Out := .next (doFlitNakResend p s)
def execAckTimeoutResend (p : Nat) (s : State) : Out := .next (doAckTimeoutResend p s)
def execLinkDetect (p : Nat) (pairs : List (Option (Nat × Bool))) (s : State) : Out := .next (doLinkDetect p pairs s)
def execLinkEqDone (p : Nat) (s : State) : Out := .next (doLinkEqDone p s)
def execLinkDeskewDone (p : Nat) (s : State) : Out := .next (doLinkDeskewDone p s)
def execLinkParamDone (p : Nat) (peer : PeerParam) (s : State) : Out := .next (doLinkParamDone p peer s)
def execLinkRetrain (p : Nat) (why : RetrainWhy) (s : State) : Out := .next (doLinkRetrain p why s)
def execLaneLoss (p lane : Nat) (s : State) : Out := .next (doLaneLoss p lane s)
def execRetrainAttemptFailed (p : Nat) (s : State) : Out := .next (doRetrainAttemptFailed p s)
def execLinkDown (p : Nat) (s : State) : Out := .next (doLinkDown p s)

end Sys2Proof.Machine
end

