-- ==== Sys2Proof/Machine/Remote.lean ====
section
/-! DEFINITION. Packets at the receiving device: forwarding, the target path, answers, and what answers do at the source
(R324–R330). A packet is named by its port and its place among the port's received packets; port 19 stands for the
mesh, over which the device answers itself. -/

namespace Sys2Proof.Machine

/-! ### Received packets -/

def meshPort : Nat := 19

def State.rcvdAt (s : State) (p : Nat) : List Packet := if p = meshPort then s.lnk.mesh else (s.port p).rcvd

/-- Opcodes that a fabric port knows (R318, R344, R366). -/
def knownOpc (opc : Nat) : Bool := (1 ≤ opc && opc ≤ 7) || (0x10 ≤ opc && opc ≤ 0x14) || (0x30 ≤ opc && opc ≤ 0x3F)

/-- Remove a received packet, whose words have been read; its slots are returned as credits (R320). -/
def State.dropRcvd (s : State) (p i : Nat) (k : Packet) : State :=
  let s := match (s.rcvdAt p)[i]? with
    | some x => s.readPacket (if p = meshPort then uMgmt else uPort p) x
    | none => s
  if p = meshPort then { s with lnk := { s.lnk with mesh := dropAt s.lnk.mesh i } }
  else s.modPort p (fun x => { x with
    rcvd := dropAt x.rcvd i, give := modAt x.give (poolOf k) (· + (2 + ceilDiv k.words.length 4)) })

/-- Answer a request of another device, or of this one. -/
def State.answer (s : State) (p : Nat) (k : Packet) (opc : Nat) (f : Packet → Packet) : State :=
  s.send (f { s.mkPacket opc k.src k.ctx k.tag 0 0 (unitPort p) with info := 0 })

/-- A NAK with its reason (R324); the port counts it. -/
def State.nakBack (s : State) (p : Nat) (k : Packet) (reason : Nat) : State :=
  if unanswered k.opc then s
  else (s.modPort p (fun x => { x with naksent := satAdd 16 x.naksent 1 })).answer p k 0x05
    (fun a => { a with info := reason })

/-- The packet at place `i` as it is read, when it is the first of its source and channel (R327). -/
def State.packetAt (s : State) (p i : Nat) : Option Packet :=
  match (s.rcvdAt p)[i]? with
  | none => none
  | some k =>
    if ((s.rcvdAt p).take i).any (fun o => o.src == k.src && chanOf o.opc == chanOf k.opc) then none else some k.inFlight

/-- Process a received packet for this device with one of the given opcodes. A packet of an unknown opcode is answered with BADOP
by whichever row takes it (R318). -/
def State.onPacket (s : State) (p i : Nat) (ops : List Nat) (f : Packet → State → State) : State :=
  match s.packetAt p i with
  | none => s
  | some k =>
    if k.hop ≠ .loc then s
    else if !knownOpc k.opc then (s.dropRcvd p i k).nakBack p k 19
    else if ops.contains k.opc then f k (s.dropRcvd p i k)
    else s

/-- PACKET_FORWARD: a packet for another device goes on by the link that the route table gave when it arrived, with HOPS one higher,
or is answered with TOOFAR or UNREACH (R326). -/
def doPacketForward (p i : Nat) (s : State) : State :=
  match s.packetAt p i with
  | none => s
  | some k =>
    match k.hop with
    | .loc => s
    | .unreach => (s.dropRcvd p i k).nakBack p k 16
    | .bond b =>
      let s := s.dropRcvd p i k
      if 3 < k.hops + 1 then s.nakBack p k 18
      else { s with out := s.out ++ [{ k with hops := k.hops + 1, via := b, unit := unitPort p }] }

/-! ### The target path (R328) -/

/-- Translate at a receiving port: usable DRAM or a scratchpad part of a tile window, G clear; otherwise the NAK reason. The
port holds 256 leaf entries. -/
def State.portXlate (s : State) (p ctx a acc : Nat) : Except Nat Loc × State :=
  if a ≥ 2 ^ 48 then (.error 6, s)
  else
    let page := a / 0x200000
    let check (e : Nat) : Except Nat Loc :=
      match leafTarget e a acc with
      | .error f => .error f.reason
      | .ok (.away _ _) => .error 5
      | .ok (.here pa) => match locOf pa with
        | .dram x => .ok (.dram x)
        | .spad t o => .ok (.spad t o)
        | _ => .error 5
    match cacheHit (s.port p).cache ctx page with
    | some (e, c) => (check e.toNat, s.modPort p (fun x => { x with cache := c }))
    | none =>
      match s.walk (uPort p) ctx a acc with
      | (.error f, s) => (.error f.reason, s)
      | (.ok e, s) =>
        let c := (XlLine.mk ctx page (BitVec.ofNat 64 e) :: (s.port p).cache).take 256
        (check e, s.modPort p (fun x => { x with cache := c }))

/-- What becomes of a request's context (R328): it runs, it is saved (the request is discarded and counted), or neither. -/
inductive CtxFate where
  | runs
  | saved
  | none

def State.ctxFate (s : State) (ctx : Nat) : CtxFate :=
  if s.xl.runCtx = some ctx then .runs
  else if (smGet Option.none s.xl.saved ctx).isSome then .saved
  else .none

/-- A request for a saved context is discarded and counted, per port and per source device (R285, R328). -/
def State.discard (s : State) (p : Nat) (k : Packet) : State :=
  let s := s.modPort p (fun x => { x with discard := satAdd 16 x.discard 1 })
  let l := s.lnk.discards
  let d := if l.any (fun x => x.ctx == k.ctx && x.src == k.src)
    then l.map (fun x => if x.ctx = k.ctx ∧ x.src = k.src then { x with n := x.n + 1 } else x)
    else l ++ [⟨k.ctx, k.src, 1⟩]
  { s with lnk := { s.lnk with discards := d } }

/-- A checked request: its place at this device, or the answer that it gets. -/
def State.target (s : State) (p : Nat) (k : Packet) (acc : Nat) (f : Loc → State → State) : State :=
  match s.ctxFate k.ctx with
  | .saved => s.discard p k
  | .none => s.nakBack p k 17
  | .runs =>
    match s.portXlate p k.ctx k.addr acc with
    | (.error r, s) => s.nakBack p k r
    | (.ok l, s) => f l s

/-- `n` bytes from `a`, under the limits of WR (R318). -/
def spanOk (a n : Nat) : Bool := 64 ≤ n && n ≤ 4096 && n % 64 == 0 && a % 4096 + n ≤ 4096

/-- Places `n` words on from a place. -/
def Loc.plus (l : Loc) (n : Nat) : Loc :=
  match l with
  | .dram a => .dram (a + n)
  | .spad t o => .spad t (o + n)
  | l => l

/-- The place of the word that holds a byte. -/
def Loc.align (l : Loc) : Loc :=
  match l with
  | .dram a => .dram (a / 4 * 4)
  | .spad t o => .spad t (o / 4 * 4)
  | l => l

/-- Write a word at any byte address: across two words it goes by its bytes and marks both where it is marked (R318 asks no alignment). -/
def State.writeAt (s : State) (w : Nat) (l : Loc) (v : W32) (m : Bool) : State :=
  if l.addr % 4 = 0 then s.putWord w l v m
  else
    let (v, s) := s.made v
    let s := s.writeBytesLoc w l (leBytes 4 v.toNat)
    if m then (s.markLoc l.align).markLoc (l.align.plus 4) else s

/-- Read a word at any byte address. -/
def State.readAt (s : State) (l : Loc) (ctx : Option Nat) : (W32 × Bool) × State :=
  if l.addr % 4 = 0 then s.readLoc l ctx
  else
    let (x, s) := s.readLoc l.align ctx
    let (y, s) := s.readLoc (l.align.plus 4) ctx
    ((BitVec.ofNat 32 (bitsOf (x.1.toNat + y.1.toNat * 2 ^ 32) (8 * (l.addr % 4)) 32), x.2 || y.2), s)

def State.putWords (s : State) (w : Nat) (l : Loc) : List (W32 × Bool) → State
  | [] => s
  | (v, m) :: r => (s.writeAt w l v m).putWords w (l.plus 4) r

def State.getWords (s : State) (l : Loc) (ctx : Nat) : Nat → List (W32 × Bool) × State
  | 0 => ([], s)
  | n + 1 =>
    let (w, s) := s.readAt l (some ctx)
    let (r, s) := s.getWords (l.plus 4) ctx n
    (w :: r, s)

/-- An address at another device that no packet carries here: a free value. -/
def State.farAddr (s : State) : Nat × State :=
  let (v, s) := s.draw
  (v.toNat % 2 ^ 48, s)

/-- Writes of `n` bytes each that come in packets count in MEM_RINDCNT.PARTIAL for the DRAM blocks that they cover in part, once for a
descriptor and block (R262). A packet names no descriptor (R317), so whether a write is the first of a descriptor that will leave the block
partly covered is a free bit (DESIGN CHOICE, log 58). -/
def State.countPartial (s : State) (ls : List Loc) (n : Nat) : State :=
  let blks := ls.filterMap (fun l => match l with | .dram a => some (a / 4096) | _ => none)
  blks.eraseDups.foldl (fun s b =>
    if 4096 ≤ n * (blks.filter (· == b)).length then s
    else
      let (k, s) := s.drawUpTo 1
      s.modStack (stackOf (b * 4096)) (fun x => { x with partialBlk := satAdd 32 x.partialBlk k })) s

/-- Every word of a block arrives marked: the source has found the mismatch, and recorded it (R264). -/
def allMarked (ws : List (W32 × Bool)) : Bool := ws.all (·.2)

/-- WR: checked, written, acknowledged. A whole block with its tag is checked against the data (R262–R264); the address of the block
at its source is not carried, so the record holds a free one. -/
def doWr (p i : Nat) (s : State) : State :=
  s.onPacket p i [0x01] (fun k s =>
    if k.bad || !spanOk k.addr (4 * k.words.length) then s.nakBack p k 19
    else s.target p k 1 (fun l s =>
      let tagOf := wordsCrc k.words
      let wrong := k.words.length == 1024 && (match k.rind with | some r => r != tagOf | none => false)
      let s := if wrong then
          let s := if allMarked k.words then s else
            let (src, s) := s.farAddr
            s.rindMis l.unit 1 k.ctx src l.addr tagOf (k.rind.getD 0#32)
          s.countRind l
        else s
      let s := s.countPartial [l] (4 * k.words.length)
      let s := s.putWords (uPort p) l (k.words.map (fun w => (w.1, w.2 || wrong)))
      s.answer p k 0x04 id))

/-- RDREQ: checked, read, answered with RDRSP; a whole block carries its stored tag, checked as it is read (R263), so that after a mismatch
the destination finds it too and counts it (R264). Where the block goes is not carried: for a request of this device itself (R326) the
record holds the address that the request is for, for another's a free one. -/
def doRdreq (p i : Nat) (s : State) : State :=
  s.onPacket p i [0x02] (fun k s =>
    if k.bad || !k.words.isEmpty || !spanOk k.addr k.value then s.nakBack p k 19
    else s.target p k 0 (fun l s =>
      let (ws, s) := s.getWords l k.ctx (k.value / 4)
      let whole := k.value == 4096
      let tagOf := wordsCrc ws
      let diff := s.rindDiff l
      let wrong := whole && diff != 0#32
      let s := if wrong then
          let own := if k.src = s.devId then s.remotes.find? (fun r => r.opc == 0x02 && r.tag == k.tag) else none
          let (dst, s) := match own with
            | some r => (match r.into with | .here x => x | .away _ x => x, s)
            | none => s.farAddr
          s.rindMis l.unit 0 k.ctx l.addr dst tagOf (tagOf ^^^ diff)
        else s
      s.answer p k 0x03 (fun a => { a with
        words := ws.map (fun w => (w.1, w.2 || wrong)), rind := if whole then some (tagOf ^^^ diff) else none, fmt := Config.rawFmt % 256 })))

/-! ### Answers at the source (R329, R330) -/

/-- The request that an answer belongs to. -/
def State.asked (s : State) (k : Packet) (ops : List Nat) : Option Remote :=
  s.remotes.find? (fun r => r.tag == k.tag && ops.contains r.opc && r.dst == k.src)

def State.settle (s : State) (r : Remote) : State := { s with remotes := s.remotes.filter (fun x => x.tag != r.tag) }

/-- A carried tag does not match a block that arrives for a descriptor: the destination counts it, and where the source has not found it
(`found`) the record names the destination (R264). -/
def State.blockMis (s : State) (r : Remote) (ctx : Nat) (tagOf stored : W32) (found : Bool) : State :=
  match r.into with
  | .here a => (if found then s else s.rindMis (locOf a).unit 1 ctx r.addr a tagOf stored).countRind (locOf a)
  | .away _ a => if found then s else s.rindMis r.tile 1 ctx r.addr a tagOf stored

/-- RDRSP: the data reaches the descriptor; a late response is dropped. A carried tag is checked (R263). -/
def doRdrsp (p i : Nat) (s : State) : State :=
  s.onPacket p i [0x03] (fun k s =>
    match s.asked k [0x02] with
    | none => s
    | some r =>
      let s := s.settle r
      let tagOf := wordsCrc k.words
      let wrong := k.words.length == 1024 && (match k.rind with | some x => x != tagOf | none => false)
      let s := if wrong then s.blockMis r k.ctx tagOf (k.rind.getD 0#32) (allMarked k.words) else s
      s.modEntry r.tile r.queue r.seq (fun e => e.modRun (fun u => { u with
        rbuf := ⟨r.dst, r.addr, (k.words.take (r.len / 4)).map (fun w => (w.1, w.2 || wrong)), false, r.page, k.rind⟩ :: u.rbuf })))

/-- WRACK: one write of a descriptor is visible at its target. -/
def doWrack (p i : Nat) (s : State) : State :=
  s.onPacket p i [0x04] (fun k s =>
    match s.asked k [0x01] with
    | none => s
    | some r => (s.settle r).flushDue r.tile r.queue r.seq)

/-- NAK: the descriptor that made the request stops (R329); a late one is dropped. -/
def doNak (p i : Nat) (s : State) : State :=
  s.onPacket p i [0x05] (fun k s =>
    let s := s.modPort p (fun x => { x with nakrcvd := satAdd 16 x.nakrcvd 1 })
    match s.remotes.find? (fun r => r.tag == k.tag) with
    | none => s
    | some r => s.failRemote r (k.info % 256))

/-- SIG: applied like a local SIG, then SIGACK; a device-owned counter is refused (R57, R330), and so is a context that neither runs
nor is saved (R324, R328). -/
def doSigPacket (p i : Nat) (s : State) : State :=
  s.onPacket p i [0x06] (fun k s =>
    if k.bad || !k.words.isEmpty || 65536 ≤ k.addr then s.nakBack p k 19
    else if deviceCtr k.addr then s.nakBack p k 20
    else match s.ctxFate k.ctx with
      | .saved => s.discard p k
      | .none => s.nakBack p k 17
      | .runs => (s.addCtr k.addr (BitVec.ofNat 32 k.value)).answer p k 0x07 id)

/-- SIGACK: it completes the RSIG. -/
def doSigack (p i : Nat) (s : State) : State :=
  s.onPacket p i [0x07] (fun k s =>
    match s.asked k [0x06] with
    | none => s
    | some r => (s.settle r).finishEdge r.tile r.seq)

/-- REMOTE_TIMEOUT: 10 ms after it left, a request has no response (R329). -/
def doRemoteTimeout (tag : Nat) (s : State) : State :=
  match s.remotes.find? (fun r => r.tag == tag) with
  | none => s
  | some r =>
    match r.port with
    | none => s
    | some p => (s.modPort p (fun x => { x with timeout := satAdd 16 x.timeout 1 })).failRemote r 0xFF

/-! ### RSIG (R331) -/

def rsigDev (d : W512) : Nat := dField d 18 2
def rsigCtr (d : W512) : Nat := (dField d 20 2 + dPatch d) % 65536

def rsigChk (d : W512) : Chk Unit := do
  chk (rsigDev d < 4096) 18 (rsigDev d)
  chkZero d 22 2
  chkZero d 28 28
  chk (!deviceCtr (rsigCtr d)) 20 (dField d 20 2)

def doRsig (t : Nat) (s : State) : State :=
  s.startEdge t 0x70 0x200 (fun _ _ => true) (fun e => do
    match rsigChk e.d with
    | .error (o, v) => pure (.refuse o v)
    | .ok _ =>
      let g : Agent := ⟨t, t, e.ctx, 6, e.seq, false⟩
      xMod (fun s => s.requestPk g (s.mkPacket 0x06 (rsigDev e.d) e.ctx 0 (rsigCtr e.d) (dField e.d 24 4) t) 0 noPage
        (.away (rsigDev e.d) 0))
      pure (.go Run.start))

def execPacketForward (p i : Nat) (s : State) : Out := .next (doPacketForward p i s)
def execWr (p i : Nat) (s : State) : Out := .next (doWr p i s)
def execRdreq (p i : Nat) (s : State) : Out := .next (doRdreq p i s)
def execRdrsp (p i : Nat) (s : State) : Out := .next (doRdrsp p i s)
def execWrack (p i : Nat) (s : State) : Out := .next (doWrack p i s)
def execNak (p i : Nat) (s : State) : Out := .next (doNak p i s)
def execSigPacket (p i : Nat) (s : State) : Out := .next (doSigPacket p i s)
def execSigack (p i : Nat) (s : State) : Out := .next (doSigack p i s)
def execRemoteTimeout (tag : Nat) (s : State) : Out := .next (doRemoteTimeout tag s)
def execRsig (t : Nat) (s : State) : Out := .next (doRsig t s)

end Sys2Proof.Machine
end

