-- ==== Sys2Proof/Machine/Experts.lean ====
section
/-! DEFINITION. Expert dispatch (R341–R352): DISPATCH and COMBINE, and the coding of groups on the wire (R343–R346). -/

namespace Sys2Proof.Machine

/-! ### Counters of the dispatch engines -/

def State.dspCount (s : State) (l : List (Nat × Nat)) : State :=
  { s with dsp := { s.dsp with num := l.foldl (fun c p => (c.count p.1 p.2).1) s.dsp.num } }

/-- The engine beside the first UP member of the bond that the route table gives for a device (R342). -/
def State.dspEngine (s : State) (dev : Nat) : Nat :=
  match s.hopOf dev with
  | .bond b => ((s.members b).find? (fun p => (s.port p).st == 5)).getD 0
  | _ => 0

/-- The agent of a dispatch engine for a descriptor. -/
def dspAgent (t p : Nat) (e : QEntry) : Agent := edgeAgent t (unitDsp p) e

/-- `n` bytes from `a`, and the address of the first poisoned word among them. -/
def xBytes (g : Agent) (a : Nat) : Nat → Nat → X (List Byte × Option Nat)
  | 0, _ => pure ([], none)
  | fuel + 1, n =>
    if n = 0 then pure ([], none)
    else do
      let k := min 4 n
      let (v, p) ← xReadBytes g a k
      let (l, q) ← xBytes g (a + k) fuel (n - k)
      pure (leBytes k v ++ l, if p then some a else q)

/-! ### Groups on the wire (R343, R345, R346) -/

/-- What narrowing did: words with marks, and the counts by counter (R121, R345). -/
structure Narrow where
  words : List (W32 × Bool)
  counts : List (Nat × Nat)

/-- One element under a block scale, tensor scale 1.0, in a rounding mode. -/
def curdElem (c : Nat) (mode : Rnd) (w : W32) (eb : Nat) : Enc :=
  match val32 w with
  | none => { code := if c = 0x08 then 0 else 0x7F, nonfin := true }
  | some x =>
    if eb = 0xFF then { code := if c = 0x08 then 0 else 0x7F }
    else
      let sc : Int := (eb : Int) - 127
      let (n0, d0) := dyQuot x.dy
      mxEncode c mode x.neg (n0 * (if sc < 0 then 2 ^ (-sc).toNat else 1)) (d0 * (if 0 ≤ sc then 2 ^ sc.toNat else 1))

/-- One block of 32: its scale byte, its codes, its mark, its counts. -/
def curdBlock (c : Nat) (rnd : Nat → Rnd) (ws : List (W32 × Bool)) : Nat × List Nat × Bool × List (Nat × Nat) :=
  let bad := ws.any (fun w => nonFin w.1)
  let bmax := ws.foldl (fun a w => maxMag a w.1) 0#32
  let eb := if bad then 0xFF else blockScale c one32 (val32 bmax)
  let es := ws.zipIdx.map (fun p => curdElem c (rnd p.2) p.1.1 eb)
  let flushed := (es.filter (·.flush)).length
  let zero := !bad && bmax == 0#32
  (eb, es.map (·.code), ws.any (·.2),
   [(0, (es.filter (·.sat)).length), (2, (es.filter (·.nonfin)).length), (3, b2n bad), (4, b2n zero),
    (5, b2n (!bad && !zero && es.all (fun e => e.code == 0))), (6, flushed)])

/-- Bytes with marks as words. -/
def packWords : Nat → List (Byte × Bool) → List (W32 × Bool)
  | 0, _ => []
  | n + 1, l =>
    if l.isEmpty then []
    else (BitVec.ofNat 32 (leVal ((l.take 4).map (·.1))), (l.take 4).any (·.2)) :: packWords n (l.drop 4)

/-- A wire format's blocks. -/
def curdFmt (f : Nat) : Bool := f == 0x04 || f == 0x05 || f == 0x08

/-- FP32 elements in a wire format. `same` says that the source already has the format, so that its bits travel unchanged. -/
def toWire (f : Nat) (rnd : Nat → Rnd) (same : Bool) (ws : List (W32 × Bool)) : Narrow :=
  if curdFmt f then
    let bs := (List.range (ws.length / 32)).map (fun b =>
      curdBlock f (fun i => rnd (32 * b + i)) ((ws.drop (32 * b)).take 32))
    let scales := bs.map (fun b => (BitVec.ofNat 8 b.1, b.2.2.1))
    let codes := (bs.map (fun b => b.2.1.map (fun c => (c, b.2.2.1)))).flatten
    let data := if f = 0x08 then packNibbles codes else codes.map (fun c => (BitVec.ofNat 8 c.1, c.2))
    ⟨packWords (ws.length + 64) (scales ++ data), (bs.map (fun b => b.2.2.2)).flatten⟩
  else if f = 0x01 then
    let hs := ws.zipIdx.map (fun p => (cvt16 (rnd p.2) p.1.1, p.1))
    let raw (h : (W16 × Bool) × (W32 × Bool)) : W16 := if same then h.2.1.extractLsb' 16 16 else h.1.1
    let bytes := (hs.map (fun h => (leBytes 2 (raw h).toNat).map (fun b => (b, h.2.2)))).flatten
    let bad := (ws.filter (fun w => nonFin w.1)).length
    ⟨packWords (ws.length + 1) bytes,
     if same then [] else [(0, (hs.filter (fun h => h.1.2)).length), (1, bad), (2, bad)]⟩
  else
    ⟨if same then ws else ws.map (fun w => (if nonFin w.1 then nan32 else w.1, w.2)),
     if same then [] else
       let bad := (ws.filter (fun w => nonFin w.1)).length
       [(1, bad), (2, bad)]⟩

/-- The words that a group takes on the wire (R343). -/
def groupWords (f : Nat) : Nat :=
  match f with
  | 0x00 => 1024 | 0x01 => 512 | 0x08 => 136 | _ => 264

/-- Narrowing of products (R349): a non-finite operand was counted when the multiplier read it, and every event counts once (R123). -/
def Narrow.ofProducts (w : Narrow) : Narrow := { w with counts := w.counts.filter (fun p => p.1 ≠ 2) }

/-- An element of a received group as FP32: its value and mark, whether it counts under counter 2 (R346), and whether it lies beyond
the FP32 range (R121). -/
structure WireElem where
  v : W32
  mark : Bool
  nonfin : Bool
  sat : Bool

/-- Element `i` of a group. -/
def fromWire (f : Nat) (ws : List (W32 × Bool)) (i : Nat) : WireElem :=
  let w (k : Nat) : W32 × Bool := (ws[k]?).getD (0#32, false)
  let byte (k : Nat) : Nat × Bool := (bitsOf (w (k / 4)).1.toNat (8 * (k % 4)) 8, (w (k / 4)).2)
  if f = 0x00 then ⟨(w i).1, (w i).2, false, false⟩
  else if f = 0x01 then
    let x := w (i / 2)
    ⟨bf32 (BitVec.ofNat 16 (bitsOf x.1.toNat (16 * (i % 2)) 16)), x.2, false, false⟩
  else
    let sc := byte (i / 32)
    let c := if f = 0x08 then
        let b := byte (32 + i / 2)
        (bitsOf b.1 (4 * (i % 2)) 4, b.2)
      else byte (32 + i)
    let mark := sc.2 || c.2
    match mxDecode f c.1 with
      | .nan => ⟨nan32, mark, f == 0x05, false⟩
      | .num x =>
        if sc.1 = 0xFF then ⟨nan32, mark, false, false⟩
        else
        let d := x.dy
        let r := toF32 .rne ⟨d.m, d.e + (sc.1 : Int) - 127⟩ x.neg
        ⟨r.1, mark, false, r.2⟩

/-! ### Descriptors and record (R347, R348) -/

def dpRec (d : W512) : Nat := dField d 24 8
def dpRow (d : W512) : Nat := dField d 32 8
def dpPlan (d : W512) : Nat := dField d 40 8
def dpTab (d : W512) : Nat := dField d 48 8

/-- A dispatch record (R348). -/
structure DRec where
  route : Nat
  map : Nat
  cnt : Nat
  ntok : Nat
  h : Nat
  nexp : Nat
  ld : Nat
  k : Nat
  policy : Nat
  src : Nat
  wire : Nat
  dfmt : Nat
  opts : Nat
  layer : Nat
  seq : Nat
deriving DecidableEq, Repr

def drecOf (l : List Byte) : DRec :=
  ⟨lField l 0 8, lField l 8 8, lField l 16 8, lField l 24 4, lField l 28 2, lField l 30 2, lField l 32 4, lField l 36 1,
   lField l 37 1, lField l 38 1, lField l 39 1, lField l 40 1, lField l 41 1, lField l 42 2, lField l 44 4⟩

def DRec.gate (r : DRec) : Bool := bitOf r.opts 0
def DRec.notify (r : DRec) : Bool := bitOf r.opts 1
def DRec.rmode (r : DRec) : Nat := bitsOf r.opts 2 2
def sizeOf (f : Nat) : Nat := if f = 0x00 then 4 else 2

/-- The checks of a record (R348, R352, R112). -/
def drecChk (l : List Byte) : Chk Unit := do
  let r := drecOf l
  chk (1 ≤ r.ntok && r.ntok ≤ 65536) 0x118 r.ntok
  chk (32 ≤ r.h && r.h ≤ 32768 && r.h % 32 == 0 && (!curdFmt r.wire || r.h % 1024 == 0)) 0x11C r.h
  chk (1 ≤ r.nexp && r.nexp ≤ 4096) 0x11E r.nexp
  chk (r.ld % 64 == 0 && r.h * sizeOf r.src ≤ r.ld) 0x120 r.ld
  chk (1 ≤ r.k && r.k ≤ 4) 0x124 r.k
  chk (r.policy ≤ 1) 0x125 r.policy
  chk (r.src ≤ 1) 0x126 r.src
  chk ([0x00, 0x01, 0x04, 0x05].contains r.wire) 0x127 r.wire
  chk (r.dfmt ≤ 1) 0x128 r.dfmt
  chk (r.opts < 16 && r.rmode ≠ 3) 0x129 r.opts
  chk (r.seq < 2 ^ 24) 0x12C r.seq
  chkZeroL l 48 16

/-- The token rows of a descriptor, where they are BF16, lie in no vat (R71). -/
def drowChk (d : W512) (r : DRec) : Chk Unit :=
  chk (r.src == 0 || !rowsVat (dpRow d + dPatch d * (r.ntok * r.ld)) r.ld r.ntok (2 * r.h)) 0x126 r.src

/-- A map entry (R348); `resv` are the bits of its word that no field takes. -/
structure MapEnt where
  base : Nat
  ld : Nat
  dev : Nat
  valid : Bool
  alt : Nat
  resv : Nat

def mapEnt (l : List Byte) (e : Nat) : MapEnt :=
  let o := 16 * e
  ⟨lField l o 8, lField l (o + 8) 4, lField l (o + 12) 2 % 4096, bitOf (lField l (o + 12) 2) 15, lField l (o + 14) 2,
   bitsOf (lField l (o + 12) 2) 12 3⟩

/-- A check of every index below `n`, in ascending order. -/
def chkAll (n : Nat) (f : Nat → Chk Unit) : Chk Unit := (List.range n).forM f

/-- A map (R348, R352, R502): no reserved bit is set; the LD of a valid entry is a multiple of 64, and its ALT names an expert or none. -/
def mapChk (maps : List Byte) (n : Nat) : Chk Unit :=
  chkAll n (fun e => do
    let m := mapEnt maps e
    chk (!m.valid || m.ld % 64 == 0) (0x100 + 16 * e + 8) m.ld
    chk (m.resv == 0) (0x100 + 16 * e + 12) (lField maps (16 * e + 12) 2)
    chk (!m.valid || m.alt == 0xFFFF || m.alt < n) (0x100 + 16 * e + 14) m.alt)

/-- Every expert that a route names is one of the record's (R352), whether or not K takes it. -/
def routeChk (r : DRec) (routes : List Byte) : Chk Unit :=
  chkAll (routes.length / 16) (fun t => chkAll 4 (fun c =>
    let x := lField routes (16 * t + 2 * c) 2
    chk (x == 0xFFFF || x < r.nexp) (0x100 + 16 * t + 2 * c) x))

/-- A map entry that is used is valid (R352). -/
def usedChk (maps : List Byte) (e : Nat) : Chk Unit :=
  chk (mapEnt maps e).valid (0x100 + 16 * e + 12) (lField maps (16 * e + 12) 2)

/-- A planned assignment: expert, STATUS, row (none where the plan gives none). -/
structure Asg where
  e : Nat
  st : Nat
  row : Option Nat
deriving DecidableEq, Repr

/-- The quota of an expert: FIRST and COUNT. -/
def quotaOf (l : List Byte) (e : Nat) : Nat × Nat := (lField l (8 * e) 4, lField l (8 * e + 4) 4)

/-- The quota region of an expert whose map entry is valid lies in its buffer's LD rows (R352); an empty region has no rows. -/
def quotaChk (maps quotas : List Byte) (n : Nat) : Chk Unit :=
  chkAll n (fun e =>
    let q := quotaOf quotas e
    chk (!(mapEnt maps e).valid || q.2 == 0 || q.1 + q.2 ≤ (mapEnt maps e).ld) (0x100 + 8 * e) q.1)

/-- One choice of the plan of R349. Under SECOND a full expert's own entry is used for its ALT, and so must be valid (R352). -/
def planOne (r : DRec) (maps quotas : List Byte) (off asked : Nat) (taken : List Nat) (used : SMap Nat) :
    Chk (Asg × List Nat × SMap Nat) := do
  let q (e : Nat) : Nat × Nat := quotaOf quotas e
  let u (e : Nat) : Nat := smGet 0 used e
  let place (e st : Nat) : Chk (Asg × List Nat × SMap Nat) := do
    usedChk maps e
    pure (⟨e, st, some ((q e).1 + u e)⟩, e :: taken, smSet 0 used e (u e + 1))
  if asked = 0xFFFF then pure (⟨asked, 3, none⟩, taken, used)
  else do
    chk (asked < r.nexp) off asked
    if u asked < (q asked).2 then place asked 0
    else if r.policy ≠ 1 then pure (⟨asked, 2, none⟩, taken, used)
    else do
      usedChk maps asked
      let a := (mapEnt maps asked).alt
      if a ≠ 0xFFFF ∧ !taken.contains a then do
        chk (a < r.nexp) (0x100 + 16 * asked + 14) a
        if u a < (q a).2 then place a 1 else pure (⟨asked, 2, none⟩, taken, used)
      else pure (⟨asked, 2, none⟩, taken, used)

/-- The choices of one token, in ascending c. -/
def planTok (r : DRec) (maps quotas : List Byte) (off : Nat) : List Nat → Nat → List Nat → SMap Nat →
    Chk (List Asg × SMap Nat)
  | [], _, _, used => pure ([], used)
  | x :: xs, c, taken, used => do
    let (a, taken, used) ← planOne r maps quotas (off + 2 * c) x taken used
    let (l, used) ← planTok r maps quotas off xs (c + 1) taken used
    pure (a :: l, used)

/-- The whole plan, in ascending t (R349). -/
def planAll (r : DRec) (routes maps quotas : List Byte) : Nat → Nat → SMap Nat → Chk (List Asg)
  | 0, _, _ => pure []
  | n + 1, t, used => do
    let x (c : Nat) : Nat := lField routes (16 * t + 2 * c) 2
    let own := ((List.range 4).map x).filter (· != 0xFFFF)
    let (l, used) ← planTok r maps quotas (0x100 + 16 * t) ((List.range r.k).map x) 0 own used
    let rest ← planAll r routes maps quotas n (t + 1) used
    pure (l ++ rest)

/-- An assignment as a plan entry: 8 bytes. -/
def asgBytes (a : Asg) (free : Nat) : List Byte := leBytes 2 a.e ++ leBytes 1 a.st ++ [0#8] ++ leBytes 4 (a.row.getD free)

def asgOf (l : List Byte) (i : Nat) : Asg :=
  let st := lField l (8 * i + 2) 1
  ⟨lField l (8 * i) 2, st, if st ≤ 1 then some (lField l (8 * i + 4) 4) else none⟩

/-- Entry `i` of a plan that COMBINE reads: STATUS is one of R348's, byte 3 is 0 (R502), an expert is one of the record's, dropped or
not, and the expert of a row has a usable map entry (R352). -/
def planEntChk (r : DRec) (plan maps : List Byte) (i : Nat) : Chk Unit := do
  let a := asgOf plan i
  chk (a.st ≤ 3) (0x100 + 8 * i + 2) a.st
  chk (lField plan (8 * i + 3) 1 == 0) (0x100 + 8 * i + 3) (lField plan (8 * i + 3) 1)
  chk (a.st == 3 || a.e < r.nexp) (0x100 + 8 * i) a.e
  if a.row.isSome then usedChk maps a.e

/-! ### DISPATCH (R349, R350) -/

def dspHead (d : W512) : Chk Unit := chkZero d 18 6

/-- The tables of a DISPATCH, read at its start: the first poisoned word ends it (R427). `snap` holds the record, the plan, the
map and the routes. -/
def dispatchStart (t : Nat) (e : QEntry) : X StartX := do
  match dspHead e.d with
  | .error (o, v) => pure (.refuse o v)
  | .ok _ =>
    let g := dspAgent t 0 e
    let (l, p0) ← xBytes g (dpRec e.d) 20 64
    match p0 with
    | some a => pure (.poison a)
    | none =>
      match (do drecChk l; drowChk e.d (drecOf l)) with
      | .error (o, v) => pure (.refuse o v)
      | .ok _ =>
        let r := drecOf l
        let (routes, p1) ← xBytes g r.route (4 * r.ntok + 1) (16 * r.ntok)
        let (maps, p2) ← xBytes g r.map (4 * r.nexp + 1) (16 * r.nexp)
        let (quotas, p3) ← xBytes g (dpTab e.d) (2 * r.nexp + 1) (8 * r.nexp)
        match p1.orElse (fun _ => p2.orElse (fun _ => p3)) with
        | some a => pure (.poison a)
        | none =>
          match (do routeChk r routes; mapChk maps r.nexp; quotaChk maps quotas r.nexp; planAll r routes maps quotas r.ntok 0 []) with
          | .error (o, v) => pure (.refuse o v)
          | .ok plan =>
            let n ← xDo (fun s => s.draw)
            let free : Nat := n.toNat % 2 ^ 32
            let bytes := (plan.map (fun a => asgBytes a free)).flatten
            let seed := (← xState).dsp.seed
            pure (.go { Run.start with seed := seed, snap := [l, bytes, maps, routes] })

def doDispatch (t : Nat) (s : State) : State := s.startEdge t 0x80 0x300 (fun _ _ => true) (dispatchStart t)

/-- FP32 values of a row of `n` elements in format 0 or 1. -/
def xRow (g : Agent) (f a n : Nat) : X (List (W32 × Bool)) := xStreamVals g f a 0 n

/-- Send words to another device, or to this one over the mesh, as WR packets of one line. -/
def xSendLines (g : Agent) (dev fmt : Nat) : Nat → Nat → List (W32 × Bool) → X Unit
  | 0, _, _ => pure ()
  | n + 1, a, l =>
    if l.isEmpty then pure ()
    else do
      xMod (fun s => s.request g 0x01 dev a 64 noPage (.away dev a) none (l.take 16) fmt)
      xSendLines g dev fmt n (a + 64) (l.drop 16)

/-- Send a group as GRPWR or RSGRP (R344). -/
def xSendGroup (g : Agent) (opc dev a f : Nat) (collid dfmt rank : Nat) (ws : List (W32 × Bool)) : X Unit :=
  xMod (fun s => s.requestPk g { s.mkPacket opc dev g.ctx 0 a 0 g.unit with
    fmt := f, info := collid + 256 * dfmt + 65536 * rank, words := ws } 0 noPage (.away dev a))

/-- A row's elements, multiplied by its gate (R349): exact bits where nothing is computed. The gate is one operand of the row
(DESIGN CHOICE, log 50). -/
def gateRow (gate : Option W32) (ws : List (W32 × Bool)) : List (W32 × Bool) × List (Nat × Nat) :=
  match gate with
  | none => (ws, [])
  | some g =>
    let l : List (FRes × Bool) := ws.map (fun w => (f32Mul .rne w.1 g, w.2))
    let bad := (ws.filter (fun w => nonFin w.1)).length + b2n (nonFin g)
    (l.map (fun x => (x.1.1, x.2)), [(0, (l.filter (fun x => x.1.2)).length), (2, bad)])

/-- One assignment: its plan entry is written and its row is sent; after the last one come the counts. -/
def dispatchUnit (t : Nat) (e : QEntry) : X Bool := do
  let e ← xEntry (dspAgent t 0 e)
  let s ← xState
  let r := drecOf ((e.run.snap[0]?).getD [])
  let plan := (e.run.snap[1]?).getD []
  let maps := (e.run.snap[2]?).getD []
  let routes := (e.run.snap[3]?).getD []
  let i := e.run.unit
  let total := r.ntok * r.k
  let n := dPatch e.d
  let pa := dpPlan e.d + n * (8 * total)
  let next := xRun (dspAgent t 0 e) (fun u => { u with unit := u.unit + 1 })
  if i < total then do
    let a := asgOf plan i
    let g0 := dspAgent t 0 e
    xPutBytes g0 (pa + 8 * i) (((plan.drop (8 * i)).take 8).map (fun b => (b, false)))
    flushRemote g0
    match a.row with
    | none => next
    | some row => do
      let m := mapEnt maps a.e
      let tok := i / r.k
      let g := dspAgent t (s.dspEngine m.dev) e
      let ws ← xRow g r.src (dpRow e.d + (n * r.ntok + tok) * r.ld) r.h
      let gate := if r.gate then some (bf32 (BitVec.ofNat 16 (lField routes (16 * tok + 8 + 2 * (i % r.k)) 2))) else none
      let (vs, c1) := gateRow gate ws
      let rnd (k : Nat) : Rnd := rndOf r.rmode e.run.seed 0x913 ((r.seq + tok) % 2 ^ 24) k
      let narrow (w : Narrow) : Narrow := if r.gate then w.ofProducts else w
      let same := !r.gate && r.src == r.wire
      let dst := m.base + row * m.ld
      if curdFmt r.wire then
        (List.range (r.h / 1024)).forM (fun q => do
          let w := narrow (toWire r.wire (fun k => rnd (1024 * q + k)) false ((vs.drop (1024 * q)).take 1024))
          xMod (fun s => s.dspCount w.counts)
          xSendGroup g 0x12 m.dev (dst + q * 1024 * sizeOf r.dfmt) r.wire 0 r.dfmt 0 w.words)
      else do
        let w := narrow (toWire r.wire rnd same vs)
        xMod (fun s => s.dspCount w.counts)
        xSendLines g m.dev r.wire (r.h + 1) dst w.words
      flushRemote g
      xMod (fun s => s.dspCount c1)
      next
    pure false
  else do
    let as := (List.range total).map (asgOf plan)
    let cnt (k : Nat) : Nat := (as.filter (fun a => a.st == k)).length
    let g0 := dspAgent t 0 e
    xPutBytes g0 r.cnt (((leBytes 4 (cnt 0) ++ leBytes 4 (cnt 1) ++ leBytes 4 (cnt 2) ++ leBytes 4 0)).map (fun b => (b, false)))
    flushRemote g0
    let body (tile : Nat) (why n : Nat) (c : Nat → Nat) : List Byte :=
      leBytes 2 tile ++ leBytes 2 r.layer ++ leBytes 4 (c 0) ++ leBytes 4 (c 1) ++ leBytes 4 (c 2) ++ leBytes 1 why ++ leBytes 1 n
    xMod (fun s =>
      let s := [0, 1, 2].foldl (fun s k =>
        let (c, ev) := s.dsp.tok.count k (cnt k)
        let s := { s with dsp := { s.dsp with tok := c } }
        if ev then s.post none 0x10 (body 0xFFFF 2 k (fun j => ((s.dsp.tok.cnt[j]?).getD 0#32).toNat)) else s) s
      if r.notify && cnt 2 ≠ 0 then s.post (some e.ctx) 0x10 (body t 1 0 cnt) else s)
    next
    pure true

/-! ### COMBINE (R351) -/

/-- The plan, the map and, with GATE, the routes are read and checked at the start (R352, R502). -/
def combineStart (t : Nat) (e : QEntry) : X StartX := do
  match dspHead e.d with
  | .error (o, v) => pure (.refuse o v)
  | .ok _ =>
    let g := dspAgent t 0 e
    let (l, p0) ← xBytes g (dpRec e.d) 20 64
    match p0 with
    | some a => pure (.poison a)
    | none =>
      match (do drecChk l; drowChk e.d (drecOf l)) with
      | .error (o, v) => pure (.refuse o v)
      | .ok _ =>
        let r := drecOf l
        let total := r.ntok * r.k
        let (plan, p1) ← xBytes g (dpPlan e.d + dPatch e.d * (8 * total)) (2 * total + 1) (8 * total)
        let (maps, p2) ← xBytes g (if dpTab e.d = 0 then r.map else dpTab e.d) (4 * r.nexp + 1) (16 * r.nexp)
        let (routes, p3) ← if r.gate then xBytes g r.route (4 * r.ntok + 1) (16 * r.ntok) else pure ([], none)
        match p1.orElse (fun _ => p2.orElse (fun _ => p3)) with
        | some a => pure (.poison a)
        | none =>
          match (do routeChk r routes; mapChk maps r.nexp; chkAll total (planEntChk r plan maps)) with
          | .error (o, v) => pure (.refuse o v)
          | .ok _ => pure (.go { Run.start with seed := (← xState).dsp.seed, snap := [l, plan, maps, routes] })

def doCombine (t : Nat) (s : State) : State := s.startEdge t 0x81 0x300 (fun _ _ => true) (combineStart t)

/-- The lines of a row at another device, or at this one over the mesh (R342). -/
def xFetchLines (g : Agent) (dev : Nat) : Nat → Nat → X (List (W32 × Bool))
  | 0, _ => pure []
  | n + 1, a => do
    let b ← remoteLine g dev a noPage
    let r ← xFetchLines g dev n (a + 64)
    pure (b.words ++ r)

/-- Add f × row element by element (R351). -/
def addRow (f : W32) (acc : List (FRes × Bool)) (row : List (W32 × Bool)) : List (FRes × Bool) :=
  (acc.zip row).map (fun p =>
    let r := f32Fma .rne f p.2.1 p.1.1.1
    ((r.1, r.2 || p.1.1.2), p.1.2 || p.2.2))

/-- The choices of a token, in ascending c: rows fetched and added. -/
def xSumRows (t : Nat) (e : QEntry) (r : DRec) (plan maps routes : List Byte) (tok : Nat) :
    List Nat → List (FRes × Bool) × Nat → X (List (FRes × Bool) × Nat)
  | [], acc => pure acc
  | c :: cs, (acc, bad) => do
    let a := asgOf plan (tok * r.k + c)
    match a.row with
    | none => xSumRows t e r plan maps routes tok cs (acc, bad)
    | some row => do
      let m := mapEnt maps a.e
      let s ← xState
      let g := dspAgent t (s.dspEngine m.dev) e
      let ws ← xFetchLines g m.dev (ceilDiv (r.h * sizeOf r.dfmt) 64) (m.base + row * m.ld)
      let xs := (List.range r.h).map (fun i =>
        if r.dfmt = 0 then (ws[i]?).getD (0#32, false)
        else
          let w := (ws[i / 2]?).getD (0#32, false)
          (bf32 (BitVec.ofNat 16 (bitsOf w.1.toNat (16 * (i % 2)) 16)), w.2))
      let f := if r.gate then bf32 (BitVec.ofNat 16 (lField routes (16 * tok + 8 + 2 * c) 2)) else one32
      let n := (xs.filter (fun x => nonFin x.1)).length + b2n (nonFin f)
      xSumRows t e r plan maps routes tok cs (addRow f acc xs, bad + n)

/-- One token of a COMBINE. An element that saturates in FP32 and again in the narrowing counts under 0 once (DESIGN CHOICE, log 50). -/
def combineUnit (t : Nat) (e : QEntry) : X Bool := do
  let e ← xEntry (dspAgent t 0 e)
  let r := drecOf ((e.run.snap[0]?).getD [])
  let at' (i : Nat) : List Byte := (e.run.snap[i]?).getD []
  let tok := e.run.unit
  let zero : List (FRes × Bool) := List.replicate r.h ((0#32, false), false)
  let (acc, bad) ← xSumRows t e r (at' 1) (at' 2) (at' 3) tok (List.range r.k) (zero, 0)
  let g := dspAgent t 0 e
  let st := acc.zipIdx.map (fun p =>
    let x := storeElem r.src (rndOf r.rmode e.run.seed 0x913 ((r.seq + tok) % 2 ^ 24) p.2) p.1.1.1
    ({ x with sat := x.sat || p.1.1.2 }, p.1.2))
  xPutElems g r.src (dpRow e.d + (dPatch e.d * r.ntok + tok) * r.ld) 0 (st.map (fun p => (p.1.code, p.2)))
  flushAs g r.src
  xMod (fun s => s.dspCount [(0, (st.filter (fun p => p.1.sat)).length),
    (1, (st.filter (fun p => p.1.nan)).length), (2, bad)])
  xRun g (fun u => { u with unit := tok + 1 })
  pure (decide (r.ntok ≤ tok + 1))

/-- A bound on the units of a DISPATCH or COMBINE. -/
def dispatchUnits (e : QEntry) : Nat :=
  let r := drecOf ((e.run.snap[0]?).getD [])
  r.ntok * r.k + 2

def execDispatch (t : Nat) (s : State) : Out := .next (doDispatch t s)
def execCombine (t : Nat) (s : State) : Out := .next (doCombine t s)

end Sys2Proof.Machine
end

