-- ==== Sys2Proof/Machine/Collective.lean ====
section
/-! DEFINITION. Collectives (R353–R359): REDSCAT, ALLGATHER and their packets. -/

namespace Sys2Proof.Machine

/-! ### Bodies (R353) -/

def coId (d : W512) : Nat := dField d 18 1
def coWire (d : W512) : Nat := dField d 19 1
def coNmem (d : W512) : Nat := dField d 20 2
def coRank (d : W512) : Nat := dField d 22 2
def coSrc (d : W512) : Nat := dField d 24 8
def coDst (d : W512) : Nat := dField d 32 8
def coGroup (d : W512) : Nat := dField d 40 8
def coChunk (d : W512) : Nat := dField d 48 4
def coOpts (d : W512) : Nat := dField d 52 1
def coAcc (d : W512) : Bool := bitOf (coOpts d) 0
def coOrder (d : W512) : Bool := bitOf (coOpts d) 1
def coRmode (d : W512) : Nat := bitsOf (coOpts d) 2 2
def coDfmt (d : W512) : Nat := b2n (bitOf (coOpts d) 4)
def coSeq (d : W512) : Nat := dField d 53 3
def coStage (d : W512) : Nat := dField d 56 8
def coScat (d : W512) : Bool := dOp d == 0x82
/-- Groups of a chunk. -/
def coGroups (d : W512) : Nat := coChunk d / 1024

/-- The ranges of R353, R356, R357 and R112; BF16 data lies in no vat (R71). -/
def coChk (s : State) (d : W512) : Chk Unit := do
  chk (1 ≤ coId d && s.dsp.colls.all (fun c => c.id != coId d) && s.dsp.colls.length < 8) 18 (coId d)
  chk ([0x00, 0x01, 0x04, 0x05, 0x08].contains (coWire d) &&
    (coScat d || curdFmt (coWire d) || coWire d == coDfmt d)) 19 (coWire d)
  chk (1 ≤ coNmem d && coNmem d ≤ 4096) 20 (coNmem d)
  chk (coRank d < coNmem d) 22 (coRank d)
  chk (1024 ≤ coChunk d && coChunk d % 1024 == 0 && coChunk d ≤ 2 ^ 28) 48 (coChunk d)
  chk (coOpts d < 32 && coRmode d ≠ 3 && (if coScat d then coDfmt d == 0 else !coAcc d && !coOrder d)) 52 (coOpts d)
  chk ((coScat d && coOrder d) || coStage d == 0) 56 (coStage d)
  chk (coDfmt d == 0 || !vatHit (coSrc d) (2 * coChunk d)) 24 (coSrc d)
  chk (coDfmt d == 0 || !vatHit (coDst d) (2 * coChunk d * coNmem d)) 32 (coDst d)

def coAgent (t : Nat) (e : QEntry) : Agent := dspAgent t 0 e

/-- Send the member of rank `r` a COLLARM (R344, R354). -/
def State.sendArm (s : State) (d : W512) (ctx dev : Nat) : State :=
  s.send { s.mkPacket 0x14 dev ctx 0 0 0 (unitDsp (s.dspEngine dev)) with
    fmt := coWire d, info := coId d + 256 * coDfmt d + 65536 * coRank d }

/-- A collective starts: the group table is read, arms go to every other member, and arms that came before are taken. -/
def coStart (t : Nat) (e : QEntry) : X StartX := do
  let s ← xState
  match coChk s e.d with
  | .error (o, v) => pure (.refuse o v)
  | .ok _ =>
    let (l, p) ← xBytes (coAgent t e) (coGroup e.d) (coNmem e.d + 1) (2 * coNmem e.d)
    match p with
    | some a => pure (.poison a)
    | none =>
      let ms := (List.range (coNmem e.d)).map (fun i => lField l (2 * i) 2)
      let me := (ms[coRank e.d]?).getD 0
      if me ≠ s.devId then pure (.refuse (0x100 + 2 * coRank e.d) me)
      else
        match ms.zipIdx.find? (fun p => 4096 ≤ p.1) with
        | some (v, i) => pure (.refuse (0x100 + 2 * i) v)
        | none =>
          xMod (fun s =>
            let early := (s.dsp.arms.filter (fun a => a.1 == coId e.d)).map (·.2)
            let c : Coll := ⟨coId e.d, t, e.seq, e.ctx, e.d, ms, (coRank e.d :: early).eraseDups, List.replicate ms.length 0, [], [], 0⟩
            let s := { s with dsp := { s.dsp with
              colls := s.dsp.colls ++ [c], arms := s.dsp.arms.filter (fun a => a.1 != coId e.d) } }
            ms.zipIdx.foldl (fun s p => if p.2 = coRank e.d then s else s.sendArm e.d e.ctx p.1) s)
          pure (.go { Run.start with seed := s.dsp.seed })

def doRedscat (t : Nat) (s : State) : State := s.startEdge t 0x82 0x300 (fun _ _ => true) (coStart t)
def doAllgather (t : Nat) (s : State) : State := s.startEdge t 0x83 0x300 (fun _ _ => true) (coStart t)

def State.coll (s : State) (id : Nat) : Option Coll := s.dsp.colls.find? (fun c => c.id == id)

def State.modColl (s : State) (id : Nat) (f : Coll → Coll) : State :=
  { s with dsp := { s.dsp with colls := s.dsp.colls.map (fun c => if c.id = id then f c else c) } }

/-! ### Sending (R354–R357) -/

/-- The next group to send: the first armed rank that has groups left. -/
def Coll.nextSend (c : Coll) : Option (Nat × Nat) :=
  ((List.range c.members.length).find? (fun r =>
    c.armed.contains r && (c.sent[r]?).getD 0 < coGroups c.d)).map (fun r => (r, (c.sent[r]?).getD 0))

/-- The first staged contribution whose turn has come: rank and group. -/
def Coll.nextStaged (c : Coll) : Option (Nat × Nat) := c.staged.find? (fun p => smGet 0 c.turn p.2 == p.1)

/-- Add a decoded contribution to a group (R356): the sum, and what it counts. Each value read back from the destination, an earlier sum
or under ACC the job's own, is an operand read (R121). -/
def addGroup (old new : List (W32 × Bool)) : List (W32 × Bool) × List (Nat × Nat) :=
  let rs := (old.zip new).map (fun p => (f32Add .rne p.1.1 p.2.1, p.1.2 || p.2.2))
  (rs.map (fun r => (r.1.1, r.2)),
   [(0, (rs.filter (fun r => r.1.2)).length), (1, (rs.filter (fun r => nonFin r.1.1)).length),
    (2, (old.filter (fun w => nonFin w.1)).length)])

/-- Read the staged contribution of rank `r` to group `q` and add it; its turn has come (R356). -/
def addStaged (g : Agent) (c : Coll) (r q : Nat) : X Unit := do
  let d := c.d
  let new ← xReadWords g (coStage d + 4 * coChunk d * r + 4096 * q) 1024
  let old ← if r = 0 && !coAcc d then pure (List.replicate 1024 (0#32, false)) else xReadWords g (coDst d + 4096 * q) 1024
  let (sum, cnt) := addGroup old new
  xWriteWords g (coDst d + 4096 * q) sum
  flushAs g 0x00
  xMod (fun s => (s.dspCount cnt).modColl c.id (fun c => { c with
    turn := smSet 0 c.turn q (r + 1), staged := c.staged.filter (· != (r, q)), applied := c.applied + 1 }))

/-- One staged contribution whose turn has come is added; true when none is left. -/
def stageUnit (t id : Nat) (e : QEntry) : X Bool := do
  match (← xState).coll id with
  | none => pure true
  | some c => match c.nextStaged with
    | none => pure true
    | some (r, q) => do
      addStaged (coAgent t e) c r q
      pure false

/-- Add a staged contribution whose turn has come, send one group, find that every group has gone (true), or wait for an arm. -/
def collUnit (t : Nat) (e : QEntry) : X Bool := do
  let e ← xEntry (coAgent t e)
  let s ← xState
  let d := e.d
  match s.coll (coId d) with
  | none => xFail .wait
  | some c =>
    match c.nextStaged with
    | some (r, q) => do
      addStaged (coAgent t e) c r q
      pure false
    | none =>
    match c.nextSend with
    | none => if c.sent.all (fun n => n == coGroups d) then pure true else xFail .wait
    | some (r, q) =>
      let dev := (c.members[r]?).getD 0
      let g := dspAgent t (s.dspEngine dev) e
      let scat := coScat d
      let f := if scat then 0x00 else coDfmt d
      let j := if scat then r else coRank d
      let base := if scat then coSrc d + 4 * r * coChunk d else coSrc d
      let ws ← xStreamVals g f base (1024 * q) 1024
      let rnd (i : Nat) : Rnd := rndOf (coRmode d) e.run.seed 0x913 ((coSeq d + j) % 2 ^ 24) ((1024 * q + i) % 2 ^ 24)
      let w := toWire (coWire d) rnd (f == coWire d) ws
      -- an all-gather narrows each group once (R357)
      let once := scat || c.sent.all (fun n => n ≤ q)
      flushRemote g
      xMod (fun s => if once then s.dspCount w.counts else s)
      if scat then xSendGroup g 0x10 dev (coDst d + 4096 * q) (coWire d) (coId d) 0 (coRank d) w.words
      else do
        let a := coDst d + (coRank d * coChunk d + 1024 * q) * sizeOf (coDfmt d)
        xSendGroup g 0x12 dev a (coWire d) (coId d) (coDfmt d) (coRank d) w.words
      xMod (fun s => s.modColl (coId d) (fun c => { c with sent := c.sent.set r (q + 1) }))
      pure false

/-- A bound on the groups that a collective sends and takes from its staging area. -/
def collUnits (d : W512) : Nat := 2 * coNmem d * coGroups d + 1

/-- Everything sent has been acknowledged, and every group addressed to this member has been applied (R358). -/
def State.collDone (s : State) (t seq : Nat) : Bool :=
  s.dsp.colls.all (fun c => !(c.tile == t && c.seq == seq) || c.applied == c.members.length * coGroups c.d)

/-- A collective completes. -/
def State.finishColl (s : State) (t seq : Nat) : State :=
  { s with dsp := { s.dsp with
    colls := s.dsp.colls.filter (fun c => !(c.tile == t && c.seq == seq))
    collDone := satAdd 32 s.dsp.collDone 1 } }

/-- COLLARM_TIMEOUT: 100 ms after the start some COLLARM has not arrived; the collective fails with TIMEOUT (R354). -/
def doCollarmTimeout (id : Nat) (s : State) : State :=
  match s.coll id with
  | none => s
  | some c =>
    match (List.range c.members.length).find? (fun r => !c.armed.contains r) with
    | none => s
    | some r =>
      let dev := (c.members[r]?).getD 0
      s.failRemote ⟨65536, dev, 0x14, c.tile, 6, c.seq, none, 0, 0, c.ctx, noPage, .away dev 0⟩ 0xFF

/-! ### Receiving (R344, R346, R356) -/

def pkId (k : Packet) : Nat := k.info % 256
def pkDfmt (k : Packet) : Nat := bitsOf k.info 8 8
def pkRank (k : Packet) : Nat := bitsOf k.info 16 16

/-- COLLARM: the member's collective runs; data may be sent to it. One for a saved context is discarded (R285). -/
def doCollarm (p i : Nat) (s : State) : State :=
  s.onPacket p i [0x14] (fun k s =>
    match s.ctxFate k.ctx with
    | .saved => s.discard p k
    | _ =>
      match s.coll (pkId k) with
      | some c => s.modColl c.id (fun c => { c with armed := (c.armed ++ [pkRank k]).eraseDups })
      | none => { s with dsp := { s.dsp with arms := s.dsp.arms ++ [(pkId k, pkRank k)] } })

/-- The answer to a group packet: COLLID, DFMT and FMT of the group, SRANK of this member (R344). -/
def State.ackGroup (s : State) (p : Nat) (k : Packet) (opc rank : Nat) : State :=
  s.answer p k opc (fun a => { a with fmt := k.fmt, info := pkId k + 256 * pkDfmt k + 65536 * rank })

/-- The header and length of a group packet (R344). -/
def groupOk (k : Packet) : Bool :=
  !k.bad && k.addr % 64 == 0 && [0x00, 0x01, 0x04, 0x05, 0x08].contains k.fmt && k.rind.isNone && k.value == 0 &&
  groupWords k.fmt ≤ k.words.length && k.words.length < groupWords k.fmt + 4 && pkDfmt k ≤ 1 && pkRank k < 4096

/-- The places of `n` consecutive lines from `a`, translated at a port for an access. -/
def State.placeLines (s : State) (p ctx a acc : Nat) : Nat → Except Nat (List Loc) × State
  | 0 => (.ok [], s)
  | n + 1 =>
    match s.portXlate p ctx a acc with
    | (.error r, s) => (.error r, s)
    | (.ok l, s) =>
      match s.placeLines p ctx (a + 64) acc n with
      | (.error r, s) => (.error r, s)
      | (.ok ls, s) => (.ok (l :: ls), s)

/-- Words at lines of places. -/
def State.readLines (s : State) (ctx : Nat) : List Loc → List (W32 × Bool) × State
  | [] => ([], s)
  | l :: r =>
    let (ws, s) := s.getWords l ctx 16
    let (rs, s) := s.readLines ctx r
    (ws ++ rs, s)

def State.writeLines (s : State) (w : Nat) : List Loc → List (W32 × Bool) → State
  | [], _ => s
  | l :: r, ws => (s.putWords w l (ws.take 16)).writeLines w r (ws.drop 16)

/-- A group as FP32 words with marks, and what decoding counts (R121, R346). -/
def decodeGroup (k : Packet) : List (W32 × Bool) × List (Nat × Nat) :=
  let es := (List.range 1024).map (fromWire k.fmt k.words)
  (es.map (fun e => (e.v, e.mark)), [(0, (es.filter (·.sat)).length), (2, (es.filter (·.nonfin)).length)])

/-- The contributions that wait in the staging area and whose turn has come are added, in ascending rank (R356); a fault on the way is
one of this device's descriptor (R359), which adds the rest once the fault is settled. -/
def State.drainStage (s : State) (c : Coll) : State :=
  match s.entry c.tile 6 c.seq with
  | none => s
  | some e =>
    let fr := ((s.tile c.tile).faults[6]?).getD FaultReg.none
    if fr.pend && fr.entry == c.seq then s
    else match runUnits c.tile (stageUnit c.tile c.id e) (c.staged.length + 1) s with
      | (.error x, s) => s.failEntry c.tile 6 e x
      | (.ok _, s) => s

/-- A decoded contribution is written to its place in the staging area, through the translation of the descriptor that it is for. -/
def stageGroup (g : Agent) (a : Nat) (new : List (W32 × Bool)) : X Unit := do
  xWriteWords g a new
  flushAs g 0x00

/-- RSGRP: the contribution is decoded and added, or staged when ORDER asks for an earlier rank first; RSACK follows. A staging
area that does not translate is a fault of this device's descriptor (R359), and the packet waits. -/
def doRsgrp (p i : Nat) (s0 : State) : State :=
  s0.onPacket p i [0x10] (fun k s =>
    if !groupOk k then s.nakBack p k 19
    else
      match s.ctxFate k.ctx with
      | .saved => s.discard p k
      | .none => s.nakBack p k 17
      | .runs =>
        match s.coll (pkId k) with
        | none => s.nakBack p k 22
        | some c =>
          if !coScat c.d then s.nakBack p k 22
          else
            match s.placeLines p k.ctx k.addr 1 64 with
            | (.error r, s) => s.nakBack p k r
            | (.ok dst, s) =>
              let q := (k.addr + 2 ^ 64 - coDst c.d) % 2 ^ 64 / 4096
              let r := pkRank k
              let (new, cnt0) := decodeGroup k
              let turn := smGet 0 c.turn q
              let plain := if k.fmt ≤ 1 then (new.filter (fun w => nonFin w.1)).length else 0
              let cnt0 := (2, plain) :: cnt0
              if coOrder c.d && turn != r then
                match s.entry c.tile 6 c.seq with
                | none => s0
                | some e =>
                  match runUnit c.tile (stageGroup (coAgent c.tile e) (coStage c.d + 4 * coChunk c.d * r + 4096 * q) new) s with
                  | (.error x, _) => s0.failEntry c.tile 6 e x
                  | (.ok _, s) =>
                    let s := (s.dspCount cnt0).modColl c.id (fun c => { c with staged := c.staged ++ [(r, q)] })
                    let s := { s with dsp := { s.dsp with stagedGroups := s.dsp.stagedGroups + 1 } }
                    s.ackGroup p k 0x11 (coRank c.d)
              else
                let (old, s) := s.readLines k.ctx dst
                let old := if turn = 0 && !coAcc c.d then List.replicate 1024 (0#32, false) else old
                let (sum, cnt) := addGroup old new
                let s := ((s.countPartial dst 64).writeLines (uPort p) dst sum).dspCount (cnt0 ++ cnt)
                let s := s.modColl c.id (fun c => { c with turn := smSet 0 c.turn q (turn + 1), applied := c.applied + 1 })
                let s := if coOrder c.d then s.drainStage c else s
                s.ackGroup p k 0x11 (coRank c.d))

/-- GRPWR: the group is decoded, rounded to DFMT and written; GRPACK follows. COLLID 0 belongs to a dispatch. -/
def doGrpwr (p i : Nat) (s : State) : State :=
  s.onPacket p i [0x12] (fun k s =>
    if !groupOk k then s.nakBack p k 19
    else
      let c := s.coll (pkId k)
      match s.ctxFate k.ctx with
      | .saved => s.discard p k
      | .none => s.nakBack p k 17
      | .runs =>
        if pkId k ≠ 0 && (match c with | some c => coScat c.d | none => true) then s.nakBack p k 22
        else
          let half := pkDfmt k == 1
          match s.placeLines p k.ctx k.addr 1 (if half then 32 else 64) with
          | (.error r, s) => s.nakBack p k r
          | (.ok dst, s) =>
            let (es, cnt0) := decodeGroup k
            let new := es.map (fun w => (if nonFin w.1 then nan32 else w.1, w.2))
            let hs := new.map (fun w => (cvt16 .rne w.1, w.2))
            let bytes := (hs.map (fun h => (leBytes 2 h.1.1.toNat).map (fun b => (b, h.2)))).flatten
            let same := (k.fmt == 0x00 && !half) || (k.fmt == 0x01 && half)
            let words := if same then k.words.take (groupWords k.fmt) else if half then packWords 600 bytes else new
            let nans := if same then 0 else (new.filter (fun w => nonFin w.1)).length
            let sats := if half && !same then (hs.filter (fun h => h.1.2)).length else 0
            let s := ((s.countPartial dst 64).writeLines (uPort p) dst words).dspCount ([(0, sats), (1, nans)] ++ cnt0)
            let s := if pkId k = 0 then s else s.modColl (pkId k) (fun c => { c with applied := c.applied + 1 })
            s.ackGroup p k 0x13 ((c.map (fun c => coRank c.d)).getD 0))

/-- RSACK, GRPACK: one group sent has been applied or staged, or is visible. -/
def doRsack (p i : Nat) (s : State) : State :=
  s.onPacket p i [0x11] (fun k s => match s.asked k [0x10] with | some r => s.settle r | none => s)

def doGrpack (p i : Nat) (s : State) : State :=
  s.onPacket p i [0x13] (fun k s => match s.asked k [0x12] with | some r => s.settle r | none => s)

def execRedscat (t : Nat) (s : State) : Out := .next (doRedscat t s)
def execAllgather (t : Nat) (s : State) : Out := .next (doAllgather t s)
def execCollarmTimeout (id : Nat) (s : State) : Out := .next (doCollarmTimeout id s)
def execCollarm (p i : Nat) (s : State) : Out := .next (doCollarm p i s)
def execRsgrp (p i : Nat) (s : State) : Out := .next (doRsgrp p i s)
def execGrpwr (p i : Nat) (s : State) : Out := .next (doGrpwr p i s)
def execRsack (p i : Nat) (s : State) : Out := .next (doRsack p i s)
def execGrpack (p i : Nat) (s : State) : Out := .next (doGrpack p i s)

end Sys2Proof.Machine
end

