-- ==== Sys2Proof/Machine/Clutch.lean ====
section
/-! DEFINITION. The clutch functions of a device (R360–R368, R374): messages, stopping grids, and READY, ABANDON and CKPTTAB. Bodies of
clutch messages have no layout in the manual: a row's operands hold what the message says (DESIGN CHOICE, log 61). -/

namespace Sys2Proof.Machine

def State.modClu (s : State) (f : Clu → Clu) : State := { s with clu := f s.clu }

/-! ### Lists by device id -/

def getDev {α : Type} (l : List (Nat × α)) (d : Nat) : Option α := (l.find? (fun p => p.1 == d)).map (·.2)

def putDev {α : Type} (l : List (Nat × α)) (d : Nat) (x : α) : List (Nat × α) := (d, x) :: l.filter (fun p => p.1 != d)

def insertNat (n : Nat) : List Nat → List Nat
  | [] => [n]
  | x :: r => if n ≤ x then n :: x :: r else x :: insertNat n r

/-- Into a list of device ids in rising order, once. -/
def addDev (l : List Nat) (d : Nat) : List Nat := if l.contains d then l else insertNat d l

/-! ### Messages (R366) -/

/-- Send a clutch message: EPOCH, COUNT, FLAGS and body words. After a fatal error nothing is sent (R422). -/
def State.cluSend (s : State) (opc dst : Nat) (e : W64) (count flags : Nat) (body : List Nat) : State :=
  if s.holds.fatal then s
  else s.send { s.mkPacket opc dst 0 0 e.toNat count unitClu with
    info := flags, words := body.map (fun n => (BitVec.ofNat 32 n, false)) }

def State.cluAll (s : State) (l : List Nat) (opc : Nat) (e : W64) (count flags : Nat) (body : List Nat) : State :=
  l.foldl (fun s d => s.cluSend opc d e count flags body) s

/-- Take the received management packet that a row stands for, when one waits. -/
def State.takeClu (s : State) (opc : Nat) : State :=
  let ofPort (p : Nat) : Option Nat := (s.rcvdAt p).findIdx? (fun k => k.opc == opc && s.hopOf k.dst == .loc)
  match (meshPort :: List.range 18).find? (fun p => (ofPort p).isSome) with
  | none => s
  | some p =>
    match ofPort p with
    | none => s
    | some i =>
      match (s.rcvdAt p)[i]? with
      | some k => s.dropRcvd p i k
      | none => s

/-- A number as two body words. -/
def longWords (n : Nat) : List Nat := [n % 2 ^ 32, n / 2 ^ 32]

def entWords (e : CkEnt) : List Nat := longWords e.bufA ++ longWords e.bufB ++ longWords e.bytes ++ [e.tid, e.flags]

def tabWords (t : CkTab) : List Nat :=
  t.ents.length :: longWords t.loc ++ longWords t.par ++ [t.parBytes] ++ (t.ents.map entWords).flatten

def catWords (e : CatEnt) : List Nat :=
  let snap := match e.snap with
    | some c => [1, c.slot] ++ longWords c.epoch.toNat ++ c.digest.map (·.toNat)
    | none => [0]
  [e.tid, b2n e.parity] ++ e.digest.map (·.toNat) ++ snap

def recWords (k : CkRec) : List Nat :=
  longWords k.epoch.toNat ++ [k.seq, k.shards, k.groups.length] ++ (k.groups.map (fun g => g.length :: g)).flatten ++
  [k.partners.length] ++ (k.partners.map (fun p => [p.1, p.2])).flatten ++ [k.devs.length] ++
  (k.devs.map (fun d => [d.1, d.2.length] ++ (d.2.map catWords).flatten)).flatten

/-- The device holds job state (R360). -/
def Clu.holdsJob (c : Clu) : Bool := c.role == 1 || c.role == 2 || (c.role == 0 && !c.mgrOnly)

def Clu.manager (c : Clu) : Bool := c.role == 0

/-- What tells the module from the one whose id it has taken (R382), behind a message's body. -/
def Clu.who (c : Clu) : List Nat := match c.origin with | some d => [d] | none => []

/-- HEART to the manager (R371): its drive, the tables where the manager does not yet have a copy (R374), the id before a substitution, and
whether it is the first since start-up. -/
def State.sendHeart (s : State) : State :=
  let c := s.clu
  let drive := if c.drive then [1, c.nsBlocks] else [0]
  let opt (t : Option CkTab) : List Nat := match t with | some t => 1 :: tabWords t | none => [0]
  let tab := if c.tabOwed then opt c.table ++ opt c.nextTable else [0, 0]
  let who := b2n c.hbFirst :: match c.origin with | some d => [1, d] | none => [0]
  let s := s.cluSend 0x35 c.mgrId s.epoch (b2n c.holdsJob) 0 (who ++ drive ++ tab)
  s.modClu (fun c => { c with tabOwed := false, hbFirst := false })

/-- Record a child's count, once per child. -/
def putCount (l : List (Nat × Nat)) (src n : Nat) : List (Nat × Nat) := (src, n) :: l.filter (fun p => p.1 != src)

/-- The sum of the counts of the children (R367). -/
def Clu.childSum (c : Clu) (l : List (Nat × Nat)) : Nat := ((l.filter (fun p => c.tree.children.contains p.1)).map (·.2)).sum

/-- Every child has sent its count. -/
def Clu.childrenIn (c : Clu) (l : List (Nat × Nat)) : Bool := c.tree.children.all (fun d => l.any (fun p => p.1 == d))

/-- Clutch event frames go to the ring of the running context, or to DEVRING (R386). -/
def State.cluFrame (s : State) (typ : Nat) (body : List Byte) : State := s.post s.xl.runCtx typ body

def State.rollFrame (s : State) (r : Roll) (st : Nat) : State :=
  s.cluFrame 0x11 (leBytes 8 r.epoch.toNat ++ leBytes 8 r.restore.toNat ++ leBytes 1 r.cause ++ leBytes 1 st ++ leBytes 2 r.failed)

/-- CLUSTOP (R386). -/
def State.cluStop (s : State) (cause dev : Nat) : State :=
  s.cluFrame 0x14 (leBytes 1 cause ++ leBytes 1 0 ++ leBytes 2 dev)

/-- A device that is a clutch member reports a failure to the manager (R366, R422). -/
def State.failRpt (s : State) : State :=
  if s.lnk.idV && s.clu.role != 3 then s.cluSend 0x3B s.clu.mgrId (s.epoch + 1) 0 0 (s.clu.gen :: s.clu.who) else s

/-! ### READYs and ABANDONs in the clutch functions (R363–R365) -/

/-- A descriptor leaves queue 6 for the clutch functions: it holds nothing there but its strand's slot (R42, R363). -/
def State.intoClutch (s : State) (t : Nat) (e : QEntry) : State :=
  (s.modTile t (fun v => v.setQueue 6 ((v.queue 6).filter (fun x => !(x.seq == e.seq))))).drainEdge t 33

/-- The slots of the strands that issued descriptors which have left the clutch functions. -/
def State.reapAll (s : State) (l : List (Nat × QEntry)) : State :=
  l.foldl (fun s p => match p.2.org with | .strand k => s.reap p.1 k | _ => s) s

/-- The READYs complete, each with its DONE_INC; ABANDONs are dropped without signalling (R364). -/
def State.releaseHeld (s : State) : State :=
  let c := s.clu
  let s := c.readies.foldl (fun s p => s.signalDone p.1 6 p.2) s
  (s.modClu (fun c => { c with readies := [], abandons := [] })).reapAll (c.readies ++ c.abandons)

/-- READYs and ABANDONs that `p` names are dropped without signalling (R365). -/
def State.dropHeld (s : State) (p : QEntry → Bool) : State :=
  let c := s.clu
  let keep (l : List (Nat × QEntry)) : List (Nat × QEntry) := l.filter (fun x => !p x.2)
  (s.modClu (fun c => { c with readies := keep c.readies, abandons := keep c.abandons })).reapAll
    ((c.readies ++ c.abandons).filter (fun x => p x.2))

/-! ### Stopping grids (R365, R422) -/

/-- A strand of the grid still runs or waits in tile `t`. -/
def Tile.strandsOf (v : Tile) (num : Nat) : Bool :=
  v.scu.strands.any (fun p => p.2.grid == num && p.2.st != .free && p.2.st != .done)

/-- A descriptor of the grid is still in a queue of the tile. -/
def Tile.workOf (v : Tile) (num : Nat) : Bool :=
  v.queues.any (fun q => q.any (fun e => e.grid == num && e.org != .mp))

/-- A pending fault of a saved descriptor. -/
def SavedTile.faulted (k : SavedTile) (q : Nat) (e : QEntry) : Bool :=
  let fr := (k.faults[q]?).getD FaultReg.none
  fr.pend && fr.entry == e.seq

/-- A saved tile whose grids `l` are stopped: their strands end, and of their descriptors only those whose fault is pending stay (R66,
R277). -/
def SavedTile.endGrids (k : SavedTile) (l : List Nat) : SavedTile :=
  let stop (x : Strand) : Strand :=
    if l.contains x.grid && x.st != .free && x.st != .done then { x with st := .done, stopped := true, stall := .none } else x
  { k with
    scu := { k.scu with strands := k.scu.strands.map (fun p => (p.1, stop p.2)) }
    queues := k.queues.zipIdx.map (fun p => p.1.filter (fun e => !(l.contains e.grid && e.org != .mp) || k.faulted p.2 e)) }

/-- A grid has strands or descriptors in the saved state of its context. -/
def State.savedBusy (s : State) (g : Grid) : Bool :=
  match smGet none s.xl.saved g.ctx with
  | none => false
  | some c => c.tiles.any (fun p =>
      let k := p.2.endGrids c.ended
      k.scu.strands.any (fun q => q.2.grid == g.num && q.2.st != .free && q.2.st != .done) ||
      k.queues.any (fun q => q.any (fun e => e.grid == g.num && e.org != .mp)))

/-- All strands of a grid have ended and all their descriptors with them, those in the clutch functions (R363) and those that a save holds
too. -/
def State.gridDone (s : State) (g : Grid) : Bool :=
  (gTiles g.record).all (fun t => !(s.tile t).strandsOf g.num && !(s.tile t).workOf g.num) &&
  (s.clu.readies ++ s.clu.abandons).all (fun p => p.2.grid != g.num) && !s.savedBusy g

/-- Every grid that is being stopped has ended. -/
def State.stopOver (s : State) : Bool := (s.grids.filter (·.stopping)).all s.gridDone

/-- Grids `l` of context `ctx` are stopped while the context's tiles are being saved: their saved state is stopped with them. -/
def State.endSaved (s : State) (ctx : Nat) (l : List Nat) : State :=
  match smGet none s.xl.saved ctx with
  | none => s
  | some c => { s with xl := { s.xl with saved := smSet none s.xl.saved ctx (some { c with ended := c.ended ++ l }) } }

/-- Every grid of a context is being stopped; its strands end, saved ones too, and its READYs and ABANDONs are dropped. -/
def State.stopGrids (s : State) (ctx : Nat) : State :=
  let hit (n : Nat) : Bool := s.grids.any (fun g => g.ctx == ctx && g.num == n)
  let mark (g : Grid) : Grid := if g.ctx = ctx then { g with stopping := true } else g
  let s : State := { s with grids := s.grids.map mark }
  let s := s.dropHeld (fun e => e.ctx == ctx)
  let s := s.endSaved ctx ((s.grids.filter (fun g => g.ctx == ctx)).map (·.num))
  s.tiles.foldl (fun (s : State) (p : Nat × Tile) =>
    p.2.scu.strands.foldl (fun (s : State) (q : Nat × Strand) => if hit q.2.grid then s.endStrand p.1 q.1 else s) s) s

/-! ### Commit on this device (R363, R364, R367) -/

/-- As many READYs as the job needs have come. -/
def Clu.full (c : Clu) : Bool := match c.need with | some n => decide (n ≤ c.readies.length) | none => false

/-- The device's own share of readiness (R363). -/
def State.selfReady (s : State) : Bool :=
  let c := s.clu
  c.holdsJob && !c.abandoned && c.drain.isNone && c.full

/-- The commit takes effect here: CLU_EPOCH, the tiles and edge units, the READYs, a checkpoint drain, which overwrites the older of the
two saved checkpoints (R364, R379). A standby counts W and F of R381 along with its manager. -/
def State.applyCommit (s : State) (e : W64) (flags : Byte) : State :=
  let s : State := { s with epoch := e, pwr := { s.pwr with epochMs := 0, tick := 0 } }
  let s := (List.range 1024).foldl (fun s t => s.modTile t (fun v => { v with commits := v.commits ++ [e] })) s
  let s := s.releaseHeld
  s.modClu (fun c => { c with
    commits := satAdd 32 c.commits 1, planGen := flags.toNat / 16, need := none
    firstCommit := if c.firstCommit.isSome then c.firstCommit else some s.time
    failed := if c.role = 1 then [] else c.failed
    abandoned := false, sent := false, heldFrom := none, creadys := [], ccacks := [], ackDue := true
    table := if c.nextTable.isSome then c.nextTable else c.table, nextTable := none
    drain := if flags.getLsbD 0 && c.holdsJob then some e else c.drain
    cand := if flags.getLsbD 0 then none else c.cand
    saved := if flags.getLsbD 0 then c.saved.take 1 else c.saved
    own := if flags.getLsbD 0 then c.own.take 1 else c.own })

/-- Send CCACK once this device and every child have committed (R367). -/
def State.maybeAck (s : State) : State :=
  let c := s.clu
  if c.ackDue && c.childrenIn c.ccacks then
    let s := s.modClu (fun c => { c with ackDue := false })
    match c.tree.parent with
    | some d => s.cluSend 0x32 d s.epoch (b2n c.holdsJob + c.childSum c.ccacks) 0 (c.gen :: c.who)
    | none => s
  else s

/-- The CCOMMIT is forwarded to the children (R367). -/
def State.commitOn (s : State) (e : W64) (flags : Byte) : State := s.cluAll s.clu.tree.children 0x31 e 0 flags.toNat []

/-- Commit here and below. -/
def State.commitDown (s : State) (e : W64) (flags : Byte) : State := ((s.commitOn e flags).applyCommit e flags).maybeAck

/-! ### Descriptors (R362, R363, R374) -/

def cluEpoch (d : W512) : Nat := dField d 24 8

def cluAgent (t : Nat) (e : QEntry) : Agent := edgeAgent t unitClu e

def readyChk (s : State) (d : W512) : Chk Unit := do
  chkZero d 18 6
  chk (cluEpoch d == (s.epoch + 1).toNat) 24 (cluEpoch d)
  chk (1 ≤ dField d 32 2 && dField d 32 2 ≤ 1024 &&
    (match s.clu.need with | some n => n == dField d 32 2 | none => true)) 32 (dField d 32 2)
  chkZero d 34 30

def abandonChk (s : State) (d : W512) : Chk Unit := do
  chkZero d 18 6
  chk (cluEpoch d == (s.epoch + 1).toNat) 24 (cluEpoch d)
  chkZero d 33 31

/-- The next descriptor of queue 6 goes into the clutch functions when it has the given ENG_OP and its checks pass. -/
def State.takeHeld (s : State) (t op : Nat) (check : W512 → Chk Unit) (keep : QEntry → State → State) : State :=
  match s.startable t 6 with
  | none => s
  | some e =>
    if dOp e.d = op ∧ dField e.d 16 2 = 0x400 then
      s.withHead t 6 e (fun e s =>
        match check e.d with
        | .error (o, v) => s.refuse t 6 e o v
        | .ok _ => (keep e s).intoClutch t e)
    else s

/-- ABANDON: the ready is withheld, and the failure is reported. -/
def doAbandon (t : Nat) (s : State) : State :=
  s.takeHeld t 0x91 (abandonChk s) (fun e s =>
    (s.modClu (fun c => { c with abandoned := true, abandons := c.abandons ++ [(t, e)] })).cluSend 0x3B s.clu.mgrId (s.epoch + 1) 0 1
      (s.clu.gen :: s.clu.who))

def ckEnt (l : List Byte) (i : Nat) : CkEnt :=
  ⟨lField l (32 * i) 8, lField l (32 * i + 8) 8, lField l (32 * i + 16) 8, lField l (32 * i + 24) 4, lField l (32 * i + 28) 1⟩

/-- The checks of a table entry (R374): 4 KiB multiples in usable DRAM, a tensor id of its own, reserved bits 0. -/
def ckEntChk (l : List Byte) (i : Nat) : Chk Unit := do
  let e := ckEnt l i
  let o := 0x100 + 32 * i
  chk (e.bytes % 4096 == 0) (o + 16) e.bytes
  chk (e.bufA % 4096 == 0 && e.bufA + e.bytes ≤ dramTop) o e.bufA
  chk (e.bufB % 4096 == 0 && e.bufB + e.bytes ≤ dramTop) (o + 8) e.bufB
  chk ((List.range i).all (fun j => (ckEnt l j).tid != e.tid)) (o + 24) e.tid
  chk (e.flags < 4) (o + 28) e.flags
  chk (lField l (32 * i + 29) 3 == 0) (o + 29) (lField l (32 * i + 29) 3)

def ckAll (l : List Byte) : Nat → Chk Unit
  | 0 => .ok ()
  | n + 1 => do
    ckAll l n
    ckEntChk l n

def tabTotal (t : CkTab) : Nat := (t.ents.map (·.bytes)).sum

/-- The regions beside the table: two local slots and the parity space, in usable DRAM. -/
def ckTabChk (t : CkTab) : Chk Unit := do
  chk (t.loc + 2 * tabTotal t ≤ dramTop) 40 t.loc
  chk (t.par + t.parBytes ≤ dramTop) 48 t.par

/-- The manager has the copy of a new table: its own at once, another's by a HEART (R374). -/
def State.sendTable (s : State) : State :=
  let s := s.modClu (fun c => { c with tabOwed := true })
  if s.clu.manager then s.modClu (fun c => { c with
    tabOwed := false, nextTabs := match c.nextTable with | some t => putDev c.nextTabs s.devId t | none => c.nextTabs })
  else if s.lnk.idV then s.sendHeart
  else s

/-- CKPTTAB: the table is registered; it takes effect at the next commit, and its copy goes to the manager, in a HEART (DESIGN CHOICE, log
61: R366 has no other message for it). -/
def doCkpttab (t : Nat) (s : State) : State :=
  s.startEdge t 0x92 0x400 (fun _ _ => true) (fun e => do
    let d := e.d
    let n := dField d 32 4
    match (do chkZero d 18 6; chk (1 ≤ n && n ≤ 4096) 32 n; chkZero d 36 4 : Chk Unit) with
    | .error (o, v) => pure (.refuse o v)
    | .ok _ =>
      let (l, p) ← xBytes (cluAgent t e) (dField d 24 8) (8 * n + 1) (32 * n)
      match p with
      | some a => pure (.poison a)
      | none =>
        let tab : CkTab := ⟨(List.range n).map (ckEnt l), dField d 40 8, dField d 48 8, dPatch d⟩
        match (do ckAll l n; ckTabChk tab : Chk Unit) with
        | .error (o, v) => pure (.refuse o v)
        | .ok _ =>
          xMod (fun s => (s.modClu (fun c => { c with nextTable := some tab })).sendTable)
          pure (.go Run.start))

def execAbandon (t : Nat) (s : State) : Out := .next (doAbandon t s)
def execCkpttab (t : Nat) (s : State) : Out := .next (doCkpttab t s)

end Sys2Proof.Machine
end

