-- ==== Sys2Proof/Machine/Plan.lean ====
section
/-! DEFINITION. What a manager plans (R367, R376, R377, R380): the combining tree, parity groups, snapshot partners, methods, and TREECFG.
Choices that the manual leaves to the manager are DESIGN CHOICES of log 61. -/

namespace Sys2Proof.Machine

/-! ### The combining tree (R367): fan-out 16, filled level by level -/

def treeFan : Nat := 16

/-- The children of place `i` of the devices below the manager; the manager's own stand at places 0 to 15. -/
def treeKids (l : List Nat) (i : Nat) : List Nat := (l.drop (treeFan * (i + 1))).take treeFan

/-- The parent of place `i`. -/
def treeParent (mgr : Nat) (l : List Nat) (i : Nat) : Nat := if i < treeFan then mgr else (l[i / treeFan - 1]?).getD mgr

/-! ### Parity groups (R376) -/

/-- How many groups: none below four devices, at least two, of about eight devices each. -/
def groupCount (n : Nat) : Nat := if n < 4 then 0 else max 2 (n / 8)

/-- A list cut into `k` runs whose sizes differ by at most 1. -/
def splitRuns : Nat → List Nat → List (List Nat)
  | 0, _ => []
  | k + 1, l =>
    let m := (l.length + k) / (k + 1)
    l.take m :: splitRuns k (l.drop m)

def groupsOf (l : List Nat) : List (List Nat) := splitRuns (groupCount l.length) l

def groupIndex (gs : List (List Nat)) (d : Nat) : Option Nat := gs.findIdx? (fun g => g.contains d)

/-- The group that holds the pieces of group `n` (R376). -/
def nextGroup (gs : List (List Nat)) (n : Nat) : List Nat := (gs[(n + 1) % gs.length]?).getD []

/-- Bytes of one piece (R376): ceil(L / G), rounded up to 4 KiB. -/
def pieceBytes (len g : Nat) : Nat := ((len + g - 1) / g + 4095) / 4096 * 4096

/-- Multiplication by g = 2 in GF(2^8) with polynomial 0x11D. -/
def gfDouble (b : Byte) : Byte := (b <<< 1) ^^^ (if b.getLsbD 7 then 0x1D#8 else 0#8)

/-- g^n · b. -/
def gfScale : Nat → Byte → Byte
  | 0, b => b
  | n + 1, b => gfScale n (gfDouble b)

/-- The share of member `i` in shard 0 (P) or 1 (Q): a shard is the XOR of the shares. -/
def parityShare (shard i : Nat) (b : Byte) : Byte := if shard = 0 then b else gfScale i b

/-- A shard of a group from its members' strings, bytewise; a shorter string counts as padded with zeros. -/
def parityShard (shard len : Nat) (strings : List (List Byte)) : List Byte :=
  (List.range len).map (fun x => strings.zipIdx.foldl (fun a p => a ^^^ parityShare shard p.2 ((p.1[x]?).getD 0#8)) 0#8)

/-! ### Methods (R380) -/

/-- FORCESNAP or FORCEPAR decides; else a small entry, or one that changed in at most 4 of the last 16 checkpoints, takes snapshot. -/
def takesSnap (hist : List Bool) (e : CkEnt) : Bool :=
  if bitOf e.flags 0 then true
  else if bitOf e.flags 1 then false
  else decide (e.bytes ≤ 0x100000) || (hist.length == 16 && decide ((hist.filter id).length ≤ 4))

def Clu.histOf (c : Clu) (d tid : Nat) : List Bool := ((c.hist.find? (fun p => p.1 == (d, tid))).map (·.2)).getD []

/-- The tensor ids of a device's table that take snapshot. -/
def Clu.methodsOf (c : Clu) (d : Nat) (t : CkTab) : List Nat := (t.ents.filter (fun e => takesSnap (c.histOf d e.tid) e)).map (·.tid)

/-- Every entry is assigned a method again. -/
def Clu.assign (c : Clu) : Clu := { c with plans := c.tabs.map (fun p => (p.1, c.methodsOf p.1 p.2)) }

/-! ### Snapshot partners (R377) -/

/-- One augmenting path: device `d` gets a partner of `ps`, moving others to another partner where that helps; `seen` are the
partners tried. -/
def augment (ok : Nat → Nat → Bool) (ps : List Nat) : Nat → Nat → List Nat → List (Nat × Nat) →
    Option (List (Nat × Nat)) × List Nat
  | 0, _, seen, _ => (none, seen)
  | n + 1, d, seen, m =>
    ps.foldl (fun (r : Option (List (Nat × Nat)) × List Nat) p =>
      if r.1.isSome || r.2.contains p || !ok d p then r
      else
        match m.find? (fun x => x.2 == p) with
        | none => (some ((d, p) :: m), p :: r.2)
        | some x =>
          let q := augment ok ps n x.1 (p :: r.2) m
          (q.1.map (fun m => (d, p) :: m.filter (fun y => !(y.1 == x.1 && y.2 == p))), q.2)) (none, seen)

/-- Partners for all devices that can have one; those that have one keep it where possible. -/
def matchPartners (ok : Nat → Nat → Bool) (ds : List Nat) (old : List (Nat × Nat)) : List (Nat × Nat) :=
  let kept := old.filter (fun p => ds.contains p.1 && ds.contains p.2 && ok p.1 p.2)
  ds.foldl (fun m d =>
    if m.any (fun p => p.1 == d) then m
    else ((augment ok ds (ds.length + 1) d [] m).1).getD m) kept

/-- The drive of `p` can hold both slots of device `d`, works, and sits on another board. -/
def Clu.canHold (c : Clu) (d p : Nat) : Bool :=
  Config.boardOf d != Config.boardOf p &&
  (match getDev c.drives p with
   | some n => decide (2 * (match getDev c.tabs d with | some t => tabTotal t | none => 0) ≤ 4096 * n)
   | none => false)

/-! ### The plan of a device (R366 TREECFG) -/

/-- The other devices that are alive. -/
def Clu.live (c : Clu) : List Nat := c.known.filter (fun d => !c.failed.contains d)

/-- The devices that hold job state, in rising order of their ids, the manager among them where it does. -/
def Clu.members (c : Clu) (self : Nat) : List Nat := if c.holdsJob then addDev c.known self else c.known

/-- An entry of device `d` is saved by parity: its group exists, and it takes no snapshot, or can take none (R377). -/
def Clu.byParity (c : Clu) (d tid : Nat) : Bool :=
  (groupIndex c.groups d).isSome && (!((getDev c.plans d).getD []).contains tid || (getDev c.partners d).isNone)

/-- The parity total of a device. -/
def Clu.parityTotal (c : Clu) (d : Nat) : Nat :=
  match getDev c.tabs d with
  | some t => ((t.ents.filter (fun e => c.byParity d e.tid)).map (·.bytes)).sum
  | none => 0

/-- The length L of a group's strings (R376). -/
def Clu.groupLen (c : Clu) (g : List Nat) : Nat := (g.map c.parityTotal).foldl max 0

/-- Parity shards per group. -/
def planShards : Nat := 1

/-- The bytes of pieces that member `d` of a group holds for the previous one, in one slot. -/
def Clu.heldBytes (c : Clu) (d : Nat) : Nat :=
  match groupIndex c.groups d with
  | none => 0
  | some n =>
    let g := (c.groups[n]?).getD []
    let prev := (c.groups[(n + c.groups.length - 1) % c.groups.length]?).getD []
    let mine := (List.range prev.length).filter (fun j => (g[j % g.length]?) == some d)
    mine.length * planShards * pieceBytes (c.groupLen prev) prev.length

/-- The plan of device `d`; a spare that has just taken the id also gets the table and the catalogue. -/
def Clu.cfgOf (c : Clu) (self d : Nat) : TreeCfg :=
  let l := c.live
  let place := l.findIdx? (· == d)
  let n := groupIndex c.groups d
  let g := match n with | some n => (c.groups[n]?).getD [] | none => []
  let fresh := match c.rolling with | some r => r.subs.any (fun p => p.1 == d) | none => false
  { parent := if d = self then none else some (match place with | some i => treeParent self l i | none => self)
    children := if d = self then l.take treeFan else match place with | some i => treeKids l i | none => []
    group := g, index := (g.findIdx? (· == d)).getD 0
    nextGroup := match n with | some n => nextGroup c.groups n | none => []
    shards := planShards, len := c.groupLen g, held := c.heldBytes d
    partner := getDev c.partners d
    snapFor := (c.partners.find? (fun p => p.2 == d)).map (·.1)
    snap := match getDev c.tabs d with | some t => (t.ents.map (·.tid)).filter (fun i => !c.byParity d i) | none => []
    table := if fresh then getDev c.tabs d else none
    cat := if fresh then c.ckpts.map (fun k => { k with devs := k.devs.filter (fun p => p.1 == d) }) else []
    seq := c.ckSeq, gen := c.gen }

def cfgWords (t : TreeCfg) : List Nat :=
  (match t.parent with | some p => [1, p] | none => [0]) ++ [t.children.length] ++ t.children ++ [t.group.length] ++ t.group ++
  [t.index, t.nextGroup.length] ++ t.nextGroup ++ [t.shards] ++ longWords t.len ++ longWords t.held ++
  (match t.partner with | some p => [1, p] | none => [0]) ++ (match t.snapFor with | some p => [1, p] | none => [0]) ++ [t.snap.length] ++ t.snap ++
  (match t.table with | some x => 1 :: tabWords x | none => [0]) ++ [t.cat.length] ++ (t.cat.map recWords).flatten ++ [t.seq, t.gen]

/-- A device takes a plan; counts from children of another tree are void, its ready goes up again, and its last commit is acknowledged again
(R367, R372). A spare that has taken an id learns of the newest complete checkpoint (R379). -/
def Clu.plant (c : Clu) (t : TreeCfg) : Clu :=
  let same := c.gen = t.gen ∧ c.tree.parent = t.parent ∧ c.tree.children = t.children
  { c with
    tree := t, gen := t.gen
    ackDue := c.ackDue || (!decide same && c.commits != 0#32)
    creadys := if same then c.creadys else [], ccacks := if same then c.ccacks else [], sent := if same then c.sent else false
    table := if t.table.isSome then t.table else c.table
    saved := if t.table.isSome then t.cat else c.saved
    ckpt := match t.table, t.cat with | some _, k :: _ => k.epoch | _, _ => c.ckpt
    ckv := c.ckv || (t.table.isSome && !t.cat.isEmpty)
    slot := match t.table, t.cat with | some _, k :: _ => k.seq % 2 | _, _ => c.slot
    ckSeq := if t.table.isSome then t.seq else c.ckSeq }

/-- CLUSTOP for devices that `now` adds to `old`: 4 parity space, 5 snapshot space (R376, R377). -/
def State.stopsFor (s : State) (cause : Nat) (now old : List Nat) : State :=
  (now.filter (fun d => !old.contains d)).foldl (fun s d => s.cluStop cause d) s

/-- The tree is drawn anew where its devices have changed: a new generation, so that no count of the old tree is taken for a device that has
gone, and a plan for every device (R372). -/
def Clu.newTree (c : Clu) : Clu :=
  if c.live = c.treeLive then c else { c with treeLive := c.live, gen := c.gen + 1, cfgs := [], creadys := [], ccacks := [] }

/-- The groups and partners are drawn again: partners among the drives that work, groups over all devices that hold job state. -/
def Clu.draw (c : Clu) (self : Nat) : Clu :=
  let ms := c.members self
  let c := { c with groups := groupsOf ms, partners := matchPartners c.canHold ms c.partners }
  let tabled := ms.filter (fun d => (getDev c.tabs d).isSome)
  { c with
    parShort := tabled.filter (fun d => match getDev c.tabs d with | some t => decide (t.parBytes < 2 * c.heldBytes d) | none => false)
    snapShort := tabled.filter (fun d => (getDev c.partners d).isNone) }

/-- Send a device its plan where it changed since the last. -/
def State.sendPlan (s : State) (d : Nat) : State :=
  let t := s.clu.cfgOf s.devId d
  let base := { t with table := none, cat := [], seq := 0, gen := 0 }
  if getDev s.clu.cfgs d = some base then s
  else (s.cluSend 0x3C d s.epoch 0 0 (cfgWords t)).modClu (fun c => { c with cfgs := putDev c.cfgs d base })

/-- The manager's plan is drawn and sent again (R376, R377, R380, R382). A commit that binds goes out through the new tree, and every device
acknowledges it there (R372). -/
def State.replan (s : State) : State :=
  let o := s.clu
  let s := s.modClu (fun c => c.newTree.draw s.devId)
  let s := (s.stopsFor 4 s.clu.parShort o.parShort).stopsFor 5 s.clu.snapShort o.snapShort
  let s := s.clu.live.foldl (fun s d => s.sendPlan d) s
  let s := s.modClu (fun c => c.plant { c.cfgOf s.devId s.devId with table := none })
  match s.clu.decided with
  | some (e, flags) => if s.clu.bound then (s.modClu (fun c => { c with ccacks := [] })).commitOn e flags else s
  | none => s

end Sys2Proof.Machine
end

