-- ==== Sys2Proof/Machine/Manager.lean ====
section
/-! DEFINITION. A manager's decisions (R367, R368, R372, R379–R385): commits, checkpoints, rollbacks and substitutions. -/

namespace Sys2Proof.Machine

/-- A decision record goes to the standby (R366). -/
def State.sendMirror (s : State) (r : MirrorRec) : State :=
  s.cluSend 0x3D s.clu.sbyId r.epoch (b2n r.commit) r.flags.toNat (match r.ckpt with | some k => recWords k | none => [])

/-! ### Estimates (R381) -/

def medianOf (l : List Nat) : Nat := ((l.foldl (fun a n => insertNat n a) [])[l.length / 2]?).getD 0

/-- The estimates, in microseconds; every 1,000 commits. Methods are assigned again (R380). -/
def State.estimate (s : State) : State :=
  let c := s.clu
  let w := match c.firstCommit with | some f => (s.time - f).toNat | none => 0
  let m := (w + c.m0.toNat * 10 ^ 6) / (c.failCount + 1)
  let cost := if c.costs.isEmpty then 0 else c.costs.sum / c.costs.length
  let t := max (c.mins.toNat * 10 ^ 6) (min (c.maxs.toNat * 10 ^ 6) (isqrt (2 * cost * m)))
  let step := max 1 (medianOf c.steps)
  let n := max 1 (t / step)
  (s.modClu (fun c => ({ c with
    nsteps := BitVec.ofNat 32 n, tsec := BitVec.ofNat 32 (t / 10 ^ 6), planGen := (c.planGen + 1) % 16 } : Clu).assign)).replan

/-- A manager notes a commit: the step time, and what a checkpoint whose drain overlaps the step costs (R381); a checkpoint that ended in
this step has its cost. -/
def State.noteCommit (s : State) : State :=
  s.modClu (fun c =>
    let c1 := { c with firstCommit := if c.firstCommit.isSome then c.firstCommit else some s.time, lastCommit := some s.time }
    match c.lastCommit with
    | none => { c1 with ckStep := c.ckRun.isSome }
    | some t =>
      let d := (s.time - t).toNat
      if c.ckStep then
        let cost := c.ckCost + ((d : Int) - medianOf c.plain)
        let c2 := { c1 with steps := (d :: c.steps).take 64, ckCost := cost, ckStep := c.ckRun.isSome }
        if c.ckRun.isNone then { c2 with costs := (cost.toNat :: c.costs).take 16, ckCost := 0 } else c2
      else { c1 with steps := (d :: c.steps).take 64, plain := (d :: c.plain).take 64 })

/-- The flags of the commit of `e`: a checkpoint when its epoch is at least N after the last, and the plan generation (R381). No checkpoint is
taken while parity space is short (R376). -/
def Clu.commitFlags (c : Clu) (e : W64) : Byte :=
  let n := if c.nsteps = 0#32 then 1000 else c.nsteps.toNat
  BitVec.ofNat 8 (b2n (decide (n ≤ e.toNat - c.lastCk.toNat) && c.parShort.isEmpty) + 16 * c.planGen)

/-! ### Checkpoints at the manager (R378, R379) -/

/-- A checkpoint that a failure interrupts is discarded, and a CKPT frame says so (R379, R386). -/
def State.discardCk (s : State) : State :=
  let c := s.clu
  match c.ckRun with
  | none => s
  | some e =>
    (s.modClu (fun c => { c with
      ckRun := none, ckOwed := none, ckDones := [], ckfail := satAdd 8 c.ckfail 1, ckCost := 0, ckStep := false
      lastCk := match c.ckpts with | k :: _ => k.epoch | [] => 0#64 })).cluFrame 0x13 (leBytes 8 e.toNat ++ leBytes 1 1)

/-- The checkpoint of `e` begins with its commit, under the tables then in force; its copies overwrite those of the older complete one. -/
def State.beginCk (s : State) (e : W64) : State :=
  s.discardCk.modClu (fun c => { c with ckRun := some e, ckDones := [], ckpts := c.ckpts.take 1, lastCk := e, ckStep := true, ckTabs := c.tabs })

/-- The digest of an entry in a catalogue. -/
def entOf (l : List CatEnt) (tid : Nat) : Option CatEnt := l.find? (fun e => e.tid == tid)

/-- Every checkpoint whose number counts to a multiple of SNAPEVERY snapshots every entry (R380). -/
def fullSnap (every : Byte) (k : Nat) : Bool := (k + 1) % every.toNat == 0 && every != 0#8

/-- How an entry is saved by checkpoint `k` (R376, R377, R380): parity unless it takes snapshot, a snapshot too in a full one; a snapshot with
the digest of the newest one is not written again, and a new one goes to the other slot. -/
def catEntry (snapped full partner : Bool) (e : W64) (old : Option CatEnt) (tid : Nat) (digest : List Byte) : CatEnt :=
  let last := old.bind (·.snap)
  let snap : Option SnapCopy :=
    if partner && (snapped || full) then
      match last with
      | some c => if c.digest = digest then some c else some ⟨1 - c.slot, e, digest⟩
      | none => some ⟨0, e, digest⟩
    else last
  ⟨tid, digest, !snapped, snap⟩

/-- The catalogue of a device's entries for the digests that it reports. -/
def catOf (cfg : TreeCfg) (full : Bool) (e : W64) (old : List CatEnt) (t : CkTab) (digs : List (List Byte)) : List CatEnt :=
  (t.ents.zip digs).map (fun p => catEntry (cfg.snap.contains p.1.tid || cfg.group.isEmpty) full cfg.partner.isSome e (entOf old p.1.tid)
    p.1.tid p.2)

/-- The catalogue of device `d` in the newest complete checkpoint. -/
def newestOf (l : List CkRec) (d : Nat) : List CatEnt :=
  match l with
  | k :: _ => (getDev k.devs d).getD []
  | [] => []

/-- Digest changes of a checkpoint join the history of its entries (R380). -/
def Clu.noteHist (c : Clu) (k : CkRec) : Clu :=
  { c with hist := (k.devs.map (fun d => d.2.map (fun e =>
      let changed := ((entOf (newestOf c.ckpts d.1) e.tid).map (·.digest)) != some e.digest
      ((d.1, e.tid), (changed :: c.histOf d.1 e.tid).take 16)))).flatten }

/-- A checkpoint is complete: CKPTOK to all, and a CKPT frame (R379, R386). -/
def State.ckptComplete (s : State) (k : CkRec) : State :=
  let s := s.cluAll (s.devId :: s.clu.live ++ s.clu.spares) 0x3A k.epoch 0 0 []
  (s.modClu (fun c => { c.noteHist k with
    ckRun := none, ckOwed := none, ckDones := [], ckpts := (k :: c.ckpts).take 2 })).cluFrame 0x13 (leBytes 8 k.epoch.toNat ++ leBytes 1 0)

/-- The catalogue record of a checkpoint. -/
def Clu.ckRecord (c : Clu) (e : W64) : CkRec := ⟨e, c.ckSeq, c.groups, planShards, c.partners, c.ckDones⟩

/-- A device's report for the checkpoint in progress: with the last one the record goes through MIRROR, where a standby is (R379). -/
def State.ckReport (s : State) (dev : Nat) (e : W64) (digs : List (List Byte)) : State :=
  let c := s.clu
  let tab := (getDev c.ckTabs dev).getD ⟨[], 0, 0, 0⟩
  if c.ckRun = some e ∧ c.ckOwed = none ∧ digs.length = tab.ents.length ∧ digs.all (fun d => d.length == 32) then
    let ents := catOf (c.cfgOf s.devId dev) (fullSnap c.snapEvery c.ckSeq) e (newestOf c.ckpts dev) tab digs
    let s := s.modClu (fun c => { c with ckDones := putDev c.ckDones dev ents })
    let c := s.clu
    if (c.members s.devId).all (fun d => (getDev c.ckDones d).isSome) then
      let k := c.ckRecord e
      if c.mirrors then (s.modClu (fun c => { c with ckOwed := some k })).sendMirror ⟨e, true, 0#8, some k⟩ else s.ckptComplete k
    else s
  else s

/-! ### Restore points and spares (R382–R384) -/

/-- The members of the next group that hold the pieces of group `n` (R376). -/
def pieceHolders (gs : List (List Nat)) (n : Nat) : List Nat :=
  let next := nextGroup gs n
  (List.range ((gs[n]?).getD []).length).filterMap (fun j => next[j % next.length]?)

/-- A device's entries can be rebuilt from checkpoint `k` when the devices `lost` have gone (R384). -/
def rebuildable (drives : List (Nat × Nat)) (lost : List Nat) (k : CkRec) (d : Nat) : Bool :=
  let parOk := match groupIndex k.groups d with
    | none => false
    | some n =>
      decide ((((k.groups[n]?).getD []).filter lost.contains).length ≤ k.shards) && (pieceHolders k.groups n).all (fun h => !lost.contains h)
  let driveOk := match getDev k.partners d with
    | some p => !lost.contains p && (getDev drives p).isSome
    | none => false
  ((getDev k.devs d).getD []).all (fun e =>
    (e.parity && parOk) || (driveOk && (match e.snap with | some c => c.digest == e.digest | none => false)))

/-- The newest complete checkpoint from which every lost device can be rebuilt. -/
def Clu.restorePoint (c : Clu) (lost : List Nat) : Option CkRec :=
  c.ckpts.find? (fun k => lost.all (fun d => rebuildable c.drives lost k d))

/-- A route to a device remains (R326, R371): its entry is valid and a port of its bond carries packets. -/
def State.reachable (s : State) (d : Nat) : Bool :=
  match s.hopOf d with
  | .loc => true
  | .bond b => !(s.members b).isEmpty
  | .unreach => false

/-- The reachable spare with the fewest route hops to a device's group. -/
def State.nearestSpare (s : State) (l : List Nat) (d : Nat) : Option Nat :=
  let g := match groupIndex s.clu.groups d with | some n => ((s.clu.groups[n]?).getD []).filter (· != d) | none => []
  let hops (x : Nat) : Nat := (g.map (Config.routeHops x)).sum
  (l.filter s.reachable).foldl (fun (b : Option Nat) x =>
    match b with
    | none => some x
    | some y => if hops x < hops y then some x else some y) none

/-- Lost devices, other than the manager itself and those whose id a spare has already taken. -/
def Clu.toReplace (c : Clu) (self : Nat) : List Nat :=
  c.lost.filter (fun d => d != self && !(match c.rolling with | some r => r.subs.any (fun p => p.1 == d) | none => false))

/-! ### Rollback (R365, R368, R372, R383–R385) -/

/-- No spare or no restore point is left: the lost devices are not replaced (R383, R385). -/
def Clu.stuck (c : Clu) : Bool := c.stops.contains 1 || c.stops.contains 2

/-- Whether spares take the ids of lost devices in a rollback. -/
def State.replaces (s : State) (r : MgrRoll) : Bool := s.clu.toReplace s.devId != [] && !s.clu.stuck && r.failed != []

/-- The CROLLs go out: FLAGS holds the cause, with 0x80 where no restore point remains (R385); the body names the restore epoch, the
generation, whether a substitution follows, and the failed devices. -/
def State.sendRoll (s : State) (dst : List Nat) (r : MgrRoll) (subst : Bool) : State :=
  s.cluAll dst 0x33 r.epoch 0 r.cause (longWords r.restore.toNat ++ [s.clu.gen, b2n subst] ++ r.failed)

/-- A rollback that binds begins a generation: every device that is alive restores, and the spares hear of it. An ABANDON that waits is
covered by it. -/
def State.rollOut (s : State) : State :=
  match s.clu.rolling with
  | none => s
  | some r =>
    let s := s.modClu (fun c => { c with gen := c.gen + 1, abandonDue := none })
    (s.sendRoll (s.devId :: s.clu.live ++ s.clu.spares) r (s.replaces r)).modClu (fun c => { c with
      rolling := some { r with phase := .survivors, dones := [] } })

/-- Decide a rollback: the decision first goes to the standby (R368); step times do not count across it. -/
def State.decideRoll (s : State) (r : MgrRoll) : State :=
  let s := s.modClu (fun c => { c with rolling := some r, creadys := [], lastCommit := none, ckStep := false })
  if s.clu.mirrors then s.sendMirror ⟨r.epoch, false, BitVec.ofNat 8 r.cause, none⟩ else s.rollOut

/-- The clutch stops for a cause, once (R386). -/
def State.holdClutch (s : State) (cause dev : Nat) : State :=
  if s.clu.stops.contains cause then s
  else (s.modClu (fun c => { c with stops := c.stops ++ [cause] })).cluStop cause dev

/-- Start the rollback of the epoch after the committed one, or start it again with every device that has failed so far (R372): where no
state is lost or no spare is left (R383), to the committed epoch, which is the restore epoch of a rollback that has gone out; else to the
restore point (R384), whose successors are given up; with none left the clutch is held (R385). -/
def State.startRoll (s : State) (cause : Nat) : State :=
  let c := s.clu
  let e1 := match c.rolling with | some r => r.epoch | none => s.epoch + 1
  let subs := match c.rolling with | some r => r.subs | none => []
  let base := match c.rolling with | some r => if r.phase = .mirror then r.base else r.restore | none => s.epoch
  let gone := c.lost.filter (· != s.devId)
  let roll (restore : W64) (cause : Nat) : MgrRoll := ⟨e1, restore, cause, c.lost, .mirror, subs, [], base⟩
  if c.lost = [] then s.decideRoll (roll base cause)
  else if (c.spares.filter s.reachable).length < (c.toReplace s.devId).length then
    (s.holdClutch 1 (gone.headD 0xFFFF)).decideRoll (roll base cause)
  else match c.restorePoint gone with
    | some k =>
      (s.modClu (fun c => { c with ckpts := c.ckpts.dropWhile (fun x => x.epoch != k.epoch), lastCk := k.epoch })).decideRoll
        (roll k.epoch cause)
    | none => (s.holdClutch 2 (gone.headD 0xFFFF)).decideRoll (roll base (cause + 0x80))

/-- A decision can be taken now about devices that are lost. -/
def Clu.idle (c : Clu) : Bool := c.manager && c.decided.isNone && c.rolling.isNone

/-- An ABANDON that the manager has heard brings its rollback, with no restore, once no decision stands (R364, R365); one for an epoch that
has been committed meanwhile is ignored (R368). -/
def State.takeAbandon (s : State) : State :=
  match s.clu.abandonDue with
  | none => s
  | some e =>
    if s.clu.idle then
      let s := s.modClu (fun c => { c with abandonDue := none })
      if e = s.epoch + 1 then s.decideRoll ⟨s.epoch + 1, s.epoch, 2, [], .mirror, [], [], s.epoch⟩ else s
    else s

/-! ### Commit (R367, R368, R372) -/

/-- Acknowledgements of every live device that holds job state end the commit; every 1,000th brings new estimates (R381), and a failure
that came after the decision now brings its rollback (R372). -/
def State.settleCommit (s : State) : State :=
  let c := s.clu
  match c.decided with
  | none => s
  | some (e, _) =>
    if c.bound && s.epoch = e && b2n c.holdsJob + c.childSum c.ccacks + (c.lost.filter (· != s.devId)).length = c.nmem then
      let s := s.modClu (fun c => { c with decided := none, bound := false })
      let s := if c.commits.toNat % 1000 = 0 then s.estimate else s
      if c.lost = [] then s.takeAbandon else s.discardCk.startRoll 1
    else s

/-- Tables that were registered for this commit come into force at the manager, and the plan follows them (R374). -/
def State.takeTabs (s : State) : State :=
  if s.clu.nextTabs = [] then s
  else
    (s.modClu (fun c => c.nextTabs.foldl (fun (c : Clu) p => { c with
      tabs := putDev c.tabs p.1 p.2, plans := putDev c.plans p.1 (c.methodsOf p.1 p.2) }) { c with nextTabs := [] })).replan

/-- A decision that binds goes out (R368). -/
def State.bindCommit (s : State) (e : W64) (flags : Byte) : State :=
  let s := (s.takeTabs.modClu (fun c => { c with bound := true })).noteCommit
  let s := if flags.getLsbD 0 then s.beginCk e else s
  (s.commitDown e flags).settleCommit

/-- The manager decides the commit when the counts sum to NMEM and no failure is pending (R367); with a standby, the decision
first goes to it (R368). -/
def State.maybeDecide (s : State) : State :=
  let c := s.clu
  if c.idle && c.roll.isNone && c.lost.isEmpty && !c.held && c.nmem ≠ 0 && b2n s.selfReady + c.childSum c.creadys = c.nmem then
    let e := s.epoch + 1
    let flags := c.commitFlags e
    let s := s.modClu (fun c => { c with decided := some (e, flags), sent := true })
    if c.mirrors then s.sendMirror ⟨e, true, flags, none⟩ else s.bindCommit e flags
  else s

/-- What follows when a READY, a child's count, the end of a drain or a new tree may make this subtree ready (R363, R367); a ready that the
drain holds is timed (CLU_HOLD). -/
def State.maybeReady (s : State) : State :=
  let c := s.clu
  let s := if c.full && c.drain.isSome && c.heldFrom.isNone then s.modClu (fun c => { c with heldFrom := some s.time }) else s
  if c.manager then s.maybeDecide
  else if c.sent || !s.selfReady then s
  else if c.childrenIn c.creadys then
    (s.modClu (fun c => { c with sent := true })).cluSend 0x30 (c.tree.parent.getD c.mgrId) (s.epoch + 1) (1 + c.childSum c.creadys) 0
      (c.gen :: c.who)
  else s

/-- READY: taken and held until the commit. -/
def doReady (t : Nat) (s : State) : State :=
  s.takeHeld t 0x90 (readyChk s) (fun e s =>
    (s.modClu (fun c => { c with need := some (dField e.d 32 2), readies := c.readies ++ [(t, e)] })).maybeReady)

/-! ### Failures (R371, R372) -/

/-- The standby has failed: decisions that waited for it bind, and the clutch is held until a new one is configured. SBYV stays (R460). -/
def State.standbyFails (s : State) : State :=
  let s := (s.modClu (fun c => { c with sbyLost := true })).holdClutch 3 0xFFFF
  match s.clu.decided, s.clu.rolling with
  | some (e, flags), _ => if s.clu.bound then s else s.bindCommit e flags
  | none, some r => if r.failed != [] then s.startRoll (r.cause % 0x80) else if r.phase = .mirror then s.rollOut else s
  | none, none => s

/-- The manager handles the failure of a device (R371, R372): a spare is only lost; that of a device that holds job state discards an
unfinished checkpoint (R379), and the standby's brings decisions without MIRROR; another's redraws the tree, and rolls back now or after the
commit that stands. -/
def State.mgrFail (s : State) (dev : Nat) : State :=
  let c := s.clu
  if c.failed.contains dev || dev == s.devId && c.lost.contains dev then s
  else
    let s := s.modClu (fun c => { c with
      rolling := c.rolling.map (fun r => { r with subs := r.subs.filter (fun p => p.1 != dev) })
      failed := if dev = s.devId then c.failed else c.failed ++ [dev]
      failCount := c.failCount + b2n c.firstCommit.isSome, missed := smSet 0 c.missed dev 0 })
    if c.known.contains dev = false ∧ dev ≠ s.devId then s.modClu (fun c => { c with spares := c.spares.filter (· != dev) })
    else
      let s := s.modClu (fun c => { c with
        lost := if c.lost.contains dev then c.lost else c.lost ++ [dev], drives := c.drives.filter (fun p => p.1 != dev) })
      let s := s.discardCk
      if c.mirrors && dev == c.sbyId then s.standbyFails.replan
      else
        let s := s.replan
        if s.clu.decided.isSome then s.settleCommit else s.startRoll 1

/-- The CROLL that answers a device which was declared failed names it (R371), and no epoch that is decided to commit (R368). -/
def State.answerFailed (s : State) (dev : Nat) : State :=
  let e := match s.clu.decided with | some (e, _) => e + 1 | none => s.epoch + 1
  s.sendRoll [dev] ⟨e, e - 1, 1, [dev], .survivors, [], [], e - 1⟩ false

/-- A device that was declared failed, or a module whose id another has taken, is answered with CROLL; what another says is heard. -/
def State.fromDev (s : State) (x : Sender) (hear : State → State) : State :=
  if s.clu.manager && (s.clu.failed.contains x.dev || getDev s.clu.holders x.dev != x.former) then s.answerFailed x.dev else hear s

/-! ### Counts (R367, R372) -/

/-- A count belongs to this device's generation, and to the epoch that it has or prepares. -/
def State.fits (s : State) (x : CluCount) : Bool :=
  x.gen == s.clu.gen && (if x.ack then x.epoch == s.epoch else x.epoch == s.epoch + 1 && s.clu.roll.isNone)

/-- A count is taken, and may complete a subtree; one of an older generation is void, one that comes early waits. -/
def State.hearCount (s : State) (x : CluCount) : State :=
  if x.gen < s.clu.gen then s
  else if !s.fits x then s.modClu (fun c => { c with early := c.early.filter (fun y => !(y.ack == x.ack && y.src == x.src)) ++ [x] })
  else if x.ack then ((s.modClu (fun c => { c with ccacks := putCount c.ccacks x.src x.n })).maybeAck).settleCommit
  else (s.modClu (fun c => { c with creadys := putCount c.creadys x.src x.n })).maybeReady

/-- Counts that came early are heard again. -/
def State.hearEarly (s : State) : State :=
  s.clu.early.foldl State.hearCount (s.modClu (fun c => { c with early := [] }))

/-! ### Substitution (R382) -/

/-- Spares for the devices to replace, nearest first. -/
def State.chooseSpares (s : State) : List Nat → List Nat → List (Nat × Nat)
  | [], _ => []
  | d :: r, l =>
    match s.nearestSpare l d with
    | none => []
    | some x => (d, x) :: s.chooseSpares r (l.filter (· != x))

/-- A route entry as a body word: the id, with VALID and the bond above it. -/
def routeWord (dev : Nat) (bond : Nat) : Nat := dev + 65536 * (if bond < 31 then 0x8000 + bond else 0)

/-- Every survivor has stopped and restored: the spares take the ids, and every device writes the entries for them and for the spares' former
ids, which become invalid; a spare receives its whole table, where they are invalid too. -/
def State.substitute (s : State) (r : MgrRoll) : State :=
  let c := s.clu
  let new := s.chooseSpares (c.toReplace s.devId) c.spares
  let s := new.foldl (fun s p => s.cluSend 0x38 p.2 s.epoch 0 0 [p.1]) s
  let ids := s.devId :: (c.known ++ c.spares)
  let s := new.foldl (fun s p => s.cluSend 0x36 p.2 s.epoch 0 0 (ids.map (fun d =>
    routeWord d (if new.any (fun x => x.2 == d) then 31 else if d = p.1 then 30 else Config.planRoute p.1 d)))) s
  let rest := c.spares.filter (fun x => !new.any (fun p => p.2 == x))
  let s := (s.devId :: c.live ++ rest).foldl (fun s d =>
    s.cluSend 0x36 d s.epoch 0 0 ((new.map (fun p => [routeWord p.1 (Config.planRoute d p.1), routeWord p.2 31])).flatten)) s
  s.modClu (fun c => { c with
    spares := rest, substs := satAdd 8 c.substs new.length, failed := c.failed.filter (fun d => !new.any (fun p => p.1 == d))
    holders := new.foldl (fun m p => putDev m p.1 p.2) c.holders
    cfgs := c.cfgs.filter (fun x => !new.any (fun p => p.1 == x.1)), missed := new.foldl (fun m p => smSet 0 m p.2 0) c.missed
    rolling := some { r with phase := .routes, subs := r.subs ++ new, dones := [] } })

/-- A rollback is over: the losses are made good, unless the clutch is stuck or the rollback was about none. An ABANDON that came meanwhile
is taken, and counts that came meanwhile may make a commit (R367). -/
def State.endRoll (s : State) (r : MgrRoll) : State :=
  ((s.modClu (fun c => { c with rolling := none, lost := if c.stuck || r.failed == [] then c.lost else [] })).takeAbandon).maybeReady

/-- A restore point whose entries do not verify is given up for an older one (R385). -/
def State.badRestore (s : State) (r : MgrRoll) : State :=
  (s.modClu (fun c => { c with ckpts := c.ckpts.filter (fun k => k.epoch != r.restore) })).startRoll (r.cause % 0x80)

/-- A device has restored (`ok`: every digest matched): after the last survivor, substitution; after the last spare, the end. -/
def State.noteCrdone (s : State) (dev : Nat) (ok : Bool) : State :=
  match s.clu.rolling with
  | none => s
  | some r =>
    if !ok then s.badRestore r
    else
      let r := { r with dones := addDev r.dones dev }
      let s := s.modClu (fun c => { c with rolling := some r })
      match r.phase with
      | .survivors =>
        if (s.devId :: s.clu.live).all r.dones.contains then
          if s.replaces r then s.substitute r else s.endRoll r
        else s
      | .spares => if r.subs.all (fun p => r.dones.contains p.1) then s.endRoll r else s
      | _ => s

/-- ROUTEACKs: with the last one the new devices get their plan, table and catalogue, and restore (R382, R384). -/
def State.noteRouteack (s : State) (dev : Nat) : State :=
  match s.clu.rolling with
  | none => s
  | some r =>
    if r.phase = .routes then
      let r := { r with dones := addDev r.dones dev }
      let s := s.modClu (fun c => { c with rolling := some r })
      if (s.devId :: s.clu.live ++ s.clu.spares).all r.dones.contains then
        let s := s.replan.modClu (fun c => { c with rolling := some { r with phase := .spares, dones := [] } })
        s.sendRoll (r.subs.map (·.1)) r false
      else s
    else s

end Sys2Proof.Machine
end

