-- ==== Sys2Proof/Machine/Recovery.lean ====
section
/-! DEFINITION. Clutch commands (chapter 14): the messages of commits, checkpoints, rollbacks and substitutions, heartbeats and takeover,
the checkpoint drain and the restore. -/

namespace Sys2Proof.Machine

/-! ### Messages of the commit (R366–R368) -/

/-- CREADY: a subtree of `n` devices is ready. -/
def doCready (src : Sender) (e : W64) (n : Nat) (s : State) : State :=
  (s.takeClu 0x30).fromDev src (fun s => s.hearCount ⟨false, src.dev, e, src.gen, n⟩)

/-- CCOMMIT: one already applied goes to the children again and is acknowledged again (R372). -/
def doCcommit (e : W64) (flags : Byte) (s : State) : State :=
  let s := s.takeClu 0x31
  if e = s.epoch + 1 then (s.commitDown e flags).hearEarly
  else if e = s.epoch then ((s.commitOn e flags).modClu (fun c => { c with ackDue := true, ccacks := [] })).maybeAck
  else s

/-- CCACK: at the manager, counts that sum to NMEM end the commit. -/
def doCcack (src : Sender) (e : W64) (n : Nat) (s : State) : State :=
  (s.takeClu 0x32).fromDev src (fun s => s.hearCount ⟨true, src.dev, e, src.gen, n⟩)

/-- MIRROR: the standby stores the decision, or the checkpoint's record with the digest changes, and answers MACK. -/
def doMirror (r : MirrorRec) (s : State) : State :=
  let s := s.takeClu 0x3D
  if s.clu.role = 1 then
    (s.modClu (fun c =>
      match r.ckpt with
      | some k => { c.noteHist k with ckpts := (k :: c.ckpts).take 2, lastCk := k.epoch }
      | none => { c with mirror := some r })).cluSend 0x3E s.clu.mgrId r.epoch 0 0 []
  else s

/-- MACK: the checkpoint's record is stored (R379), or the decision binds (R368). -/
def doMack (e : W64) (s : State) : State :=
  let s := s.takeClu 0x3E
  let c := s.clu
  if !c.manager then s
  else match c.ckOwed, c.decided, c.rolling with
    | some k, d, _ =>
      if k.epoch = e then s.ckptComplete k
      else match d with
        | some (e', flags) => if e' = e && !c.bound then s.bindCommit e' flags else s
        | none => s
    | none, some (e', flags), _ => if e' = e && !c.bound then s.bindCommit e' flags else s
    | none, none, some r => if r.phase = .mirror ∧ r.epoch = e then s.rollOut else s
    | none, none, none => s

/-- FAILRPT: a device met a contained error, or its job issued an ABANDON for an epoch, which asks for a rollback with no restore, waits for a
decision that stands, and is ignored once the commit of that epoch is decided, or if it comes from before a rollback (R364, R365, R371). A clutch that is held for want of a restore point runs no step, so no
error there is a failure (DESIGN CHOICE, log 61). -/
def doFailrpt (dev : Sender) (why : FailWhy) (s : State) : State :=
  (s.takeClu 0x3B).fromDev dev (fun s =>
    if !s.clu.manager then s
    else if !why.abandon then if s.clu.stops.contains 2 then s else s.mgrFail dev.dev
    else if dev.gen < s.clu.gen then s
    else (s.modClu (fun c => { c with abandonDue := some why.epoch })).takeAbandon)

/-! ### Rollback on this device (R365) -/

/-- A step whose ready the drain held is counted (R363). -/
def Clu.countHold (c : Clu) (now : W64) : Clu :=
  match c.heldFrom with
  | some t => { c with
      heldFrom := none, holdSteps := satAdd 32 c.holdSteps 1, holdMs := satAdd 32 c.holdMs ((now - t).toNat / 1000) }
  | none => c

/-- CROLL: the grids stop, READYs and ABANDONs are dropped, one record is logged, whose class action is that stop, and the restore begins. A
ready that the drain held is counted (R363). A failure or takeover discards an unfinished checkpoint; an ABANDON lets its drain run. With
0x80 in FLAGS no restore point remains: every device logs that, and restores nothing (R385). A standby counts the failures named (R381). -/
def doCroll (e restore : W64) (cause : Nat) (note : RollNote) (s : State) : State :=
  let s := s.takeClu 0x33
  let failed := note.failed
  let r : Roll := ⟨e, restore, cause % 0x80, (failed[0]?).getD 0xFFFF, decide (0x80 ≤ cause)⟩
  let s := match s.xl.runCtx with | some x => s.stopGrids x | none => s
  let s := s.dropHeld (fun _ => true)
  let s := s.detect { mkRec clsContained cRollback uClutch with ctx := s.xl.runCtx }
  let s := if 0x80 ≤ cause then s.detect { mkRec clsContained cNoRestore uClutch with ctx := s.xl.runCtx } else s
  let s := s.rollFrame r 0
  let breaks := r.cause != 2
  let now := s.time
  s.modClu (fun c => { c.countHold now with
    roll := some r, rollDue := if note.subst then some r else none, gen := note.gen, need := none, abandoned := false, sent := false, creadys := []
    failCount := if c.role = 1 && c.firstCommit.isSome then c.failCount + (failed.filter (fun d => !c.failed.contains d)).length
      else c.failCount
    failed := if c.role = 1 then failed.foldl addDev c.failed else c.failed
    drain := if breaks then none else c.drain
    cand := if breaks then none else c.cand
    ckfail := if breaks && !c.manager && (c.drain.isSome || c.cand.isSome) then satAdd 8 c.ckfail 1 else c.ckfail
    stops := if 0x80 ≤ cause && !c.manager then c.stops ++ [2] else c.stops })

/-! ### The checkpoint drain (R363, R375–R380) -/

/-- The words of a DRAM range; the first poisoned one. -/
def State.rangeBytes (s : State) (a : Nat) : Nat → (List Byte × Option Nat) × State
  | 0 => (([], none), s)
  | n + 1 =>
    let (w, s) := s.readLoc (.dram a) none
    let ((l, p), s) := s.rangeBytes (a + 4) n
    ((leBytes 4 w.1.toNat ++ l, if w.2 then some a else p), s)

/-- Copy a DRAM range word by word, with its marks (R427). -/
def State.copyRange (s : State) (src dst : Nat) : Nat → State
  | 0 => s
  | n + 1 =>
    let (w, s) := s.readLoc (.dram src) none
    (s.writeLoc uClutch (.dram dst) w.1 w.2).copyRange (src + 4) (dst + 4) n

/-- A range written with data from other devices or from a drive: free values. -/
def State.freeRange (s : State) (dst : Nat) : Nat → State
  | 0 => s
  | n + 1 =>
    let (v, s) := s.draw
    (s.writeLoc uClutch (.dram dst) (v.setWidth 32) false).freeRange (dst + 4) n

/-- The place of entry `i` in local slot `k` (R374). -/
def slotAddr (t : CkTab) (k i : Nat) : Nat := t.loc + k % 2 * tabTotal t + ((t.ents.take i).map (·.bytes)).sum

/-- The slot for others' parity pieces (R376). -/
def parAddr (t : CkTab) (cfg : TreeCfg) (k : Nat) : Nat := t.par + k % 2 * cfg.held

/-- The region of an entry in the buffer of an epoch (R292). -/
def ckBuf (e : CkEnt) (epoch : W64) : Nat := if epoch.getLsbD 0 then e.bufB else e.bufA

/-- An entry takes snapshot by this device's plan (R376, R380). -/
def cfgSnaps (t : TreeCfg) (tid : Nat) : Bool := t.snap.contains tid || t.group.isEmpty

/-- Drain one entry: digest, local slot for a parity entry (R375, R378). The bytes read, and poison found, are reported. -/
def State.drainEntry (s : State) (tab : CkTab) (c : W64) (i : Nat) (e : CkEnt) : (List Byte × Option Nat) × State :=
  let (l, s) := s.rangeBytes (ckBuf e c) (e.bytes / 4)
  if cfgSnaps s.clu.tree e.tid then (l, s) else (l, s.copyRange (ckBuf e c) (slotAddr tab s.clu.ckSeq i) (e.bytes / 4))

def State.drainAll (s : State) (tab : CkTab) (c : W64) : Nat → List CkEnt → (List (List Byte) × Option Nat) × State
  | _, [] => (([], none), s)
  | i, e :: r =>
    let ((b, p), s) := s.drainEntry tab c i e
    let ((bs, p'), s) := s.drainAll tab c (i + 1) r
    ((b :: bs, if p.isSome then p else p'), s)

/-- The pieces of this device's shares of its group's shards, for their holders (R376). -/
def parityParts (t : TreeCfg) (string : List Byte) : List CkPart :=
  let n := pieceBytes t.len t.group.length
  ((List.range t.shards).map (fun sh =>
    (List.range t.group.length).map (fun j =>
      let piece := (List.range n).map (fun x => parityShare sh t.index ((string[j * n + x]?).getD 0#8))
      CkPart.mk ((t.nextGroup[j % t.nextGroup.length]?).getD 0) (some (sh, j)) none piece))).flatten

/-- The snapshots that a checkpoint writes to the partner's drive: entries whose newest copy it makes (R377). -/
def snapParts (t : TreeCfg) (e : W64) (cat : List CatEnt) (data : List (List Byte)) : List CkPart :=
  ((cat.zip data).map (fun p =>
    match p.1.snap, t.partner with
    | some c, some d => if c.epoch = e then [CkPart.mk d none (some (p.1.tid, c.slot)) p.2] else []
    | _, _ => [])).flatten

/-- A ready that the drain held is counted (R363), and may now go up. -/
def State.drainEnd (s : State) : State :=
  let now := s.time
  (s.modClu (fun c => { c.countHold now with drain := none })).maybeReady

/-- The checkpoint is discarded at this device; a manager that takes it says so (R379, R386). -/
def State.drainFail (s : State) : State :=
  (if s.clu.manager then s.discardCk else s.modClu (fun c => { c with ckfail := satAdd 8 c.ckfail 1 })).drainEnd

/-- Commands go to the drive. -/
def State.askDrive (s : State) (l : List NvmeCmd) : State := s.modClu (fun c => { c with asked := c.asked ++ l })

/-- `n` transfers of snapshot data at free places of the namespace. -/
def State.drawIo (f : Nat → Nat → NvmeCmd) : Nat → State → List NvmeCmd × State
  | 0, s => ([], s)
  | n + 1, s =>
    let (a, s) := s.drawUpTo s.clu.nsBlocks
    let (k, s) := s.drawUpTo s.clu.nsBlocks
    let (l, s) := State.drawIo f n s
    (f a k :: l, s)

/-- The drive writes or reads the snapshot data of the device for which it holds them (R377). How many commands that takes and at which blocks
the manual does not say: free values (log 49). -/
def State.snapData (s : State) (f : Nat → Nat → NvmeCmd) : State :=
  if s.clu.drive && s.clu.tree.snapFor.isSome then
    let (n, s) := s.drawUpTo s.clu.nsBlocks
    let (l, s) := State.drawIo f n s
    s.askDrive l
  else s

/-- CKPT_DRAIN_DONE: the drain has read its range, computed the digests and written the local slot; the pieces and snapshot blocks leave,
those of others are written to PAR_ADDR (free values) and to the drive, which is flushed, and CKPTDONE goes to the manager. `ok` says that what leaves the
device is written. A poisoned word discards the checkpoint (R427). -/
def doCkptDrainDone (ok : Bool) (s : State) : State :=
  match s.clu.drain with
  | none => s
  | some c =>
    if !ok then s.drainFail
    else
      let tab := s.clu.table.getD ⟨[], 0, 0, 0⟩
      let ((data, bad), s) := s.drainAll tab c 0 tab.ents
      match bad with
      | some a => (s.detect { mkRec clsDeferred cPoisonData uClutch with addr := BitVec.ofNat 64 a }).drainFail
      | none =>
        let u := s.clu
        let t := u.tree
        let digs := data.map entryDigest
        let cat := catOf t (fullSnap u.snapEvery u.ckSeq) c (newestOf u.saved s.devId) tab digs
        let string := (((tab.ents.zip data).filter (fun p => !cfgSnaps t p.1.tid)).map (·.2)).flatten
        let parts := (if t.group.isEmpty then [] else parityParts t string) ++ snapParts t c cat data
        let s := s.freeRange (parAddr tab t u.ckSeq) (t.held / 4)
        let s := s.modClu (fun u => { u with
          cand := some ⟨c, u.ckSeq, [t.group], t.shards, [], [(s.devId, cat)]⟩, outbox := parts })
        let s := s.snapData NvmeCmd.write
        let s := if s.clu.drive then s.askDrive [.flush] else s
        (s.cluSend 0x39 s.clu.mgrId c digs.length 0 ((digs.flatten).map (·.toNat) ++ s.clu.who)).drainEnd

/-- CKPTDONE: a device's report for the checkpoint in progress (R379). -/
def doCkptdone (dev : Sender) (e : W64) (digs : List (List Byte)) (s : State) : State :=
  (s.takeClu 0x39).fromDev dev (fun s => if s.clu.manager then s.ckReport dev.dev e digs else s)

/-- CKPTOK: checkpoint `e` is complete; its copies lie in the slots of its number, and the next one takes the other slots. -/
def doCkptok (e : W64) (s : State) : State :=
  (s.takeClu 0x3A).modClu (fun c =>
    let c1 := { c with ckpt := e, ckv := true, slot := c.ckSeq % 2, ckSeq := c.ckSeq + 1, cand := none }
    match c.cand with
    | some k => if k.epoch = e then { c1 with saved := (k :: c.saved).take 2, own := (e :: c.own).take 2 } else c1
    | none => c1)

/-- NVME_TIMEOUT: a snapshot command fails or takes over 2 s; a drain's checkpoint fails at this device (R377). -/
def doNvmeTimeout (_fails : Bool) (s : State) : State :=
  if s.clu.drive then
    let s := s.detect (mkRec clsCorrected cNvmeFail uMgmt)
    if s.clu.drain.isSome then s.drainFail else s
  else s

/-! ### The restore (R365, R384, R385) -/

/-- The record of checkpoint `e` that this device has. -/
def Clu.savedAt (c : Clu) (e : W64) : Option CkRec := c.saved.find? (fun k => k.epoch == e)

/-- The bytewise sum of byte strings of one length. -/
def xorBytes : List (List Byte) → List Byte
  | [] => []
  | [l] => l
  | l :: r => (l.zip (xorBytes r)).map (fun p => p.1 ^^^ p.2)

/-- What has come for an entry, source by source. -/
def restoreSources (g : RestoreData) (tid : Nat) : List (List Byte) :=
  (g.ents.filter (fun p => p.1 == tid)).map (fun p => xorBytes p.2)

/-- Write an entry from one of `k` sources, each tried until the digest matches. -/
def State.restoreFrom (s : State) (dst len : Nat) (digest : List Byte) : Nat → List (List Byte) → Bool × State
  | k + 1, l :: r =>
    let s := s.writeBytesLoc uClutch (.dram dst) (l.take len)
    if l.length = len ∧ entryDigest l = digest then (true, s) else s.restoreFrom dst len digest k r
  | _, _ => (false, s)

/-- Restore one entry into the buffer of the restore epoch, and compare its digest with the catalogue: from the local slot, where this device
wrote it, else from what came from other devices or a drive; a second source is tried where the catalogue holds both (R385). An
entry of which no copy was saved stays as it is (DESIGN CHOICE, log 61). -/
def State.restoreEntry (s : State) (e : W64) (k : CkRec) (tab : CkTab) (here : Bool) (got : RestoreData) (i : Nat) (x : CkEnt) :
    Bool × State :=
  let dst := ckBuf x e
  match entOf ((getDev k.devs s.devId).getD []) x.tid with
  | none => (true, s)
  | some c =>
    let both := c.parity && (match c.snap with | some p => p.digest == c.digest | none => false)
    if here && c.parity then
      let s := s.copyRange (slotAddr tab k.seq i) dst (x.bytes / 4)
      let ((l, _), s) := s.rangeBytes dst (x.bytes / 4)
      if entryDigest l = c.digest then (true, s)
      else s.restoreFrom dst x.bytes c.digest (if both then 1 else 0) (restoreSources got x.tid)
    else s.restoreFrom dst x.bytes c.digest (if both then 2 else 1) (restoreSources got x.tid)

def State.restoreAll (s : State) (e : W64) (k : CkRec) (tab : CkTab) (here : Bool) (got : RestoreData) : Nat → List CkEnt → Bool × State
  | _, [] => (true, s)
  | i, x :: r =>
    let (a, s) := s.restoreEntry e k tab here got i x
    let (b, s) := s.restoreAll e k tab here got (i + 1) r
    (a && b, s)

/-- Restore the entries (R384): nothing where no restore point remains, or where the restore epoch is the committed one, except on a spare
that takes a failed device's place, which rebuilds every entry and takes the recomputed pieces that it holds. Whether every digest matches.
-/
def State.restoreEntries (s : State) (r : Roll) (got : RestoreData) : Bool × State :=
  let c := s.clu
  let spare := c.former.isSome
  if r.keep || (r.restore = s.epoch && !spare) then (true, s)
  else
    match c.table, c.savedAt r.restore with
    | some tab, some k =>
      let s := if spare then s.writeBytesLoc uClutch (.dram (parAddr tab c.tree k.seq)) (got.held.take c.tree.held) else s
      s.restoreAll r.restore k tab (!spare && c.own.contains r.restore) got 0 tab.ents
    | _, _ => (true, s)

/-- Checkpoints after the restore epoch are given up, and the next one takes the slots after those of the restored one (R379, R384). -/
def Clu.backTo (c : Clu) (e : W64) : Clu :=
  let c := { c with
    saved := c.saved.filter (fun k => decide (k.epoch ≤ e)), own := c.own.filter (fun x => decide (x ≤ e))
    ckpts := c.ckpts.filter (fun k => decide (k.epoch ≤ e)) }
  match (c.savedAt e).or (c.ckpts.find? (fun k => k.epoch == e)) with
  | some k => { c with ckpt := e, ckv := true, slot := k.seq % 2, ckSeq := k.seq + 1, lastCk := e }
  | none => c

/-- The epoch of the device after a restore: another one only where it has gone back to a checkpoint (R365). -/
def State.backTo (s : State) (r : Roll) : State :=
  if r.keep || r.restore = s.epoch then s else ({ s with epoch := r.restore } : State).modClu (fun c => c.backTo r.restore)

/-- The drive gives the snapshot data that a restore reads: where it goes back to a checkpoint, or a lost device is replaced (R384). -/
def State.snapReads (s : State) (r : Roll) : State :=
  if r.keep || (r.restore = s.epoch && s.clu.rollDue.isNone && s.clu.former.isNone) then s else s.snapData NvmeCmd.read

/-- ROLLBACK_RESTORE_DONE: once the grids that R365 stops have ended, and with every digest verified, CLU_EPOCH takes the restore epoch, the
device reports CRDONE and posts STATE 1, where a substitution follows only once it has written the new routes, so that no grid runs before
(R382); a mismatch, after the second source, is reported with COUNT 0 and leaves the rollback open (R385). -/
def doRollbackRestoreDone (got : RestoreData) (s : State) : State :=
  match s.clu.roll, s.stopOver with
  | some r, true =>
    let (ok, s) := (s.snapReads r).restoreEntries r got
    if ok then
      let s := s.backTo r
      let s := s.cluSend 0x34 s.clu.mgrId r.epoch 1 0 (s.clu.gen :: s.clu.who)
      let s := if s.clu.rollDue.isSome then s else s.rollFrame r 1
      let s := match s.clu.former with
        | some f => s.cluFrame 0x12 (leBytes 2 s.devId ++ leBytes 2 f ++ leBytes 1 1)
        | none => s
      (s.modClu (fun c => { c with roll := none, former := none, rolls := satAdd 16 c.rolls 1 })).hearEarly
    else s.cluSend 0x34 s.clu.mgrId r.epoch 0 0 (s.clu.gen :: s.clu.who)
  | _, _ => s

/-- CRDONE: a device has done the steps of R365, or could not verify what it restored; one of a rollback that has been started again since
(R372) counts for nothing. -/
def doCrdone (r : RestoreReport) (s : State) : State :=
  (s.takeClu 0x34).fromDev r.dev (fun s =>
    if s.clu.manager && r.dev.gen == s.clu.gen then s.noteCrdone r.dev.dev r.ok else s)

/-! ### Heartbeats and takeover (R371, R373) -/

/-- A table is in force at the manager, and at the checkpoint being taken where it was at its commit. -/
def Clu.takeTab (c : Clu) (dev : Nat) (t : CkTab) (drains : Bool) : Clu :=
  { c with
    tabs := putDev c.tabs dev t, plans := putDev c.plans dev (c.methodsOf dev t)
    ckTabs := if drains && (getDev c.ckDones dev).isNone then putDev c.ckTabs dev t else c.ckTabs }

/-- What a report changes of the manager's records of drives, tables and methods. A table counts from the commit that follows its CKPTTAB
(R374): one that waited for a commit which the manager has made is in force, also for the checkpoint that this commit began. -/
def Clu.noteReport (c : Clu) (now : W64) (dev : Nat) (rep : DevReport) : Clu :=
  let c := { c with drives := match rep.blocks with | some n => putDev c.drives dev n | none => c.drives.filter (fun p => p.1 != dev) }
  let drains (own : Bool) : Bool :=
    match c.ckRun with | some e => if own then decide (rep.epoch ≤ e) else decide (rep.epoch < e) | none => false
  let c := match rep.table with | some t => c.takeTab dev t (drains true) | none => c
  match rep.next with
  | some t => if rep.epoch < now then c.takeTab dev t (drains false) else { c with nextTabs := putDev c.nextTabs dev t }
  | none => c

/-- What the manager's own drive and tables report (R374, R377). -/
def State.ownReport (s : State) : DevReport :=
  let c := s.clu
  ⟨s.epoch, c.holdsJob, if c.drive then some c.nsBlocks else none, c.table, c.nextTable, none, false⟩

/-- Devices that hold job state and spares are known apart. -/
def Clu.join (c : Clu) (now : W64) (dev : Nat) (rep : DevReport) : Clu :=
  let c := if rep.holds then { c with known := addDev c.known dev, spares := c.spares.filter (· != dev) }
    else if c.known.contains dev then c else { c with spares := addDev c.spares dev }
  c.noteReport now dev rep

/-- A report comes from a module whose id another one has taken (R371, R382). -/
def Clu.replaced (c : Clu) (dev : Nat) (rep : DevReport) : Bool := getDev c.holders dev != rep.former

/-- The same drives, tables and devices stand in the records. -/
def Clu.samePlan (a b : Clu) : Bool :=
  a.known == b.known && b.drives.all (fun p => getDev a.drives p.1 == some p.2) && a.drives.all (fun p => getDev b.drives p.1 == some p.2) &&
  b.tabs.all (fun p => getDev a.tabs p.1 == some p.2)

/-- A manager hears a device: it lives, and the plan follows what it reports. A spare
that joins a clutch held for want of one brings the rollback that waits for it (R383). -/
def State.heard (s : State) (dev : Nat) (rep : DevReport) : State :=
  let o := s.clu
  let now := s.epoch
  let s := s.modClu (fun c => { c.join now dev rep with missed := smSet 0 c.missed dev 0, failed := c.failed.filter (· != dev) })
  let s := if o.samePlan s.clu then s else s.replan
  let c := s.clu
  if c.stops.contains 1 && c.idle && (c.toReplace s.devId).length ≤ (c.spares.filter s.reachable).length then
    (s.modClu (fun c => { c with stops := c.stops.filter (· != 1) })).startRoll 1
  else s

/-- HEART: at the manager it shows that the device lives; one declared failed is answered with CROLL naming it until its next start-up, as
is a module whose id another has taken. A loss that start-up does not make good is still made good by a spare. At the standby it comes from
the manager. At another device it comes from a standby that takes over, which gets the epoch and the table in answer. -/
def doHeart (dev : Nat) (rep : DevReport) (s : State) : State :=
  let s := s.takeClu 0x35
  if s.clu.manager then
    if s.clu.replaced dev rep || (s.clu.failed.contains dev && !rep.first) then s.answerFailed dev else s.heard dev rep
  else if s.clu.role = 1 ∧ dev = s.clu.mgrId then s.modClu (fun c => { c with missed := smSet 0 c.missed dev 0 })
  else (s.modClu (fun c => { c with mgrId := dev, tabOwed := true })).sendHeart

/-- The devices that a manager watches, and the manager for its standby. -/
def Clu.watched (c : Clu) : List Nat :=
  if c.manager then (c.known ++ c.spares).filter (fun d => !c.failed.contains d) else if c.role = 1 then [c.mgrId] else []

/-- The manager schedules cross-checks (R360, R366). When, and on which device, the manual does not say: free values (DESIGN CHOICE, log
61). -/
def State.scheduleXcheck (s : State) : State :=
  let ds := s.devId :: s.clu.live
  let (k, s) := s.drawUpTo ds.length
  match ds[k]? with
  | some d => s.cluSend 0x3F d s.epoch 0 0 []
  | none => s

/-- The manager's own share of a period: HEART to the standby, what its own drive and table report, devices with no route left, a cross-check
that falls due, and a rollback that waits for a new standby. -/
def State.mgrPeriod (s : State) : State :=
  let s := if s.clu.mirrors then s.cluSend 0x35 s.clu.sbyId s.epoch 0 0 [] else s
  let o := s.clu
  let own := s.ownReport
  let now := s.epoch
  let s := s.modClu (fun c => { c.noteReport now s.devId own with tabOwed := false })
  let s := if o.samePlan s.clu then s else s.replan
  let s := (s.clu.watched.filter (fun d => !s.reachable d)).foldl (fun s d => s.mgrFail d) s
  let s := s.scheduleXcheck
  if s.clu.idle && s.clu.lost != [] && !s.clu.held then s.startRoll 1 else s

/-- HEARTBEAT_PERIOD: HEART goes to the manager, and from the manager to the standby; every device watched has one more period
without a heartbeat. -/
def doHeartbeatPeriod (s : State) : State :=
  if s.holds.fatal || !s.lnk.idV then s
  else
    let s := if s.clu.manager then s.mgrPeriod else s.sendHeart
    s.modClu (fun c => { c with missed := c.watched.foldl (fun m d => smSet 0 m d (smGet 0 m d + 1)) c.missed })

/-- HEARTBEAT_MISS: MISS periods have passed without a device's heartbeat. -/
def doHeartbeatMiss (dev : Nat) (s : State) : State :=
  let c := s.clu
  if c.manager && c.watched.contains dev && c.miss ≤ smGet 0 c.missed dev then s.mgrFail dev else s

/-- STANDBY_TAKEOVER: `eps` are the devices' answers, beside which its own drive and tables count. A decided commit that some device has not applied is carried through, with the
checkpoint that it flags; anything else is rolled back, with the old manager lost where it held job state (R373). Its generations begin
above all that the old manager can have begun (DESIGN CHOICE, log 61). -/
def doStandbyTakeover (eps : List (Nat × DevReport)) (s : State) : State :=
  let c := s.clu
  if c.role = 1 && c.miss ≤ smGet 0 c.missed c.mgrId then
    let old := c.mgrId
    let s := s.cluAll (eps.map (·.1)) 0x35 s.epoch 0 0 []
    let others := eps.filter (fun p => p.1 != old && p.1 != s.devId)
    let now := s.epoch
    let own := s.ownReport
    let s := s.modClu (fun c => others.foldl (fun (c : Clu) p => c.join now p.1 p.2) { c.noteReport now s.devId own with
      gen := c.gen + 65536, treeLive := [], tabOwed := false, role := 0, mgrId := s.devId, sbyLost := true, known := [], spares := []
      holders := others.filterMap (fun p => p.2.former.map (fun f => (p.1, f)))
      missed := [], failed := [old], failCount := c.failCount + b2n c.firstCommit.isSome, lost := if c.mgrOnly then [] else [old] })
    let s := s.detect (mkRec clsCorrected cRole uClutch)
    let late (e : W64) : List Nat := (others.filter (fun p => p.2.holds && p.2.epoch + 1 == e)).map (·.1)
    match c.mirror with
    | some m =>
      if m.commit && (s.epoch + 1 == m.epoch || !(late m.epoch).isEmpty) then
        let s := if s.epoch + 1 = m.epoch then s.takeTabs else s
        let s := (s.modClu (fun c => { c with decided := some (m.epoch, m.flags), bound := true })).noteCommit
        let s := if m.flags.getLsbD 0 && (s.clu.ckpts.head?.map (·.epoch)) != some m.epoch then s.beginCk m.epoch else s
        let s := s.replan
        let s := s.cluAll (late m.epoch) 0x31 m.epoch 0 m.flags.toNat []
        (if s.epoch + 1 = m.epoch then s.applyCommit m.epoch m.flags else s).settleCommit
      else s.replan.startRoll 3
    | none => s.replan.startRoll 3
  else s

/-! ### Routes, substitution, tree (R382) -/

/-- ROUTEUPD: the entries are written, and ROUTEACK answers. The frame with STATE 1 of a rollback that waited for them follows. -/
def doRouteupd (ents : List RouteEnt) (s : State) : State :=
  let s := s.takeClu 0x36
  let put (m : SMap W16) (e : RouteEnt) : SMap W16 :=
    smSet 0#16 m (e.dev % 4096) (BitVec.ofNat 16 (if e.valid then 0x8000 + e.bond % 32 else 0))
  let s := { s with lnk := { s.lnk with route := ents.foldl put s.lnk.route } }
  let s := s.cluSend 0x37 s.clu.mgrId s.epoch 0 0 s.clu.who
  match s.clu.rollDue with
  | some r =>
    let s := s.modClu (fun c => { c with rollDue := none })
    if s.clu.roll.isNone then s.rollFrame r 1 else s
  | none => s

def doRouteack (dev : Sender) (s : State) : State :=
  (s.takeClu 0x37).fromDev dev (fun s => if s.clu.manager then s.noteRouteack dev.dev else s)

/-- SUBST: a spare takes a failed device's id and becomes a WORKER. -/
def doSubst (id : Nat) (s : State) : State :=
  let s := s.takeClu 0x38
  if s.clu.role = 3 ∧ id < 4096 then
    let old := s.devId
    let s := { s with devId := id }.modClu (fun c => { c with role := 2, former := some old, origin := some old })
    (s.detect (mkRec clsCorrected cRole uClutch)).cluFrame 0x12 (leBytes 2 id ++ leBytes 2 old ++ leBytes 1 0)
  else s

/-- TREECFG: the device takes its place in the tree and its plan; its ready goes up again where the tree changed. -/
def doTreecfg (cfg : TreeCfg) (s : State) : State :=
  ((((s.takeClu 0x3C).modClu (fun c => c.plant cfg)).maybeAck).maybeReady).hearEarly

/-- XCHECK: a NOTICE with source 9 (R440, R501). -/
def doXcheck (s : State) : State := (s.takeClu 0x3F).notice uClutch 9 0 0

def execReady (t : Nat) (s : State) : Out := .next (doReady t s)
def execCready (src : Sender) (e : W64) (n : Nat) (s : State) : Out := .next (doCready src e n s)
def execCcommit (e : W64) (flags : Byte) (s : State) : Out := .next (doCcommit e flags s)
def execCcack (src : Sender) (e : W64) (n : Nat) (s : State) : Out := .next (doCcack src e n s)
def execMirror (r : MirrorRec) (s : State) : Out := .next (doMirror r s)
def execMack (e : W64) (s : State) : Out := .next (doMack e s)
def execFailrpt (dev : Sender) (why : FailWhy) (s : State) : Out := .next (doFailrpt dev why s)
def execCroll (e restore : W64) (cause : Nat) (note : RollNote) (s : State) : Out := .next (doCroll e restore cause note s)
def execCkptDrainDone (ok : Bool) (s : State) : Out := .next (doCkptDrainDone ok s)
def execCkptdone (dev : Sender) (e : W64) (digs : List (List Byte)) (s : State) : Out := .next (doCkptdone dev e digs s)
def execCkptok (e : W64) (s : State) : Out := .next (doCkptok e s)
def execNvmeTimeout (fails : Bool) (s : State) : Out := .next (doNvmeTimeout fails s)
def execRollbackRestoreDone (got : RestoreData) (s : State) : Out := .next (doRollbackRestoreDone got s)
def execCrdone (r : RestoreReport) (s : State) : Out := .next (doCrdone r s)
def execHeart (dev : Nat) (rep : DevReport) (s : State) : Out := .next (doHeart dev rep s)
def execHeartbeatPeriod (s : State) : Out := .next (doHeartbeatPeriod s)
def execHeartbeatMiss (dev : Nat) (s : State) : Out := .next (doHeartbeatMiss dev s)
def execStandbyTakeover (eps : List (Nat × DevReport)) (s : State) : Out := .next (doStandbyTakeover eps s)
def execRouteupd (ents : List RouteEnt) (s : State) : Out := .next (doRouteupd ents s)
def execRouteack (dev : Sender) (s : State) : Out := .next (doRouteack dev s)
def execSubst (id : Nat) (s : State) : Out := .next (doSubst id s)
def execTreecfg (cfg : TreeCfg) (s : State) : Out := .next (doTreecfg cfg s)
def execXcheck (s : State) : Out := .next (doXcheck s)

end Sys2Proof.Machine
end

