-- ==== Sys2Proof/Machine/Complete.lean ====
section
/-! DEFINITION. How running descriptors come to their end (R55), how they take translation faults and how the driver settles
them (R276–R278), failed host accesses (R335), HEVENT (R331), and the translation domain (R266, R270). -/

namespace Sys2Proof.Machine

/-! ### The work of each engine -/

def Tile.faultReg (v : Tile) (q : Nat) : FaultReg := (v.faults[q]?).getD FaultReg.none

/-- A pending fault of this very descriptor. -/
def Tile.faulted (v : Tile) (q : Nat) (e : QEntry) : Bool := (v.faultReg q).pend && (v.faultReg q).entry == e.seq

/-- The units of an edge descriptor with a bound on their number (R301, R349–R357); none where it has no work of its own. -/
def edgeWork (t : Nat) (e : QEntry) : Option (X Bool × Nat) :=
  match dField e.d 16 2, dOp e.d with
  | 0x0100, op => some (updUnitOf (edgeAgent t updUnit e) op, updUnits e)
  | 0x0300, 0x80 => some (dispatchUnit t e, dispatchUnits e)
  | 0x0300, 0x81 => some (combineUnit t e, dispatchUnits e)
  | 0x0300, _ => some (collUnit t e, collUnits e.d)
  | _, _ => none

/-- The next units of a running descriptor of any queue, with how many of them one command may do: one tile of C, one
vector, or all. -/
def State.workOf (_s : State) (t q : Nat) (e : QEntry) : Option (X Bool × Nat) :=
  let g := tileAgent t q e
  match q with
  | 0 => some (if dOp e.d = 0x24 then rescoreWork t e else do
      let last ← mmTile t e
      flushRemote g
      pure last, 1)
  | 3 => some (pressAhead t e, 1026)
  | 4 => if dOp e.d = 0x41 then some (fbqUnitOf g, vNinstr e.d * (vAmax e.d / 128 + 1) + 1)
    else (vecUnit g (dOp e.d)).map (fun u => (u, vecUnits e.d))
  | 5 => (mvUnit g (dOp e.d)).map (fun u => (u, mvUnits e.d))
  | 6 => edgeWork t e
  | b => some (do
      let s ← xState
      let r := ((s.tile t).bank (b - 1)).run
      match r.pend with
      | pv :: _ => writePend t (b - 1) e pv
      | [] =>
        if dOp e.d = 0x12 then (if r.vec < qyNvec e.d then queryVector t (b - 1) e [] else pure ())
        else if r.vec < rdNvec e.d then readVector t (b - 1) e []
        else match r.divs with
          | vec :: _ => divertUnit t (b - 1) vec e
          | [] => pure ()
      pure true, 1)

/-! ### DESCRIPTOR_COMPLETE (R55) -/

/-- The work of a descriptor of queues 0 to 5 is done: it completes, or waits for its acknowledgements (R330). -/
def State.atEnd (s : State) (t q : Nat) (e : QEntry) : State :=
  if s.owes t q e.seq then s.modEntry t q e.seq (fun e => { e with ph := .finished }) else s.completeEntry t q e

/-- A descriptor that leaves its queue without a signal, with what its engine held for it. -/
def State.abandonEntry (s : State) (t q : Nat) (e : QEntry) : State :=
  let s := if q = 3 ∧ e.ph = .running then s.abortPress t e else s
  let s := ((s.forget t q e.seq).endColl t e.seq)
  let s := if e.ph = .running then s.endRead t q else s
  let s := s.dropEntry t q e
  if q = 6 then s.drainEdge t 33 else s

/-- Do the work of the vector or mover engine to its end, or a free part of it where the descriptor's grid is being stopped; under
pre-emption, a free part, as far as the engine has come, and from there on to the next stop point (R253, R274). -/
def State.runEngine (s : State) (t q : Nat) (e : QEntry) (w : X Bool × Nat) (after : State → State) : State :=
  if s.stopping e then
    let (n, s) := s.drawUpTo w.2
    match runUnits t w.1 n s with
    | (.error (.fault r a ad), s) => s.failEntry t q e (.fault r a ad)
    | (_, s) => s.abandonEntry t q e
  else if s.saving then
    if e.halt then s
    else
      let (n, s) := s.drawUpTo w.2
      match runUnits t w.1 n s with
      | (.ok true, s) => (after s).atEnd t q e
      | (.error x, s) => s.failEntry t q e x
      | (.ok false, s) =>
        let here := ((s.entry t q e.seq).map (fun e => mvDest e.d e.run)).getD 0
        let stop (s : State) : Bool := q != 5 || s.atPage t e.seq here
        match runUntil t w.1 stop w.2 s with
        | (.ok true, s) => (after s).atEnd t q e
        | (.error x, s) => s.failEntry t q e x
        | (.ok false, s) => s.haltEntry t q e.seq
  else
    match runUnits t w.1 w.2 s with
    | (.ok true, s) => (after s).atEnd t q e
    | (.ok false, s) => s
    | (.error x, s) => s.failEntry t q e x

/-- The histogram alarms of a vector descriptor at its completion (R439). -/
def State.vecAlarms (s : State) (t : Nat) (d : W512) : State :=
  match vecHset d with
  | some set => s.histAlarms t set
  | none => s

/-- How many units of an edge descriptor a contained stop lets through, from a free count `n`: an update engine goes on to the end of the
4 KiB block of its masters (an UPDATE) or of its first gradient (a GNORM), 32 or 64 bytes a unit (R301, R307); others stop after any unit. -/
def blockUnits (e : QEntry) (n : Nat) : Nat :=
  let r := trecOf ((e.run.snap[0]?).getD [])
  let up : Bool := dOp e.d = 0x60
  let size := if up then 32 else 64
  let base := if up then (if bitOf (upEpoch e.d) 0 then r.pb else r.pa) else r.g
  let k := 4096 / size
  if dField e.d 16 2 = 0x0100 then n + (k - (base / size + e.run.unit + n) % k) % k else n

/-- The end of a running descriptor, by its queue. -/
def State.endRunning (s : State) (t q : Nat) (e : QEntry) : State :=
  let v := s.tile t
  match q with
  | 0 =>
    let done : Bool := matrixUnits e.d ≤ e.run.unit
    if v.sampleOf 0 e.seq true then s
    else if s.stopping e then (if done || (mmFbq e.d && v.fbqFull) then s.abandonEntry t 0 e else s)
    else if done then s.atEnd t 0 e
    else s
  | 3 => s
  | 4 =>
    if s.paused t then s
    else if dOp e.d = 0x41 then
      if s.stopping e then s.abandonEntry t 4 e
      else if e.run.blk = vBlocks e.d then (s.vecAlarms t e.d).atEnd t 4 e
      else if s.saving then s.haltEntry t 4 e.seq
      else s
    else match s.workOf t 4 e with
      | some w => s.runEngine t 4 e w (fun s => s.vecAlarms t e.d)
      | none => s
  | 5 =>
    if s.paused t then s
    else match s.workOf t 5 e with
      | some w => s.runEngine t 5 e w id
      | none => s
  | 6 =>
    if dOp e.d = 0x92 then s.finishEdge t e.seq
    else if dField e.d 16 2 = 0x0100 ∧ s.updFirst e = false then s
    else match edgeWork t e with
      | none => s
      | some w =>
        if s.stopping e then
          let (n, s) := if e.halt then (0, s) else s.drawUpTo w.2
          match runUnits t w.1 (blockUnits e n) s with
          | (.error (.fault r a ad), s) => s.failEntry t 6 e (.fault r a ad)
          | (.error .wait, s) => if dField e.d 16 2 = 0x0100 then s.haltEntry t 6 e.seq else s.abandonEntry t 6 e
          | (_, s) => s.abandonEntry t 6 e
        else match runUnits t w.1 w.2 s with
          | (.ok true, s) =>
            if s.dsp.colls.any (fun c => c.tile == t && c.seq == e.seq) then
              if s.collDone t e.seq ∧ s.owes t 6 e.seq = false then (s.finishColl t e.seq).finishEdge t e.seq else s
            else s.finishEdge t e.seq
          | (.ok false, s) => s
          | (.error x, s) => s.failEntry t 6 e x
  | b =>
    if readDone v (b - 1) e then (s.endRead t b).atEnd t b e
    else if s.stopping e ∧ (v.bank (b - 1)).run.pend = [] then s.abandonEntry t b e
    else s

/-- The entry at place `i` of queue `q` ends: its work is done to the end and it signals, in issue order; it waits on; or, where
its grid is being stopped, it ends unsignalled. -/
def doDescriptorComplete (t q i : Nat) (s : State) : State :=
  match ((s.tile t).queue q)[i]? with
  | none => s
  | some e =>
    if (s.tile t).faulted q e then s
    else match e.ph with
      | .waiting => if s.stopping e then s.abandonEntry t q e else s
      | .finished =>
        if q = 6 then s.drainEdge t 33
        else if s.owes t q e.seq then s
        else s.leaveEntry t q e
      | .running => s.endRunning t q e

/-! ### HEVENT (R331) -/

def heventChk (d : W512) : Chk Unit := do
  chkZero d 18 6
  chkZero d 56 8

/-- HEVENT: the body becomes a JOB frame of the context's ring, and the descriptor completes. -/
def doHevent (t : Nat) (s : State) : State :=
  match s.startable t 6 with
  | none => s
  | some e =>
    if dOp e.d = 0x71 ∧ dField e.d 16 2 = 0x0280 then
      s.withHead t 6 e (fun e s =>
        match heventChk e.d with
        | .error (off, val) => s.refuse t 6 e off val
        | .ok _ => (s.post (some e.ctx) 0x05 (leBytes 32 (dField e.d 24 32))).finishEdge t e.seq)
    else s

/-! ### Faults and their settlement (R276–R278) -/

/-- The next work of a running descriptor up to a fault: the reason and the state that it leaves. A tile engine that droop gating or
rationing pauses makes no access. -/
def State.faultAhead (s : State) (t q i : Nat) : Option (QEntry × XErr × State) :=
  match ((s.tile t).queue q)[i]? with
  | none => none
  | some e =>
    if e.ph = .running ∧ ((s.tile t).faultReg q).pend = false ∧ (q = 6 ∨ s.paused t = false) then
      match s.workOf t q e with
      | none => none
      | some w =>
        match runUnits t w.1 w.2 s with
        | (.error (.fault r a ad), s) => some (e, .fault r a ad, s)
        | _ => none
    else none

/-- A fault in a READ: the first vector that is not written is read again (R190). -/
def State.rewindBank (s : State) (t q : Nat) : State :=
  if q = 1 ∨ q = 2 then s.rewindPend t (q - 1) else s

/-- TRANSLATION_FAULT: the descriptor's work runs into an access that does not translate. -/
def doTranslationFault (t q i : Nat) (s : State) : State :=
  match s.faultAhead t q i with
  | some (e, x, s) => (s.rewindBank t q).failEntry t q e x
  | none => s

/-- The local address of a MEM register of stack 0. -/
def memReg (off : Nat) : Nat := edgeBase + off

/-- Let a strand go on, unless another of its descriptors has a pending fault. -/
def State.unparkFor (s : State) (t : Nat) (e : QEntry) : State :=
  let v := s.tile t
  match e.org with
  | .strand k =>
    let other := (List.range 7).any (fun q => (v.queue q).any (fun x => v.faulted q x && x.org == .strand k))
    if other then s else s.unparkStrand t k
  | _ => s

def State.clearFault (s : State) (t q : Nat) : State :=
  s.modTile t (fun v => { v with faults := v.faults.set q FaultReg.none })

/-- Settle the pending fault of a queue (R277). A fault of a grid that has been stopped ends its descriptor either way, with no
record. -/
def State.xlResume (s : State) (t q w : Nat) (abort : Bool) : State :=
  let fr := (s.tile t).faultReg q
  match (if t < 1024 && fr.pend then s.entry t q fr.entry else none) with
  | none => s.csrAcc w (memReg 0x1088)
  | some e =>
    let s := s.clearFault t q
    if s.stopping e then s.abandonEntry t q e
    else if abort then
      let r := { s.descRec t q e clsContained cXlAbort with info0 := BitVec.ofNat 64 fr.reason, addr := fr.addr }
      ((s.detect r).endIssuer t e).abandonEntry t q e
    else s.unparkFor t e

def doXlresumeRetry (t q w : Nat) (s : State) : State := s.xlResume t q w false
def doXlresumeAbort (t q w : Nat) (s : State) : State := s.xlResume t q w true

/-! ### Failed host accesses (R335) -/

/-- The next host access of a descriptor, or of work outside the queues (queue 7), will fail. -/
def State.armFail (s : State) (t q seq : Nat) : State := { s with host := { s.host with fail := s.host.fail ++ [(t, q, seq)] } }

/-- The tile that work outside the queues counts as: a fold's own, 0x912 for the code copy of a launch. -/
def sideTile (t id : Nat) : Nat := if 2048 ≤ id ∧ id < 4096 then uHost else t

/-- The host access that place `i` of a queue makes next fails with HOSTERR: a running descriptor is parked as by any fault, and one that is
about to start meets the failure at its start. In queue 7 `i` is the number of a fold, of a code copy or of a restore, which meets it at its
next host access. -/
def State.hostFails (s : State) (t q i : Nat) : State :=
  if q = 7 then s.armFail (sideTile t i) 7 i
  else match ((s.tile t).queue q)[i]? with
    | none => s
    | some e =>
      if e.ph = .waiting then (if ((s.tile t).next q).any (fun x => x.1 == i) then s.armFail t q e.seq else s)
      else match (s.armFail t q e.seq).faultAhead t q i with
        | some (e, .fault 8 a ad, s') => (s'.rewindBank t q).failEntry t q e (.fault 8 a ad)
        | _ => s

def doHostAccessFailed (t q i : Nat) (s : State) : State := s.hostFails t q i

/-- ADAPTER_RESET: every host access in flight fails in this way, those of running descriptors and of work outside the queues. -/
def doAdapterReset (s : State) : State :=
  let s := s.tiles.foldl (fun (s : State) (p : Nat × Tile) =>
    (List.range 7).foldl (fun (s : State) (q : Nat) =>
      ((s.tile p.1).queue q).zipIdx.foldl (fun (s : State) (e : QEntry × Nat) =>
        if e.1.ph = .waiting then s else s.hostFails p.1 q e.2) s) s) s
  s.side.foldl (fun (s : State) (e : QEntry) => s.hostFails (e.seq / 2) 7 e.seq) s

/-! ### Posted writes (R15, R461) -/

/-- The keys of the posted domains: translation 0, power 1, management 2, eft 3, update of stack n 4 + n. -/
def domXl : Nat := 0
def domPwr : Nat := 1
def domMp : Nat := 2
def domEft : Nat := 3
def domUpd (n : Nat) : Nat := 4 + n

/-- A posted write waits in the domain (WBUSY). -/
def State.wbusy (s : State) (d : Nat) : Bool := (smGet none s.posted d).isSome

def State.clearPost (s : State) (d : Nat) : State := { s with posted := smSet none s.posted d none }

/-- Post a write; one that arrives while WBUSY is set has no effect and is logged (R15). -/
def State.postWrite (s : State) (d w a : Nat) (v : W64) : State :=
  if s.wbusy d then s.csrAcc w a else { s with posted := smSet none s.posted d (some (a, v, w)) }

/-! ### The translation domain (R266, R270) -/

def doMemXlinv (v : W64) (w : Nat) (s : State) : State := s.postWrite domXl w (memReg 0x1080) v

/-- A cached leaf that a MEM_XLINV drops (R270): bit 4 every context, bit 5 the page only. -/
def xlinvHits (v : W64) (l : XlLine) : Bool :=
  (v.getLsbD 4 || l.ctx == bitsOf v.toNat 0 4) && (!v.getLsbD 5 || l.page == bitsOf v.toNat 21 27)

/-- Drop the matching translations in every tile and every receiving port. -/
def State.dropCached (s : State) (hit : XlLine → Bool) : State :=
  let keep (c : List XlLine) : List XlLine := c.filter (fun l => !hit l)
  let s := s.tiles.foldl (fun (s : State) (p : Nat × Tile) =>
    s.modTile p.1 (fun v => { v with dma := { v.dma with cache := keep v.dma.cache } })) s
  { s with lnk := { s.lnk with ports := s.lnk.ports.map (fun x => { x with cache := keep x.cache }) } }

/-- XLINV_COMPLETE: the posted invalidation has been carried out everywhere, every access to another device that used a dropped entry
has ended, and WBUSY clears. -/
def doXlinvComplete (s : State) : State :=
  match smGet none s.posted domXl with
  | some (a, v, _) =>
    if a = memReg 0x1080 ∧ s.remotes.any (fun r => r.page != noPage && xlinvHits v ⟨r.ctx, r.page, 0#64⟩) = false then
      let s := (s.dropCached (xlinvHits v)).clearPost domXl
      { s with xl := { s.xl with inv := v &&& 0xFFFFFFE0003F#64 } }
    else s
  | none => s

/-- A write of MEM_XLROOT_n is posted; it takes effect at WBUSY_CLEAR. -/
def doMemXlrootWrite (n : Nat) (v : W64) (w : Nat) (s : State) : State :=
  if n < 16 then s.postWrite domXl w (memReg (0x1000 + 8 * n)) v else s

/-- The root and EN of context `n` take effect; the context's cached entries drop (R266). -/
def State.setRoot (s : State) (n : Nat) (v : W64) : State :=
  let s := s.dropCached (fun l => l.ctx == n)
  { s with xl := { s.xl with roots := s.xl.roots.set n (v &&& 0xFFFFFFFFF001#64) } }

def execDescriptorComplete (t q i : Nat) (s : State) : Out := .next (doDescriptorComplete t q i s)
def execHevent (t : Nat) (s : State) : Out := .next (doHevent t s)
def execTranslationFault (t q i : Nat) (s : State) : Out := .next (doTranslationFault t q i s)
def execXlresumeRetry (t q w : Nat) (s : State) : Out := .next (doXlresumeRetry t q w s)
def execXlresumeAbort (t q w : Nat) (s : State) : Out := .next (doXlresumeAbort t q w s)
def execHostAccessFailed (t q i : Nat) (s : State) : Out := .next (doHostAccessFailed t q i s)
def execAdapterReset (s : State) : Out := .next (doAdapterReset s)
def execMemXlinv (v : W64) (w : Nat) (s : State) : Out := .next (doMemXlinv v w s)
def execXlinvComplete (s : State) : Out := .next (doXlinvComplete s)
def execMemXlrootWrite (n : Nat) (v : W64) (w : Nat) (s : State) : Out := .next (doMemXlrootWrite n v w s)

end Sys2Proof.Machine
end

