-- ==== Sys2Proof/Machine/Preempt.lean ====
section
/-! DEFINITION. Pre-emption: save and restore of a context (R279–R285). -/

namespace Sys2Proof.Machine

/-! ### The save area (R279) -/

def partBytes : Nat := 0x600000
def saveBase (s : State) (c : Nat) : Nat := bitsOf ((s.xl.savebase[c]?).getD 0#64).toNat 21 27 * 0x200000
def partAt (base t : Nat) : Nat := base + t * partBytes

/-- The whole save area lies in usable DRAM (R282). -/
def areaOk (base : Nat) : Bool := base + 1024 * partBytes ≤ dramTop

/-- Replace `len` bytes of a memory from `d` by the bytes of another from `o`, with their check codes; all are multiples
of 4. -/
def Mem.blit (dst src : Mem) (o d len : Nat) : Mem :=
  let keep := dst.bytes.filter (fun c => !(d ≤ c.1 && c.1 < d + len))
  let keepS := dst.syn.filter (fun c => !(d ≤ 4 * c.1 && 4 * c.1 < d + len))
  let add := src.bytes.filter (fun c => o ≤ c.1 && c.1 < o + len)
  let addS := src.syn.filter (fun c => o ≤ 4 * c.1 && 4 * c.1 < o + len)
  { bytes := add.foldl (fun m c => smSet 0#8 m (c.1 - o + d) c.2) keep
    syn := addS.foldl (fun m c => smSet 0#7 m (c.1 - o / 4 + d / 4) c.2) keepS }

/-- The tags of the DRAM blocks of a range are recomputed over what was written (R262). -/
def State.freshTags (s : State) (d len : Nat) : State :=
  { s with dramRind := s.dramRind.filter (fun x => !(d ≤ 4096 * x.1 && 4096 * x.1 < d + len)) }

/-- A memory as its transfers read it: words with one bit in error are corrected on the way (R259). -/
def Mem.inFlight (m : Mem) : Mem := m.syn.foldl (fun (m : Mem) (x : Nat × BitVec 7) => m.heal (4 * x.1)) m

/-- What reading `len` bytes of a memory at the places `loc` logs and marks (R259, R425): words with clean check bits have no part in it. -/
def State.readFlaws (s : State) (m : Mem) (loc : Nat → Loc) (o len ctx : Nat) : State :=
  (m.syn.filter (fun x => o ≤ 4 * x.1 && 4 * x.1 < o + len)).foldl (fun s x => (s.readLoc (loc (4 * x.1)) (some ctx)).2) s

/-- Write `n` free 8-byte values to DRAM: the parts of the save area whose layout is not given. -/
def State.freeFill (s : State) (a : Nat) : Nat → State
  | 0 => s
  | n + 1 =>
    let (v, s) := s.draw
    let s : State := { s with dram := (s.dram.put32 a (v.setWidth 32) false).put32 (a + 4) ((v >>> 32).setWidth 32) false }
    s.freeFill (a + 8) n

/-- Words at physical addresses as bytes, and whether one reads as poisoned. -/
def State.physBytes (s : State) (a : Nat) : Nat → (List Byte × Bool) × State
  | 0 => (([], false), s)
  | n + 1 =>
    let (w, s) := s.readLoc (locOf a) none
    let (r, s) := s.physBytes (a + 4) n
    ((leBytes 4 w.1.toNat ++ r.1, w.2 || r.2), s)

/-- Write bytes of a save area, with fresh check codes. -/
def State.putArea (s : State) (a : Nat) (l : List Byte) : State := { s with dram := s.dram.putBytes a l }

/-- The first of a queue's places among the 296 queue entries of a part (R52, R279), in queue order (DEDUCED, log 58). -/
def areaSlot (q : Nat) : Nat := ((List.range q).map queueDepth).sum

/-- The address of place `i` of queue `q` in the part at `a`. -/
def areaEntry (a q i : Nat) : Nat := a + 0x2000 + 64 * (areaSlot q + i)

/-- The stored rind tag of block `i` of a scratchpad (R261). -/
def Tile.spadTag (v : Tile) (i : Nat) : W32 := crc32c (v.spad.get (4096 * i) 4096) ^^^ smGet 0#32 v.rind i

/-! ### Requests (R15, R280, R282, R283) -/

def preOp (v : W64) : Nat := bitsOf v.toNat 4 2

/-- A write of MEM_PREEMPT is posted (R15); a request while one is in progress has no effect and is logged (R282). -/
def State.postPreempt (s : State) (w : Nat) (v : W64) : State :=
  if s.xl.state = 1 ∧ (preOp v = 1 ∨ preOp v = 2) then s.csrAcc w (memReg 0x1180) else s.postWrite domXl w (memReg 0x1180) v

/-- A request that breaks a condition sets STATE to FAILED (R282); else the operation on context `c` begins. -/
def State.preRequest (s : State) (c : Nat) (ok : Bool) (p : PrePhase) : State :=
  if ok then { s with xl := { s.xl with ctx := c, cur := c, op := 0, state := 1, phase := p } }
  else { s with xl := { s.xl with ctx := c, op := 0, state := 3 } }

/-- A posted write of MEM_PREEMPT takes effect: a save of the running context, a restore of a saved one, or, with OP 0 or 3, no
request. -/
def State.applyPreempt (s : State) (v : W64) : State :=
  let c := bitsOf v.toNat 0 4
  if preOp v = 1 then s.preRequest c (s.xl.runCtx == some c && areaOk (saveBase s c)) .stopping
  else if preOp v = 2 then
    s.preRequest c (s.xl.runCtx.isNone && (smGet none s.xl.saved c).isSome && areaOk (saveBase s c)) .loading
  else { s with xl := { s.xl with ctx := c, op := preOp v } }

/-- PREEMPT_SAVE: the request is posted; as it takes effect (WBUSY_CLEAR), every tile is held and the engines run to their stop
points. -/
def doPreemptSave (v : W64) (w : Nat) (s : State) : State := if preOp v = 1 then s.postPreempt w v else s

/-! ### Save -/

/-- A descriptor of the matrix, vector or mover engine stands at its stop point (R280): it does not run, it has reached it, its fault
is pending, or it can commit no tile because the finished-block queue is full. -/
def Tile.atStop (v : Tile) (q : Nat) (e : QEntry) : Bool :=
  e.ph != .running || e.halt || v.faulted q e || (q == 0 && dOp e.d != 0x24 && mmFbq e.d && v.fbqFull)

/-- No press runs; one whose fault is pending is kept with its progress record (R166, R280). -/
def Tile.pressStopped (v : Tile) : Bool :=
  match v.prs.running with
  | none => true
  | some r => !r.fold && ((v.faults[3]?).getD FaultReg.none).pend

/-- A tile has stopped (R280): no press, no fold, no vector with companion work to come, no sample in the shadow unit, no
commit that waits, its matrix, vector and mover descriptors at their stop points, and its edge descriptors completed or waiting in a
pending fault. -/
def Tile.stopped (v : Tile) : Bool :=
  v.pressStopped && !(v.bank 0).fold.run && !(v.bank 1).fold.run && (v.bank 0).run.pend.isEmpty && (v.bank 0).run.fbDue.isEmpty &&
  (v.bank 1).run.fbDue.isEmpty &&
  (v.bank 1).run.pend.isEmpty && v.shadow.sample.isNone && v.commits.isEmpty &&
  [0, 4, 5].all (fun q => (v.queue q).all (v.atStop q)) &&
  (v.queue 6).all (fun e => e.ph == .waiting || v.faulted 6 e)

/-- Sources that hold the transfers of a save or restore: droop gating, a fatal hold (R281). -/
def State.transfersHeld (s : State) : Bool := s.holds.droop != 0#64 || s.holds.fatal

/-- A strand that a save parks (R42), with the state that it goes back to. -/
def Strand.saved (x : Strand) : Strand :=
  match x.st with
  | .free => x
  | .done => x
  | .parked => x
  | st => { x with st := .parked, prior := st }

def Tile.save (v : Tile) : SavedTile :=
  { scu := { v.scu with strands := v.scu.strands.map (fun p => (p.1, p.2.saved)) }
    queues := v.queues, faults := v.faults, seed := v.seed, mxSeq := v.mxSeq, vcSeq := v.vcSeq
    banks := v.arr.banks, fbq := v.vec.fbq, rind := v.rind, press := v.prs.running }

/-- What a saved tile keeps of the job: nothing of its strands, queues, faults, finished blocks and folds. -/
def Tile.vacate (v : Tile) : Tile :=
  let v : Tile := { v with
    scu := { v.scu with strands := [] }, queues := List.replicate 7 [], faults := List.replicate 7 FaultReg.none
    vec := { v.vec with fbq := [[], [], []] }, prs := { v.prs with running := none } }
  { v with arr := { v.arr with banks := v.arr.banks.map (fun k => { k with fold := Fold.reset, run := ARun.none }) } }

/-- The mover of tile `t` writes its part (R279): the layout version, the scratchpad's tags, the descriptors of the queues, the scratchpad
and the vat at their places, words with one bit in error corrected as they are read (R259); what has no stated place inside its piece is
free. -/
def State.saveTile (s : State) (base t : Nat) : State :=
  let a := partAt base t
  let v := s.tile t
  let s := s.readFlaws v.spad (.spad t) 0 0x300000 s.xl.cur
  let s := s.readFlaws v.vat (.vat t) 0 0x200000 s.xl.cur
  let s := s.freeFill a (0x50000 / 8)
  let v := s.tile t
  let s := s.putArea a (leBytes 2 1)
  let s := s.putArea (a + 0x400) (((List.range 768).map (fun i => leBytes 4 (v.spadTag i).toNat)).flatten)
  let s := (List.range 7).foldl (fun (s : State) (q : Nat) => (v.queue q).zipIdx.foldl (fun (s : State) (p : QEntry × Nat) =>
    let b := areaEntry a q p.2
    let s := s.putArea b (leBytes 64 p.1.d.toNat)
    { s with dram := p.1.syn.foldl (fun (m : Mem) (y : Nat × BitVec 7) => m.setSyn (b + 4 * y.1) y.2) s.dram }) s) s
  let m := (s.dram.blit v.spad.inFlight 0 (a + 0x50000) 0x300000).blit v.vat.inFlight 0 (a + 0x350000) 0x200000
  { s with dram := m }.freshTags a 0x550000

/-- PREEMPT_SAVE_WRITE: every tile has stopped, no READY or ABANDON is in the clutch functions (R280: descriptors handed to edge units
complete), all event traffic has arrived, and the movers write the save areas. -/
def doPreemptSaveWrite (s : State) : State :=
  if s.xl.phase = .stopping ∧ s.tiles.all (fun p => p.2.stopped) ∧ s.clu.readies = [] ∧ s.clu.abandons = [] ∧ s.remotes = [] ∧ s.evts = [] ∧ s.transfersHeld = false then
    let base := saveBase s s.xl.cur
    let fill := s.freeCtr
    let s := (List.range 1024).foldl (fun s t => s.saveTile base t) s
    let kept : SavedCtx := ⟨s.tiles.map (fun p => (p.1, p.2.save)), s.mode.mepoch, [],
      (s.grids.filter (fun g => g.stopping && g.ctx == s.xl.cur)).map (·.num), fill⟩
    let s : State := { s with
      tiles := s.tiles.foldl (fun m p => smSet Tile.reset m p.1 p.2.vacate) s.tiles
      xl := { s.xl with phase := .writing, saved := smSet none s.xl.saved s.xl.cur (some kept) } }
    s
  else s

/-- A PREEMPT frame (R339). -/
def State.preFrame (s : State) (op : Nat) : State :=
  s.post (some s.xl.cur) 0x04 (leBytes 1 s.xl.cur ++ leBytes 1 op ++ leBytes 1 s.xl.state)

/-- PREEMPT_SAVE_DONE: the context is saved, and no context runs. -/
def doPreemptSaveDone (s : State) : State :=
  if s.xl.phase = .writing ∧ s.transfersHeld = false then
    ({ s with xl := { s.xl with state := 2, phase := .idle, runCtx := none } }).preFrame 1
  else s

/-! ### Restore (R283, R284, R205) -/

/-- What verify finds in the press of a restore. -/
def State.drawOut (s : State) : PressOut × State :=
  let cells := (Config.freeCells s.freeCtr).map (fun l => l.map (fun c => (⟨c.1, c.2.1, c.2.2.1, c.2.2.2.1, c.2.2.2.2⟩ : CellFail)))
  (⟨cells.headD [], cells.tail, (Config.freeIters s.freeCtr), []⟩, { s with freeCtr := s.freeCtr + 1 })

/-- A restored bank could not be brought to its image: it is set empty, and a record of class contained names tile and bank. -/
def State.restoreFails (s : State) (t b c : Nat) (a : W64) : State :=
  (s.modTile t (fun v => v.modBank b Bank.emptied)).detect
    { mkRec clsContained cRestoreDig t with sub := 4 * b, ctx := some c, addr := a }

/-- No work outside the queues has this number: an image that a leaf with G set maps cannot be read at a restore (R283). -/
def restoreId : Nat := 4096

/-- The bank check of R283: the bank is emptied, kept, or pressed again from the saved image. -/
def State.checkBank (s : State) (t b c : Nat) (k : Bank) : State :=
  let now := (s.tile t).bank b
  if k.fmt = 0 then s.modTile t (fun v => v.modBank b Bank.emptied)
  else if now.fmt = k.fmt ∧ now.digest = k.digest then s
  else match k.press with
    | none => s.restoreFails t b c 0#64
    | some (d, _) =>
      let g : Agent := ⟨t, t, c, 7, restoreId, true⟩
      match foldParts t g d 1025 0 [] s with
      | (some (.fault _ _ ad), _, s) => s.restoreFails t b c (BitVec.ofNat 64 ad)
      | (some _, _, s) => s.restoreFails t b c 0#64
      | (none, parts, s) =>
        let (out, s) := s.drawOut
        let s := s.pressDone t b 1 true false d c { mkRec clsDeferred cPoisonData t with ctx := some c } parts out
        if ((s.tile t).bank b).digest = k.digest then s else s.restoreFails t b c 0#64

/-- Correction slot, FGEN, fold state and INDEX flag apply once the check is done; a due fold is disarmed under USE = 1
(R402). -/
def State.reapplyBank (s : State) (t b : Nat) (k : Bank) : State :=
  let use := s.mode.use
  s.modTile t (fun v => v.modBank b (fun x => { x with
    corr := k.corr, fgen := k.fgen, idx := if x.fmt = 0 then false else k.idx
    fold := if use && k.fold.armed then { k.fold with armed := false, due := false } else k.fold
    run := k.run }))

/-- Words at physical addresses, each with whether it reads as poisoned. -/
def State.physWords (s : State) (a : Nat) : Nat → List (W32 × Bool) × State
  | 0 => ([], s)
  | n + 1 =>
    let (w, s) := s.readLoc (locOf a) none
    let (r, s) := s.physWords (a + 4) n
    (w :: r, s)

/-- The entries of a saved queue with the descriptors that its places in the area hold; a word that reads as poisoned stays so (R259). -/
def State.loadEntries (s : State) (a q : Nat) : Nat → List QEntry → List QEntry × State
  | _, [] => ([], s)
  | i, e :: l =>
    let (ws, s) := s.physWords (areaEntry a q i) 16
    let (r, s) := s.loadEntries a q (i + 1) l
    let syn := ws.zipIdx.foldl (fun (m : SMap (BitVec 7)) (w : (W32 × Bool) × Nat) => if w.1.2 then smSet 0#7 m w.2 poisonSyn else m) []
    ({ e with d := BitVec.ofNat 512 (leVal (ws.map (fun w => leBytes 4 w.1.toNat)).flatten), syn := syn } :: r, s)

/-- The queues of a saved tile as its part of the area holds them. -/
def State.loadQueues (s : State) (a : Nat) : Nat → List (List QEntry) → List (List QEntry) × State
  | _, [] => ([], s)
  | q, l :: r =>
    let (l, s) := s.loadEntries a q 0 l
    let (r, s) := s.loadQueues a (q + 1) r
    (l :: r, s)

/-- The scratchpad with its tags and the vat come back from DRAM, words with one bit in error corrected as they are read (R259); the
counters are reloaded. -/
def State.loadTile (s : State) (base t : Nat) (k : SavedTile) : State :=
  let a := partAt base t
  let s := s.readFlaws s.dram locOf (a + 0x50000) 0x500000 s.xl.cur
  let m := s.dram.inFlight
  let r := s.physBytes (a + 0x400) 768
  r.2.modTile t (fun v =>
    let v : Tile := { v with
      spad := v.spad.blit m (a + 0x50000) 0 0x300000
      vat := v.vat.blit m (a + 0x350000) 0 0x200000
      rind := []
      scu := { v.scu with ctrs := k.scu.ctrs } }
    { v with rind := (List.range 768).foldl (fun (m : SMap W32) (i : Nat) =>
        smSet 0#32 m i (v.spadTag i ^^^ BitVec.ofNat 32 (lField r.1.1 (4 * i) 4))) [] })

def SavedTile.fresh : SavedTile := (Tile.reset).save

/-- The saved state of tile `t` of context `c`. -/
def State.savedTile (s : State) (c t : Nat) : SavedTile :=
  match smGet none s.xl.saved c with
  | some k => smGet SavedTile.fresh k.tiles t
  | none => SavedTile.fresh

def State.setSaved (s : State) (c t : Nat) (v : SavedTile) : State :=
  match smGet none s.xl.saved c with
  | some k =>
    let k' : SavedCtx := { k with tiles := smSet SavedTile.fresh k.tiles t v }
    { s with xl := { s.xl with saved := smSet none s.xl.saved c (some k') } }
  | none => s

/-- A byte of the first pieces of a part that has a stated place: the layout version, the tags, the queue descriptors (R279). -/
def areaPlaced (j : Nat) : Bool := decide (j < 2) || between 0x400 j 0xFFF || between 0x2000 j (0x2000 + 64 * 296 - 1)

/-- The pieces of a part still hold the free bytes, from number `n` on, that the save wrote where no place is stated. -/
def areaIntact (n : Nat) (l : List Byte) : Bool :=
  l.zipIdx.all (fun x => areaPlaced x.2 || x.1 == (Config.freeBits (n + x.2 / 8) >>> (8 * (x.2 % 8))).setWidth 8)

/-- A sparse map in its canonical form. -/
def smNorm {α : Type} [DecidableEq α] (d : α) (m : SMap α) : SMap α := m.foldl (fun m p => smSet d m p.1 p.2) []

/-- The state of tile `t` of context `c` as a restore reads it from the tile's part of the save area (R283, R284): counters, seeds, strands,
bank data and progress records. -/
def State.readPart (s : State) (base c t : Nat) : SavedTile × State :=
  let fill := match smGet none s.xl.saved c with | some k => k.fill | none => 0
  let ((l, bad), s) := s.physBytes (partAt base t) (0x50000 / 4)
  if !bad && areaIntact (fill + 0x50000 / 8 * t) l then (s.savedTile c t, s)
  else
    let k := Config.savedOf l
    ({ k with scu := { k.scu with strands := smNorm Strand.none k.scu.strands, ctrs := smNorm 0#32 k.scu.ctrs } }, s)

/-- One tile's part of a restore: its memories, its queues, its bank checks, and the folds that came due (R205). -/
def State.restoreTile (s : State) (base c t : Nat) : State :=
  let (v, s) := s.readPart base c t
  let (qs, s) := s.loadQueues (partAt base t) 0 v.queues
  let s := (s.setSaved c t { v with queues := qs }).loadTile base t v
  let s := v.banks.zipIdx.foldl (fun s p => (s.checkBank t p.2 c p.1).reapplyBank t p.2 p.1) s
  [0, 1].foldl (fun s b => if ((s.tile t).bank b).fold.due then s.beginFold t b s.epoch else s) s

/-- PREEMPT_RESTORE: the request is posted; as it takes effect (WBUSY_CLEAR) the transfers that reload the save areas may run. -/
def doPreemptRestore (v : W64) (w : Nat) (s : State) : State := if preOp v = 2 then s.postPreempt w v else s

/-- A strand goes back to its state, unless a descriptor of its own has a pending fault. -/
def SavedTile.strandBack (k : SavedTile) (slot : Nat) (x : Strand) : Strand :=
  let faulted := k.queues.zipIdx.any (fun p => p.1.any (fun e => k.faulted p.2 e && e.org == .strand slot))
  if x.st = .parked ∧ faulted = false then { x with st := x.prior } else x

/-- The read of a bank that a restore resumes: a fold that ran at the restore has put the slot into the image (R203). The fold does not wait
for this read, which goes on over the folded image with its copy of the slot at rank 0 (DESIGN CHOICE, log 59: R205 runs the fold before
the queues restart, R190 and R202 make a DELTA wait for a running READ). -/
def resumeRun (saved now : Bank) : ARun :=
  if saved.fgen = now.fgen then now.run else { now.run with corr := { now.run.corr with rank := 0 } }

/-- A tile re-enters the saved state: strands, queues, faults, seeds and finished blocks; counter 63 gains 1 (R284). -/
def Tile.reenter (v : Tile) (k : SavedTile) : Tile :=
  let v : Tile := { v with
    scu := { v.scu with
      strands := k.scu.strands.map (fun p => (p.1, k.strandBack p.1 p.2))
      clock := max v.scu.clock k.scu.clock, nextSeq := max v.scu.nextSeq k.scu.nextSeq }
    queues := k.queues.map (fun l => l.map (fun e => { e with halt := false }))
    faults := k.faults
    seed := k.seed
    mxSeq := k.mxSeq
    vcSeq := k.vcSeq
    vec := { v.vec with fbq := k.fbq }
    prs := { v.prs with running := k.press } }
  let v := k.banks.zipIdx.foldl (fun (v : Tile) (p : Bank × Nat) => v.modBank p.2 (fun b => { b with run := resumeRun p.1 b })) v
  v.setCtr 63 (v.ctr 63 + 1)

/-- The transfers of a restore reload the save areas, and the banks are checked. -/
def State.loadAll (s : State) : State :=
  let c := s.xl.cur
  let s : State := { s with xl := { s.xl with phase := .restoring } }
  (List.range 1024).foldl (fun s t => s.restoreTile (saveBase s c) c t) s

/-- Tile `t` re-enters what context `c` has saved of it, without the grids that were stopped meanwhile; the slots of strands that have
ended with nothing left return to FREE (R42). -/
def State.reenterTile (s : State) (c t : Nat) : State :=
  let ended := match smGet none s.xl.saved c with | some k => k.ended | none => []
  let s := s.modTile t (fun v => v.reenter ((s.savedTile c t).endGrids ended))
  (s.tile t).scu.strands.foldl (fun s p => s.reap t p.1) s

/-- The tiles re-enter, and strands may issue again. One record of class contained per source device tells of requests discarded
meanwhile (R285). -/
def State.finishRestore (s : State) : State :=
  let c := s.xl.cur
  let s := (List.range 1024).foldl (fun (s : State) (t : Nat) => s.reenterTile c t) s
  let s : State := { s with xl := { s.xl with
    state := 2, phase := .idle, runCtx := some c, saved := smSet none s.xl.saved c none } }
  let mine := s.lnk.discards.filter (fun d => d.ctx == c)
  let s : State := { s with lnk := { s.lnk with discards := s.lnk.discards.filter (fun d => d.ctx != c) } }
  let s := mine.foldl (fun (s : State) (d : Discard) =>
    s.detect { mkRec clsContained cDiscard uMgmt with ctx := some c, addr := BitVec.ofNat 64 d.src }) s
  s.preFrame 2

/-- No fold of the restore runs any more. -/
def State.foldsDone (s : State) : Bool := s.tiles.all (fun p => !(p.2.bank 0).fold.run && !(p.2.bank 1).fold.run)

/-- PREEMPT_RESTORE_DONE: the areas are reloaded, the bank checks and due folds end, and the restore is done. Droop gating and a fatal
hold hold the transfers (R281). -/
def doPreemptRestoreDone (s : State) : State :=
  if s.transfersHeld then s
  else
    let s := if s.xl.phase = .loading then s.loadAll else s
    if s.xl.phase = .restoring ∧ s.foldsDone = true then s.finishRestore else s

def execPreemptSave (v : W64) (w : Nat) (s : State) : Out := .next (doPreemptSave v w s)
def execPreemptSaveWrite (s : State) : Out := .next (doPreemptSaveWrite s)
def execPreemptSaveDone (s : State) : Out := .next (doPreemptSaveDone s)
def execPreemptRestore (v : W64) (w : Nat) (s : State) : Out := .next (doPreemptRestore v w s)
def execPreemptRestoreDone (s : State) : Out := .next (doPreemptRestoreDone s)

end Sys2Proof.Machine
end

