-- ==== Sys2Proof/Machine/Grid.lean ====
section
/-! DEFINITION. Submission rings, grids, event rings (R63–R66, R337–R339). -/

namespace Sys2Proof.Machine

/-! ### Submission rings (R337) -/

def State.ring (s : State) (r : Nat) : SqRing := (s.sq[r]?).getD ⟨false, 0, 4, 0#64, 0#16, 0#16, none⟩

def State.modRing (s : State) (r : Nat) (f : SqRing → SqRing) : State := { s with sq := modAt s.sq r f }

def SqRing.usable (r : SqRing) : Bool := 4 ≤ r.log2n && r.log2n ≤ 12

/-- A GRID frame (R339). -/
def State.gridFrame (s : State) (ring status idx num : Nat) (arg ctx : Nat) : State :=
  s.post (some ctx) 0x01
    (leBytes 1 ring ++ leBytes 1 status ++ leBytes 2 idx ++ leBytes 1 num ++ leBytes 3 0 ++ leBytes 8 arg)

def gArg (r : List Byte) : Nat := gField r 32 8
def gCode (r : List Byte) : Nat := gField r 0 8
def gBytes (r : List Byte) : Nat := gField r 8 4
def gOfs (r : List Byte) : Nat := gField r 12 4
def gEntry (r : List Byte) : Nat := gField r 16 4

/-- The checks of a grid record (R63); reserved bytes are 0 and the entry lies in the code. -/
def gridOk (r : List Byte) : Bool :=
  gCode r % 64 == 0 && 4 ≤ gBytes r && gBytes r ≤ 262144 && gBytes r % 4 == 0 && gOfs r % 64 == 0 &&
  gOfs r + gBytes r ≤ 0x300000 && gEntry r % 4 == 0 && gEntry r < gBytes r && 1 ≤ gStrands r && gStrands r ≤ 2048 &&
  gRow0 r ≤ 31 && gCol0 r ≤ 31 && 1 ≤ gRows r && gRows r ≤ 32 && 1 ≤ gCols r && gCols r ≤ 32 &&
  gRow0 r + gRows r ≤ 32 && gCol0 r + gCols r ≤ 32 && gField r 26 6 == 0 && gField r 40 24 == 0

/-- The port reads the next record of a ring that it may take from, and HEAD moves on (R337). A poisoned record is
contained with cause POISONCTL (R427), and one that breaks R63 is refused (R64); neither launches. Any other waits to be launched.
The grid number in the frame of a record that never launches is 0 (DESIGN CHOICE, log 57). -/
def State.takeRecord (s : State) (r : Nat) : State :=
  let x := s.ring r
  if r < 16 ∧ x.en = true ∧ x.usable = true ∧ x.held = none ∧ x.head ≠ x.tail then
    let i := x.head.toNat
    let a := bitsOf x.base.toNat 12 36 * 4096 + 64 * (i % 2 ^ x.log2n)
    let ((l, p), s) := s.physBytes a 16
    let s := s.modRing r (fun x => { x with head := x.head + 1 })
    if p then
      (s.detect { mkRec clsContained cPoisonCtl uHost with ctx := some x.ctx, addr := BitVec.ofNat 64 a }).gridFrame
        r 3 i 0 (gArg l) x.ctx
    else if gridOk l then s.modRing r (fun x => { x with held := some (i, l) })
    else s.gridFrame r 1 i 0 (gArg l) x.ctx
  else s

/-- Take records until one waits to be launched or the ring is empty. -/
def State.takeRecords (s : State) (r : Nat) : Nat → State
  | 0 => s
  | n + 1 =>
    let x := s.ring r
    if x.held.isSome || x.head == x.tail then s else (s.takeRecord r).takeRecords r n

def sqReg (r : Nat) : Nat := edgeBase + 0x220000 + 0x1008 + 16 * r

/-- LNK_SQTAIL_r: the doorbell. A TAIL more than the ring's size ahead of HEAD is ignored and logged. -/
def doLnkSqtail (r : Nat) (v : W64) (w : Nat) (s : State) : State :=
  if r < 16 then
    let x := s.ring r
    let tail : W16 := v.setWidth 16
    if x.usable = false ∨ 2 ^ x.log2n < (tail - x.head).toNat then s.csrAcc w (sqReg r)
    else (s.modRing r (fun x => { x with tail := tail })).takeRecords r 4097
  else s

/-! ### Launch (R64, R65) -/

/-- The number of a ring's code copy among the work outside the queues. -/
def copyId (r : Nat) : Nat := 2048 + r

/-- Free strand slots of a tile, lowest first: the order in which a launch takes them (DESIGN CHOICE, log 57). -/
def Tile.freeSlots (v : Tile) : List Nat := (List.range 2048).filter (fun k => (v.strand k).st == .free)

/-- The grid of a record can launch now (R64, R265): its context may run, no other context runs, it is not saved, no save or
restore is under way, fewer than 16 grids are active, and every tile has the slots and is not gated by a droop: the code copy is mover work
that only rationing exempts (R408, R410). Grids of a saved context count among the 16
and keep their numbers (DESIGN CHOICE, log 57). -/
def State.launchable (s : State) (ctx : Nat) (rec' : List Byte) : Bool :=
  ((s.xl.roots[ctx]?).getD 0#64).getLsbD 0 && s.xl.phase == .idle &&
  (s.xl.runCtx == none || s.xl.runCtx == some ctx) && (smGet none s.xl.saved ctx).isNone && s.grids.length < 16 &&
  !s.holds.fatal && (gTiles rec').all (fun t => gStrands rec' ≤ (s.tile t).freeSlots.length && !((s.holdBits t)[0]?).getD false)

/-- The number of the next grid: the lowest not in use (DESIGN CHOICE, log 57). -/
def State.freeGrid (s : State) : Nat := ((List.range 16).find? (fun n => (s.gridOf n).isNone)).getD 0

/-- A strand at launch (R65). It has never issued: its stamp is 0, before every strand that has (R43; DESIGN CHOICE, log 57). -/
def startStrand (rec' : List Byte) (num lin loc : Nat) : Strand :=
  let x : Strand := { Strand.none with st := .ready, pc := BitVec.ofNat 32 (gOfs rec' + gEntry rec'), grid := num, lin := lin, loc := loc }
  ((x.setReg 1 (BitVec.ofNat 64 lin)).setReg 2 (BitVec.ofNat 64 (gArg rec'))).setReg 3 (BitVec.ofNat 64 loc)

/-- The mover of a tile writes the code, its strands become READY, and counter 60 gains 1 (R62, R65). -/
def State.launchTile (s : State) (rec' : List Byte) (num : Nat) (code : List (W32 × Bool)) (t : Nat) : State :=
  let s := code.zipIdx.foldl (fun (s : State) (p : (W32 × Bool) × Nat) =>
    s.writeLoc t (.spad t (gOfs rec' + 4 * p.2)) p.1.1 p.1.2) s
  let slots := (s.tile t).freeSlots
  let rank := gRank rec' t
  s.modTile t (fun v =>
    let v := (List.range (gStrands rec')).foldl (fun (v : Tile) (i : Nat) =>
      v.setStrand ((slots[i]?).getD 0) (startStrand rec' num (rank * gStrands rec' + i) i)) v
    let v : Tile := { v with dma := { v.dma with bytes := v.dma.bytes + BitVec.ofNat 64 (gBytes rec') } }
    v.setCtr 60 (v.ctr 60 + 1))

/-- The code copy of ring `r` begins, unless it waits for data of another device already. -/
def State.copyStart (s : State) (r ctx : Nat) : State :=
  if (s.entry uHost 7 (copyId r)).isSome then s else s.sideStart (copyId r) 0#512 ctx Run.start

/-- A request of the code copy of ring `r` has failed. -/
def State.copyFailed (s : State) (r : Nat) : Bool := (s.entry uHost 7 (copyId r)).any (fun e => e.ph == .finished)

/-- The ring lets its record go, and the next is taken. -/
def State.leaveRecord (s : State) (r : Nat) : State :=
  ((s.sideEnd (copyId r)).modRing r (fun x => { x with held := none })).takeRecords r 4097

/-- GRID_LAUNCH: the record that ring `r` holds launches when it can; the code is read once through the context's translation, from
another device where its leaf says so (R268), and a fault or a failed request there refuses the grid (R278). The ring's next record is
taken. -/
def doGridLaunch (r : Nat) (s : State) : State :=
  let x := s.ring r
  match x.held with
  | none => s
  | some (i, l) =>
    if s.launchable x.ctx l then
      let num := s.freeGrid
      let g : Agent := ⟨uHost, uHost, x.ctx, 7, copyId r, false⟩
      let s := s.copyStart r x.ctx
      if s.copyFailed r then (s.gridFrame r 2 i num (gArg l) x.ctx).leaveRecord r
      else match runUnit 1024 (xReadWords g (gCode l) (gBytes l / 4)) s with
        | (.error .wait, s) => s
        | (.error _, s) => (s.gridFrame r 2 i num (gArg l) x.ctx).leaveRecord r
        | (.ok code, s) =>
          let s : State := { s with
            grids := s.grids ++ [(⟨num, r, x.ctx, i, l, false⟩ : Grid)], xl := { s.xl with runCtx := some x.ctx } }
          ((gTiles l).foldl (fun s t => s.launchTile l num code t) s).leaveRecord r
    else s

/-! ### The ends of a grid (R66) -/

/-- The grid is no longer active; with the last of its context, no context runs (R265). -/
def State.dropGrid (s : State) (g : Grid) : State :=
  let rest := s.grids.filter (fun x => x.num != g.num)
  let run := if rest.any (fun x => x.ctx == g.ctx) then s.xl.runCtx
    else if s.xl.runCtx = some g.ctx then none else s.xl.runCtx
  { s with grids := rest, xl := { s.xl with runCtx := run } }

/-- A contained action that is due will stop the grids of context `c`, the running one (R422). -/
def State.stopDue (s : State) (c : Nat) : Bool := s.err.contDue.contains c

/-- GRID_COMPLETE: each tile of the grid adds 1 to counter 61, and the completion event is posted. A grid that a detected error is
about to stop does not complete (R66). -/
def doGridComplete (num : Nat) (s : State) : State :=
  match s.gridOf num with
  | none => s
  | some g =>
    if g.stopping = false ∧ s.stopDue g.ctx = false ∧ s.xl.runCtx = some g.ctx ∧ s.gridDone g = true then
      let s := (gTiles g.record).foldl (fun s t => s.modTile t (fun v => v.setCtr 61 (v.ctr 61 + 1))) s
      (s.dropGrid g).gridFrame g.ring 0 g.idx g.num (gArg g.record) g.ctx
    else s

/-- GRID_ERROR_COMPLETION: a stopped grid has drained; a pending fault of it holds the event back until it is settled. -/
def doGridErrorCompletion (num : Nat) (s : State) : State :=
  match s.gridOf num with
  | none => s
  | some g =>
    if g.stopping = true ∧ s.gridDone g = true then (s.dropGrid g).gridFrame g.ring 3 g.idx g.num (gArg g.record) g.ctx
    else s

/-! ### Event rings (R338) -/

def EqRing.size (r : EqRing) : Nat := 2 ^ r.log2n

/-- PHASE of the next frame: 1 on the first pass after EN is set, and it flips at each wrap. -/
def EqRing.phase (r : EqRing) : Bool := (r.tail.toNat / r.size % 2 == 1) == r.pass0

/-- The 64 bytes of a frame. -/
def frameBytes (typ : Nat) (phase : Bool) (eseq : Nat) (body : List Byte) : List Byte :=
  leBytes 1 typ ++ leBytes 1 (b2n phase) ++ leBytes 2 0 ++ leBytes 4 eseq ++
  (body ++ List.replicate (32 - body.length) 0#8).take 32 ++ leBytes 24 0

/-- The adapter sends MSI-X vector `n`, or notes it as pending while the vector is masked (bit 0 of its control word). -/
def State.sendMsix (s : State) (n : Nat) : State :=
  if (smGet 0#8 s.host.msixTable (16 * n + 12)).getLsbD 0 then
    { s with host := { s.host with pba := s.host.pba ||| (1#64 <<< n) } }
  else { s with host := { s.host with msix := s.host.msix ++ [n] } }

/-- Write one frame into ring `c`, then its MSI-X message where the ring is armed. -/
def State.writeFrame (s : State) (c typ : Nat) (body : List Byte) : State :=
  match s.eq[c]? with
  | none => s
  | some r =>
    let a := bitsOf r.base.toNat 12 36 * 4096 + 64 * (r.tail.toNat % r.size)
    let s : State := { s with
      hostMem := s.hostMem.putBytes a (frameBytes typ r.phase r.eseq.toNat body)
      eq := s.eq.set c { r with tail := r.tail + 1, eseq := r.eseq + 1, arm := false } }
    if r.arm then s.sendMsix r.vec else s

/-- HEV: the oldest frame goes to its ring: written, or dropped and counted where the ring is off or full. A LOST frame
goes first when space has returned. -/
def doHev (s : State) : State :=
  match s.frames with
  | [] => s
  | f :: rest =>
    let s' : State := { s with frames := rest }
    match s.eq[f.ring]? with
    | none => s'
    | some r =>
      let lose (owed : Nat) : State :=
        { s' with eq := s.eq.set f.ring { r with lost := satAdd 32 r.lost 1, lostOwed := r.lostOwed + owed } }
      if r.en = false then lose 0
      else if r.size ≤ (r.tail - r.head).toNat then lose 1
      else if 0 < r.lostOwed then
        let s : State := { s with eq := s.eq.set f.ring { r with lostOwed := 0 } }
        s.writeFrame f.ring 0x06 (leBytes 4 r.lostOwed)
      else s'.writeFrame f.ring f.typ f.body

def execLnkSqtail (r : Nat) (v : W64) (w : Nat) (s : State) : Out := .next (doLnkSqtail r v w s)
def execGridLaunch (r : Nat) (s : State) : Out := .next (doGridLaunch r s)
def execGridComplete (g : Nat) (s : State) : Out := .next (doGridComplete g s)
def execGridErrorCompletion (g : Nat) (s : State) : Out := .next (doGridErrorCompletion g s)
def execHev (s : State) : Out := .next (doHev s)

end Sys2Proof.Machine
end

