-- ==== Sys2Proof/Machine/Errors.lean ====
section
/-! DEFINITION. Errors: class actions, the error unit, the log and its summaries (R422–R434, R499, R500, R505), shadow compares
(R435–R438), scrubbing (R260), ledger writes (R179), and what the stacks report (R258). -/

namespace Sys2Proof.Machine

/-! ### Class actions (R422, R423, R431) -/

/-- CONTAINED_ACTION: the oldest contained action that is due. The grids of the context that ran when it fell due stop, and FAILRPT
goes out. -/
def doContainedAction (s : State) : State :=
  match s.err.contDue with
  | [] => s
  | c :: rest => (State.stopGrids { s with err := { s.err with contDue := rest } } c).failRpt

/-- The fatal class action (R422): every tile is held until cold reset; ports then send IDLE flits and no heartbeat goes. TRIP
keeps the code of a trip that came first. -/
def State.fatalHold (s : State) : State :=
  { s with
    holds := { s.holds with fatal := true }
    err := { s.err with fatalDue := false }
    eft := { s.eft with trip := if s.eft.trip = 0 then 5 else s.eft.trip } }

def doFatalAction (s : State) : State := if s.err.fatalDue then s.fatalHold else s

/-! ### Records (R428, R434) -/

/-- The 64 bytes of a record. -/
def Rec.bytes (r : Rec) (seq : W32) (flags : Nat) : List Byte :=
  let ctx := match r.ctx with | some c => 128 + c % 16 | none => 0
  let l := leBytes 4 seq.toNat ++ leBytes 1 r.cls ++ leBytes 1 flags ++ leBytes 2 r.cause ++ leBytes 2 r.unit ++
    leBytes 1 r.sub ++ leBytes 1 ctx ++ leBytes 4 r.rep ++ leBytes 8 r.addr.toNat ++ leBytes 8 r.info0.toNat ++
    leBytes 8 r.stamp.toNat ++ leBytes 8 r.info1.toNat ++ leBytes 2 r.slot ++ leBytes 2 0 ++ leBytes 4 r.pc.toNat ++
    leBytes 4 r.epoch.toNat
  l ++ leBytes 4 (crc32c l).toNat

/-- A summary with one more record. -/
def Summary.note (m : Summary) (r : Rec) (bytes : List Byte) : Summary :=
  { m with
    perClass := modAt m.perClass r.cls (· + 1)
    perCause := smSet 0#32 m.perCause r.cause (smGet 0#32 m.perCause r.cause + 1)
    newest := if clsContained ≤ r.cls then (bytes :: m.newest).take 32 else m.newest }

/-- A record of the eft island goes into its mirror (R500). -/
def State.mirrorWrite (s : State) (r : Rec) : State :=
  { s with eft := { s.eft with
      mirror := s.eft.mirror.note r (r.bytes s.eft.mirrorSeq 4), mirrorSeq := s.eft.mirrorSeq + 1 } }

/-- The eft island writes a record of its own into its mirror as it detects the error: the record carries that time (R428, R500). -/
def State.mirrorRecord (s : State) (r : Rec) : State :=
  s.mirrorWrite { r with stamp := s.time, epoch := s.epoch.setWidth 32 }

/-- A record of the eft island: to the error unit while the MP runs, else into the mirror (R500). -/
def State.eftRecord (s : State) (cls cause : Nat) : State :=
  let r := { mkRec cls cause uEft with eft := true }
  if s.mpRuns then s.detect r else s.mirrorRecord r

/-! ### The error unit (R431, R432) -/

def ErrUnit.count (u : ErrUnit) : Nat := u.waiting.length + b2n u.inHand.isSome

/-- Into the waiting records, which stand in handling order: by STAMP within its class, behind one that was set aside. -/
def putWaiting (r : Rec) : List Rec → List Rec
  | [] => [r]
  | x :: l =>
    if x.cls < r.cls ∨ (x.cls = r.cls ∧ r.stamp < x.stamp ∧ x.setAside = false) then r :: x :: l else x :: putWaiting r l

/-- To the front of its class. -/
def putFront (r : Rec) : List Rec → List Rec
  | [] => [r]
  | x :: l => if x.cls ≤ r.cls then r :: x :: l else x :: putFront r l

def sameError (a b : Rec) : Bool := a.unit == b.unit && a.cause == b.cause && a.sub == b.sub && a.addr == b.addr

/-- A repetition of a corrected record that waits adds 1 to its REPEAT (R432); none where none waits. -/
def mergeInto (r : Rec) : List Rec → Option (List Rec)
  | [] => none
  | x :: l =>
    if x.cls = clsCorrected ∧ sameError x r = true then some ({ x with rep := x.rep + 1 } :: l)
    else (mergeInto r l).map (x :: ·)

/-- A record is lost (R431): counted by class; one of class deferred or higher escalates. The contained class action follows, which one
of class contained has had at its detection: for the record's own context while it runs (`run`), or for the running one. -/
def ErrUnit.lose (u : ErrUnit) (run : Option Nat) (r : Rec) : ErrUnit :=
  let esc := clsDeferred ≤ r.cls
  { u with
    lost := modAt u.lost r.cls (fun n => satAdd 16 n 1)
    sum := { u.sum with lostClass := modAt u.sum.lostClass r.cls (· + 1) }
    lostBefore := true, lostEsc := u.lostEsc || esc, lostEscDue := u.lostEscDue || esc
    contDue := match run with
      | some c => if esc && r.cls != clsContained && r.ctx.getD c == c then u.contDue ++ [c] else u.contDue
      | none => u.contDue }

/-- A record of a higher class than the one in hand pre-empts it; the next one is taken when none is in hand. -/
def ErrUnit.pick (u : ErrUnit) : ErrUnit :=
  match u.waiting with
  | [] => u
  | x :: l =>
    match u.inHand with
    | none => { u with inHand := some x, waiting := l }
    | some h => if h.cls < x.cls then { u with inHand := some x, waiting := putFront { h with setAside := true } l } else u

/-- A record takes a place, displaces one, or is lost. -/
def ErrUnit.enter (u : ErrUnit) (run : Option Nat) (r : Rec) : ErrUnit :=
  match mergeInto r u.waiting with
  | some l => { u with waiting := l }
  | none =>
    if u.count < 256 then { u with waiting := putWaiting r u.waiting }.pick
    else match u.waiting.getLast? with
      | some x =>
        if x.cls < r.cls then ({ u with waiting := putWaiting r u.waiting.dropLast }.lose run x).pick else u.lose run r
      | none => u.lose run r

/-- ERROR_RECORD_RAISE: the oldest record detected enters the error unit; a record of the eft island goes to its mirror while the
MP does not run, with the time at which it was detected (R428). -/
def doErrorRecordRaise (s : State) : State :=
  match s.err.det with
  | [] => s
  | r :: rest =>
    let s : State := { s with err := { s.err with det := rest } }
    if r.eft && !s.mpRuns then s.mirrorWrite r
    else { s with err := s.err.enter s.xl.runCtx r }

/-- A record that posts an ERROR frame (R429): LINKDOWN as its row says, also where it is corrected. -/
def postsFrame (r : Rec) : Bool :=
  clsDeferred ≤ r.cls || [cLinkDown, cCapUnatt, cPaceMiss, cHot105, cHaltHeld, cXchk].contains r.cause

/-- A LOSTESC record takes a free place; its class action was taken at the loss (R431). -/
def State.lostEscRecord (s : State) : State :=
  if s.err.lostEscDue && s.err.count < 256 then
    let r := { mkRec clsContained cLostEsc uMgmt with stamp := s.time, epoch := s.epoch.setWidth 32 }
    let u := s.err
    { s with err := { u with lostEscDue := false }.enter s.xl.runCtx r }
  else s

/-- RECORD_HANDLED: the record in hand gets its LSEQ, goes to the ring and the summaries, posts its frame, and the next is taken. -/
def doRecordHandled (s : State) : State :=
  match s.err.inHand with
  | some r =>
    if s.mpRuns then
      let u := s.err
      let bytes := r.bytes u.nextSeq (b2n r.setAside + 2 * b2n u.lostBefore)
      let sum := u.sum.note r bytes
      let u : ErrUnit := { u with
        inHand := none, nextSeq := u.nextSeq + 1, lostBefore := false, sum := sum
        ring := smSet [] u.ring (u.nextSeq.toNat % 1024) bytes }
      let s : State := { s with err := u, eft := { s.eft with mirror := sum, mirrorSeq := u.nextSeq } }
      let s := if postsFrame r then s.post r.ctx 0x09 (bytes.take 32) else s
      let s := s.lostEscRecord
      { s with err := s.err.pick }
    else s
  | none => s

/-! ### The flash copies (R179, R434, R455, R505) -/

/-- The bytes of a copy of the ledgers (R179): the 1,056 ledgers, the closed mark, the digest (DESIGN CHOICE, log 14: no order is given). -/
def ledgerBytes (l : SMap Ledger) (closed : Bool) : List Byte :=
  ((List.range 1056).map (fun p => (smGet Ledger.reset l p).bytes (p / 33) (p % 33))).flatten ++ [if closed then 1#8 else 0#8]

def LedgerCopy.bytes (c : LedgerCopy) : List Byte := ledgerBytes c.ledgers c.closed ++ c.digest

def ledgerBase : Nat := 0xC10000
def ledgerRoom : Nat := 0x400000

/-- A byte of the flash; erased cells read as ones. The 16 ledger slots hold their copies (R455). -/
def Flash.byte (f : Flash) (a : Nat) : Byte :=
  if ledgerBase ≤ a ∧ a < ledgerBase + 16 * ledgerRoom then
    match (f.copies[(a - ledgerBase) / ledgerRoom]?).getD none with
    | some c => (c.bytes[(a - ledgerBase) % ledgerRoom]?).getD 0xFF#8
    | none => 0xFF#8
  else smGet 0xFF#8 f.bytes a

def Flash.get (f : Flash) (a n : Nat) : List Byte := (List.range n).map (fun i => f.byte (a + i))

def Flash.put (f : Flash) (a : Nat) (l : List Byte) : Flash :=
  { f with bytes := l.zipIdx.foldl (fun m p => smSet 0xFF#8 m (a + p.2) p.1) f.bytes }

/-- The 2,432 bytes of a summary. -/
def Summary.bytes (m : Summary) (seq : W32) (stamp : W64) : List Byte :=
  let newest := (m.newest ++ List.replicate (32 - m.newest.length) (List.replicate 64 0#8)).take 32
  let l := leBytes 2 1 ++ leBytes 2 0 ++ leBytes 4 m.starts.toNat ++ leBytes 4 seq.toNat ++ leBytes 4 0 ++
    leBytes 8 stamp.toNat ++ leBytes 8 0 ++ (m.perClass.map (fun n => leBytes 8 n.toNat)).flatten ++
    (m.lostClass.map (fun n => leBytes 8 n.toNat)).flatten ++
    ((List.range 64).map (fun c => leBytes 4 (smGet 0#32 m.perCause c).toNat)).flatten ++ newest.flatten
  l ++ shake256 l

def summaryBase : Nat := 0x4C10000

/-- Write the summary to the next of its 16 slots. -/
def State.writeSummary (s : State) (closed : Bool) : State :=
  let f := s.flash
  let slot := (f.sumSlot + 1) % 16
  let f := f.put (summaryBase + slot * 0x10000) (s.err.sum.bytes s.err.nextSeq s.time)
  { s with flash := { f with sum := s.err.sum, sumSeq := s.err.nextSeq, sumClosed := closed, sumSlot := slot } }

/-- SUMMARY_WRITE: a write of the summary falls due. -/
def doSummaryWrite (s : State) : State := if s.mpRuns then s.writeSummary false else s

/-- The number of a physical tile (R178, R428). -/
def State.physTile (s : State) (t : Nat) : Nat := t / 32 * 33 + s.physCol t

/-- The digest of a copy of the ledgers (R179): SHAKE256 over the 1,056 ledgers and the closed mark (DESIGN CHOICE, log 59: the bytes
that the digest covers are not given). -/
def ledgersDigest (l : SMap Ledger) (closed : Bool) : List Byte :=
  shake256 (ledgerBytes l closed)

def LedgerCopy.verifies (c : LedgerCopy) : Bool := c.digest == ledgersDigest c.ledgers c.closed

/-- Write the ledgers of all tiles over the oldest of the 16 copies; a tile that serves no logical tile keeps its ledger. -/
def State.writeLedgers (s : State) (closed : Bool) : State :=
  let l := (List.range 1024).foldl (fun (m : SMap Ledger) (t : Nat) =>
    smSet Ledger.reset m (s.physTile t) (s.tile t).prs.ledger) s.mp.ledgers
  { s with
    mp := { s.mp with ledgers := l }
    flash := { s.flash with
      copies := s.flash.copies.set (s.flash.ledSlot % 16) (some ⟨l, closed, ledgersDigest l closed⟩), ledSlot := s.flash.ledSlot + 1 } }

/-- The newest copy whose digest verifies, looked for in the `n` newest. -/
def Flash.newestLedgers (f : Flash) : Nat → Option LedgerCopy
  | 0 => none
  | n + 1 =>
    match (f.copies[(f.ledSlot + n) % 16]?).getD none with
    | some c => if c.verifies then some c else f.newestLedgers n
    | none => f.newestLedgers n

/-- LEDGER_WRITE: the MP writes the ledgers, which it holds once start-up has loaded them (R453). -/
def doLedgerWrite (s : State) : State := if s.mpRuns && s.mp.state == 2 then s.writeLedgers false else s

/-! ### Shadow compares (R435–R438) -/

def valDy (w : W32) : Option Dy := (val32 w).map Fx.dy

/-- Σ(n − w)² and Σw² over the elements; none where a NaN stands in one result only. -/
def shSums : List (W32 × W32) → Option (Dy × Dy)
  | [] => some (⟨0, 0⟩, ⟨0, 0⟩)
  | (n, w) :: r =>
    match valDy n, valDy w, shSums r with
    | some a, some b, some (x, y) =>
      let d := dySub a b
      some (dyAdd x (dyMul d d), dyAdd y (dyMul b b))
    | none, none, s => s
    | _, _, _ => none

/-- The comparison of R436: `limit` in percent, 0 for bit-exact. -/
def matrixPasses (n w : List W32) (limit : Nat) : Bool :=
  if limit = 0 then n == w
  else match shSums (n.zip w) with
    | none => false
    | some (x, y) =>
      if y.m = 0 then x.m == 0 else dyLe (dyMul x ⟨10000, 0⟩) (dyMul y ⟨(limit * limit : Nat), 0⟩)

/-- The comparison of R437: the RMS of C − X over the columns is at most `thr`. -/
def vectorPasses (c x : List Int) (thr : Nat) : Bool :=
  ((c.zip x).map (fun p => (p.1 - p.2) * (p.1 - p.2))).sum ≤ ((thr * thr * c.length : Nat) : Int)

/-- √(n / d) as FP32, to the nearest (DESIGN CHOICE, log 29: R499 does not say how the measured error is rounded). -/
def rootWord (n d : Nat) : W32 := let (a, b) := sqrtQuot n d; pack32 false (mag32 .rne a b).1

/-- The e of R436; none where it has no value, Σw² being 0 or a NaN standing in one result only. -/
def matrixError (n w : List W32) : Option W32 :=
  match shSums (n.zip w) with
  | some (x, y) =>
    let (xn, xd) := dyQuot x
    let (yn, yd) := dyQuot y
    if yn = 0 then none else some (rootWord (xn * yd) (xd * yn))
  | none => none

/-- The RMS of C − X over the columns (R437). -/
def vectorError (c x : List Int) : W32 :=
  rootWord (((c.zip x).map (fun (p : Int × Int) => (p.1 - p.2) * (p.1 - p.2))).sum).natAbs c.length

/-- The record of a failed sample with its measured error (R499); where it has none, a free value. -/
def State.shadowRec (s : State) (t q seq : Nat) (vec : Bool) (err : Option W32) : State :=
  let (e, s) := match err with | some e => (e.setWidth 64, s) | none => s.draw
  let s := s.detect { mkRec clsDeferred cShadow t with
    sub := q, ctx := (s.entry t q seq).map (·.ctx), info0 := e &&& 0xFFFFFFFF#64, info1 := BitVec.ofNat 64 (b2n vec) }
  s.modTile t (fun v => { v with shadow := { v.shadow with mismatch := satAdd 16 v.shadow.mismatch 1 } })

/-- A failed vector's outputs are poisoned: the row of a READ, the list of a QUERY, which wait for the comparison. -/
def State.poisonVec (s : State) (t b vec : Nat) : State :=
  s.modARun t b (fun r => { r with
    pend := r.pend.map (fun p => if p.vec = vec then { p with y := p.y.map (fun w => (w.1, true)) } else p) })

/-- SHADOW_COMPARE: the block that the shadow unit holds is compared, and written: poisoned where it fails. -/
def doShadowCompare (t : Nat) (s : State) : State :=
  let sh := (s.tile t).shadow
  let done (s : State) : State := s.modTile t (fun v => { v with shadow := { v.shadow with
    sample := none, sampled := satAdd 32 v.shadow.sampled 1 } })
  match sh.sample with
  | none => s
  | some (.matrix q seq n w code vat writes blk) =>
    let ok := matrixPasses n w code
    let s := writes.foldl (fun (s : State) (x : ShWrite) => s.putC t vat { x with poison := x.poison || !ok }) s
    let s := blk.foldl (fun (s : State) (b : FbEnt) => s.pushFbq t 0 b) s
    done (if ok then s else s.shadowRec t q seq false (matrixError n w))
  | some (.vector b seq c x w8 vec) =>
    let ok := vectorPasses c x (if w8 then sh.thr8.toNat else sh.thr4.toNat)
    done (if ok then s else (s.poisonVec t b vec).shadowRec t (b + 1) seq true (some (vectorError c x)))

/-! ### Scrubbing and what the stacks report (R258–R260) -/

/-- Read one word, and write it back corrected where the code corrects it. -/
def State.scrubWord (s : State) (loc : Loc) : State :=
  let (w, s) := s.readLoc loc none
  match s.memOf loc with
  | some (m, o) => if w.2 then s else s.setMem loc (m.put32 o w.1 false)
  | none => s

/-- SCRUB_PERIOD: every word of a stack, a scratchpad or a vat is read; the clean ones need nothing. -/
def doScrubPeriod (g : ScrubTgt) (s : State) : State :=
  match g with
  | .stack n => (s.dram.syn.filter (fun p => stackOf (4 * p.1) == n)).foldl
      (fun (s : State) (p : Nat × BitVec 7) => s.scrubWord (.dram (4 * p.1))) s
  | .spad t => (s.tile t).spad.syn.foldl (fun (s : State) (p : Nat × BitVec 7) => s.scrubWord (.spad t (4 * p.1))) s
  | .vat t => (s.tile t).vat.syn.foldl (fun (s : State) (p : Nat × BitVec 7) => s.scrubWord (.vat t (4 * p.1))) s

/-- STACK_TEMP_READ: the temperatures of the stacks, in °C. -/
def doStackTempRead (temps : List Nat) (s : State) : State :=
  if s.mpRuns && s.rails.dram then
    temps.zipIdx.foldl (fun (s : State) (p : Nat × Nat) =>
      s.modStack p.2 (fun k => { k with temp := BitVec.ofNat 8 (min p.1 255) })) s
  else s

/-- ECS_READ: the sums of the dies' own scrub counts. -/
def doEcsRead (counts : List Nat) (s : State) : State :=
  if s.rails.dram then
    counts.zipIdx.foldl (fun (s : State) (p : Nat × Nat) => s.modStack p.2 (fun k => { k with ecs := satAdd 24 0#24 p.1 })) s
  else s

def execContainedAction (s : State) : Out := .next (doContainedAction s)
def execFatalAction (s : State) : Out := .next (doFatalAction s)
def execErrorRecordRaise (s : State) : Out := .next (doErrorRecordRaise s)
def execRecordHandled (s : State) : Out := .next (doRecordHandled s)
def execSummaryWrite (s : State) : Out := .next (doSummaryWrite s)
def execLedgerWrite (s : State) : Out := .next (doLedgerWrite s)
def execShadowCompare (t : Nat) (s : State) : Out := .next (doShadowCompare t s)
def execScrubPeriod (g : ScrubTgt) (s : State) : Out := .next (doScrubPeriod g s)
def execStackTempRead (temps : List Nat) (s : State) : Out := .next (doStackTempRead temps s)
def execEcsRead (counts : List Nat) (s : State) : Out := .next (doEcsRead counts s)

end Sys2Proof.Machine
end

