-- ==== Sys2Proof/Machine/Mode.lean ====
section
/-! DEFINITION. Retention and index refreshes (R170, R399, R400), mode epochs and fences (R443, R444), the field cross-check
(R440–R442), the diagnostic path (R478), and accesses that time out (R446, R476). -/

namespace Sys2Proof.Machine

/-- The local address of an MP register. -/
def mpReg (off : Nat) : Nat := edgeBase + 0x480000 + off

/-! ### Retention (R170) -/

/-- REFRESH_REQUEST: the MP's figures of a bank (seconds since its last FULL or REFRESH, seconds above 95 °C since then). One that
reaches its threshold sets REFREQ and posts one event. -/
def doRefreshRequest (t b age hot : Nat) (s : State) : State :=
  let k := (s.tile t).bank b
  if s.mpRuns && t < 1024 && b < 2 then
    let need (age hot : Nat) : Bool := 90000 ≤ age || 9000 ≤ hot
    let s := s.modTile t (fun v => v.modBank b (fun k => { k with age := age, hot := hot, refreq := k.refreq || need age hot }))
    if need age hot && !need k.age k.hot then s.notice t 6 b 0 else s
  else s

/-! ### Index refreshes (R399) -/

def Tile.mpRefreshes (v : Tile) : Nat := ((v.queue 3).filter (fun e => e.org == .mp)).length

/-- The refreshes of the MP that have not ended. -/
def State.mpRefreshes (s : State) : Nat := (s.tiles.map (fun p => p.2.mpRefreshes)).sum

/-- The REFRESH of a bank that was last pressed by `d`: the image addresses of that press, the INDEX flag set. -/
def refreshDesc (b : Nat) (d : W512) : W512 :=
  BitVec.ofNat 512 (3 + pdCode d * 2 ^ 128 + pdScale d * 2 ^ 192 + pdFmt d * 2 ^ 320 + b * 2 ^ 328 + 2 ^ 336)

/-- MP_IDXCFG.PERIOD seconds have passed since the bank's last FULL or REFRESH (R399). -/
def State.periodOver (s : State) (k : Bank) : Bool := s.mode.period.toNat * 1000000 ≤ (s.time - k.pressedAt).toNat

/-- INDEX_REFRESH_ISSUE: the bank's period has passed (`due`), or it asks for a refresh, and the MP puts a REFRESH behind the
descriptors of queue 3. -/
def doIndexRefreshIssue (t b : Nat) (due : Bool) (s : State) : State :=
  let v := s.tile t
  let k := v.bank b
  match k.press with
  | none => s
  | some (d, c) =>
    if s.mpRuns && s.mode.use && t < 1024 && b < 2 && k.idx && ((due && s.periodOver k) || k.refreq) && !k.refStopped &&
        s.xl.runCtx == some c && s.mpRefreshes < s.mode.maxref && !v.full 3 &&
        !(v.queue 3).any (fun e => e.org == .mp && dField e.d 41 1 == b) then
      let s := s.enqueue t 3 (refreshDesc b d) .mp c 16
      { s with mp := { s.mp with timeouts := 0 } }
    else s

/-! ### Mode epochs and fences (R443, R444) -/

/-- A field of MP_IDXCFG that refuses its value keeps the present one, and is logged. -/
def idxPeriod (s : State) (v : W64) : BitVec 24 :=
  let p := bitsOf v.toNat 4 17
  if 3600 ≤ p ∧ p ≤ 86400 then BitVec.ofNat 24 p else s.mode.period

def idxMaxref (s : State) (v : W64) : Nat := if bitsOf v.toNat 24 8 = 0 then s.mode.maxref else bitsOf v.toNat 24 8

/-- MODE_CHANGE: a write of MP_IDXCFG. The mode epoch rises, every tile takes the fence, and the learned profile goes (R416). -/
def doModeChange (v : W64) (w : Nat) (s : State) : State :=
  let a := mpReg 0x700
  if s.wbusy domMp then s.csrAcc w a
  else
    let p := bitsOf v.toNat 4 17
    let s := s.postWrite domMp w a v
    let s := if 3600 ≤ p ∧ p ≤ 86400 then s else s.csrAcc w a
    let s := if bitsOf v.toNat 24 8 = 0 then s.csrAcc w a else s
    let m := s.mode
    let e := m.mepoch + 1
    let use := v.getLsbD 0
    { s with
      mode := { m with mepoch := e, fence := true, ack := 0#1024, next := use, hist := smSet false m.hist e.toNat use }
      pwr := { s.pwr with profile := [] } }

/-- The fence releases (R444): acknowledged tiles gain 1 in counter 62, the MP takes the new mode, and WBUSY clears. -/
def State.releaseFence (s : State) : State :=
  let v : W64 := match smGet none s.posted domMp with | some (_, v, _) => v | none => 0#64
  let s := (List.range 1024).foldl (fun (s : State) (t : Nat) =>
    if s.mode.ack.getLsbD t then s.modTile t (fun v => v.setCtr 62 (v.ctr 62 + 1)) else s) s
  let m := s.mode
  { s with
    mode := { m with fence := false, use := m.next, period := idxPeriod s v, maxref := idxMaxref s v } }.clearPost domMp

/-- No old-tag work is left in a tile, parked work excepted (R443, R278); for a change to USE = 1 no fold runs (R402). -/
def Tile.oldWorkDone (v : Tile) (e : W16) (use : Bool) : Bool :=
  (List.range 7).all (fun q => (v.queue q).all (fun x => x.mepoch == e || v.faulted q x)) &&
  (!use || (!(v.bank 0).fold.run && !(v.bank 1).fold.run))

/-- Every armed fold of a tile is disarmed, as by a FOLDCLR (R402). -/
def Tile.disarm (v : Tile) : Tile :=
  { v with arr := { v.arr with banks := v.arr.banks.map (fun k =>
      { k with fold := { k.fold with armed := false, due := false } }) } }

/-- MODE_ACK: a tile has no old-tag work left. Its bit is set; a tile fenced off loses its hold. The last one releases the fence. -/
def doModeAck (t : Nat) (s : State) : State :=
  let m := s.mode
  let use := smGet false m.hist m.mepoch.toNat
  if t < 1024 && (m.fenced.getLsbD t || (m.fence && !m.ack.getLsbD t)) && (s.tile t).oldWorkDone m.mepoch use then
    let bit : BitVec 1024 := 1#1024 <<< t
    let s : State := { s with mode := { m with ack := m.ack ||| bit, fenced := m.fenced &&& ~~~bit } }
    let s := if use then s.modTile t Tile.disarm else s
    if s.mode.fence && s.mode.ack == BitVec.allOnes 1024 then s.releaseFence else s
  else s

/-- Fence a tile off (R444): its hold stays, and a record of cause FENCE names it. -/
def State.fenceOff (s : State) (t : Nat) : State :=
  ({ s with mode := { s.mode with fenced := s.mode.fenced ||| (1#1024 <<< t) } }).detect (mkRec clsContained cFence t)

/-- FENCE_TIMEOUT: 1 ms after the send, the tiles that have not acknowledged are fenced off, and the fence releases. -/
def doFenceTimeout (s : State) : State :=
  if s.mode.fence then
    ((List.range 1024).foldl (fun (s : State) (t : Nat) => if s.mode.ack.getLsbD t then s else s.fenceOff t) s).releaseFence
  else s

/-! ### The field cross-check (R440–R442) -/

/-- MP_XCHK_START: bit 0 starts a check; it is refused while a context runs. -/
def doMpXchkStart (v : W64) (_w : Nat) (s : State) : State :=
  if v.getLsbD 0 && s.mp.xState != 1 then
    { s with mp := { s.mp with xState := if s.xl.runCtx.isSome then 3 else 1 } }
  else s

/-- A memory of `n` free words. -/
def freeMem (n : Nat) (s : State) : Mem × State :=
  let (l, s) := freeWords n s
  (Mem.empty.put 0 (l.map (fun w => leBytes 4 w.1.toNat)).flatten, s)

/-- A word of the operands of a cross-check: two draws of the generator of R114 under MP_XCHK.SEED, with unit number 0xA00 (R440). -/
def xchkWord (seed : W64) (n : Nat) : W32 :=
  let r (k : Nat) : Nat := let d := Config.xchkDraw k; srBits seed 0xA00 (d.1 % 2 ^ 24) (d.2 % 2 ^ 24)
  BitVec.ofNat 32 (r (2 * n) + 65536 * r (2 * n + 1))

/-- The random W8 image of a cross-check: its scales, then its rows. -/
def xchkImage (seed : W64) : List Part :=
  let words (n k : Nat) : List (W32 × Bool) := (List.range k).map (fun i => (xchkWord seed (n + i), false))
  partOf (words 0 512) :: (List.range 1024).map (fun r => partOf (words (512 + 128 * r) 128))

/-- What the tests leave in tile `t` (R441): `spad` and `vat` as the march patterns leave them, and the image in bank 0, which 1,024 vectors
have read. -/
def State.testTile (s : State) (spad vat : Mem) (image : List Part) (t : Nat) : State :=
  let s := s.modTile t (fun v => { v with spad := spad, rind := [], vat := vat })
  let (out, s) := s.drawOut
  let d : W512 := BitVec.ofNat 512 (1 + 0x14 * 2 ^ 320)
  let s := s.pressDone t 0 1 true false d 0 (mkRec clsDeferred cPoisonData t) image out
  s.modTile t (fun v => v.modBank 0 (fun k => { k with press := none, reads := k.reads + 1024 }))

/-- The tiles `t` and `t` XOR `x` run the tests on the same operands (R440). What the march patterns leave no source gives. -/
def State.testPair (s : State) (x t : Nat) : State :=
  let (spad, s) := freeMem 0xC0000 s
  let (vat, s) := freeMem 0x80000 s
  let image := xchkImage s.mp.xSeed
  (s.testTile spad vat image t).testTile spad vat image (t ^^^ x)

/-- The vectors of test 5 (R441): 1,024 random INT8 elements each, behind the image in the order of draws. -/
def xchkVec (seed : W64) (i : Nat) : List Int :=
  ((List.range 256).map (fun j => leBytes 4 (xchkWord seed (131584 + 256 * i + j)).toNat)).flatten.map (·.toInt)

/-- The limit of R147 on the relative RMS error of a W8 bank under the reference inputs, in 1/700,000; below 10 °C and above 105 °C, for which
R147 has no row, that of the nearest (DESIGN CHOICE, log 32). -/
def noiseLimit (aged : Bool) (temp : Nat) : Nat :=
  if aged then (if temp ≤ 95 then 6300 else 7000)
  else if temp < 25 then 2800
  else if temp ≤ 95 then 2450 + 20 * (temp - 25)
  else 4550

/-- The limit of tile `t`: by its last reading, and as aged where a block of bank 0 has a press cycle from before the check (R7). -/
def State.xchkLimit (s old : State) (t : Nat) : Nat :=
  noiseLimit ((List.range 64).any (fun n => ((old.tile t).prs.block n).cycles != 0)) (smGet 0 s.pwr.temps (s.physTile t))

/-- What a tile gave beside the exact results of a test. -/
def xchkOf (res : List XchkRes) (rerun : Bool) (n t : Nat) : List XchkRes :=
  res.filter (fun r => r.tile == t && r.rerun == rerun && r.test == n)

/-- Bit-exact (R441): the operands are the same (R440), so the results differ where the tiles differ from the exact ones by unlike
amounts. -/
def xchkUnlike (x y : List XchkRes) : Bool :=
  let at' (l : List XchkRes) (p : Nat) : Int := ((l.filter (fun r => r.place == p)).map (·.diff)).sum
  (x ++ y).any (fun r => at' x r.place != at' y r.place)

/-- The sums of a bank over one vector of test 5, with what the deviations make (R107). -/
def xchkSums (k : Bank) (seed : W64) (x : List XchkRes) (i : Nat) : List Int :=
  columnSums k (xchkVec seed i) ((x.filter (fun r => r.vec == i)).map (fun r => (r.place, r.diff)))

/-- Test 5 of tiles `t` and `u`: whether the relative RMS difference of the C_j is above twice the limit `lim`. It is relative to the exact
sums of the image, as the error of R146 is (DEDUCED), and the columns of a macro whose outputs are poisoned on either tile are left out
(DESIGN CHOICE, log 32: R441 does not say what a poisoned output compares as). -/
def State.xchkNoisy (s : State) (lim t u : Nat) (x y : List XchkRes) : Bool :=
  let kt := (s.tile t).bank 0
  let ku := (s.tile u).bank 0
  let codes := (((xchkImage s.mp.xSeed).drop 1).zipIdx.map (fun r => r.1.data.zipIdx.map (fun c => (512 * r.2 + c.2, c.1)))).flatten
  let off := kt.zeroPoison ||| ku.zeroPoison
  let keep (l : List Int) : List Int := (l.zipIdx.filter (fun v => !off.getLsbD (v.2 / 128))).map (·.1)
  let sq (l : List Int) : Nat := (l.map (fun v => v.natAbs ^ 2)).sum
  let d := ((List.range 1024).map (fun i =>
    sq (((keep (xchkSums kt s.mp.xSeed x i)).zip (keep (xchkSums ku s.mp.xSeed y i))).map (fun p => p.1 - p.2)))).sum
  let e := ((List.range 1024).map (fun i => sq (keep (xchkSums { kt with codes := codes } s.mp.xSeed [] i)))).sum
  (2 * lim) ^ 2 * e < 700000 ^ 2 * d

/-- The first test in which tiles `t` and `u` differ; `old` is the state before the check. -/
def State.xchkTest (s old : State) (res : List XchkRes) (rerun : Bool) (t u : Nat) : Option Nat :=
  [1, 2, 3, 4, 5].find? (fun n =>
    let x := xchkOf res rerun n t
    let y := xchkOf res rerun n u
    if n = 5 then s.xchkNoisy (max (s.xchkLimit old t) (s.xchkLimit old u)) t u x y else xchkUnlike x y)

/-- The tiles named for the pair of tile `t`, which differed in test `n` (R442): one that differs from its tile XOR 0x001 in the rerun too is
faulty, and where neither does both are suspect. With each comes whether it is faulty, and the failing test. -/
def State.xchkNamed (s old : State) (res : List XchkRes) (t n : Nat) : List (Nat × Bool × Nat) :=
  let pair := [t, t ^^^ 0x200]
  let bad := pair.filter (fun u => (s.xchkTest old res true u (u ^^^ 0x001)).isSome)
  if bad = [] then pair.map (fun u => (u, false, n)) else bad.map (fun u => (u, true, n))

/-- The pairs that differ, each by its lower tile, with the test. -/
def State.xchkOdd (s old : State) (res : List XchkRes) : List (Nat × Nat) :=
  (List.range 512).filterMap (fun t => (s.xchkTest old res false t (t ^^^ 0x200)).map (fun n => (t, n)))

/-- Each tile of a pair that differed runs the tests again, together with its tile XOR 0x001 (R442). -/
def State.rerunPair (s : State) (t : Nat) : State := (s.testPair 0x001 t).testPair 0x001 (t ^^^ 0x200)

/-- The records of the tiles named, and STATE 2 (R442). -/
def State.xchkEnd (s : State) (named : List (Nat × Bool × Nat)) : State :=
  let s := named.foldl (fun (s : State) (x : Nat × Bool × Nat) =>
    s.detect { mkRec clsCorrected cXchk x.1 with
      info0 := if x.2.1 then 1#64 else 2#64, info1 := BitVec.ofNat 64 x.2.2 }) s
  { s with mp := { s.mp with
    xState := 2, timeouts := 0, xFaulty := (named.filter (·.2.1)).length
    xSuspect := (named.filter (fun x => !x.2.1)).length } }

/-- XCHK_DONE: the tests have run on every pair, and again where a pair differed. `res` is what the tiles gave beside the exact results. -/
def doXchkDone (res : List XchkRes) (s : State) : State :=
  if s.mp.xState = 1 then
    let old := s
    let s := (List.range 512).foldl (fun (s : State) (t : Nat) => s.testPair 0x200 t) s
    let odd := s.xchkOdd old res
    let s := odd.foldl (fun (s : State) (x : Nat × Nat) => s.rerunPair x.1) s
    s.xchkEnd (odd.map (fun x => s.xchkNamed old res x.1 x.2)).flatten
  else s

/-! ### Accesses that time out (R446, R476) -/

/-- A tile, edge unit or path does not answer the MP (R446). -/
def State.mpTimeout (s : State) (u : Nat) : State :=
  let s := s.detect (mkRec clsContained cMpTimeout u)
  let s := if u < 1024 then s.fenceOff u else s
  if u = uMgmt then
    let n := s.mp.timeouts + 1
    let s : State := { s with mp := { s.mp with timeouts := n } }
    if n = 3 then s.detect (mkRec clsFatal cMeshFail uMgmt) else s
  else s

/-- MP_ACCESS_TIMEOUT: unit `u` (its code in R428; 0x0B00 for the MP's own edge link) gave no answer for 1 ms. -/
def doMpAccessTimeout (u : Nat) (s : State) : State := if s.mpRuns then s.mpTimeout u else s

/-- EFT_ACCESS_TIMEOUT: the MP has not forwarded an access to the EFT block. A read returns ones, a write has no effect. -/
def doEftAccessTimeout (wr : Bool) (a : Nat) (s : State) : State :=
  if edgeBase + 0x4D0000 ≤ a ∧ a < edgeBase + 0x4E0000 ∧ wr = false then
    { s with host := { s.host with answer := some (BitVec.allOnes 64, false) } }
  else s

/-! ### The diagnostic path (R478) -/

/-- The logical tile that a physical one serves. -/
def State.logicalOf (s : State) (row col : Nat) : Option Nat :=
  let f := (s.skip[row]?).getD 32
  if col = f ∨ 32 < col then none else some (row * 32 + if col < f then col else col - 1)

/-- MP_DIAGSEL: a read of a TILE register of a physical tile is posted. -/
def doMpDiagsel (v : W64) (w : Nat) (s : State) : State :=
  let a := mpReg 0xA00
  if s.wbusy domMp then s.csrAcc w a
  else
    let s := s.postWrite domMp w a v
    let s := if 33 ≤ bitsOf v.toNat 8 6 then s.csrAcc w a else s
    let s := if bitsOf v.toNat 16 12 % 8 = 0 then s else s.csrAcc w a
    { s with mp := { s.mp with diagValid := false } }

/-- The value of a TILE register of a physical tile: of the logical tile that it serves, or of one that serves none. -/
def State.diagRead (s : State) (row col ofs : Nat) : W64 × State :=
  match s.logicalOf row col with
  | some t => (csrRead s (tileBase + t * 0x800000 + 0x700000 + ofs), s)
  | none =>
    if ofs = 0 then
      let (x, s) := s.draw
      (BitVec.ofNat 64 (x.toNat % 1024 + row * 2 ^ 16 + col * 2 ^ 24), s)
    else (tileRegOf Tile.reset (BitVec.ofNat 8 (smGet 0 s.pwr.temps (row * 33 + col))) (droopIdx row col) ofs, s)

/-- DIAG_READ_DONE: the read answers, or ends unanswered after 1 ms; WBUSY clears. -/
def doDiagReadDone (ok : Bool) (s : State) : State :=
  match smGet none s.posted domMp with
  | some (a, v, _) =>
    if a = mpReg 0xA00 then
      let m := s.mp
      let row := bitsOf v.toNat 0 5
      let col := if bitsOf v.toNat 8 6 < 33 then bitsOf v.toNat 8 6 else m.diagCol
      let ofs := if bitsOf v.toNat 16 12 % 8 = 0 then bitsOf v.toNat 16 12 else m.diagOfs
      let s := s.clearPost domMp
      let (x, s) := if ok then s.diagRead row col ofs else (BitVec.allOnes 64, s)
      let s : State := { s with mp := { s.mp with
        diagRow := row, diagCol := col, diagOfs := ofs, diagValid := ok, diagData := x
        timeouts := if ok then 0 else s.mp.timeouts } }
      if ok then s
      else s.mpTimeout (match s.logicalOf row col with | some t => t | none => 0x1000 + row * 33 + col)
    else s
  | none => s

def execRefreshRequest (t b age hot : Nat) (s : State) : Out := .next (doRefreshRequest t b age hot s)
def execIndexRefreshIssue (t b : Nat) (due : Bool) (s : State) : Out := .next (doIndexRefreshIssue t b due s)
def execModeChange (v : W64) (w : Nat) (s : State) : Out := .next (doModeChange v w s)
def execModeAck (t : Nat) (s : State) : Out := .next (doModeAck t s)
def execFenceTimeout (s : State) : Out := .next (doFenceTimeout s)
def execMpXchkStart (v : W64) (w : Nat) (s : State) : Out := .next (doMpXchkStart v w s)
def execXchkDone (res : List XchkRes) (s : State) : Out := .next (doXchkDone res s)
def execMpDiagsel (v : W64) (w : Nat) (s : State) : Out := .next (doMpDiagsel v w s)
def execDiagReadDone (ok : Bool) (s : State) : Out := .next (doDiagReadDone ok s)
def execMpAccessTimeout (u : Nat) (s : State) : Out := .next (doMpAccessTimeout u s)
def execEftAccessTimeout (wr : Bool) (a : Nat) (_v : W64) (s : State) : Out := .next (doEftAccessTimeout wr a s)

end Sys2Proof.Machine
end

