-- ==== Sys2Proof/Machine/Image.lean ====
section
/-! DEFINITION. The images in the flash and their checks (R455–R458, R463). -/

namespace Sys2Proof.Machine

/-! ### Images (R455–R459) -/

def asciiBytes (t : String) : List Byte := t.toList.map (fun c => BitVec.ofNat 8 c.toNat)

def padTo (n : Nat) (l : List Byte) : List Byte := (l ++ List.replicate n 0#8).take n

/-- Bytes `off` to `off + n - 1`. -/
def cutOf (l : List Byte) (off n : Nat) : List Byte := (l.drop off).take n

def hgkPart : List Byte := padTo 16 (asciiBytes "HGK-1024B")
def hgkStep : List Byte := asciiBytes "B0"
def imageMagic (kind : Nat) : List Byte := asciiBytes (if kind = 0 then "MPFW" else "FLMO")

def imgRaise (img : List Byte) : Bool := bitOf (lField img 6 1) 0
def imgSvn (img : List Byte) : Nat := lField img 7 1
def imgSignPk (img : List Byte) : List Byte := cutOf img 64 1952
def imgBody (img : List Byte) : List Byte := (img.drop 0x3000).take (lField img 28 4)
def imgHeadDigest (img : List Byte) : List Byte := shake256 (img.take 64)

/-- The check of R458, by the codes of IMGERR: 0 OK, 1 BADHDR, 2 BADROOT, 3 BADCERT, 4 BADSIG, 5 BADDIGEST, 6 FLOOR. -/
def imageCheck (img root : List Byte) (kind floor : Nat) : Nat :=
  if cutOf img 0 4 ≠ imageMagic kind ∨ lField img 4 2 ≠ 1 ∨ cutOf img 8 16 ≠ hgkPart ∨ cutOf img 24 2 ≠ hgkStep then 1
  else if shake256 root ≠ Config.romRootDigest then 2
  else if mldsaVerify root (shake256 (imgSignPk img ++ cutOf img 0 4)) (cutOf img 2016 3309) (asciiBytes "HGK-CERT") = false
    then 3
  else if mldsaVerify (imgSignPk img) (imgHeadDigest img) (cutOf img 5325 3309) (asciiBytes "HGK-IMAGE") = false then 4
  else if shake256 (imgBody img) ≠ cutOf img 32 32 then 5
  else if imgSvn img < floor then 6
  else 0

/-- An entry of the directory (R457). -/
structure DirEnt where
  id : Nat
  off : Nat
  len : Nat
  crc : Nat
deriving DecidableEq, Repr

/-- The directory up to its entry of ID 0; none where no such entry comes. -/
def imageDir (body : List Byte) : Nat → Nat → Option (List DirEnt)
  | 0, _ => none
  | n + 1, i =>
    if body.length < 16 * i + 16 then none
    else
      let id := lField body (16 * i) 2
      if id = 0 then some []
      else (imageDir body n (i + 1)).map (fun l =>
        ⟨id, lField body (16 * i + 4) 4, lField body (16 * i + 8) 4, lField body (16 * i + 12) 4⟩ :: l)

/-- The bytes of section `id`. -/
def imgSection (body : List Byte) (dir : List DirEnt) (id : Nat) : List Byte :=
  match dir.find? (fun e => e.id == id) with
  | some e => cutOf body e.off e.len
  | none => []

/-- The fields of an image by section: TILEMAP 0 SKIPCOL of row inst; DEFECT 0 retired, 1 and 2 spare row + 1 (inst: 128 × physical tile +
block), 3 replaced column + 1 (inst: 192 × physical tile + spare of R178); LINK 0 EN, 1 X4OK, 2 BOND, 3 TXPRESET, 4 expects a peer, 5 the
peer (inst: port), 6 route entry (inst: device id); POWER 0 CAPMAX, 1 CAPW, 2 THRESH, 3 HYST; CLUTCH 0 ROLE, 1 MGRONLY, 2 gives a base, 3 id
or base, 4 MGRID, 5 SBYID, 6 SBYV, 7 NMEM, 8 PERIOD, 9 MISS, 10 MINS, 11 MAXS, 12 SNAPEVERY, 13 M0; LIMITS 0 DRIFTLIM, 1 WEARLIM, 2
INTERVAL; LOCKS 0 its bits. -/
def imgField (img : List Byte) (sec field inst : Nat) : Nat :=
  let body := imgBody img
  Config.imageField sec (imgSection body ((imageDir body (body.length / 16 + 1) 0).getD []) sec) field inst

def bondOk (p bond : Nat) : Bool := if p = 18 then bond == 31 else bond ≤ 17 || bond == 31

/-- A route entry that LNK_ROUTE accepts: not valid, or with a bond of a link or LOCAL (R326). -/
def routeOk (e : Nat) : Bool := !bitOf e 15 || bitsOf e 0 5 ≤ 17 || bitsOf e 0 5 == 30

/-- Every value lies in the range that its register accepts. -/
def imageRanges (img : List Byte) : Bool :=
  let f := imgField img
  (List.range 32).all (fun r => f 1 0 r ≤ 32) &&
  (List.range 19).all (fun p => f 4 0 p ≤ 1 && f 4 1 p ≤ 1 && bondOk p (f 4 2 p) && f 4 3 p ≤ 255) &&
  (List.range 4096).all (fun d => routeOk (f 4 6 d)) &&
  between 1000 (f 5 0 0) 3600 && between 1000 (f 5 1 0) (f 5 0 0) && between 15 (f 5 2 0) 60 && between 5 (f 5 3 0) 30 &&
  f 5 3 0 < f 5 2 0 &&
  f 6 0 0 ≤ 3 && f 6 1 0 ≤ 1 && f 6 3 0 ≤ 4095 && f 6 4 0 ≤ 4095 && f 6 5 0 ≤ 4095 && f 6 6 0 ≤ 1 && between 1 (f 6 7 0) 4096 &&
  between 100 (f 6 8 0) 50000 && between 2 (f 6 9 0) 15 && f 6 10 0 ≤ f 6 11 0 && f 6 11 0 ≤ 65535 && between 1 (f 6 12 0) 255 &&
  f 6 13 0 < 2 ^ 24 &&
  between 0x1001 (f 7 0 0) 0x1400 && f 7 1 0 < 2 ^ 40 && between 60 (f 7 2 0) 3600

/-- The contents of a Flomo image (R457): each of the sections 1 to 8 once, no other, with its CRC; and every value in range. -/
def imageContent (img : List Byte) : Bool :=
  let body := imgBody img
  match imageDir body (body.length / 16 + 1) 0 with
  | none => false
  | some dir =>
    dir.all (fun e => between 1 e.id 8 && e.off + e.len ≤ body.length && (crc32c (cutOf body e.off e.len)).toNat == e.crc) &&
    (List.range 8).all (fun i => (dir.filter (fun e => e.id == i + 1)).length == 1) && imageRanges img

/-! ### The update of an image (R463) -/

def stOk : Nat := 0
def stVerify : Nat := 4
def stFloor : Nat := 5

def State.idRegion (s : State) : List Byte := s.flash.get 0 0x10000
def State.idPart (s : State) (which : Nat) : List Byte := Config.identityPart which s.idRegion

/-- Where an image lies in the flash, and its largest size (R455): 0 firmware, 1 Flomo. -/
def imageBase (kind : Nat) : Nat := if kind = 0 then 0x10000 else 0x410000
def imageRoom (kind : Nat) : Nat := if kind = 0 then 0x400000 else 0x800000

/-- An image region erased and programmed with `l`. -/
def Flash.program (f : Flash) (kind : Nat) (l : List Byte) : Flash :=
  let b := imageBase kind
  ({ f with bytes := f.bytes.filter (fun p => !(b ≤ p.1 && p.1 < b + imageRoom kind)) }).put b l

/-- The staged image (R463). -/
def UpdSess.image (u : UpdSess) : List Byte := (List.range u.total).map (fun i => smGet 0#8 u.staged i)

/-- The result of the checks on the staged image as a STATUS value. -/
def State.stagedResult (s : State) : Nat :=
  let img := s.sess.image
  let k := imageCheck img (s.idPart 3) s.sess.kind s.sec.floor
  if k = 6 then stFloor
  else if k ≠ 0 ∨ (s.sess.kind = 1 ∧ imageContent img = false) then stVerify
  else stOk

/-- An update that loses its power while its image is checked or written (R463): the region stays as it was, which it does for an image that
fails its checks, or holds what had been programmed since its erase. -/
def State.breakUpdate (s : State) : State :=
  if s.sess.status = 1 && s.stagedResult == stOk then
    let (k, s) := s.drawUpTo 1
    let (n, s) := s.drawUpTo s.sess.total
    if k = 0 then s else { s with flash := s.flash.program s.sess.kind (s.sess.image.take n) }
  else s

end Sys2Proof.Machine
end

