-- ==== Sys2Proof/Machine/Power.lean ====
section
/-! DEFINITION. Power (chapter 16): input, trips, droop gating, rationing, the setpoint, the cap, phase learning, temperature and the
pace governor; and what the loss of the rails leaves (R448–R451). -/

namespace Sys2Proof.Machine

/-! ### The loss of the rails (R404, R448–R451) -/

/-- What the eft island had detected and not yet handed on goes into its mirror (R500). -/
def State.mirrorOwn (s : State) : State :=
  (s.err.det.filter (·.eft)).foldl (fun (s : State) (r : Rec) =>
    { s with eft := { s.eft with
        mirror := s.eft.mirror.note r (r.bytes s.eft.mirrorSeq 4), mirrorSeq := s.eft.mirrorSeq + 1 } }) s

/-- Every rail but V_eft is off, and the module is in EFT: all state is lost but the eft island's, the flash's, the accepted board
lines, the gecko lock (R460), and what lies outside the module. -/
def State.railsOff (s : State) : State :=
  let s := s.mirrorOwn.breakUpdate
  { State.reset with
    pending := s.pending, freeCtr := s.freeCtr, hostMem := s.hostMem, time := s.time
    rails := { Rails.reset with stage1 := s.rails.stage1 }
    eft := { s.eft with pstate := 1 }
    pins := s.pins, flash := s.flash, i3c := s.i3c, sec := { Sec.reset with gecko := s.sec.gecko } }

/-- A trip (R40, R404): the rails go off, and the eft island writes one record of class fatal. -/
def State.tripRails (s : State) (code cause : Nat) : State :=
  let s := s.railsOff
  ({ s with eft := { s.eft with trip := code } }).mirrorRecord { mkRec clsFatal cause uEft with eft := true }

/-! ### Input (R403, R404) -/

/-- INPUT_SAMPLE: voltage in 10 mV, current in 10 mA; INLOW for any sample below 50.0 V (R421's table), since a trip is a row of its own. -/
def doInputSample (vin iin : Nat) (s : State) : State :=
  if s.eft.pstate = 0 then s
  else
    let s : State := { s with eft := { s.eft with vin := vin } }
    if s.rails.io then
      let low := vin < 5000
      { s with pwr := { s.pwr with
        vin := min vin 65535, iin := min iin 65535, flags := if low then s.pwr.flags ||| 8#4 else s.pwr.flags } }
    else s

/-- INPUT_TRIP: a condition of R404 has held for its time. -/
def doInputTrip (why : InTrip) (s : State) : State :=
  if s.eft.pstate = 0 then s
  else match why with
    | .under => s.tripRails 2 cUvTrip
    | .over => s.tripRails 3 cOvTrip
    | .current => s.tripRails 4 cOcpTrip

/-- The whole module without power: only the flash and what lies outside keep their state. -/
def State.unpowered (s : State) : State :=
  let s := s.breakUpdate
  { State.reset with
    pending := s.pending, freeCtr := s.freeCtr, hostMem := s.hostMem, flash := s.flash }

/-- STAGE1_START: the input reaches 48.0 V; stage 1 and V_eft run, and the timekeeper starts at 0 (R449). -/
def doStage1Start (vin : Nat) (s : State) : State :=
  if s.rails.stage1 = false ∧ 4800 ≤ vin then
    let s := s.unpowered
    { s with eft := { s.eft with vin := vin } }
  else s

/-- STAGE1_STOP: the input falls below 44.0 V; the module is OFF. -/
def doStage1Stop (vin : Nat) (s : State) : State :=
  if s.rails.stage1 = true ∧ vin < 4400 then
    let s := s.unpowered
    { s with rails := ⟨false, false, false, false⟩, eft := { s.eft with pstate := 0, vin := vin } }
  else s

/-! ### The power controller's registers (posted: R413, R461) -/

def pwrReg (off : Nat) : Nat := edgeBase + 0x490000 + off

/-- The values that a write of the PWR block at offset `off` gives its fields; a field that refuses keeps its own. In
PWR_DROOPCFG a THRESH in range that is not above the HYST that stands is refused (DESIGN CHOICE, log 62). `locked`: the RWL fields take no
write, under the gecko lock and from any writer but the MP (R460). -/
def Pwr.write (p : Pwr) (locked : Bool) (off : Nat) (v : W64) : Pwr :=
  let x := v.toNat
  match off with
  | 0x08 =>
    let mx := if !locked && 1000 ≤ bitsOf x 16 12 && bitsOf x 16 12 ≤ 3600 then bitsOf x 16 12 else p.capmax
    { p with capw := if 1000 ≤ bitsOf x 0 12 ∧ bitsOf x 0 12 ≤ mx then bitsOf x 0 12 else p.capw, capmax := mx }
  | 0x18 =>
    { p with
      paceEn := bitOf x 0
      paceTgt := if 500 ≤ bitsOf x 16 10 ∧ bitsOf x 16 10 ≤ 1000 then bitsOf x 16 10 else p.paceTgt }
  | 0x20 =>
    { p with
      learnEn := bitOf x 0, profile := if bitOf x 1 then [] else p.profile
      lead := if bitsOf x 8 8 = 0 then p.lead else bitsOf x 8 8 }
  | 0x28 =>
    let t := if !locked && 15 ≤ bitsOf x 0 8 && bitsOf x 0 8 ≤ 60 then bitsOf x 0 8 else p.thresh
    let h := if !locked && 5 ≤ bitsOf x 8 8 && bitsOf x 8 8 ≤ 30 && bitsOf x 8 8 < t then bitsOf x 8 8 else p.hyst
    { p with thresh := if h < t then t else p.thresh, hyst := h }
  | 0x50 => { p with flags := p.flags &&& ~~~(v.setWidth 4) }
  | _ => p

/-- Whether a field of such a write refuses its value: out of its range, or locked and changed (R15, R470). -/
def Pwr.refuses (p : Pwr) (locked : Bool) (off : Nat) (v : W64) : Bool :=
  let q := p.write locked off v
  let x := v.toNat
  match off with
  | 0x08 => q.capw != bitsOf x 0 12 || q.capmax != bitsOf x 16 12
  | 0x18 => q.paceTgt != bitsOf x 16 10
  | 0x20 => q.lead != bitsOf x 8 8
  | 0x28 => q.thresh != bitsOf x 0 8 || q.hyst != bitsOf x 8 8
  | _ => false

/-- The RWL fields take no write by `w`: under the gecko lock none does, and before it only the MP's (R460). -/
def State.locks (s : State) (w : Nat) : Bool := s.sec.gecko || w != uMgmt

/-- A write of the PWR block is posted; refusals are logged. -/
def State.pwrWrite (s : State) (w off : Nat) (v : W64) : State :=
  if s.wbusy domPwr then s.csrAcc w (pwrReg off)
  else
    let s := s.postWrite domPwr w (pwrReg off) v
    if s.pwr.refuses (s.locks w) off v then s.csrAcc w (pwrReg off) else s

def doPwrCapWrite (v : W64) (w : Nat) (s : State) : State := s.pwrWrite w 0x08 v
def doPwrLearnClr (v : W64) (w : Nat) (s : State) : State := s.pwrWrite w 0x20 v

/-- The posted write takes effect at the tick. -/
def State.pwrApply (s : State) : State :=
  match smGet none s.posted domPwr with
  | some (a, v, w) => { s with pwr := s.pwr.write (s.locks w) (a - pwrReg 0) v }.clearPost domPwr
  | none => s

/-- A flag of PWR_FLAGS is set; its record is logged when it was clear. -/
def State.pwrFlag (s : State) (i cause : Nat) : State :=
  if s.pwr.flags.getLsbD i then s
  else ({ s with pwr := { s.pwr with flags := s.pwr.flags ||| (1#4 <<< i) } }).detect (mkRec clsCorrected cause uMgmt)

/-! ### The cap (R413–R415) -/

/-- The largest n up to `m` that the controller's model predicts to fit the cap, 4 at least. -/
def fitN (cal : List Byte) (sample vset cap : Nat) : Nat → Nat
  | 0 => 4
  | m + 1 => if m + 1 ≤ 4 then 4 else if Config.powerModel cal sample vset (m + 1) ≤ cap then m + 1 else fitN cal sample vset cap m

/-- The least learned setpoint over the bins ahead (R416); none where learning is off. -/
def State.learned (s : State) : Option Nat :=
  let p := s.pwr
  if s.clu.commits = 0#32 ∨ 10000 ≤ p.epochMs ∨ 4095 < p.epochMs then none
  else
    let last := (100 * p.epochMs + min p.tick 99 + p.lead) / 100
    let vs := (p.profile.filter (fun x => p.epochMs ≤ x.1 && x.1 ≤ last)).map (·.2)
    match vs with
    | [] => none
    | v :: r => some (r.foldl min v)

/-- CAP_TICK: the 10 µs sample and the last 1 ms average, in W. A posted write is in force; the cap asks for a setpoint and an n. Where
the manual gives only bounds, the choice is free within them: it rations above the floor only during a slew; a sample above 1.10 × the
effective cap slews the setpoint down (R414); and a cap that cannot be met keeps the floor (R415). EFFW and REACH hold at most 4,095 W
(DESIGN CHOICE, log 62: their 12 bits hold no larger average). -/
def doCapTick (pin pavg : Nat) (s : State) : State :=
  if s.rails.io then
    let s := s.pwrApply
    let s : State := { s with pwr := { s.pwr with pin := min pin 65535, pavg := min pavg 65535, tick := s.pwr.tick + 1 } }
    if s.rails.core then
      let p := s.pwr
      let bottom := p.vset = 550 ∧ p.n = 4
      let s : State := { s with pwr := { p with reach := if bottom then min pavg 4095 else p.reach } }
      let s := if bottom ∧ p.capw < pavg then s.pwrFlag 0 cCapUnatt else s
      let eff := if bottom ∧ p.capw < pavg then min pavg 4095 else p.capw
      let floor := bottom ∧ p.capw < pavg
      let high := 11 * eff < 10 * pin
      let (v, s) := s.drawUpTo (if floor then 0 else if high then p.vset - 551 else 250)
      let (k, s) := s.drawUpTo 60
      let n := if floor then 4 else if high then fitN p.cal pin p.vset eff p.n
        else if s.slewing || p.vset == 550 then 4 + k else 64
      { s with pwr := { s.pwr with effw := eff, capV := some (550 + v), capN := n, learnV := s.learned } }
    else s
  else s

/-! ### Rationing (R410) -/

/-- Window `w` of a frame issues: n of the 64 windows do, evenly spread. -/
def windowOn (n w : Nat) : Bool := (w * n) / 64 < ((w + 1) * n) / 64

/-- Enter window `w`. -/
def State.inWindow (s : State) (w : Nat) : State :=
  { s with
    pwr := { s.pwr with window := w }
    holds := { s.holds with ration := s.pwr.n < 64 && !windowOn s.pwr.n w } }

/-- RATION_FRAME: n moves toward what throttle and cap ask for (R421): down at once, up by at most 8 and not while a droop holds the
setpoint (R412). -/
def doRationFrame (s : State) : State :=
  if s.rails.core then
    let p := s.pwr
    let want := min p.thrN p.capN
    let n := if want < p.n then want else if p.slewHold then p.n else min want (p.n + 8)
    ({ s with pwr := { p with n := n } }).inWindow 0
  else s

/-- What passes while no command comes: the next window of a rationed frame. -/
def State.idle (s : State) : State := if s.pwr.n < 64 then s.inWindow ((s.pwr.window + 1) % 64) else s

/-! ### The setpoint and droop gating (R408–R412) -/

/-- SETPOINT_SLEW_STEP: 1 mV toward the target, once start-up has released the setpoint to the controller (R453); after a droop it first
waits for every detector to be clear. -/
def doSetpointSlewStep (s : State) : State :=
  let p := s.pwr
  if s.rails.core && s.eft.pstate == 3 then
    if p.slewHold then
      if s.holds.droop = 0#64 then { s with pwr := { p with slewHold := false } } else s
    else
      let v := if p.vset < p.target then p.vset + 1 else if p.target < p.vset then p.vset - 1 else p.vset
      { s with pwr := { p with vset := v } }
  else s

/-- DROOP_TRIP: detector `d` trips; the tiles of its region stop issuing and the setpoint holds still. -/
def doDroopTrip (d : Nat) (s : State) : State :=
  if s.rails.core && d < 64 && !s.holds.droop.getLsbD d then
    { s with
      holds := { s.holds with droop := s.holds.droop ||| (1#64 <<< d) }
      pwr := { s.pwr with events := satAdd 32 s.pwr.events 1, slewHold := true } }
  else s

/-- DROOP_CLEAR: the local voltage has recovered for 50 ns; the region was held for `us` µs, and returns by the ramp of R409 if that
was 1 µs or more. -/
def doDroopClear (d us : Nat) (s : State) : State :=
  if s.holds.droop.getLsbD d then
    { s with
      holds := { s.holds with droop := s.holds.droop &&& ~~~(1#64 <<< d) }
      pwr := { s.pwr with
        gatedUs := satAdd 32 s.pwr.gatedUs us, ramp := if 1 ≤ us then smSet 0 s.pwr.ramp d 1 else s.pwr.ramp } }
  else s

/-- ISSUE_RAMP_STEP: 250 ns on, region `d`, or with 64 the edge units' logic, issues at the next eighth of full rate; at 8/8 the ramp is
over. At full rate the step is the first of a return after a stop of 1 µs or more by any other source or for want of work, which it asserts
(log 51). The ramp slows issue and holds nothing (R409). -/
def doIssueRampStep (d : Nat) (s : State) : State :=
  let k := smGet 0 s.pwr.ramp d
  if s.rails.core && d ≤ 64 then { s with pwr := { s.pwr with ramp := smSet 0 s.pwr.ramp d (if 7 ≤ k then 0 else k + 1) } } else s

/-! ### Phase learning (R416) -/

/-- LEARN_BIN_END: the bin's learned setpoint moves one eighth of the way toward the setpoint; its first value, and the rounding of
the eighth, are not stated. -/
def doLearnBinEnd (s : State) : State :=
  if s.rails.core then
    let p := s.pwr
    let b := p.epochMs
    let on := p.learnEn && s.clu.commits != 0#32 && b ≤ 4095
    let (f, s) := s.drawUpTo 250
    let (u, s) := s.drawUpTo 1
    let old : Int := ((smGet 0 p.profile b : Nat) : Int)
    let old : Int := if old = 0 then ((550 + f : Nat) : Int) else old
    let d := ((p.vset : Nat) : Int) - old
    let new := old + Int.fdiv d 8 + (if Int.fmod d 8 = 0 then 0 else ((u : Nat) : Int))
    { s with pwr := { s.pwr with
      epochMs := b + 1, tick := 0, profile := if on then smSet 0 p.profile b new.toNat else p.profile } }
  else s

/-! ### Temperature (R417, R418) -/

/-- THERMAL_SCAN: the sensors of the physical tiles, in °C. -/
def doThermalScan (temps : List (Nat × Nat)) (s : State) : State :=
  if s.rails.core then
    let m := temps.foldl (fun (m : SMap Nat) (p : Nat × Nat) => if p.1 < 1056 then smSet 0 m p.1 (min p.2 255) else m) s.pwr.temps
    let hot := m.foldl (fun (a : Nat × Nat) (p : Nat × Nat) => if a.1 < p.2 then (p.2, p.1) else a) (0, 0)
    let p := s.pwr
    let s : State := { s with pwr := { p with temps := m, tmax := hot.1, ttile := hot.2, throttle := p.throttle || 95 ≤ hot.1 } }
    if 105 ≤ hot.1 then
      let s := s.pwrFlag 2 cHot105
      ({ s with pwr := { s.pwr with n := 4, thrN := 4 } }).inWindow s.pwr.window
    else s
  else s

/-- THROTTLE_STEP: down every 1 ms at 95 °C or above, first the target, at the floor n; up every 10 ms at 92 °C or below, first n,
then the target. THROTTLE clears when nothing is asked for any more. -/
def doThrottleStep (s : State) : State :=
  let p := s.pwr
  if p.throttle then
    if 95 ≤ p.tmax then
      if 550 < p.thrV.getD p.target then { s with pwr := { p with thrV := some (max 550 (p.thrV.getD p.target - 5)) } }
      else { s with pwr := { p with thrN := max 4 (p.thrN - 4) } }
    else if p.tmax ≤ 92 then
      if p.thrN < 64 then { s with pwr := { p with thrN := min 64 (p.thrN + 4) } }
      else
        let v := p.thrV.getD 800 + 5
        if 800 ≤ v then { s with pwr := { p with thrV := none, throttle := false } }
        else { s with pwr := { p with thrV := some v } }
    else s
  else s

/-- THERMAL_TRIP: a trip sensor reads 115 °C or above (R40, R449); THERM_ALERT_N stays asserted until the next cold reset (R489). -/
def doThermalTrip (d : Nat) (s : State) : State :=
  if s.eft.pstate ≠ 0 ∧ d < 64 then
    let s := s.tripRails 1 cThermTrip
    { s with pins := { s.pins with tripAlert := true } }
  else s

/-! ### The pace governor (R419, R420) -/

/-- PACE_READ: the slowest monitor's speed factor in per mille, and the lowest setpoint whose speed factor reaches the target. -/
def doPaceRead (speed vmin : Nat) (s : State) : State :=
  if s.rails.core then
    let p := s.pwr
    let s : State := { s with pwr := { p with achieved := min speed 2047, paceV := some vmin } }
    let above := [p.thrV, p.capV].filterMap id
    if p.paceEn ∧ speed < p.paceTgt ∧ (above.any (fun v => v < vmin) ∨ p.n < 64) then s.pwrFlag 1 cPaceMiss else s
  else s

def execInputSample (vin iin : Nat) (s : State) : Out := .next (doInputSample vin iin s)
def execInputTrip (why : InTrip) (s : State) : Out := .next (doInputTrip why s)
def execStage1Start (vin : Nat) (s : State) : Out := .next (doStage1Start vin s)
def execStage1Stop (vin : Nat) (s : State) : Out := .next (doStage1Stop vin s)
def execPwrCapWrite (v : W64) (w : Nat) (s : State) : Out := .next (doPwrCapWrite v w s)
def execPwrLearnClr (v : W64) (w : Nat) (s : State) : Out := .next (doPwrLearnClr v w s)
def execCapTick (pin pavg : Nat) (s : State) : Out := .next (doCapTick pin pavg s)
def execRationFrame (s : State) : Out := .next (doRationFrame s)
def execSetpointSlewStep (s : State) : Out := .next (doSetpointSlewStep s)
def execDroopTrip (d : Nat) (s : State) : Out := .next (doDroopTrip d s)
def execDroopClear (d us : Nat) (s : State) : Out := .next (doDroopClear d us s)
def execIssueRampStep (d : Nat) (s : State) : Out := .next (doIssueRampStep d s)
def execLearnBinEnd (s : State) : Out := .next (doLearnBinEnd s)
def execThermalScan (temps : List (Nat × Nat)) (s : State) : Out := .next (doThermalScan temps s)
def execThrottleStep (s : State) : Out := .next (doThrottleStep s)
def execThermalTrip (d : Nat) (s : State) : Out := .next (doThermalTrip d s)
def execPaceRead (speed vmin : Nat) (s : State) : Out := .next (doPaceRead speed vmin s)

end Sys2Proof.Machine
end

