-- ==== Sys2Proof/Machine/Startup.lean ====
section
/-! DEFINITION. The board lines (R483–R490), cold reset and the start conditions (R450, R451), start-up (R453, R454), the images
as they are applied (R458, R459), identity and the version floor (R465–R468), the watchdog (R447), and the MP's readings (R452). -/

namespace Sys2Proof.Machine

/-! ### Cold reset and the board lines (R450, R451, R484–R488) -/

/-- What a cold reset leaves (R451): the rails go off; the trip and the gecko lock clear, and a management response that has gone out
stays out. -/
def State.coldState (s : State) : State :=
  let s := s.railsOff
  { s with
    eft := { s.eft with trip := 0, startPend := s.pins.pwren && !s.pins.rst }
    sec := Sec.reset, i3c := { I3c.reset with resp := s.i3c.resp }, jtag := Jtag.reset
    pins := { s.pins with tripAlert := false } }

def State.powered (s : State) : Bool := s.eft.pstate != 0

/-- COLD_RESET. -/
def doColdReset (s : State) : State := if s.powered then s.coldState else s

/-- An accepted assertion of MOD_PWREN is a start condition. -/
def doModPwrenAssert (s : State) : State :=
  if s.powered && !s.pins.pwren then
    { s with pins := { s.pins with pwren := true }, eft := { s.eft with startPend := true } }
  else s

/-- An accepted deassertion of MOD_PWREN: the rails go off in START, RUN and RECOVERY, and the lockout starts. -/
def doModPwrenDeassert (s : State) : State :=
  if s.powered && s.pins.pwren then
    let s := if 2 ≤ s.eft.pstate then s.railsOff else s
    { s with pins := { s.pins with pwren := false }, eft := { s.eft with startPend := false, lockout := true } }
  else s

/-- LOCKOUT_EXPIRE: 2 s after the last deassertion. -/
def doLockoutExpire (s : State) : State :=
  if s.eft.lockout then { s with eft := { s.eft with lockout := false } } else s

/-- An accepted assertion of MOD_RESET_N starts a cold reset. -/
def doModResetNAssert (s : State) : State :=
  if s.powered && !s.pins.rst then
    ({ s with pins := { s.pins with rst := true, resetLogged := false } }).coldState
  else s

/-- The reset ends when the line is deasserted; start-up follows if MOD_PWREN is asserted. -/
def doModResetNDeassert (s : State) : State :=
  if s.powered && s.pins.rst then
    { s with pins := { s.pins with rst := false }, eft := { s.eft with rstLow := false, startPend := s.pins.pwren } }
  else s

/-- RESET_HELD_TIMEOUT: the line has stayed asserted for 1 s; one record of this assertion. -/
def doResetHeldTimeout (s : State) : State :=
  if s.powered && s.pins.rst && !s.pins.resetLogged then
    ({ s with pins := { s.pins with resetLogged := true }, eft := { s.eft with rstLow := true } }).eftRecord clsFatal cResetHeld
  else s

/-- BOARD_HALT_N asserted is a source that holds every tile (R39). -/
def doBoardHaltNAssert (s : State) : State :=
  if s.powered && !s.pins.halt then { s with pins := { s.pins with halt := true, haltLogged := false } } else s

/-- The hold ends, and issue returns through the ramp of R409 in every region; a line that the filter of 1 µs accepts has held for at
least that time (R485). -/
def doBoardHaltNDeassert (s : State) : State :=
  if s.powered && s.pins.halt then
    { s with
      pins := { s.pins with halt := false }
      pwr := { s.pwr with ramp :=
        if s.rails.core then (List.range 64).foldl (fun (m : SMap Nat) (d : Nat) => smSet 0 m d 1) s.pwr.ramp else s.pwr.ramp } }
  else s

/-- HALT_HELD_TIMEOUT: the line has stayed asserted for 100 ms; one record of this assertion. -/
def doHaltHeldTimeout (s : State) : State :=
  if s.powered && s.pins.halt && !s.pins.haltLogged then
    ({ s with pins := { s.pins with haltLogged := true } }).eftRecord clsCorrected cHaltHeld
  else s

/-- HOST_PORT_WAKE: the wake pattern arrives while the module is in EFT. -/
def doHostPortWake (s : State) : State :=
  if s.eft.pstate = 1 ∧ s.pins.pwren = true ∧ s.eft.wakeEn = true then { s with eft := { s.eft with startPend := true } } else s

/-- THERM_ALERT_N is asserted (R489); under EXTEST the line follows its cell. -/
def State.thermAlert (s : State) : Bool :=
  if s.extest then s.cell 0 else s.powered && (s.pwr.throttle || s.pins.tripAlert)

/-- PWR_GOOD is released (R489); under EXTEST the line follows its cell. -/
def State.pwrGood (s : State) : Bool :=
  if s.extest then s.cell 1 else s.rails.io && s.rails.core && s.rails.dram

/-- SNP_PERST_N is high (R493): from step 9 of a start-up to the next power-down, reset or trip. -/
def State.snpPerstN (s : State) : Bool := s.rails.io && s.rails.core && 9 ≤ s.mp.step && s.mp.state != 4

/-- A transmitter of the snapshot port under EXTEST (R491). -/
def State.snpCell (s : State) (l : Nat) : Option Int := if s.extest then some (Config.cellLevel (s.cell (154 + l))) else none

/-- TDO: driven only in the Shift states (R483); a command of the TAP ends outside them. -/
def State.tdo (_ : State) : Option Bool := none

/-! ### The watchdog and the timekeeper (R447, R449) -/

def doMpWatchdogSignal (s : State) : State := if s.mpRuns then { s with eft := { s.eft with signalAt := s.time } } else s

/-- MP_WATCHDOG_EXPIRE: 100 ms without a signal. The MP is dead, and the eft island takes the fatal action and writes its record. -/
def doMpWatchdogExpire (s : State) : State :=
  if s.mpRuns then
    let s : State := { s with mp := { s.mp with alive := false }, eft := { s.eft with mpDead := true } }
    s.fatalHold.mirrorRecord { mkRec clsFatal cMpFault uEft with eft := true }
  else s

def doTimekeeperTick (s : State) : State := if s.powered then { s with time := s.time + 1 } else s

/-! ### The floor (R468) -/

/-- A cell of the floor row by majority over the three copies. -/
def floorCell (rows : List (BitVec 255)) (i : Nat) : Bool := 2 ≤ (rows.filter (fun r => r.getLsbD i)).length

/-- The length of the first run of level-1 cells from cell `i`. -/
def floorRun (rows : List (BitVec 255)) : Nat → Nat → Nat
  | 0, _ => 0
  | n + 1, i => if floorCell rows i then floorRun rows n (i + 1) + 1 else 0

def Flash.floor (f : Flash) : Nat := floorRun f.floorRow 255 0

/-- Press cells of all three copies to level 1, up to `v`; none goes back to level 0. -/
def Flash.raiseFloor (f : Flash) (v : Nat) : Flash :=
  { f with floorRow := f.floorRow.map (fun r => r ||| BitVec.ofNat 255 (2 ^ min v 255 - 1)) }

/-! ### Start-up (R453) -/

/-- A stop of start-up (R454): V_core and V_dram go off, STATE is FAILED with the step reached, and one record of class fatal goes out.
START is left (R448) for the state whose rails these are, RECOVERY (DESIGN CHOICE, log 62: no rule names it). -/
def State.stopStart (s : State) : State :=
  ({ s with
    rails := { s.rails with core := false, dram := false }
    stackRegs := List.replicate 8 Stack.reset
    pwr := { s.pwr with vset := 0 }
    eft := { s.eft with pstate := 4 }
    mp := { s.mp with state := 4 } }).detect (mkRec clsFatal cMeshFail uMgmt)

/-- Two lists of counts, added. -/
def addCounts (a b : List W64) : List W64 := (a.zip b).map (fun p => p.1 + p.2)

/-- What a mirror that has been the island's own since its power-up adds to the summary in flash (R500). -/
def Summary.plus (f m : Summary) : Summary :=
  { f with
    perClass := addCounts f.perClass m.perClass, lostClass := addCounts f.lostClass m.lostClass
    perCause := m.perCause.foldl (fun c p => smSet 0#32 c p.1 (smGet 0#32 c p.1 + p.2)) f.perCause
    newest := (m.newest ++ f.newest).take 32 }

/-- The MP takes the mirror's newer records and counts (R500), counts the start, and writes the summary. LSEQ goes on after the newest
record that the mirror holds; where OFF has emptied it, after the flash's (DESIGN CHOICE, log 29). Records that were lost
after the mirror was last written stand in the flash's counts. -/
def State.takeSummary (s : State) : State :=
  let f := s.flash.sum
  let m := s.eft.mirror
  let sum := if s.eft.mirrorNew then f.plus m
    else { m with lostClass := (f.lostClass.zip m.lostClass).map (fun p => if p.1 < p.2 then p.2 else p.1) }
  let seq := if s.eft.mirrorNew && s.eft.mirrorSeq == 0#32 then s.flash.sumSeq else s.eft.mirrorSeq
  let sum : Summary := { sum with starts := f.starts + 1 }
  ({ s with
    err := { s.err with sum := sum, nextSeq := seq }
    eft := { s.eft with mirror := sum, mirrorSeq := seq, mirrorNew := false } }).writeSummary false

/-- Steps 2 and 3: the identity key, and the vendor certificate over it (R465). -/
def State.identify (s : State) (raw : List Byte) : State :=
  let seed := shake256 (Config.correctBits raw (s.idPart 0))
  let pk := mldsaPublic seed
  let ok := mldsaVerify (s.idPart 3) (shake256 (pk ++ s.idPart 1 ++ hgkPart)) (s.idPart 2) (asciiBytes "HGK-DEVICE")
  { s with mp := { s.mp with idSeed := seed, idPublic := pk }, sec := { s.sec with idFail := !ok } }

/-- The fields of GETID page 0, in the order of R466: 1,997 bytes. -/
def State.idFields (s : State) : List (List Byte) :=
  [hgkPart, hgkStep, padTo 16 (s.idPart 1), leBytes 2 (s.devId + 2 ^ 15 * b2n (!s.lnk.idV)), leBytes 1 s.pins.posId,
   leBytes 8 (secBlock s 8).toNat, padTo 1952 s.mp.idPublic]

/-- Fields one after another, each behind some of the bytes that no field fills; `room` of those are left. -/
def placeFields (room : Nat) : List (Nat × List Byte) → List Byte
  | [] => (List.range room).map (Config.idFill 7)
  | (i, f) :: r =>
    let n := Config.idGap i % (room + 1)
    (List.range n).map (Config.idFill i) ++ f ++ placeFields (room - n) r

/-- GETID page 0 as the state stands: 2,016 bytes, of which R466 gives the fields and not their places (log 14). -/
def State.idPage0 (s : State) : List Byte :=
  let rank (p : List Byte × Nat) : Nat × List Byte := (p.2, p.1)
  placeFields 19 ((s.idFields.zipIdx.map rank).mergeSort (fun a b => Config.idRank a.1 ≤ Config.idRank b.1))

/-- The copy of both pages that the eft island keeps. -/
def State.keepPages (s : State) : State := { s with eft := { s.eft with idPages := [s.idPage0, s.idPart 2] } }

/-- The measurement log (R467) over the two images. -/
def State.measure (s : State) (fw fl : List Byte) : State :=
  { s with mp := { s.mp with meas :=
    [leBytes 32 Config.bootRomDigest.toNat, imgHeadDigest fw, imgHeadDigest fl, shake256 (s.idPart 3), shake256 (imgSignPk fw),
     shake256 (imgSignPk fl), shake256 (s.skip.map (fun n => BitVec.ofNat 8 n)), List.replicate 32 0#8] } }

/-- The port's fields of LINK, and the peer that it expects. -/
def imagePort (img : List Byte) (x : Port) (p : Nat) : Port :=
  let f := imgField img 4
  { x with
    en := f 0 p == 1, x4ok := f 1 p == 1, bond := f 2 p, txpreset := BitVec.ofNat 8 (f 3 p)
    expect := if f 4 p = 1 then some (f 5 p) else none }

/-- The Flomo image is applied: every RWL field and the values of R481. -/
def State.applyImage (s : State) (img : List Byte) : State :=
  let f := imgField img
  let routes := (List.range 4096).foldl (fun (m : SMap W16) (d : Nat) => smSet 0#16 m d (BitVec.ofNat 16 (f 4 6 d) &&& 0x801F#16)) []
  { s with
    skip := (List.range 32).map (f 1 0)
    lnk := { s.lnk with ports := s.lnk.ports.zipIdx.map (fun x => imagePort img x.1 x.2), route := routes }
    pwr := { s.pwr with
      cal := (let body := imgBody img; imgSection body ((imageDir body (body.length / 16 + 1) 0).getD []) 2)
      capmax := f 5 0 0, capw := f 5 1 0, effw := f 5 1 0, thresh := f 5 2 0, hyst := f 5 3 0 }
    clu := { s.clu with
      role := f 6 0 0, mgrOnly := f 6 1 0 == 1, mgrId := f 6 4 0, sbyId := f 6 5 0, sbyV := f 6 6 0 == 1, sbyLost := false, nmem := f 6 7 0
      period := BitVec.ofNat 16 (f 6 8 0), miss := f 6 9 0, mins := BitVec.ofNat 16 (f 6 10 0)
      maxs := BitVec.ofNat 16 (f 6 11 0), snapEvery := BitVec.ofNat 8 (f 6 12 0), m0 := BitVec.ofNat 24 (f 6 13 0) }
    lim := ⟨BitVec.ofNat 16 (f 7 0 0), BitVec.ofNat 40 (f 7 1 0)⟩
    mp := { s.mp with interval := f 7 2 0 }
    sec := { s.sec with jtagOpen := bitOf (f 8 0 0) 0, noI3c := bitOf (f 8 0 0) 1, noHost := bitOf (f 8 0 0) 2 } }

/-- The image as it lies in the flash. -/
def Flash.image (f : Flash) (kind : Nat) : List Byte := f.get (imageBase kind) (imageRoom kind)

/-- The check of both images, firmware first, then the content of the Flomo image: IMGERR and IMGWHICH. -/
def imagesCheck (fw fl root : List Byte) (floor : Nat) : Nat × Nat :=
  if imageCheck fw root 0 floor ≠ 0 then (imageCheck fw root 0 floor, 0)
  else if imageCheck fl root 1 floor ≠ 0 then (imageCheck fl root 1 floor, 1)
  else if imageContent fl then (0, 0) else (7, 1)

/-- The floor after both images passed (R468). -/
def raisedFloor (fw fl : List Byte) (floor : Nat) : Nat :=
  let up (img : List Byte) (n : Nat) : Nat := if imgRaise img && n < imgSvn img then imgSvn img else n
  up fl (up fw floor)

/-- An image failed (R459): RECOVERY, on V_io alone. The boot ROM finds it in step 4, the firmware the content in step 5 (R458). -/
def State.recover (s : State) (err which : Nat) : State :=
  { s with eft := { s.eft with pstate := 4 }, mp := { s.mp with state := 3, step := if err = 7 then 5 else 4, imgErr := err, imgWhich := which } }

/-- Step 6: the rails come up, V_core at 0.55 V, and the image is applied. Step 7 begins: the self-tests, where a router that fails
stops start-up, and a tile that fails is noted. -/
def State.bringUp (s : State) (env : StartEnv) (fw fl : List Byte) : State :=
  let s : State := { s with rails := { s.rails with core := true, dram := true }, pwr := { s.pwr with vset := 550 } }
  let s := (s.applyImage fl).measure fw fl
  let s : State := { s with
    sec := { s.sec with fwSvn := imgSvn fw, flSvn := imgSvn fl }
    mp := { s.mp with step := 7, badTiles := env.badTiles.filter (· < 1056) } }
  if env.routerFail then s.stopStart else s

/-- The start conditions of R450 and R488 hold together. -/
def State.canStart (s : State) : Bool :=
  (s.eft.pstate == 1 || s.eft.pstate == 4) && s.eft.startPend && s.pins.pwren && !s.pins.rst && !s.eft.lockout &&
  s.eft.trip == 0 && 5000 ≤ s.eft.vin

/-- A port at a start-up (R313): DOWN ends, and the host port goes on to DETECT where it is enabled. -/
def Port.atStart (x : Port) (p : Nat) : Port :=
  let x := if x.st = 7 then { x with st := 0 } else x
  if p = 18 ∧ x.en ∧ x.st = 0 then { x with st := 1 } else x

/-- START_UP: steps 1 to 6, and the self-tests of step 7. Start-up from RECOVERY runs the same steps again (R464). -/
def doStartUp (env : StartEnv) (s : State) : State :=
  if s.canStart then
    let old := s.eft.pstate
    let s : State := { s with
      eft := { s.eft with pstate := 2, startPend := false, signalAt := s.time }
      pins := { s.pins with posId := env.posId % 64 }
      rails := { s.rails with io := true }
      mp := Mp.reset
      sec := if old = 4 then { Sec.reset with gecko := s.sec.gecko } else s.sec
      lnk := { s.lnk with ports := s.lnk.ports.zipIdx.map (fun x => x.1.atStart x.2) } }
    let s := (s.takeSummary).identify env.rawBits
    let fw := s.flash.image 0
    let fl := s.flash.image 1
    let floor := s.flash.floor
    let s : State := { s with sec := { s.sec with floor := floor } }
    let s := { s with mp := { s.mp with flomo := fl } }.keepPages
    let (err, which) := imagesCheck fw fl (s.idPart 3) floor
    let signed := imageCheck fw (s.idPart 3) 0 floor = 0 ∧ imageCheck fl (s.idPart 3) 1 floor = 0
    let up := if signed then raisedFloor fw fl floor else floor
    let s : State := { s with flash := if floor < up then s.flash.raiseFloor up else s.flash, sec := { s.sec with floor := up } }
    if err = 0 then s.bringUp env fw fl else (s.measure fw fl).recover err which
  else s

/-- STACK_TRAINED: stack `n` is READY, or start-up stops. -/
def doStackTrained (n : Nat) (ok : Bool) (s : State) : State :=
  if s.mpRuns && s.mp.state == 1 && s.mp.step == 7 && n < 8 then
    if ok then { s with stackRegs := modAt s.stackRegs n (fun k => { k with ready := true }) } else s.stopStart
  else s

/-! ### Steps 8 to 10 -/

/-- A free trim within its range (R140). -/
def freeTrim (s : State) : Trim × State :=
  let (g, s) := s.drawUpTo (0x1400 - 0x0CCD)
  let (h, s) := s.drawUpTo (0x1400 - 0x0CCD)
  let (o, s) := s.draw
  (⟨BitVec.ofNat 16 (0x0CCD + g), BitVec.ofNat 16 (0x0CCD + h), o.setWidth 8, (o >>> 8).setWidth 8⟩, s)

def freeTrims : Nat → State → List Trim × State
  | 0, s => ([], s)
  | n + 1, s =>
    let (x, s) := freeTrim s
    let (l, s) := freeTrims n s
    (x :: l, s)

/-- The ADC calibration of a tile: each bank's four trims of each kind. It raises no notice and sets neither HIT nor RANGE, whatever the
trims come to (DESIGN CHOICE, log 43: R453 lets R145 find the trims, and R141 speaks of the updates of reads). -/
def State.calibrate (s : State) (t : Nat) : State :=
  let (a, s) := freeTrims 4 s
  let (b, s) := freeTrims 4 s
  s.modTile t (fun v => (v.modBank 0 (fun k => { k with trims := a })).modBank 1 (fun k => { k with trims := b }))

/-- The factory defects of a block, merged into its entry (R457, section 3). -/
def mergeDefect (img : List Byte) (inst : Nat) (k : Block) : Block :=
  let row (f : Nat) : Option Nat := let n := imgField img 3 f inst; if n = 0 then none else some (n - 1)
  { k with
    retired := k.retired || imgField img 3 0 inst == 1
    sprow0 := match k.sprow0 with | some r => some r | none => row 1
    sprow1 := match k.sprow1 with | some r => some r | none => row 2 }

/-- The spare columns of the factory defect map, where the ledger has none. -/
def mergeColumns (img : List Byte) (phys : Nat) (m : SMap W16) : SMap W16 :=
  (List.range 192).foldl (fun (m : SMap W16) (i : Nat) =>
    let n := imgField img 3 3 (192 * phys + i)
    if n = 0 ∨ (smGet 0#16 m i).getLsbD 15 then m else smSet 0#16 m i (BitVec.ofNat 16 (0x8000 + (n - 1) % 1024))) m

/-- A ledger as it is loaded: without a closed mark each block first gains what the rate limit allowed since the last write (R180);
the factory defect map is merged. -/
def loadLedger (img : List Byte) (closed : Bool) (interval phys : Nat) (l : Ledger) : Ledger :=
  let blocks := (List.range 128).foldl (fun (m : SMap Block) (i : Nat) =>
    let k := smGet Block.none m i
    let k := if closed then k else { k with cycles := satAdd 40 k.cycles (interval * 20000) }
    smSet Block.none m i (mergeDefect img (128 * phys + i) k)) l.blocks
  { l with blocks := blocks, cols := mergeColumns img phys l.cols, allow := if closed then l.allow else l.allow + 1 }


/-- The ledgers of all 1,056 physical tiles from the newest copy that verifies; from none, as they left the factory. The closed mark that
counts is that of the copy loaded (DESIGN CHOICE, log 59: R180 says "the newest copy", R179 loads the newest that verifies). -/
def State.loadLedgers (s : State) (img : List Byte) : State × Bool :=
  let (l, closed) := match s.flash.newestLedgers 16 with | some c => (c.ledgers, c.closed) | none => ([], true)
  ({ s with mp := { s.mp with ledgers := (List.range 1056).foldl (fun (m : SMap Ledger) (p : Nat) =>
      smSet Ledger.reset m p (loadLedger img closed s.mp.interval p (smGet Ledger.reset l p))) [] } }, closed)

/-- Step 8 of one tile. A block that the allowance takes to the limit posts its event (R181). -/
def State.readyTile (s : State) (closed : Bool) (t : Nat) : State :=
  let l := smGet Ledger.reset s.mp.ledgers (s.physTile t)
  let s := (s.calibrate t).modTile t (fun v => { v with prs := { v.prs with ledger := l, loaded := true } })
  (List.range 128).foldl (fun (s : State) (n : Nat) =>
    let c := (smGet Block.none l.blocks n).cycles.toNat
    if !closed && s.lim.wearLim.toNat ≤ c && c < s.lim.wearLim.toNat + s.mp.interval * 20000 then s.notice t 7 (n / 64) n else s) s

/-- What the snapshot port asks of a drive at start-up (R377): identity and capacity, the two features, and the I/O queue pair, behind the
deletion of one that the drive still has. -/
def driveSetup (has : Bool) : List NvmeCmd :=
  [.identifyController, .identifyNamespace, .setQueues, .getQueues, .setWriteCache, .getWriteCache] ++
  (if has then [.deleteSubmission, .deleteCompletion] else []) ++ [.createCompletion 256, .createSubmission 256]

/-- The drive is set up. Whether it still has the queues of an earlier start is a free value (log 49). -/
def State.setUpDrive (s : State) : State :=
  let (v, s) := s.draw
  s.askDrive (driveSetup (v.getLsbD 0))

/-- STARTUP_READY: steps 8 to 10. -/
def doStartupReady (env : ReadyEnv) (s : State) : State :=
  if s.mpRuns && s.mp.state == 1 && s.mp.step == 7 && s.stackRegs.all (·.ready) then
    let img := s.mp.flomo
    let (s, closed) := s.loadLedgers img
    let s := (List.range 1024).foldl (fun (s : State) (t : Nat) => s.readyTile closed t) s
    let f := imgField img 6
    let id := if f 2 0 = 1 then (f 3 0 + s.pins.posId) % 4096 else f 3 0
    let s : State := { s with
      devId := id
      lnk := { s.lnk with
        idV := true
        ports := s.lnk.ports.map (fun x => if x.en && x.st == 0 then { x with st := 1 } else x) }
      clu := { s.clu with drive := env.drive, nsBlocks := if env.drive then env.nsBlocks else 0 } }
    let s := if env.drive then s.setUpDrive else s.detect (mkRec clsCorrected cNvmeFail uClutch)
    { s with
      sec := { s.sec with gecko := true }
      mp := { s.mp with state := 2, step := 10 }
      eft := { s.eft with pstate := 3 } }
  else s

/-- STARTUP_DEADLINE: 45 s have passed and the module is not ready. -/
def doStartupDeadline (s : State) : State := if s.mpRuns && s.mp.state == 1 then s.stopStart else s

/-! ### The MP's readings (R452, R377) -/

def doRegulatorRead (vals : List Nat) (s : State) : State :=
  if s.mpRuns then { s with mp := { s.mp with regs := vals } } else s

/-- SMART_LOG_READ: the drive is asked for its SMART page, which goes into the error summary, as the mirror follows it. -/
def doSmartLogRead (page : List Byte) (s : State) : State :=
  if s.mpRuns && s.clu.drive then
    let sum : Summary := { s.err.sum with smart := page }
    ({ s with err := { s.err with sum := sum }, eft := { s.eft with mirror := sum } } : State).askDrive [.smartLog]
  else s

/-- `n` free readings of sensors that no row of the table reads. -/
def freeReadings : Nat → State → List Nat × State
  | 0, s => ([], s)
  | n + 1, s =>
    let (v, s) := s.draw
    let (l, s) := freeReadings n s
    (v.toNat :: l, s)

/-- SENSOR_SNAPSHOT: every reading of R452, with the STAMP of its scan. No row brings the readings of the 64 trip sensors: they are free
(log 14). -/
def doSensorSnapshot (s : State) : State :=
  if s.mpRuns then
    let temps := (List.range 1056).map (fun p => smGet 0 s.pwr.temps p)
    let (trips, s) := freeReadings 64 s
    { s with eft := { s.eft with snap :=
      [s.time.toNat, s.pwr.vin, s.pwr.iin, s.holds.droop.toNat] ++ s.stackRegs.map (fun k => k.temp.toNat) ++ trips ++ temps ++ s.mp.regs } }
  else s

def execColdReset (s : State) : Out := .next (doColdReset s)
def execModPwrenAssert (s : State) : Out := .next (doModPwrenAssert s)
def execModPwrenDeassert (s : State) : Out := .next (doModPwrenDeassert s)
def execLockoutExpire (s : State) : Out := .next (doLockoutExpire s)
def execModResetNAssert (s : State) : Out := .next (doModResetNAssert s)
def execModResetNDeassert (s : State) : Out := .next (doModResetNDeassert s)
def execResetHeldTimeout (s : State) : Out := .next (doResetHeldTimeout s)
def execBoardHaltNAssert (s : State) : Out := .next (doBoardHaltNAssert s)
def execBoardHaltNDeassert (s : State) : Out := .next (doBoardHaltNDeassert s)
def execHaltHeldTimeout (s : State) : Out := .next (doHaltHeldTimeout s)
def execHostPortWake (s : State) : Out := .next (doHostPortWake s)
def execMpWatchdogSignal (s : State) : Out := .next (doMpWatchdogSignal s)
def execMpWatchdogExpire (s : State) : Out := .next (doMpWatchdogExpire s)
def execTimekeeperTick (s : State) : Out := .next (doTimekeeperTick s)
def execStartUp (env : StartEnv) (s : State) : Out := .next (doStartUp env s)
def execStackTrained (n : Nat) (ok : Bool) (s : State) : Out := .next (doStackTrained n ok s)
def execStartupReady (env : ReadyEnv) (s : State) : Out := .next (doStartupReady env s)
def execStartupDeadline (s : State) : Out := .next (doStartupDeadline s)
def execRegulatorRead (vals : List Nat) (s : State) : Out := .next (doRegulatorRead vals s)
def execSmartLogRead (page : List Byte) (s : State) : Out := .next (doSmartLogRead page s)
def execSensorSnapshot (s : State) : Out := .next (doSensorSnapshot s)

end Sys2Proof.Machine
end

