-- ==== Sys2Proof/Machine/Mgmt.lean ====
section
/-! DEFINITION. Management commands on the mailbox and over I3C (R340, R462–R467), what the eft island serves (R445), the I3C target,
and the JTAG TAP (R491). -/

namespace Sys2Proof.Machine

/-! ### Frames (R462) -/

def stBadCmd : Nat := 1
def stBadLen : Nat := 2
def stBusy : Nat := 3
def stLocked : Nat := 6
def stNotNow : Nat := 7
def stBadCrc : Nat := 8

def mOpc (l : List Byte) : Nat := lField l 0 2
def mLen (l : List Byte) : Nat := lField l 2 2
def mBody (l : List Byte) : List Byte := cutOf l 16 (mLen l)

/-- The CRC of a frame covers its first twelve header bytes and its body. -/
def mCrc (l : List Byte) : Nat := (crc32c (l.take 12 ++ mBody l)).toNat

def knownOpcs : List Nat := [0x01, 0x02, 0x03, 0x04, 0x05, 0x10, 0x11, 0x12, 0x13, 0x20, 0x21, 0x22, 0x23]

/-- The opcodes that the eft island serves. -/
def eftOpcs : List Nat := [0x01, 0x03, 0x04, 0x12, 0x13]

/-- What is wrong with a frame, whatever its command does: no body of that length, a bad CRC, or an unknown opcode. -/
def frameFault (l : List Byte) : Option Nat :=
  if 4064 < mLen l ∨ l.length < 16 + mLen l then some stBadLen
  else if lField l 12 4 ≠ mCrc l then some stBadCrc
  else if knownOpcs.contains (mOpc l) then none
  else some stBadCmd

/-- The response to a frame. -/
def mResponse (l : List Byte) (status : Nat) (body : List Byte) : List Byte :=
  let h := l.take 2 ++ leBytes 2 body.length ++ cutOf l 4 4 ++ leBytes 1 status ++ leBytes 3 0
  h ++ leBytes 4 (crc32c (h ++ body)).toNat ++ body

/-! ### The channels -/

/-- The command in the mailbox. -/
def State.inbox (s : State) : List Byte := (List.range 4096).map (fun i => smGet 0#8 s.host.inbox i)

/-- Answer a command. Over I3C the response waits at the target, which asks for an in-band interrupt where events are enabled. -/
def State.respond (s : State) (c : Chan) (resp : List Byte) : State :=
  match c with
  | .host => { s with mp := { s.mp with hostResp := some resp } }
  | .i3c _ => { s with i3c := { s.i3c with resp := resp, ibi := s.i3c.events.getLsbD 0 } }

/-- The I3C target has a dynamic address, so it takes frames. -/
def State.i3cReady (s : State) : Bool := s.powered && s.i3c.addr.isSome

/-- The frame that a channel holds for the MP; none where no command waits on it. -/
def State.frameOf (s : State) (c : Chan) : Option (List Byte) :=
  match c with
  | .host => if s.host.busy && s.mp.hostResp.isNone then some s.inbox else none
  | .i3c f => if s.i3cReady then some f else none

def chanNum (c : Chan) : Nat :=
  match c with
  | .host => 0
  | .i3c _ => 1

/-- What a command does: status, body, and the state. -/
abbrev MRes := Nat × List Byte × State

/-- Let the MP serve the command with opcode `opc` on a channel. In RECOVERY only the marked commands are served. -/
def State.mpServe (s : State) (c : Chan) (opc : Nat) (inRecovery : Bool) (run : List Byte → State → MRes) : State :=
  match s.frameOf c with
  | none => s
  | some f =>
    match frameFault f with
    | some st => s.respond c (mResponse f st [])
    | none =>
      if mOpc f ≠ opc then s
      else if s.mp.state = 3 ∧ inRecovery = false then s.respond c (mResponse f stNotNow [])
      else
        let (st, body, s) := run (mBody f) s
        s.respond c (mResponse f st body)

/-! ### What the eft island adds and serves (R445, R462) -/

/-- The island's own additions: the comparator states and the stamp of the last scan. -/
def State.eftAdds (s : State) : List Byte := Config.snapBytes [s.eft.vin, s.eft.trip, (s.eft.snap[0]?).getD 0]

/-- WAKE: a start condition in EFT while MOD_PWREN is asserted. -/
def runWake (s : State) : MRes :=
  if s.eft.pstate = 1 ∧ s.pins.pwren = true then (stOk, [], { s with eft := { s.eft with startPend := true } })
  else (stOk, [], s)

/-- A served command, its frame already checked. -/
def State.eftRun (s : State) (opc : Nat) (body : List Byte) : MRes :=
  if opc = 0x01 then
    if body = [0#8] ∨ body = [1#8] then (stOk, (s.eft.idPages[leVal body]?).getD [], s) else (stBadLen, [], s)
  else if body ≠ [] then (stBadLen, [], s)
  else if opc = 0x03 then (stOk, s.eft.mirror.bytes s.eft.mirrorSeq s.time ++ s.eftAdds, s)
  else if opc = 0x04 then (stOk, Config.snapBytes s.eft.snap, s)
  else if opc = 0x12 then (stOk, [], s)
  else runWake s

/-- The eft island answers an I3C frame of a served kind; RESET follows its response. -/
def State.eftServe (s : State) (f : List Byte) : State :=
  if s.i3cReady && eftOpcs.contains (mOpc f) then
    match frameFault f with
    | some st => s.respond (.i3c f) (mResponse f st [])
    | none =>
      let (st, body, s) := s.eftRun (mOpc f) (mBody f)
      let s := s.respond (.i3c f) (mResponse f st body)
      if mOpc f = 0x12 ∧ st = stOk then s.coldState else s
  else s

/-- Serve a command of a served kind: by the MP, or by the eft island where the MP does not run. -/
def State.serveEither (s : State) (c : Chan) (opc : Nat) (run : List Byte → State → MRes) : State :=
  if s.mpRuns then s.mpServe c opc true run
  else match c with
    | .host => s
    | .i3c f => if mOpc f = opc then s.eftServe f else s

/-- Serve a command of the MP alone. -/
def State.serveMp (s : State) (c : Chan) (opc : Nat) (inRecovery : Bool) (run : List Byte → State → MRes) : State :=
  if s.mpRuns then s.mpServe c opc inRecovery run else s

/-- EFT_I3C_TAKEOVER: the MP has not started to answer within 20 ms. -/
def doEftI3cTakeover (f : List Byte) (s : State) : State := s.eftServe f

/-! ### GETID, ATTEST, READSUM, READSENS, READLOG -/

def noBody (body : List Byte) (s : State) (k : MRes) : MRes := if body = [] then k else (stBadLen, [], s)

def doMgmtGetid (c : Chan) (s : State) : State :=
  s.serveEither c 0x01 (fun body s =>
    if body = [0#8] then (stOk, s.idPage0, s)
    else if body = [1#8] then (stOk, s.idPart 2, s)
    else (stBadLen, [], s))

/-- The report of R467 without its signature. -/
def State.report (s : State) (nonce : List Byte) : List Byte :=
  asciiBytes "HGKATT01" ++ nonce ++ leBytes 2 (s.devId + 2 ^ 15 * b2n (!s.lnk.idV)) ++ leBytes 1 s.pins.posId ++
  leBytes 1 (b2n s.sec.gecko + 2 * b2n (s.mp.state == 3) + 4 * b2n s.sec.jtagOpen) ++
  leBytes 1 s.sec.floor ++ leBytes 1 s.sec.fwSvn ++ leBytes 1 s.sec.flSvn ++ leBytes 1 0 ++
  leBytes 8 s.time.toNat ++ leBytes 8 s.err.sum.starts.toNat ++ shake256 s.mp.idPublic ++ s.mp.meas.flatten

/-- ATTEST: the signed report; VERIFY where the identity key does not match its certificate (R465). -/
def doAttest (c : Chan) (s : State) : State :=
  s.serveMp c 0x02 true (fun body s =>
    if body.length ≠ 32 then (stBadLen, [], s)
    else if s.sec.idFail then (stVerify, [], s)
    else
      let r := s.report body
      (stOk, r ++ mldsaSign s.mp.idSeed (shake256 r) (asciiBytes "HGK-ATTEST"), s))

def doReadsum (c : Chan) (s : State) : State :=
  s.serveEither c 0x03 (fun body s => noBody body s (stOk, s.err.sum.bytes s.err.nextSeq s.time, s))

def doReadsens (c : Chan) (s : State) : State :=
  s.serveEither c 0x04 (fun body s => noBody body s (stOk, Config.snapBytes s.eft.snap, s))

/-- The records of the ring from LSEQ `first` on. -/
def State.readLog (s : State) (first n : Nat) : List Byte :=
  ((List.range n).map (fun i =>
    let r := smGet [] s.err.ring ((first + i) % 1024)
    if lField r 0 4 = (first + i) % 2 ^ 32 then r else [])).flatten

def doReadlog (c : Chan) (s : State) : State :=
  s.serveMp c 0x05 true (fun body s =>
    if body.length ≠ 8 ∨ 63 < lField body 4 4 then (stBadLen, [], s)
    else (stOk, s.readLog (lField body 0 4) (lField body 4 4), s))

/-! ### SETCAP, POWERDOWN, RESET, WAKE -/

/-- SETCAP writes PWR_CAP.CAPW and keeps CAPMAX; the MP waits while the domain is busy. -/
def doSetcap (c : Chan) (s : State) : State :=
  if s.wbusy domPwr then s
  else s.serveMp c 0x10 false (fun body s =>
    if body.length ≠ 4 then (stBadLen, [], s)
    else if 0xFFF < leVal body then (stBadCmd, [], s)
    else (stOk, [], s.pwrWrite uMgmt 0x08 (BitVec.ofNat 64 (leVal body + s.pwr.capmax * 2 ^ 16))))

/-- An orderly power-down: the ledgers and the summary with the closed mark, then EFT. -/
def State.powerDown (s : State) : State :=
  let s := if s.mp.state = 2 then s.writeLedgers true else s
  (s.writeSummary true).railsOff

/-- What follows a response: nothing, a cold reset, a power-down. -/
def State.follow (s : State) (k : Nat) : State :=
  match k with
  | 1 => s.coldState
  | 2 => s.powerDown
  | _ => s

/-- A command with no body whose effect follows its response: over I3C at once, on the mailbox once the response is placed. -/
def State.commandThen (s : State) (c : Chan) (opc : Nat) (inRecovery : Bool) (k : Nat) : State :=
  match s.frameOf c with
  | none => s
  | some f =>
    match frameFault f with
    | some st => s.respond c (mResponse f st [])
    | none =>
      if mOpc f ≠ opc then s
      else if s.mp.state = 3 ∧ inRecovery = false then s.respond c (mResponse f stNotNow [])
      else if mBody f ≠ [] then s.respond c (mResponse f stBadLen [])
      else
        let s := s.respond c (mResponse f stOk [])
        match c with
        | .host => { s with mp := { s.mp with after := k } }
        | .i3c _ => s.follow k

def doPowerdown (c : Chan) (s : State) : State := if s.mpRuns then s.commandThen c 0x11 false 2 else s

/-- RESET: by the MP, or by the eft island over I3C. -/
def doReset (c : Chan) (s : State) : State :=
  if s.mpRuns then s.commandThen c 0x12 true 1
  else match c with
    | .host => s
    | .i3c f => if mOpc f = 0x12 then s.eftServe f else s

/-- WAKE: served by the eft island; the mailbox knows no such command. -/
def doWake (c : Chan) (s : State) : State :=
  match c with
  | .host => s.serveMp c 0x13 true (fun _ s => (stBadCmd, [], s))
  | .i3c f => if mOpc f = 0x13 then s.eftServe f else s

/-! ### The update path (R463, R464) -/

/-- A channel that LOCKS bars; in RECOVERY none is. -/
def State.barred (s : State) (c : Chan) : Bool :=
  s.mp.state != 3 && (match c with | .host => s.sec.noHost | .i3c _ => s.sec.noI3c)

/-- UPDBEGIN: kind in byte 0, total length in bytes 4 to 7. -/
def doUpdbegin (c : Chan) (s : State) : State :=
  s.serveMp c 0x20 true (fun body s =>
    if s.barred c then (stLocked, [], s)
    else if body.length ≠ 8 then (stBadLen, [], s)
    else if s.sess.chan.isSome then (stBusy, [], s)
    else if 1 < lField body 0 1 then (stBadCmd, [], s)
    else if imageRoom (lField body 0 1) < lField body 4 4 then (stBadLen, [], s)
    else (stOk, [], { s with sess := ⟨some (chanNum c), lField body 0 1, lField body 4 4, [], 0, 0⟩ }))

/-- UPDDATA: the offset in bytes 0 to 3, up to 4,048 bytes from byte 16. -/
def doUpddata (c : Chan) (s : State) : State :=
  s.serveMp c 0x21 true (fun body s =>
    let ofs := lField body 0 4
    if s.sess.chan ≠ some (chanNum c) ∨ s.sess.status ≠ 0 then (stNotNow, [], s)
    else if body.length < 16 ∨ s.sess.total < ofs + (body.length - 16) then (stBadLen, [], s)
    else
      let staged := (body.drop 16).zipIdx.foldl (fun (m : SMap Byte) (p : Byte × Nat) => smSet 0#8 m (ofs + p.2) p.1) s.sess.staged
      (stOk, [], { s with sess := { s.sess with staged := staged } }))

/-- UPDEND: the checks start; answered at once. -/
def doUpdend (c : Chan) (s : State) : State :=
  s.serveMp c 0x22 true (fun body s =>
    noBody body s (
      if s.sess.chan ≠ some (chanNum c) ∨ s.sess.status ≠ 0 then (stNotNow, [], s)
      else (stOk, [], { s with sess := { s.sess with status := 1 } })))

/-- UPDSTAT: state and result code. While the image is being checked or written it is one of 1 and 2. -/
def doUpdstat (c : Chan) (s : State) : State :=
  s.serveMp c 0x23 true (fun body s =>
    noBody body s (
      if s.sess.status = 1 then
        let (k, s) := s.drawUpTo 1
        (stOk, leBytes 1 (1 + k) ++ leBytes 1 0, s)
      else (stOk, leBytes 1 s.sess.status ++ leBytes 1 s.sess.result, s)))

/-- The session ends with a state and a result. -/
def State.endSession (s : State) (status result : Nat) : State :=
  { s with sess := { s.sess with chan := none, status := status, result := result } }

/-- In RECOVERY the loader starts the module again once both images pass. -/
def State.loaderStarts (s : State) : State :=
  if s.mp.state = 3 ∧ (imagesCheck (s.flash.image 0) (s.flash.image 1) (s.idPart 3) s.sec.floor).1 = 0 then
    { s with eft := { s.eft with startPend := true } }
  else s

/-- UPDATE_IMAGE_DONE: checks, erase, programming and read-back have ended; `ok` that the flash took the image. A failure after the
erase leaves what had been programmed. -/
def doUpdateImageDone (ok : Bool) (s : State) : State :=
  if s.mpRuns && s.sess.status == 1 then
    let r := s.stagedResult
    if r ≠ stOk then s.endSession 4 r
    else if ok then
      (({ s with flash := s.flash.program s.sess.kind s.sess.image }).endSession 3 stOk).loaderStarts
    else s.breakUpdate.endSession 4 stVerify
  else s

/-! ### The mailbox (R340) -/

/-- The host's access to BAR0 reaches the port. -/
def State.bar0 (s : State) : Bool := s.rails.io

/-- MBDOOR as it reads: BUSY, READY, and the module's ready (R453). -/
def mbdoorValue (s : State) : W64 := reg [(0, b2n s.host.busy), (1, b2n s.host.rdy), (2, b2n (s.mp.state == 2))]

/-- MBDOOR: writing 1 to bit 0 hands over the command. -/
def doMbdoor (v : W64) (s : State) : State :=
  if s.bar0 then
    if s.host.busy then s.csrAcc uHost 0xA000
    else if v.getLsbD 0 then { s with host := { s.host with busy := true, rdy := false } }
    else s
  else s

/-- Send the frames that wait. -/
def State.flushFrames (s : State) : Nat → State
  | 0 => s
  | n + 1 => if s.frames.isEmpty then s else (doHev s).flushFrames n

/-- The response that the mailbox gets: the one given, or the refusal of a frame that is no command. -/
def State.hostAnswer (s : State) : Option (List Byte) :=
  match s.mp.hostResp with
  | some r => some r
  | none => (frameFault s.inbox).map (fun st => mResponse s.inbox st [])

/-- MGMT_RESPONSE: the response is placed, READY is set, and an MGMT frame goes out; then what the command asked for follows. -/
def doMgmtResponse (s : State) : State :=
  if s.mpRuns && s.host.busy then
    match s.hostAnswer with
    | none => s
    | some r =>
      let out := r.zipIdx.foldl (fun (m : SMap Byte) (p : Byte × Nat) => if p.2 < 4096 then smSet 0#8 m p.2 p.1 else m) s.host.outbox
      let k := s.mp.after
      let s : State := { s with
        host := { s.host with outbox := out, busy := false, rdy := true }
        mp := { s.mp with hostResp := none, after := 0 } }
      let s := s.post none 0x07 []
      if k = 0 then s else (s.flushFrames (2 * s.frames.length + 32)).follow k
  else s

/-- MGMT: bytes for the mailbox arrive on the management channel. -/
def doMgmt (ofs : Nat) (bytes : List Byte) (s : State) : State :=
  if s.bar0 then
    let m := bytes.zipIdx.foldl (fun (m : SMap Byte) (p : Byte × Nat) =>
      if ofs + p.2 < 4096 then smSet 0#8 m (ofs + p.2) p.1 else m) s.host.inbox
    { s with host := { s.host with inbox := m } }
  else s

/-! ### The I3C target -/

def State.modI3c (s : State) (f : I3c → I3c) : State := if s.powered then { s with i3c := f s.i3c } else s

/-- ENTDAA: a target without an address takes the one assigned. -/
def doEntdaa (a : Nat) (s : State) : State :=
  s.modI3c (fun x => match x.addr with | none => { x with addr := some (a % 128) } | some _ => x)

def doSetnewda (a : Nat) (s : State) : State :=
  s.modI3c (fun x => match x.addr with | none => x | some _ => { x with addr := some (a % 128) })

def doRstdaa (s : State) : State := s.modI3c (fun x => { x with addr := none })

/-- What a CCC returns, most significant byte first. -/
def State.cccAnswer (s : State) (l : List Byte) : State := if s.i3cReady then { s with i3c := { s.i3c with ccc := l.reverse } } else s

/-- GETPID: the provisional ID, POS_ID in its low bits. -/
def doGetpid (s : State) : State :=
  s.cccAnswer (leBytes 6 ((Config.i3cValue 0).toNat / 64 * 64 + s.pins.posId % 64))

def doGetbcr (s : State) : State := s.cccAnswer (leBytes 1 (Config.i3cValue 1).toNat)
def doGetdcr (s : State) : State := s.cccAnswer (leBytes 1 (Config.i3cValue 2).toNat)
def doGetstatus (s : State) : State :=
  s.cccAnswer (leBytes 2 (Config.i3cStatus (s.mp.state == 2 && s.mpRuns) s.i3c.ibi).toNat)
def doEnec (m : Byte) (s : State) : State := if s.i3cReady then s.modI3c (fun x => { x with events := x.events ||| m }) else s
def doDisec (m : Byte) (s : State) : State := if s.i3cReady then s.modI3c (fun x => { x with events := x.events &&& ~~~m }) else s
def doGetmwl (s : State) : State := s.cccAnswer (leBytes 2 s.i3c.mwl.toNat)
def doGetmrl (s : State) : State := s.cccAnswer (leBytes 2 s.i3c.mrl.toNat)
def doSetmwl (n : W16) (s : State) : State := if s.i3cReady then s.modI3c (fun x => { x with mwl := n }) else s
def doSetmrl (n : W16) (s : State) : State := if s.i3cReady then s.modI3c (fun x => { x with mrl := n }) else s

/-! ### JTAG (R491) -/

/-- The bits of a word, least significant first, as they shift out. -/
def shiftBits (n v : Nat) : List Bool := (List.range n).map (fun i => bitOf v i)

/-- A command of the TAP leaves Test-Logic-Reset. -/
def doIdcode (s : State) : State :=
  if s.powered then { s with jtag := { s.jtag with instr := 1, dr := shiftBits 32 0x1102474B, tlr := false } } else s

def State.tapBypass (s : State) : State := { s with jtag := { s.jtag with instr := 0, dr := [false], tlr := false } }

def doBypass (s : State) : State := if s.powered then s.tapBypass else s

/-- SAMPLE/PRELOAD: the pins as sampled shift out, and the cells take what shifts in. -/
def doSamplePreload (cells : List Bool) (s : State) : State :=
  if s.powered then
    if s.boundaryOpen then
      let (v, s) := s.draw
      { s with jtag := ⟨2, cells.zipIdx.map (fun p => v.getLsbD (p.2 % 64)), cells, false⟩ }
    else s.tapBypass
  else s

/-- EXTEST: board-line outputs and transmitters follow the cells that SAMPLE/PRELOAD has loaded. -/
def doExtest (s : State) : State :=
  if s.powered then
    if s.boundaryOpen then { s with jtag := { s.jtag with instr := 3, tlr := false } } else s.tapBypass
  else s

def execMgmtGetid (c : Chan) (s : State) : Out := .next (doMgmtGetid c s)
def execAttest (c : Chan) (s : State) : Out := .next (doAttest c s)
def execReadsum (c : Chan) (s : State) : Out := .next (doReadsum c s)
def execReadsens (c : Chan) (s : State) : Out := .next (doReadsens c s)
def execReadlog (c : Chan) (s : State) : Out := .next (doReadlog c s)
def execSetcap (c : Chan) (s : State) : Out := .next (doSetcap c s)
def execPowerdown (c : Chan) (s : State) : Out := .next (doPowerdown c s)
def execReset (c : Chan) (s : State) : Out := .next (doReset c s)
def execWake (c : Chan) (s : State) : Out := .next (doWake c s)
def execUpdbegin (c : Chan) (s : State) : Out := .next (doUpdbegin c s)
def execUpddata (c : Chan) (s : State) : Out := .next (doUpddata c s)
def execUpdend (c : Chan) (s : State) : Out := .next (doUpdend c s)
def execUpdstat (c : Chan) (s : State) : Out := .next (doUpdstat c s)
def execUpdateImageDone (ok : Bool) (s : State) : Out := .next (doUpdateImageDone ok s)
def execEftI3cTakeover (frame : List Byte) (s : State) : Out := .next (doEftI3cTakeover frame s)
def execMbdoor (v : W64) (s : State) : Out := .next (doMbdoor v s)
def execMgmtResponse (s : State) : Out := .next (doMgmtResponse s)
def execMgmt (ofs : Nat) (bytes : List Byte) (s : State) : Out := .next (doMgmt ofs bytes s)
def execEntdaa (addr : Nat) (s : State) : Out := .next (doEntdaa addr s)
def execSetnewda (addr : Nat) (s : State) : Out := .next (doSetnewda addr s)
def execRstdaa (s : State) : Out := .next (doRstdaa s)
def execGetpid (s : State) : Out := .next (doGetpid s)
def execGetbcr (s : State) : Out := .next (doGetbcr s)
def execGetdcr (s : State) : Out := .next (doGetdcr s)
def execGetstatus (s : State) : Out := .next (doGetstatus s)
def execEnec (m : Byte) (s : State) : Out := .next (doEnec m s)
def execDisec (m : Byte) (s : State) : Out := .next (doDisec m s)
def execGetmwl (s : State) : Out := .next (doGetmwl s)
def execGetmrl (s : State) : Out := .next (doGetmrl s)
def execSetmwl (n : W16) (s : State) : Out := .next (doSetmwl n s)
def execSetmrl (n : W16) (s : State) : Out := .next (doSetmrl n s)
def execIdcode (s : State) : Out := .next (doIdcode s)
def execBypass (s : State) : Out := .next (doBypass s)
def execSamplePreload (cells : List Bool) (s : State) : Out := .next (doSamplePreload cells s)
def execExtest (s : State) : Out := .next (doExtest s)

end Sys2Proof.Machine
end

