-- ==== Sys2Proof/Machine/Registers.lean ====
section
/-! DEFINITION. Writes of CSRs (R15, R469–R472, R479), the posted domains (R461), the clear and seed registers, and the host's BARs
(R334). What a CSR reads as is in `Machine/CsrRead.lean`. -/

namespace Sys2Proof.Machine

/-! ### Clears and seeds: the actions -/

def State.clrTileNum (s : State) (t : Nat) (v : W64) : State := s.modTile t (fun x => { x with num := x.num.clear v.toNat })

/-- ARR_EVTCLR (R135): bit 0 RANGE, bit 1 SAT. -/
def State.clrArrEvt (s : State) (t : Nat) (v : W64) : State :=
  s.modTile t (fun x => { x with arr := { x.arr with
    adcRange := if v.getLsbD 0 then 0#32 else x.arr.adcRange, adcSat := if v.getLsbD 1 then 0#32 else x.arr.adcSat } })

def State.clrSpill (s : State) (t : Nat) (v : W64) : State :=
  s.modTile t (fun x => { x with arr := { x.arr with spill := x.arr.spill.clear v.toNat } })

/-- VEC_HISTCLR (R251, R439): the bins of the sets named, and their FIRED bits. -/
def State.clrHist (s : State) (t : Nat) (v : W64) : State :=
  s.modTile t (fun x =>
    let fired := (List.range 16).foldl (fun (f : BitVec 48) (i : Nat) =>
      if v.getLsbD i then f &&& ~~~(7#48 <<< (3 * i)) else f) x.vec.halmFired
    { x with vec := { x.vec with
      hist := x.vec.hist.filter (fun p => !(p.1 < 1024 && v.getLsbD (p.1 / 64))), halmFired := fired } })

def State.clrUpdNum (s : State) (n : Nat) (v : W64) : State := s.modUpd n (fun u => { u with num := u.num.clear v.toNat })
def State.clrTok (s : State) (v : W64) : State := { s with dsp := { s.dsp with tok := s.dsp.tok.clear v.toNat } }
def State.clrDspNum (s : State) (v : W64) : State := { s with dsp := { s.dsp with num := s.dsp.num.clear v.toNat } }
def State.clrLnkNum (s : State) (p : Nat) (v : W64) : State := s.modPort p (fun x => { x with num := x.num.clear v.toNat })

/-- A write of a seed register starts the sequences of its units at 0 (R115). -/
def State.seedTile (s : State) (t : Nat) (v : W64) : State :=
  s.modTile t (fun x => { x with seed := v, mxSeq := 0#24, vcSeq := 0#24 })

def State.seedUpd (s : State) (n : Nat) (v : W64) : State :=
  s.modUpd n (fun u => { u with seed := v, seqs := List.replicate 32 0#24 })

def State.seedLnk (s : State) (p : Nat) (v : W64) : State := s.modPort p (fun x => { x with seed := v, seq := 0#24 })

/-! ### Fields that refuse (R15, R470) -/

/-- One record for a write of which some field refuses its value. -/
def State.logIf (s : State) (bad : Bool) (w a : Nat) : State := if bad then s.csrAcc w a else s

/-- A write of a register all of whose fields are RWL: `mask` covers them. Under the gecko lock, and before it from any writer but the MP
(R460), it has no effect and is logged where it changes a field; else each field in its range takes its value. -/
def State.lockedWrite (s : State) (w a : Nat) (v mask : W64) (ok : Bool) (f : State → State) : State :=
  if s.locks w then s.logIf ((v ^^^ csrRead s a) &&& mask != 0#64) w a
  else (f s).logIf (!ok) w a

/-- Take a value where it lies in its range. -/
def pickN (lo hi v old : Nat) : Nat := if lo ≤ v ∧ v ≤ hi then v else old

/-! ### Tile blocks -/

def tileAt (t blk off : Nat) : Nat := tileBase + t * 0x800000 + 0x700000 + blk * 0x10000 + off

/-- The offsets of a family of `n` registers at a stride of 8. -/
def inFam (off base n : Nat) : Bool := base ≤ off && off < base + 8 * n

/-- The offsets that the manual assigns in the tile blocks: 0 TILE, 1 SCU, 2 ARR, 3 PRS, 4 MXE, 5 VEC, 6 DMA. -/
def tileAssigned (blk off : Nat) : Bool :=
  match blk with
  | 0 => [0x0, 0x100, 0x280, 0x288, 0x300, 0x308, 0x480, 0x500, 0x508].contains off || inFam off 0x200 10 || inFam off 0x400 7 ||
      inFam off 0x440 7
  | 1 => inFam off 0 6
  | 2 => [0x0, 0x80, 0x88, 0x90, 0x98, 0xA0, 0xA8, 0x100, 0x108, 0x130, 0x138, 0x180].contains off || inFam off 0x40 8 ||
      inFam off 0x110 4
  | 3 => [0x0, 0x80, 0x88, 0x90, 0xA0, 0xA8, 0xB0, 0xC0, 0xC8].contains off || inFam off 0x40 8 || inFam off 0x1000 320
  | 4 => off == 0 || inFam off 0x10 5
  | 5 => [0x0, 0x10, 0x18, 0x180].contains off || inFam off 0x100 16 || inFam off 0x1000 512
  | 6 => [0x0, 0x10, 0x18, 0x20].contains off
  | _ => false

/-- TILE_SHADOWCFG (R435). -/
def Shadow.write (x : Shadow) (v : W64) : Shadow :=
  let n := v.toNat
  { x with
    en := bitOf n 0, mxLog := pickN 4 24 (bitsOf n 8 5) x.mxLog, arLog := pickN 4 24 (bitsOf n 16 5) x.arLog
    thr8 := BitVec.ofNat 16 (bitsOf n 32 16), thr4 := BitVec.ofNat 8 (bitsOf n 48 8) }

/-- VEC_HALM_s (R439). -/
def halmOf (v : W64) : Halm :=
  let n := v.toNat
  ⟨BitVec.ofNat 6 (bitsOf n 0 6), BitVec.ofNat 6 (bitsOf n 8 6), BitVec.ofNat 16 (bitsOf n 16 16), BitVec.ofNat 16 (bitsOf n 32 16),
   BitVec.ofNat 3 (bitsOf n 48 3)⟩

/-- ARR_DRIFTFLAG: W1C per bank and macro. -/
def Tile.clrDrift (x : Tile) (v : W64) : Tile :=
  let n := v.toNat
  let f (b : Nat) (k : Bank) : Bank := { k with
    hit := k.hit &&& ~~~(BitVec.ofNat 4 (bitsOf n (4 * b) 4)), range := k.range &&& ~~~(BitVec.ofNat 4 (bitsOf n (8 + 4 * b) 4)) }
  (x.modBank 0 (f 0)).modBank 1 (f 1)

/-- A 64-bit write of a tile register. A register that only reads takes nothing; an offset that none has is logged (R472). -/
def State.writeTile (s : State) (w t blk off : Nat) (v : W64) : State :=
  let a := tileAt t blk off
  let n := v.toNat
  match blk, off with
  | 0, 0x280 => s.clrTileNum t v
  | 0, 0x288 => s.modTile t (fun x => { x with num := x.num.writeAlm 10 n (bitsOf n 16 10) })
  | 0, 0x300 => s.seedTile t v
  | 0, 0x500 =>
    let ok (k : Nat) : Bool := 4 ≤ bitsOf n k 5 && bitsOf n k 5 ≤ 24
    (s.modTile t (fun x => { x with shadow := x.shadow.write v })).logIf (!(ok 8 && ok 16)) w a
  | 2, 0x80 =>
    let ok := 0x1001 ≤ bitsOf n 0 16 && bitsOf n 0 16 ≤ 0x1400
    s.lockedWrite w a v 0xFFFF#64 ok
      (fun s => if ok then { s with lim := { s.lim with driftLim := v.setWidth 16 } } else s)
  | 2, 0x88 => s.modTile t (fun x => x.clrDrift v)
  | 2, 0x98 => s.clrArrEvt t v
  | 2, 0x130 => s.clrSpill t v
  | 2, 0x138 => s.modTile t (fun x => { x with arr := { x.arr with spill := x.arr.spill.writeAlm 4 n (bitsOf n 8 4) } })
  | 3, 0xA0 =>
    s.lockedWrite w a v 0xFFFFFFFFFF#64 true (fun s => { s with lim := { s.lim with wearLim := v.setWidth 40 } })
  | 5, 0x18 => s.clrHist t v
  | 5, _ =>
    match idx8 off 0x100 16 with
    | some k => s.modTile t (fun x => { x with vec := { x.vec with halm := smSet Halm.reset x.vec.halm k (halmOf v) } })
    | none => s.logIf (!tileAssigned 5 off) w a
  | _, _ => s.logIf (!tileAssigned blk off) w a

/-! ### Edge-unit blocks -/

/-- The offsets that the manual assigns in edge-unit block `k` (R475). -/
def edgeAssigned (k off : Nat) : Bool :=
  if k < 0x08 then inFam off 0 3 || (k == 0 && (inFam off 0x1000 16 || inFam off 0x1080 2 || inFam off 0x1100 16 || off == 0x1180))
  else if k < 0x10 then
    [0x0, 0x10, 0x18, 0x280, 0x288, 0x300].contains off || inFam off 0x200 3 || inFam off 0x400 32
  else if k < 0x23 then
    inFam off 0 5 || inFam off 0x200 7 || [0x280, 0x288, 0x300, 0x308].contains off ||
    (k == 0x22 && (inFam off 0x100 2 || inFam off 0x1000 32 || inFam off 0x1200 32 || inFam off 0x4000 1024))
  else if 0x28 ≤ k ∧ k < 0x3A then
    off == 0 || (k == 0x28 && ([0x120, 0x128, 0x280, 0x300, 0x308].contains off || inFam off 0x100 3 || inFam off 0x200 7))
  else match k with
    | 0x40 => inFam off 0 9
    | 0x48 => [0x0, 0x8, 0x600, 0x700, 0x708, 0x800, 0x900, 0x908, 0xA00, 0xA08].contains off || inFam off 0x400 32 ||
        inFam off 0x840 16
    | 0x49 => inFam off 0 11
    | 0x4A => inFam off 0 2
    | 0x4B => inFam off 0 2 || (0x8000 ≤ off && off % 8 == 0)
    | 0x4C => off < 0x8000 && off % 8 == 0
    | 0x4D => inFam off 0 3
    | _ => false

def edgeAt (k off : Nat) : Nat := edgeBase + k * 0x10000 + off

/-- MEM of stack 0: the translation domain and MEM_XLRESUME. -/
def State.writeMem0 (s : State) (w off : Nat) (v : W64) : State :=
  let n := v.toNat
  match off with
  | 0x1080 => doMemXlinv v w s
  | 0x1088 => s.xlResume (bitsOf n 0 10) (bitsOf n 10 3) w (bitOf n 13)
  | 0x1180 => s.postPreempt w v
  | _ =>
    match idx8 off 0x1000 16, idx8 off 0x1100 16 with
    | some i, _ => doMemXlrootWrite i v w s
    | _, some _ => s.postWrite domXl w (memReg off) v
    | _, _ => s.logIf (!edgeAssigned 0 off) w (memReg off)

/-- LNK_CFG (RWL). -/
def Port.writeCfg (x : Port) (p : Nat) (v : W64) : Port :=
  let n := v.toNat
  { x with
    en := bitOf n 0, x4ok := bitOf n 1, bond := if bondOk p (bitsOf n 8 5) then bitsOf n 8 5 else x.bond
    txpreset := BitVec.ofNat 8 (bitsOf n 16 8) }

/-- LNK_SQCFG_r: CTX changes only while the ring is empty; a LOG2N out of range leaves the ring unusable. -/
def State.writeSq (s : State) (w r : Nat) (v : W64) : State :=
  let n := v.toNat
  let x := s.ring r
  let busy := x.held.isSome || x.head != x.tail
  let bad := (busy && bitsOf n 4 4 != x.ctx) || !(4 ≤ bitsOf n 8 4 && bitsOf n 8 4 ≤ 12)
  let s := s.modRing r (fun x => { x with
    en := bitOf n 0, ctx := if busy then x.ctx else bitsOf n 4 4, log2n := bitsOf n 8 4, base := v &&& 0xFFFFFFFFF000#64 })
  (s.logIf bad w (edgeAt 0x22 (0x1000 + 16 * r))).takeRecords r 4097

/-- LNK_EQCFG_c: the passes start anew when EN is set. -/
def EqRing.writeCfg (x : EqRing) (v : W64) : EqRing :=
  let n := v.toNat
  let y : EqRing := { x with
    en := bitOf n 0, arm := bitOf n 1, vec := bitsOf n 2 5, log2n := pickN 6 14 (bitsOf n 8 4) x.log2n
    base := v &&& 0xFFFFFFFFF000#64 }
  if y.en && !x.en then { y with pass0 := y.tail.toNat / y.size % 2 == 1 } else y

/-- Port 18's own registers. -/
def State.writeLnkHost (s : State) (w off : Nat) (v : W64) : State :=
  let n := v.toNat
  let a := edgeAt 0x22 off
  if off = 0x108 then { s with devRing := bitsOf n 0 4, host := { s.host with aper := bitsOf n 8 12 } }
  else if inFam off 0x1000 32 then
    if off % 16 = 0 then s.writeSq w ((off - 0x1000) / 16) v else doLnkSqtail ((off - 0x1000) / 16) v w s
  else if inFam off 0x1200 32 then
    let c := (off - 0x1200) / 16
    if off % 16 = 0 then
      ({ s with eq := modAt s.eq c (fun x => x.writeCfg v) }).logIf (!(6 ≤ bitsOf n 8 4 && bitsOf n 8 4 ≤ 14)) w a
    else { s with eq := modAt s.eq c (fun x => { x with head := v.setWidth 16 }) }
  else s.logIf (!edgeAssigned 0x22 off) w a

/-- LNK of port `p`. -/
def State.writeLnk (s : State) (w p off : Nat) (v : W64) : State :=
  let n := v.toNat
  let a := edgeAt (0x10 + p) off
  match off with
  | 0x08 => s.lockedWrite w a v 0xFF1F03#64 (bondOk p (bitsOf n 8 5)) (fun s => s.modPort p (fun x => x.writeCfg p v))
  | 0x280 => s.clrLnkNum p v
  | 0x288 => s.modPort p (fun x => { x with num := x.num.writeAlm 7 n (bitsOf n 16 7) })
  | 0x300 => s.seedLnk p v
  | _ => if p = 18 then s.writeLnkHost w off v else s.logIf (!edgeAssigned (0x10 + p) off) w a

/-- DSP of port 0. -/
def State.writeDsp0 (s : State) (w off : Nat) (v : W64) : State :=
  let n := v.toNat
  match off with
  | 0x120 => s.clrTok v
  | 0x128 => { s with dsp := { s.dsp with tok := s.dsp.tok.writeAlm 3 n (bitsOf n 8 3) } }
  | 0x280 => s.clrDspNum v
  | 0x300 => { s with dsp := { s.dsp with seed := v } }
  | _ => s.logIf (!edgeAssigned 0x28 off) w (edgeAt 0x28 off)

/-- The RWL registers of the clutch functions: each field in its range takes its value. -/
def Clu.write (c : Clu) (off : Nat) (v : W64) : Clu :=
  let n := v.toNat
  match off with
  | 0x00 => { c with
      role := bitsOf n 0 2, mgrOnly := bitOf n 2, mgrId := bitsOf n 16 12, sbyId := bitsOf n 32 12, sbyV := bitOf n 44, sbyLost := false
      nmem := pickN 1 4096 (bitsOf n 48 13) c.nmem }
  | 0x20 => { c with
      period := BitVec.ofNat 16 (pickN 100 50000 (bitsOf n 0 16) c.period.toNat), miss := pickN 2 15 (bitsOf n 16 4) c.miss }
  | 0x28 =>
    let mins := bitsOf n 0 16
    { c with
      mins := BitVec.ofNat 16 mins
      maxs := BitVec.ofNat 16 (pickN mins 65535 (bitsOf n 16 16) c.maxs.toNat)
      snapEvery := BitVec.ofNat 8 (pickN 1 255 (bitsOf n 32 8) c.snapEvery.toNat), m0 := BitVec.ofNat 24 (bitsOf n 40 24) }
  | _ => c

/-- Every field of such a write lies in its range. -/
def cluFits (off : Nat) (v : W64) : Bool :=
  let n := v.toNat
  match off with
  | 0x00 => 1 ≤ bitsOf n 48 13 && bitsOf n 48 13 ≤ 4096
  | 0x20 => 100 ≤ bitsOf n 0 16 && bitsOf n 0 16 ≤ 50000 && 2 ≤ bitsOf n 16 4
  | 0x28 => bitsOf n 0 16 ≤ bitsOf n 16 16 && 1 ≤ bitsOf n 32 8
  | _ => true

def cluMask (off : Nat) : W64 :=
  match off with
  | 0x00 => 0x1FFF1FFF0FFF0007#64
  | 0x20 => 0xFFFFF#64
  | 0x28 => 0xFFFFFFFFFFFFFFFF#64
  | _ => 0#64

def State.writeClu (s : State) (w off : Nat) (v : W64) : State :=
  let a := edgeAt 0x40 off
  if off = 0x00 ∨ off = 0x20 ∨ off = 0x28 then
    s.lockedWrite w a v (cluMask off) (cluFits off v) (fun s => { s with clu := s.clu.write off v })
  else s.logIf (!edgeAssigned 0x40 off) w a

/-- MP: MP_IDXCFG and MP_DIAGSEL are posted, the lock covers MP_SPAREMAP_n and MP_LEDGERCFG. -/
def State.writeMp (s : State) (w off : Nat) (v : W64) : State :=
  let n := v.toNat
  let a := mpReg off
  match off with
  | 0x600 =>
    let ok := 60 ≤ bitsOf n 0 16 && bitsOf n 0 16 ≤ 3600
    s.lockedWrite w a v 0xFFFF#64 ok (fun s => { s with mp := { s.mp with interval := pickN 60 3600 (bitsOf n 0 16) s.mp.interval } })
  | 0x700 => doModeChange v w s
  | 0x900 => doMpXchkStart v w s
  | 0x908 => { s with mp := { s.mp with xSeed := v } }
  | 0xA00 => doMpDiagsel v w s
  | _ =>
    match idx8 off 0x400 32 with
    | some r =>
      s.lockedWrite w a v 0x3F#64 (bitsOf n 0 6 ≤ 32)
        (fun s => { s with skip := modAt s.skip r (fun x => pickN 0 32 (bitsOf n 0 6) x) })
    | none => s.logIf (!edgeAssigned 0x48 off) w a

/-- A 64-bit write at offset `off` of edge-unit block `k`. -/
def State.writeEdge (s : State) (w k off : Nat) (v : W64) : State :=
  let a := edgeAt k off
  let none' := s.logIf (!edgeAssigned k off) w a
  if k = 0 then s.writeMem0 w off v
  else if k < 0x08 then none'
  else if k < 0x10 then
    if off = 0x280 ∨ off = 0x288 ∨ off = 0x300 then s.postWrite (domUpd (k - 0x08)) w a v else none'
  else if k < 0x23 then s.writeLnk w (k - 0x10) off v
  else if k = 0x28 then s.writeDsp0 w off v
  else match k with
    | 0x40 => s.writeClu w off v
    | 0x48 => s.writeMp w off v
    | 0x49 => if [0x08, 0x18, 0x20, 0x28, 0x50].contains off then s.pwrWrite w off v else none'
    | 0x4B => if off = 0 then { s with err := { s.err with lostEsc := s.err.lostEsc && !v.getLsbD 44 } } else none'
    | 0x4D => if s.mpRuns = false then s else if off = 0x10 then s.postWrite domEft w a v else none'
    | _ => none'

/-! ### Accesses (R469) -/

def isTileCsr (a : Nat) : Bool :=
  tileBase ≤ a && a < selfBase && 0x700000 ≤ (a - tileBase) % 0x800000

def isEdgeCsr (a : Nat) : Bool := edgeBase ≤ a && a < edgeBase + 0x1000000

/-- A 64-bit write at the aligned local address `a`. -/
def State.csrWrite (s : State) (w a : Nat) (v : W64) : State :=
  if isTileCsr a then
    let o := (a - tileBase) % 0x800000 - 0x700000
    s.writeTile w ((a - tileBase) / 0x800000) (o / 0x10000) (o % 0x10000) v
  else if isEdgeCsr a then s.writeEdge w ((a - edgeBase) / 0x10000) ((a - edgeBase) % 0x10000) v
  else s

/-- The block of a CSR has its power: tile blocks run on V_core, the edge units on V_io. -/
def State.csrLive (s : State) (a : Nat) : Bool := (isTileCsr a && s.rails.core) || (isEdgeCsr a && s.rails.io)

/-- A write of `size` bytes: only an aligned 64-bit one counts. One of the EFT block that the MP does not forward has no effect and no record
(R476). -/
def State.csrStore (s : State) (w a size : Nat) (v : W64) : State :=
  if s.eftDark a then s
  else if s.csrLive a then
    if size = 8 ∧ a % 8 = 0 then s.csrWrite w a v else s.csrAcc w a
  else s

/-- A read of `size` bytes. -/
def State.csrLoad (s : State) (w a size : Nat) : W64 × State :=
  if s.eftDark a then (BitVec.ofNat 64 (2 ^ (8 * min size 8) - 1), s)
  else if (size = 1 ∨ size = 2 ∨ size = 4 ∨ size = 8) ∧ a % size = 0 then
    (BitVec.ofNat 64 (bitsOf (s.csrValue (a / 8 * 8)).toNat (8 * (a % 8)) (8 * size)), s)
  else (0#64, s.csrAcc w a)

/-! ### The rows -/

def doTileNumclr (t : Nat) (v : W64) (w : Nat) (s : State) : State := s.csrStore w (tileAt (t % 1024) 0 0x280) 8 v
def doArrEvtclr (t : Nat) (v : W64) (w : Nat) (s : State) : State := s.csrStore w (tileAt (t % 1024) 2 0x98) 8 v
def doArrSpillclr (t : Nat) (v : W64) (w : Nat) (s : State) : State := s.csrStore w (tileAt (t % 1024) 2 0x130) 8 v
def doVecHistclr (t : Nat) (v : W64) (w : Nat) (s : State) : State := s.csrStore w (tileAt (t % 1024) 5 0x18) 8 v
def doUpdNumclr (n : Nat) (v : W64) (w : Nat) (s : State) : State := s.csrStore w (edgeAt (0x08 + n % 8) 0x280) 8 v
def doDspTokclr (v : W64) (w : Nat) (s : State) : State := s.csrStore w (edgeAt 0x28 0x120) 8 v
def doDspNumclr (v : W64) (w : Nat) (s : State) : State := s.csrStore w (edgeAt 0x28 0x280) 8 v
def doLnkNumclr (p : Nat) (v : W64) (w : Nat) (s : State) : State := s.csrStore w (edgeAt (0x10 + p % 19) 0x280) 8 v
def doTileRngseed (t : Nat) (v : W64) (w : Nat) (s : State) : State := s.csrStore w (tileAt (t % 1024) 0 0x300) 8 v
def doUpdRngseed (n : Nat) (v : W64) (w : Nat) (s : State) : State := s.csrStore w (edgeAt (0x08 + n % 8) 0x300) 8 v
def doLnkRngseed (p : Nat) (v : W64) (w : Nat) (s : State) : State := s.csrStore w (edgeAt (0x10 + p % 19) 0x300) 8 v
def doRegisterWrite (a size : Nat) (v : W64) (w : Nat) (s : State) : State := s.csrStore w a size v

/-! ### WBUSY_CLEAR (R15, R461) -/

/-- A posted write of the UPD block takes effect. -/
def State.applyUpd (s : State) (n off : Nat) (v : W64) : State :=
  match off with
  | 0x280 => s.clrUpdNum n v
  | 0x288 => s.modUpd n (fun u => { u with num := u.num.writeAlm 3 v.toNat (bitsOf v.toNat 16 3) })
  | _ => s.seedUpd n v

/-- WBUSY_CLEAR: the write that waits in a domain takes effect. MEM_XLINV ends by XLINV_COMPLETE, the power domain at its tick, and
the management domain's two registers by their own events. -/
def doWbusyClear (d : Dom) (s : State) : State :=
  match d with
  | .xlate =>
    match smGet none s.posted domXl with
    | some (a, v, _) =>
      if a = memReg 0x1180 then (s.applyPreempt v).clearPost domXl
      else match idx8 (a - memReg 0) 0x1000 16, idx8 (a - memReg 0) 0x1100 16 with
      | some n, _ => (s.setRoot n v).clearPost domXl
      | _, some n =>
        ({ s with xl := { s.xl with savebase := s.xl.savebase.set n (v &&& 0xFFFFFFE00000#64) } }).clearPost domXl
      | _, _ => s
    | none => s
  | .upd n =>
    match smGet none s.posted (domUpd n) with
    | some (a, v, _) => (s.applyUpd n (a - edgeAt (0x08 + n) 0) v).clearPost (domUpd n)
    | none => s
  | .eft =>
    match smGet none s.posted domEft with
    | some (_, v, _) => ({ s with eft := { s.eft with wakeEn := v.getLsbD 0 } }).clearPost domEft
    | none => s
  | .pwr => s
  | .mgmt => s

/-! ### The host's BARs (R334) -/

/-- The Flomo image has been applied in this start-up. -/
def State.applied (s : State) : Bool := s.mp.state != 3 && 7 ≤ s.mp.step && s.rails.core

def State.barAnswer (s : State) (v : W64) (poison : Bool) : State := { s with host := { s.host with answer := some (v, poison) } }

/-- Nothing answers: Unsupported Request, and a record. -/
def State.unsupported (s : State) (a : Nat) : State :=
  ({ s with host := { s.host with answer := none } }).csrAcc uHost a

/-- Bytes of a sparse byte array, little-endian. -/
def bytesAt (m : SMap Byte) (a n : Nat) : Nat := leVal ((List.range n).map (fun i => smGet 0#8 m (a + i)))

def putBytesAt (m : SMap Byte) (a : Nat) (l : List Byte) : SMap Byte :=
  l.zipIdx.foldl (fun (m : SMap Byte) (p : Byte × Nat) => smSet 0#8 m (a + p.2) p.1) m

/-- Messages that waited for their vector's mask go out. -/
def State.unmask (s : State) : State :=
  (List.range 32).foldl (fun (s : State) (i : Nat) =>
    if s.host.pba.getLsbD i && !(smGet 0#8 s.host.msixTable (16 * i + 12)).getLsbD 0 then
      { s with host := { s.host with pba := s.host.pba &&& ~~~(1#64 <<< i), msix := s.host.msix ++ [i] } }
    else s) s

/-- An access that touches a register and more than it: a write has no effect, a read answers 0; either is logged (R469). -/
def State.csrAstray (s : State) (wr : Bool) (a : Nat) : State :=
  let s := if wr then s else s.barAnswer 0#64 false
  s.csrAcc uHost a

/-- BAR0. -/
def State.bar0Access (s : State) (ofs size : Nat) (wr : Bool) (v : W64) : State :=
  let l := leBytes size v.toNat
  if ofs + size ≤ 0x4000 then
    let a := edgeAt 0x22 ofs
    if wr then s.csrStore uHost a size v
    else
      let (x, s) := s.csrLoad uHost a size
      s.barAnswer x false
  else if ofs < 0x4000 then s.csrAstray wr (edgeAt 0x22 ofs)
  else if 8 < size then s
  else if 0x8000 ≤ ofs ∧ ofs + size ≤ 0x9000 then
    if wr then { s with host := { s.host with inbox := putBytesAt s.host.inbox (ofs - 0x8000) l } }
    else s.barAnswer (BitVec.ofNat 64 (bytesAt s.host.inbox (ofs - 0x8000) size)) false
  else if 0x9000 ≤ ofs ∧ ofs + size ≤ 0xA000 then
    if wr then s else s.barAnswer (BitVec.ofNat 64 (bytesAt s.host.outbox (ofs - 0x9000) size)) false
  else if ofs = 0xA000 then
    if wr then doMbdoor v s else s.barAnswer (BitVec.ofNat 64 (bitsOf (mbdoorValue s).toNat 0 (8 * size))) false
  else if 0xC000 ≤ ofs ∧ ofs + size ≤ 0xC200 then
    if wr then ({ s with host := { s.host with msixTable := putBytesAt s.host.msixTable (ofs - 0xC000) l } }).unmask
    else s.barAnswer (BitVec.ofNat 64 (bytesAt s.host.msixTable (ofs - 0xC000) size)) false
  else if 0xD000 ≤ ofs ∧ ofs + size ≤ 0xD008 then
    if wr then s else s.barAnswer (BitVec.ofNat 64 (bitsOf s.host.pba.toNat (8 * (ofs - 0xD000)) (8 * size))) false
  else s.unsupported ofs

/-- The `n` words from a local address on, each read once. -/
def State.hostWords (s : State) (a : Nat) : Nat → List (W32 × Bool) × State
  | 0 => ([], s)
  | n + 1 =>
    let (w, s) := s.readLoc (locOf a) none
    let (r, s) := s.hostWords (a + 4) n
    (w :: r, s)

/-- Read `n` bytes of DRAM, a scratchpad or a vat: their value, and whether a word they lie in reads as poisoned. -/
def State.hostRead (s : State) (a n : Nat) : (List Byte × Bool) × State :=
  let (ws, s) := s.hostWords (a / 4 * 4) (ceilDiv (a % 4 + n) 4)
  (((((ws.map (fun w => leBytes 4 w.1.toNat)).flatten).drop (a % 4)).take n, ws.any (·.2)), s)

/-- BAR2: the local addresses from APER on, untranslated. -/
def State.bar2Access (s : State) (ofs size : Nat) (wr : Bool) (v : W64) : State :=
  let a := s.host.aper * 0x1000000000 + ofs
  if s.applied then
    match locOf a, locOf (a + size - 1) with
    | .csr _, .csr _ =>
      if isTileCsr a then
        if wr then s.csrStore uHost a size v
        else
          let (x, s) := s.csrLoad uHost a size
          s.barAnswer x false
      else s.unsupported a
    | .csr _, _ => if isTileCsr a then s.csrAstray wr a else s.unsupported a
    | _, .csr _ => if isTileCsr (a + size - 1) then s.csrAstray wr a else s.unsupported a
    | .host _, _ => s.unsupported a
    | .unassigned, _ => s.unsupported a
    | _, .unassigned => s.unsupported a
    | l, _ =>
      if 8 < size then s
      else if wr then s.writeBytesLoc uHost l (leBytes size v.toNat)
      else
        let (r, s) := s.hostRead a size
        s.barAnswer (BitVec.ofNat 64 (leVal r.1)) r.2
  else s.unsupported a

/-- BAR4: the edge-unit CSR range, once the module is locked (R460). -/
def State.bar4Access (s : State) (ofs size : Nat) (wr : Bool) (v : W64) : State :=
  let a := edgeBase + ofs
  if s.applied && s.sec.gecko && ofs < 0x1000000 && 0x1000000 < ofs + size then s.csrAstray wr a
  else if s.applied && s.sec.gecko && ofs + size ≤ 0x1000000 then
    if wr then s.csrStore uHost a size v
    else
      let (x, s) := s.csrLoad uHost a size
      s.barAnswer x false
  else s.unsupported a

/-- HOST_BAR_ACCESS: `size` bytes at an offset of a BAR. The command carries 8 bytes: a longer access to a place that is no register comes
as several commands (DESIGN CHOICE, log 40). -/
def doHostBarAccess (bar ofs size : Nat) (wr : Bool) (v : W64) (s : State) : State :=
  if s.rails.io = false then { s with host := { s.host with answer := none } }
  else if size = 0 then s
  else match bar with
    | 0 => s.bar0Access ofs size wr v
    | 2 => if ofs + size ≤ 0x1000000000 then s.bar2Access ofs size wr v else s.unsupported ofs
    | 4 => s.bar4Access ofs size wr v
    | _ => s.unsupported ofs

def execTileNumclr (t : Nat) (v : W64) (w : Nat) (s : State) : Out := .next (doTileNumclr t v w s)
def execArrEvtclr (t : Nat) (v : W64) (w : Nat) (s : State) : Out := .next (doArrEvtclr t v w s)
def execArrSpillclr (t : Nat) (v : W64) (w : Nat) (s : State) : Out := .next (doArrSpillclr t v w s)
def execVecHistclr (t : Nat) (v : W64) (w : Nat) (s : State) : Out := .next (doVecHistclr t v w s)
def execUpdNumclr (n : Nat) (v : W64) (w : Nat) (s : State) : Out := .next (doUpdNumclr n v w s)
def execDspTokclr (v : W64) (w : Nat) (s : State) : Out := .next (doDspTokclr v w s)
def execDspNumclr (v : W64) (w : Nat) (s : State) : Out := .next (doDspNumclr v w s)
def execLnkNumclr (p : Nat) (v : W64) (w : Nat) (s : State) : Out := .next (doLnkNumclr p v w s)
def execTileRngseed (t : Nat) (v : W64) (w : Nat) (s : State) : Out := .next (doTileRngseed t v w s)
def execUpdRngseed (n : Nat) (v : W64) (w : Nat) (s : State) : Out := .next (doUpdRngseed n v w s)
def execLnkRngseed (p : Nat) (v : W64) (w : Nat) (s : State) : Out := .next (doLnkRngseed p v w s)
def execRegisterWrite (a : Nat) (size : Nat) (v : W64) (w : Nat) (s : State) : Out := .next (doRegisterWrite a size v w s)
def execWbusyClear (dom : Dom) (s : State) : Out := .next (doWbusyClear dom s)
def execHostBarAccess (bar : Nat) (ofs : Nat) (size : Nat) (wr : Bool) (v : W64) (s : State) : Out :=
  .next (doHostBarAccess bar ofs size wr v s)

end Sys2Proof.Machine
end

