-- ==== Sys2Proof/Machine/Dispatch.lean ====
section
/-! DEFINITION. The meaning of every command, one arm per row of spec/opcode_table.json. -/

namespace Sys2Proof.Machine

def exec (i : Instr) (s : State) : Host.Outcome State Fault Refusal :=
  match i with
  | .alu t k f => Sys2Proof.Machine.execAlu t k f s
  | .addi t k f => Sys2Proof.Machine.execAddi t k f s
  | .andi t k f => Sys2Proof.Machine.execAndi t k f s
  | .ori t k f => Sys2Proof.Machine.execOri t k f s
  | .xori t k f => Sys2Proof.Machine.execXori t k f s
  | .shli t k f => Sys2Proof.Machine.execShli t k f s
  | .shri t k f => Sys2Proof.Machine.execShri t k f s
  | .srai t k f => Sys2Proof.Machine.execSrai t k f s
  | .slti t k f => Sys2Proof.Machine.execSlti t k f s
  | .li t k f => Sys2Proof.Machine.execLi t k f s
  | .shin t k f => Sys2Proof.Machine.execShin t k f s
  | .ld t k f => Sys2Proof.Machine.execLd t k f s
  | .ldDataArrival t k => Sys2Proof.Machine.execLdDataArrival t k s
  | .st t k f => Sys2Proof.Machine.execSt t k f s
  | .beq t k f => Sys2Proof.Machine.execBeq t k f s
  | .bne t k f => Sys2Proof.Machine.execBne t k f s
  | .blt t k f => Sys2Proof.Machine.execBlt t k f s
  | .bge t k f => Sys2Proof.Machine.execBge t k f s
  | .bltu t k f => Sys2Proof.Machine.execBltu t k f s
  | .bgeu t k f => Sys2Proof.Machine.execBgeu t k f s
  | .jal t k f => Sys2Proof.Machine.execJal t k f s
  | .jalr t k f => Sys2Proof.Machine.execJalr t k f s
  | .issue t k f => Sys2Proof.Machine.execIssue t k f s
  | .queueSlotFreed t q k => Sys2Proof.Machine.execQueueSlotFreed t q k s
  | .sig t k f => Sys2Proof.Machine.execSig t k f s
  | .setc t k f => Sys2Proof.Machine.execSetc t k f s
  | .rdc t k f => Sys2Proof.Machine.execRdc t k f s
  | .wait t k f => Sys2Proof.Machine.execWait t k f s
  | .getid t k f => Sys2Proof.Machine.execGetid t k f s
  | .yield t k f => Sys2Proof.Machine.execYield t k f s
  | .exit t k f => Sys2Proof.Machine.execExit t k f s
  | .counterUpdate n => Sys2Proof.Machine.execCounterUpdate n s
  | .strandWake t k => Sys2Proof.Machine.execStrandWake t k s
  | .descriptorComplete t q ix => Sys2Proof.Machine.execDescriptorComplete t q ix s
  | .mm t => Sys2Proof.Machine.execMm t s
  | .mmacc t => Sys2Proof.Machine.execMmacc t s
  | .mmvat t => Sys2Proof.Machine.execMmvat t s
  | .vatzero t => Sys2Proof.Machine.execVatzero t s
  | .matrixTileCommit t => Sys2Proof.Machine.execMatrixTileCommit t s
  | .rescore t => Sys2Proof.Machine.execRescore t s
  | .read t b cal => Sys2Proof.Machine.execRead t b cal s
  | .arrayVectorDone t b devs => Sys2Proof.Machine.execArrayVectorDone t b devs s
  | .divertBatch t b => Sys2Proof.Machine.execDivertBatch t b s
  | .companionWorkDone t b => Sys2Proof.Machine.execCompanionWorkDone t b s
  | .setcorr t b => Sys2Proof.Machine.execSetcorr t b s
  | .query t b cal => Sys2Proof.Machine.execQuery t b cal s
  | .full t => Sys2Proof.Machine.execFull t s
  | .delta t => Sys2Proof.Machine.execDelta t s
  | .refresh t => Sys2Proof.Machine.execRefresh t s
  | .pressComplete t out => Sys2Proof.Machine.execPressComplete t out s
  | .foldarm t => Sys2Proof.Machine.execFoldarm t s
  | .foldclr t => Sys2Proof.Machine.execFoldclr t s
  | .tileCommit t => Sys2Proof.Machine.execTileCommit t s
  | .foldDeltaStart t b => Sys2Proof.Machine.execFoldDeltaStart t b s
  | .foldDeltaComplete t out => Sys2Proof.Machine.execFoldDeltaComplete t out s
  | .foldComplete t b => Sys2Proof.Machine.execFoldComplete t b s
  | .run t => Sys2Proof.Machine.execRun t s
  | .fbqrun t => Sys2Proof.Machine.execFbqrun t s
  | .fbqBlockDone t => Sys2Proof.Machine.execFbqBlockDone t s
  | .rgather t => Sys2Proof.Machine.execRgather t s
  | .rset t => Sys2Proof.Machine.execRset t s
  | .actq t => Sys2Proof.Machine.execActq t s
  | .wquant t => Sys2Proof.Machine.execWquant t s
  | .topmerge t => Sys2Proof.Machine.execTopmerge t s
  | .vdrain t => Sys2Proof.Machine.execVdrain t s
  | .copy t => Sys2Proof.Machine.execCopy t s
  | .xpose t => Sys2Proof.Machine.execXpose t s
  | .fill t => Sys2Proof.Machine.execFill t s
  | .update t => Sys2Proof.Machine.execUpdate t s
  | .gnorm t => Sys2Proof.Machine.execGnorm t s
  | .rsig t => Sys2Proof.Machine.execRsig t s
  | .hevent t => Sys2Proof.Machine.execHevent t s
  | .dispatch t => Sys2Proof.Machine.execDispatch t s
  | .combine t => Sys2Proof.Machine.execCombine t s
  | .redscat t => Sys2Proof.Machine.execRedscat t s
  | .allgather t => Sys2Proof.Machine.execAllgather t s
  | .collarmTimeout id => Sys2Proof.Machine.execCollarmTimeout id s
  | .ready t => Sys2Proof.Machine.execReady t s
  | .abandon t => Sys2Proof.Machine.execAbandon t s
  | .ckpttab t => Sys2Proof.Machine.execCkpttab t s
  | .translationFault t q ix => Sys2Proof.Machine.execTranslationFault t q ix s
  | .xlresumeRetry t q w => Sys2Proof.Machine.execXlresumeRetry t q w s
  | .xlresumeAbort t q w => Sys2Proof.Machine.execXlresumeAbort t q w s
  | .memXlinv v w => Sys2Proof.Machine.execMemXlinv v w s
  | .xlinvComplete => Sys2Proof.Machine.execXlinvComplete s
  | .memXlrootWrite n v w => Sys2Proof.Machine.execMemXlrootWrite n v w s
  | .preemptSave v w => Sys2Proof.Machine.execPreemptSave v w s
  | .preemptSaveWrite => Sys2Proof.Machine.execPreemptSaveWrite s
  | .preemptSaveDone => Sys2Proof.Machine.execPreemptSaveDone s
  | .preemptRestore v w => Sys2Proof.Machine.execPreemptRestore v w s
  | .preemptRestoreDone => Sys2Proof.Machine.execPreemptRestoreDone s
  | .lnkSqtail r v w => Sys2Proof.Machine.execLnkSqtail r v w s
  | .gridLaunch r => Sys2Proof.Machine.execGridLaunch r s
  | .gridComplete g => Sys2Proof.Machine.execGridComplete g s
  | .gridErrorCompletion g => Sys2Proof.Machine.execGridErrorCompletion g s
  | .containedAction => Sys2Proof.Machine.execContainedAction s
  | .fatalAction => Sys2Proof.Machine.execFatalAction s
  | .errorRecordRaise => Sys2Proof.Machine.execErrorRecordRaise s
  | .recordHandled => Sys2Proof.Machine.execRecordHandled s
  | .summaryWrite => Sys2Proof.Machine.execSummaryWrite s
  | .ledgerWrite => Sys2Proof.Machine.execLedgerWrite s
  | .shadowCompare t => Sys2Proof.Machine.execShadowCompare t s
  | .scrubPeriod g => Sys2Proof.Machine.execScrubPeriod g s
  | .stackTempRead temps => Sys2Proof.Machine.execStackTempRead temps s
  | .ecsRead counts => Sys2Proof.Machine.execEcsRead counts s
  | .sensorSnapshot => Sys2Proof.Machine.execSensorSnapshot s
  | .refreshRequest t b age hot => Sys2Proof.Machine.execRefreshRequest t b age hot s
  | .indexRefreshIssue t b due => Sys2Proof.Machine.execIndexRefreshIssue t b due s
  | .modeChange v w => Sys2Proof.Machine.execModeChange v w s
  | .modeAck t => Sys2Proof.Machine.execModeAck t s
  | .fenceTimeout => Sys2Proof.Machine.execFenceTimeout s
  | .mpXchkStart v w => Sys2Proof.Machine.execMpXchkStart v w s
  | .xchkDone res => Sys2Proof.Machine.execXchkDone res s
  | .mpDiagsel v w => Sys2Proof.Machine.execMpDiagsel v w s
  | .diagReadDone ok => Sys2Proof.Machine.execDiagReadDone ok s
  | .mpAccessTimeout u => Sys2Proof.Machine.execMpAccessTimeout u s
  | .eftAccessTimeout wr a v => Sys2Proof.Machine.execEftAccessTimeout wr a v s
  | .tileNumclr t v w => Sys2Proof.Machine.execTileNumclr t v w s
  | .arrEvtclr t v w => Sys2Proof.Machine.execArrEvtclr t v w s
  | .arrSpillclr t v w => Sys2Proof.Machine.execArrSpillclr t v w s
  | .vecHistclr t v w => Sys2Proof.Machine.execVecHistclr t v w s
  | .updNumclr n v w => Sys2Proof.Machine.execUpdNumclr n v w s
  | .dspTokclr v w => Sys2Proof.Machine.execDspTokclr v w s
  | .dspNumclr v w => Sys2Proof.Machine.execDspNumclr v w s
  | .lnkNumclr p v w => Sys2Proof.Machine.execLnkNumclr p v w s
  | .tileRngseed t v w => Sys2Proof.Machine.execTileRngseed t v w s
  | .updRngseed n v w => Sys2Proof.Machine.execUpdRngseed n v w s
  | .lnkRngseed p v w => Sys2Proof.Machine.execLnkRngseed p v w s
  | .pwrCapWrite v w => Sys2Proof.Machine.execPwrCapWrite v w s
  | .pwrLearnClr v w => Sys2Proof.Machine.execPwrLearnClr v w s
  | .registerWrite a size v w => Sys2Proof.Machine.execRegisterWrite a size v w s
  | .hostBarAccess bar ofs size wr v => Sys2Proof.Machine.execHostBarAccess bar ofs size wr v s
  | .adapterReset => Sys2Proof.Machine.execAdapterReset s
  | .mbdoor v => Sys2Proof.Machine.execMbdoor v s
  | .mgmtResponse => Sys2Proof.Machine.execMgmtResponse s
  | .attest c => Sys2Proof.Machine.execAttest c s
  | .readsum c => Sys2Proof.Machine.execReadsum c s
  | .readsens c => Sys2Proof.Machine.execReadsens c s
  | .readlog c => Sys2Proof.Machine.execReadlog c s
  | .setcap c => Sys2Proof.Machine.execSetcap c s
  | .powerdown c => Sys2Proof.Machine.execPowerdown c s
  | .reset c => Sys2Proof.Machine.execReset c s
  | .wake c => Sys2Proof.Machine.execWake c s
  | .updbegin c => Sys2Proof.Machine.execUpdbegin c s
  | .upddata c => Sys2Proof.Machine.execUpddata c s
  | .updend c => Sys2Proof.Machine.execUpdend c s
  | .updstat c => Sys2Proof.Machine.execUpdstat c s
  | .updateImageDone ok => Sys2Proof.Machine.execUpdateImageDone ok s
  | .eftI3cTakeover frame => Sys2Proof.Machine.execEftI3cTakeover frame s
  | .entdaa addr => Sys2Proof.Machine.execEntdaa addr s
  | .setnewda addr => Sys2Proof.Machine.execSetnewda addr s
  | .rstdaa => Sys2Proof.Machine.execRstdaa s
  | .getpid => Sys2Proof.Machine.execGetpid s
  | .getbcr => Sys2Proof.Machine.execGetbcr s
  | .getdcr => Sys2Proof.Machine.execGetdcr s
  | .getstatus => Sys2Proof.Machine.execGetstatus s
  | .enec m => Sys2Proof.Machine.execEnec m s
  | .disec m => Sys2Proof.Machine.execDisec m s
  | .getmwl => Sys2Proof.Machine.execGetmwl s
  | .getmrl => Sys2Proof.Machine.execGetmrl s
  | .setmwl n => Sys2Proof.Machine.execSetmwl n s
  | .setmrl n => Sys2Proof.Machine.execSetmrl n s
  | .flitReceive p flit corr uncorr fc => Sys2Proof.Machine.execFlitReceive p flit corr uncorr fc s
  | .flitNakResend p => Sys2Proof.Machine.execFlitNakResend p s
  | .ackTimeoutResend p => Sys2Proof.Machine.execAckTimeoutResend p s
  | .linkDetect p pairs => Sys2Proof.Machine.execLinkDetect p pairs s
  | .linkEqDone p => Sys2Proof.Machine.execLinkEqDone p s
  | .linkDeskewDone p => Sys2Proof.Machine.execLinkDeskewDone p s
  | .linkParamDone p peer => Sys2Proof.Machine.execLinkParamDone p peer s
  | .linkRetrain p why => Sys2Proof.Machine.execLinkRetrain p why s
  | .laneLoss p lane => Sys2Proof.Machine.execLaneLoss p lane s
  | .linkDown p => Sys2Proof.Machine.execLinkDown p s
  | .packetForward p ix => Sys2Proof.Machine.execPacketForward p ix s
  | .wr p ix => Sys2Proof.Machine.execWr p ix s
  | .rdreq p ix => Sys2Proof.Machine.execRdreq p ix s
  | .rdrsp p ix => Sys2Proof.Machine.execRdrsp p ix s
  | .wrack p ix => Sys2Proof.Machine.execWrack p ix s
  | .nak p ix => Sys2Proof.Machine.execNak p ix s
  | .sigPacket p ix => Sys2Proof.Machine.execSigPacket p ix s
  | .sigack p ix => Sys2Proof.Machine.execSigack p ix s
  | .mgmt ofs bytes => Sys2Proof.Machine.execMgmt ofs bytes s
  | .hev => Sys2Proof.Machine.execHev s
  | .remoteTimeout tag => Sys2Proof.Machine.execRemoteTimeout tag s
  | .rsgrp p ix => Sys2Proof.Machine.execRsgrp p ix s
  | .rsack p ix => Sys2Proof.Machine.execRsack p ix s
  | .grpwr p ix => Sys2Proof.Machine.execGrpwr p ix s
  | .grpack p ix => Sys2Proof.Machine.execGrpack p ix s
  | .collarm p ix => Sys2Proof.Machine.execCollarm p ix s
  | .cready src e n => Sys2Proof.Machine.execCready src e n s
  | .ccommit e flags => Sys2Proof.Machine.execCcommit e flags s
  | .ccack src e n => Sys2Proof.Machine.execCcack src e n s
  | .croll e restore cause failed => Sys2Proof.Machine.execCroll e restore cause failed s
  | .rollbackRestoreDone got => Sys2Proof.Machine.execRollbackRestoreDone got s
  | .crdone r => Sys2Proof.Machine.execCrdone r s
  | .heart dev rep => Sys2Proof.Machine.execHeart dev rep s
  | .heartbeatPeriod => Sys2Proof.Machine.execHeartbeatPeriod s
  | .heartbeatMiss dev => Sys2Proof.Machine.execHeartbeatMiss dev s
  | .standbyTakeover eps => Sys2Proof.Machine.execStandbyTakeover eps s
  | .routeupd ents => Sys2Proof.Machine.execRouteupd ents s
  | .routeack dev => Sys2Proof.Machine.execRouteack dev s
  | .subst id => Sys2Proof.Machine.execSubst id s
  | .ckptDrainDone ok => Sys2Proof.Machine.execCkptDrainDone ok s
  | .ckptdone dev e digs => Sys2Proof.Machine.execCkptdone dev e digs s
  | .ckptok e => Sys2Proof.Machine.execCkptok e s
  | .failrpt dev why => Sys2Proof.Machine.execFailrpt dev why s
  | .treecfg cfg => Sys2Proof.Machine.execTreecfg cfg s
  | .mirror rec => Sys2Proof.Machine.execMirror rec s
  | .mack e => Sys2Proof.Machine.execMack e s
  | .xcheck => Sys2Proof.Machine.execXcheck s
  | .nvmeTimeout fails => Sys2Proof.Machine.execNvmeTimeout fails s
  | .inputSample vin iin => Sys2Proof.Machine.execInputSample vin iin s
  | .inputTrip why => Sys2Proof.Machine.execInputTrip why s
  | .stage1Start vin => Sys2Proof.Machine.execStage1Start vin s
  | .stage1Stop vin => Sys2Proof.Machine.execStage1Stop vin s
  | .capTick pin pavg => Sys2Proof.Machine.execCapTick pin pavg s
  | .rationFrame => Sys2Proof.Machine.execRationFrame s
  | .setpointSlewStep => Sys2Proof.Machine.execSetpointSlewStep s
  | .droopTrip d => Sys2Proof.Machine.execDroopTrip d s
  | .droopClear d us => Sys2Proof.Machine.execDroopClear d us s
  | .issueRampStep d => Sys2Proof.Machine.execIssueRampStep d s
  | .learnBinEnd => Sys2Proof.Machine.execLearnBinEnd s
  | .thermalScan temps => Sys2Proof.Machine.execThermalScan temps s
  | .throttleStep => Sys2Proof.Machine.execThrottleStep s
  | .thermalTrip d => Sys2Proof.Machine.execThermalTrip d s
  | .paceRead speed vmin => Sys2Proof.Machine.execPaceRead speed vmin s
  | .modPwrenAssert => Sys2Proof.Machine.execModPwrenAssert s
  | .modPwrenDeassert => Sys2Proof.Machine.execModPwrenDeassert s
  | .lockoutExpire => Sys2Proof.Machine.execLockoutExpire s
  | .modResetNAssert => Sys2Proof.Machine.execModResetNAssert s
  | .modResetNDeassert => Sys2Proof.Machine.execModResetNDeassert s
  | .resetHeldTimeout => Sys2Proof.Machine.execResetHeldTimeout s
  | .boardHaltNAssert => Sys2Proof.Machine.execBoardHaltNAssert s
  | .boardHaltNDeassert => Sys2Proof.Machine.execBoardHaltNDeassert s
  | .haltHeldTimeout => Sys2Proof.Machine.execHaltHeldTimeout s
  | .hostPortWake => Sys2Proof.Machine.execHostPortWake s
  | .coldReset => Sys2Proof.Machine.execColdReset s
  | .mpWatchdogExpire => Sys2Proof.Machine.execMpWatchdogExpire s
  | .timekeeperTick => Sys2Proof.Machine.execTimekeeperTick s
  | .startUp env => Sys2Proof.Machine.execStartUp env s
  | .stackTrained n ok => Sys2Proof.Machine.execStackTrained n ok s
  | .startupReady env => Sys2Proof.Machine.execStartupReady env s
  | .startupDeadline => Sys2Proof.Machine.execStartupDeadline s
  | .instructionFetchStop t k => Sys2Proof.Machine.execInstructionFetchStop t k s
  | .undefinedEngOp t q => Sys2Proof.Machine.execUndefinedEngOp t q s
  | .mgmtGetid c => Sys2Proof.Machine.execMgmtGetid c s
  | .mpWatchdogSignal => Sys2Proof.Machine.execMpWatchdogSignal s
  | .regulatorRead vals => Sys2Proof.Machine.execRegulatorRead vals s
  | .smartLogRead page => Sys2Proof.Machine.execSmartLogRead page s
  | .wbusyClear dom => Sys2Proof.Machine.execWbusyClear dom s
  | .flitTime p => Sys2Proof.Machine.execFlitTime p s
  | .retrainAttemptFailed p => Sys2Proof.Machine.execRetrainAttemptFailed p s
  | .hostAccessFailed t q ix => Sys2Proof.Machine.execHostAccessFailed t q ix s
  | .idcode => Sys2Proof.Machine.execIdcode s
  | .bypass => Sys2Proof.Machine.execBypass s
  | .samplePreload cells => Sys2Proof.Machine.execSamplePreload cells s
  | .extest => Sys2Proof.Machine.execExtest s

end Sys2Proof.Machine
end

