-- ==== Sys2Proof/Machine/Step.lean ====
section
/-! DEFINITION. One step: the command at the front of the queue, or what passes while no command comes. -/

namespace Sys2Proof.Machine

/-- The state once the front command has left the queue. -/
def State.withPending (s : State) (l : List Instr) : State := { s with pending := l }

/-- Take the command at the front of the queue and run it with the queue's rest; on an empty queue the rationing window moves on
(R410) and nothing else happens. -/
def step (s : State) : Host.Outcome State Fault Refusal :=
  match s.pending with
  | [] => .next s.idle
  | c :: rest => exec c (s.withPending rest)

/-- The state with the command that a table word spells at the front of its queue; no row of the table gives bits, so no word
spells one. -/
def State.withFetchWord (s : State) (nbits w : Nat) : State :=
  match Sys2Proof.decodeTableWord nbits w with
  | some c => s.withPending (c :: s.pending)
  | none => s

end Sys2Proof.Machine
end

