-- ==== Sys2Proof/WellFormed.lean ====
section
/-! DEFINITION. Well-formed commands: every number names something that the module has, and reserved instruction bits are 0. -/

namespace Sys2Proof

/-- A logical tile (R19, R20). -/
def tileOk (t : Nat) : Bool := t < 1024
/-- A strand slot (R41). -/
def strandOk (k : Nat) : Bool := k < 2048
/-- A queue (R52). -/
def queueOk (q : Nat) : Bool := q < 7
/-- A bank (R126). -/
def bankOk (b : Nat) : Bool := b < 2
/-- A Rinov port, the host port among them (R308). -/
def portOk (p : Nat) : Bool := p < 19
/-- A lane of a port (R308). -/
def laneOk (l : Nat) : Bool := l < 8
/-- A submission ring, an event ring or a context (R265, R337, R338). -/
def ringOk (r : Nat) : Bool := r < 16
/-- A grid number (R64). -/
def gridNumOk (g : Nat) : Bool := g < 16
/-- A DRAM stack (R257). -/
def stackOk (n : Nat) : Bool := n < 8
/-- A droop detector, or a trip sensor, of a region (R30, R449). -/
def detectorOk (d : Nat) : Bool := d < 64
/-- What returns by the ramp of R409: a droop region, or with 64 the edge units' logic. -/
def rampOk (d : Nat) : Bool := d ≤ 64
/-- A device id (R326). -/
def deviceOk (d : Nat) : Bool := d < 4096
/-- A party that makes CSR accesses, by its UNIT code (R428): a tile, the host, the MP. -/
def partyOk (w : Nat) : Bool := w < 1024 || w == 0x912 || w == 0x0B00
/-- A size of an access in bytes; which sizes a register takes, R469 says. -/
def sizeOk (n : Nat) : Bool := decide (0 < n)
/-- A BAR (R334). -/
def barOk (b : Nat) : Bool := b == 0 || b == 2 || b == 4
/-- An offset of the mailbox (R334). -/
def mailboxOk (o : Nat) : Bool := o < 4096
/-- A dynamic address on the I3C bus (R461). -/
def busAddrOk (a : Nat) : Bool := a < 128

/-- Reserved bits are 0 (R47). -/
def RFmt.wf (f : RFmt) : Bool := f.rsv == 0#8
def QFmt.wf (f : QFmt) : Bool := f.rsv == 0#13
def CFmt.wf (f : CFmt) : Bool := f.rsv == 0#2
def NFmt.wf (f : NFmt) : Bool := f.rsv == 0#26

/-- What a scrub reads exists (R260). -/
def ScrubTgt.wf (g : ScrubTgt) : Bool :=
  match g with
  | .stack n => stackOk n
  | .spad t => tileOk t
  | .vat t => tileOk t

/-- A posted domain exists (R461). -/
def Dom.wf (d : Dom) : Bool :=
  match d with
  | .upd n => stackOk n
  | .xlate => true
  | .pwr => true
  | .mgmt => true
  | .eft => true

/-- A well-formed command. -/
def Instr.wf (i : Instr) : Bool :=
  match i with
  | .alu t k f => tileOk t && strandOk k && f.wf
  | .addi t k _ => tileOk t && strandOk k
  | .andi t k _ => tileOk t && strandOk k
  | .ori t k _ => tileOk t && strandOk k
  | .xori t k _ => tileOk t && strandOk k
  | .shli t k _ => tileOk t && strandOk k
  | .shri t k _ => tileOk t && strandOk k
  | .srai t k _ => tileOk t && strandOk k
  | .slti t k _ => tileOk t && strandOk k
  | .li t k _ => tileOk t && strandOk k
  | .shin t k _ => tileOk t && strandOk k
  | .ld t k _ => tileOk t && strandOk k
  | .ldDataArrival t k => tileOk t && strandOk k
  | .st t k _ => tileOk t && strandOk k
  | .beq t k _ => tileOk t && strandOk k
  | .bne t k _ => tileOk t && strandOk k
  | .blt t k _ => tileOk t && strandOk k
  | .bge t k _ => tileOk t && strandOk k
  | .bltu t k _ => tileOk t && strandOk k
  | .bgeu t k _ => tileOk t && strandOk k
  | .jal t k _ => tileOk t && strandOk k
  | .jalr t k _ => tileOk t && strandOk k
  | .issue t k f => tileOk t && strandOk k && f.wf
  | .queueSlotFreed t q k => tileOk t && queueOk q && strandOk k
  | .sig t k f => tileOk t && strandOk k && f.wf
  | .setc t k f => tileOk t && strandOk k && f.wf
  | .rdc t k f => tileOk t && strandOk k && f.wf
  | .wait t k f => tileOk t && strandOk k && f.wf
  | .getid t k _ => tileOk t && strandOk k
  | .yield t k f => tileOk t && strandOk k && f.wf
  | .exit t k f => tileOk t && strandOk k && f.wf
  | .counterUpdate _ => true
  | .strandWake t k => tileOk t && strandOk k
  | .descriptorComplete t q _ => tileOk t && queueOk q
  | .mm t => tileOk t
  | .mmacc t => tileOk t
  | .mmvat t => tileOk t
  | .vatzero t => tileOk t
  | .matrixTileCommit t => tileOk t
  | .rescore t => tileOk t
  | .read t b _ => tileOk t && bankOk b
  | .arrayVectorDone t b _ => tileOk t && bankOk b
  | .divertBatch t b => tileOk t && bankOk b
  | .companionWorkDone t b => tileOk t && bankOk b
  | .setcorr t b => tileOk t && bankOk b
  | .query t b _ => tileOk t && bankOk b
  | .full t => tileOk t
  | .delta t => tileOk t
  | .refresh t => tileOk t
  | .pressComplete t _ => tileOk t
  | .foldarm t => tileOk t
  | .foldclr t => tileOk t
  | .tileCommit t => tileOk t
  | .foldDeltaStart t b => tileOk t && bankOk b
  | .foldDeltaComplete t _ => tileOk t
  | .foldComplete t b => tileOk t && bankOk b
  | .run t => tileOk t
  | .fbqrun t => tileOk t
  | .fbqBlockDone t => tileOk t
  | .rgather t => tileOk t
  | .rset t => tileOk t
  | .actq t => tileOk t
  | .wquant t => tileOk t
  | .topmerge t => tileOk t
  | .vdrain t => tileOk t
  | .copy t => tileOk t
  | .xpose t => tileOk t
  | .fill t => tileOk t
  | .update t => tileOk t
  | .gnorm t => tileOk t
  | .rsig t => tileOk t
  | .hevent t => tileOk t
  | .dispatch t => tileOk t
  | .combine t => tileOk t
  | .redscat t => tileOk t
  | .allgather t => tileOk t
  | .collarmTimeout _ => true
  | .ready t => tileOk t
  | .abandon t => tileOk t
  | .ckpttab t => tileOk t
  | .translationFault t q _ => tileOk t && queueOk q
  | .xlresumeRetry t q w => tileOk t && queueOk q && partyOk w
  | .xlresumeAbort t q w => tileOk t && queueOk q && partyOk w
  | .memXlinv _ w => partyOk w
  | .xlinvComplete => true
  | .memXlrootWrite n _ w => ringOk n && partyOk w
  | .preemptSave _ w => partyOk w
  | .preemptSaveWrite => true
  | .preemptSaveDone => true
  | .preemptRestore _ w => partyOk w
  | .preemptRestoreDone => true
  | .lnkSqtail r _ w => ringOk r && partyOk w
  | .gridLaunch r => ringOk r
  | .gridComplete g => gridNumOk g
  | .gridErrorCompletion g => gridNumOk g
  | .containedAction => true
  | .fatalAction => true
  | .errorRecordRaise => true
  | .recordHandled => true
  | .summaryWrite => true
  | .ledgerWrite => true
  | .shadowCompare t => tileOk t
  | .scrubPeriod g => g.wf
  | .stackTempRead _ => true
  | .ecsRead _ => true
  | .sensorSnapshot => true
  | .refreshRequest t b _ _ => tileOk t && bankOk b
  | .indexRefreshIssue t b _ => tileOk t && bankOk b
  | .modeChange _ w => partyOk w
  | .modeAck t => tileOk t
  | .fenceTimeout => true
  | .mpXchkStart _ w => partyOk w
  | .xchkDone _ => true
  | .mpDiagsel _ w => partyOk w
  | .diagReadDone _ => true
  | .mpAccessTimeout _ => true
  | .eftAccessTimeout _ _ _ => true
  | .tileNumclr t _ w => tileOk t && partyOk w
  | .arrEvtclr t _ w => tileOk t && partyOk w
  | .arrSpillclr t _ w => tileOk t && partyOk w
  | .vecHistclr t _ w => tileOk t && partyOk w
  | .updNumclr n _ w => stackOk n && partyOk w
  | .dspTokclr _ w => partyOk w
  | .dspNumclr _ w => partyOk w
  | .lnkNumclr p _ w => portOk p && partyOk w
  | .tileRngseed t _ w => tileOk t && partyOk w
  | .updRngseed n _ w => stackOk n && partyOk w
  | .lnkRngseed p _ w => portOk p && partyOk w
  | .pwrCapWrite _ w => partyOk w
  | .pwrLearnClr _ w => partyOk w
  | .registerWrite _ size _ w => sizeOk size && partyOk w
  | .hostBarAccess bar _ size _ _ => barOk bar && sizeOk size
  | .adapterReset => true
  | .mbdoor _ => true
  | .mgmtResponse => true
  | .attest _ => true
  | .readsum _ => true
  | .readsens _ => true
  | .readlog _ => true
  | .setcap _ => true
  | .powerdown _ => true
  | .reset _ => true
  | .wake _ => true
  | .updbegin _ => true
  | .upddata _ => true
  | .updend _ => true
  | .updstat _ => true
  | .updateImageDone _ => true
  | .eftI3cTakeover _ => true
  | .entdaa addr => busAddrOk addr
  | .setnewda addr => busAddrOk addr
  | .rstdaa => true
  | .getpid => true
  | .getbcr => true
  | .getdcr => true
  | .getstatus => true
  | .enec _ => true
  | .disec _ => true
  | .getmwl => true
  | .getmrl => true
  | .setmwl _ => true
  | .setmrl _ => true
  | .flitReceive p _ _ _ _ => portOk p
  | .flitNakResend p => portOk p
  | .ackTimeoutResend p => portOk p
  | .linkDetect p _ => portOk p
  | .linkEqDone p => portOk p
  | .linkDeskewDone p => portOk p
  | .linkParamDone p _ => portOk p
  | .linkRetrain p _ => portOk p
  | .laneLoss p lane => portOk p && laneOk lane
  | .linkDown p => portOk p
  | .packetForward p _ => portOk p
  | .wr p _ => portOk p
  | .rdreq p _ => portOk p
  | .rdrsp p _ => portOk p
  | .wrack p _ => portOk p
  | .nak p _ => portOk p
  | .sigPacket p _ => portOk p
  | .sigack p _ => portOk p
  | .mgmt ofs _ => mailboxOk ofs
  | .hev => true
  | .remoteTimeout _ => true
  | .rsgrp p _ => portOk p
  | .rsack p _ => portOk p
  | .grpwr p _ => portOk p
  | .grpack p _ => portOk p
  | .collarm p _ => portOk p
  | .cready src _ _ => deviceOk src.dev
  | .ccommit _ _ => true
  | .ccack src _ _ => deviceOk src.dev
  | .croll _ _ _ _ => true
  | .rollbackRestoreDone _ => true
  | .crdone r => deviceOk r.dev.dev
  | .heart dev _ => deviceOk dev
  | .heartbeatPeriod => true
  | .heartbeatMiss dev => deviceOk dev
  | .standbyTakeover _ => true
  | .routeupd _ => true
  | .routeack dev => deviceOk dev.dev
  | .subst _ => true
  | .ckptDrainDone _ => true
  | .ckptdone dev _ _ => deviceOk dev.dev
  | .ckptok _ => true
  | .failrpt dev _ => deviceOk dev.dev
  | .treecfg _ => true
  | .mirror _ => true
  | .mack _ => true
  | .xcheck => true
  | .nvmeTimeout _ => true
  | .inputSample _ _ => true
  | .inputTrip _ => true
  | .stage1Start _ => true
  | .stage1Stop _ => true
  | .capTick _ _ => true
  | .rationFrame => true
  | .setpointSlewStep => true
  | .droopTrip d => detectorOk d
  | .droopClear d _ => detectorOk d
  | .issueRampStep d => rampOk d
  | .learnBinEnd => true
  | .thermalScan _ => true
  | .throttleStep => true
  | .thermalTrip d => detectorOk d
  | .paceRead _ _ => true
  | .modPwrenAssert => true
  | .modPwrenDeassert => true
  | .lockoutExpire => true
  | .modResetNAssert => true
  | .modResetNDeassert => true
  | .resetHeldTimeout => true
  | .boardHaltNAssert => true
  | .boardHaltNDeassert => true
  | .haltHeldTimeout => true
  | .hostPortWake => true
  | .coldReset => true
  | .mpWatchdogExpire => true
  | .timekeeperTick => true
  | .startUp _ => true
  | .stackTrained n _ => stackOk n
  | .startupReady _ => true
  | .startupDeadline => true
  | .instructionFetchStop t k => tileOk t && strandOk k
  | .undefinedEngOp t q => tileOk t && queueOk q
  | .mgmtGetid _ => true
  | .mpWatchdogSignal => true
  | .regulatorRead _ => true
  | .smartLogRead _ => true
  | .wbusyClear dom => dom.wf
  | .flitTime p => portOk p
  | .retrainAttemptFailed p => portOk p
  | .hostAccessFailed t q _ => tileOk t && q ≤ 7
  | .idcode => true
  | .bypass => true
  | .samplePreload _ => true
  | .extest => true

end Sys2Proof
end

