-- ==== Sys2Proof/Safety.lean ====
section
/-! DEFINITION. What counts as a safe state and a safe run, and the frames and effects that claims are stated in. -/

namespace Sys2Proof.Machine

/-! ### Canonical states -/

/-- The maps of the module that hold memory are in their canonical form: the tiles, DRAM, host memory, and in every tile its
scratchpad and vat. -/
def State.canon (s : State) : Prop :=
  smWf Tile.reset s.tiles ∧ s.dram.wf ∧ s.hostMem.wf ∧ ∀ p ∈ s.tiles, p.2.spad.wf ∧ p.2.vat.wf

/-! ### Safe runs -/

/-- A step that neither faults nor refuses. -/
def completes (o : Host.Outcome State Fault Refusal) : Prop := ∃ t, o = .next t

/-- A run of `n` steps that neither faults nor refuses. -/
def safeFor (n : Nat) (s : State) : Prop := completes (Host.Core.run Sys2Proof.core n s)

/-! ### Effects -/

/-- The turn of entry `e` of queue `q` has come: it may start, and its words are clean (R54, R259). -/
def State.turn (s : State) (t q : Nat) (e : QEntry) : Prop := s.startable t q = some e ∧ e.syn = []

/-- Entry `e` of queue `q` runs, with run record `r`. -/
def State.started (s : State) (t q : Nat) (e : QEntry) (r : Run) : State :=
  s.modEntry t q e.seq (fun e => { e with ph := .running, run := r })

/-- What becomes of a descriptor that an engine has looked at: it runs, is refused, or a record it reads is poisoned. -/
def State.settleStart (t q : Nat) (e : QEntry) (r : StartRes) : State :=
  match r with
  | .go run u => u.started t q e run
  | .refuse off val u => u.refuse t q e off val
  | .poison a u => u.poisonStart t q e a

/-! ### Frames -/

/-- Nothing outside the strands of tile `t` and the error unit has changed, and in tile `t` no strand but `k`, no memory, no
queue and no counter. -/
def strandFrame (s u : State) (t k : Nat) : Prop :=
  u = { s with tiles := u.tiles, err := u.err } ∧ (∀ j, j ≠ t → u.tile j = s.tile j) ∧
  u.tile t = { s.tile t with scu := (u.tile t).scu } ∧ (u.tile t).scu.ctrs = (s.tile t).scu.ctrs ∧
  (∀ j, j ≠ k → (u.tile t).strand j = (s.tile t).strand j)

/-- The control instructions that write nothing but their own strand. -/
def onlyItsStrand (i : Instr) : Bool :=
  match i with
  | .alu _ _ _ | .addi _ _ _ | .andi _ _ _ | .ori _ _ _ | .xori _ _ _ | .shli _ _ _ | .shri _ _ _ | .srai _ _ _ => true
  | .slti _ _ _ | .li _ _ _ | .shin _ _ _ | .ld _ _ _ | .beq _ _ _ | .bne _ _ _ | .blt _ _ _ | .bge _ _ _ => true
  | .bltu _ _ _ | .bgeu _ _ _ | .jal _ _ _ | .jalr _ _ _ | .rdc _ _ _ | .wait _ _ _ | .getid _ _ _ => true
  | .yield _ _ _ | .exit _ _ _ => true
  | _ => false

/-- The commands of the strand control units: every control instruction, and what happens to strands and counters on its own. -/
def ofStrands (i : Instr) : Bool :=
  onlyItsStrand i ||
  (match i with
  | .ldDataArrival _ _ | .st _ _ _ | .issue _ _ _ | .queueSlotFreed _ _ _ | .sig _ _ _ | .setc _ _ _ => true
  | .counterUpdate _ | .strandWake _ _ | .instructionFetchStop _ _ => true
  | _ => false)

end Sys2Proof.Machine
end

