-- ==== Sys2Proof/Certificates/Slice0/Obligations.lean ====
section
/-! DEFINITION. The statements about the model, for the provers. -/

section Sys2ProofStatements

open Sys2Proof Sys2Proof.Machine

/-! ### The block as a whole -/

/-- Every command `c` and state `s`: a step of `s` with `c` at the front of its queue is `exec c` on `s` with the queue's rest. -/
def Obligations.StepRunsTheFrontCommand : Prop :=
  ∀ (s : State) (c : Instr) (rest : List Instr),
    step (s.withPending (c :: rest)) = exec c (s.withPending rest)

/-- With no command waiting, a step changes nothing but the rationing window and its hold (the model's choice, log 3). -/
def Obligations.IdleStepMovesOnlyTheWindow : Prop :=
  ∀ s : State, s.pending = [] →
    ∃ (w : Nat) (r : Bool),
      step s = .next { s with pwr := { s.pwr with window := w }, holds := { s.holds with ration := r } }

/-- The state right after a cold reset is canonical, its queue is empty, and every tile of it is an empty tile. Registers after
reset, by their addresses: TILE_RNGSEED and TILE_NUMALM of tile 0, MEM_XLROOT_3, LNK_SQCFG_0 (LOG2N 4), LNK_EQCFG_0 (LOG2N 6),
CLU_HB (PERIOD 1000, MISS 4), MP_IDXCFG (PERIOD 86,400, MAXREF 32), and an offset of the tile block with no register. -/
def Obligations.ResetLeavesTheModule : Prop :=
  (State.reset.canon ∧ State.reset.pending = [] ∧ ∀ t, State.reset.tile t = Tile.reset) ∧
  (csrRead State.reset 0x10000700300 = 0#64 ∧ csrRead State.reset 0x10000700288 = 0#64 ∧ csrRead State.reset 0x20000001018 = 0#64 ∧
   csrRead State.reset 0x20000221000 = 0x400#64 ∧ csrRead State.reset 0x20000221200 = 0x600#64 ∧
   csrRead State.reset 0x20000400020 = 0x403E8#64 ∧ csrRead State.reset 0x20000480700 = 0x20151800#64 ∧
   csrRead State.reset 0x10000700FF8 = 0#64)

/-- The memories stay canonical at every step whose command is a control instruction, or an event of the strand control units: from
every canonical state, with such a command in front, a step that answers a next state answers a canonical one. -/
def Obligations.StrandCommandsKeepTheMemoriesCanonical : Prop :=
  ∀ (s s' : State) (c : Instr) (rest : List Instr), s.canon → s.pending = c :: rest → ofStrands c = true → step s = .next s' → s'.canon

/-- Every step keeps the memories canonical: from every canonical state, whatever command stands in front, and on an idle step too,
a step that answers a next state answers a canonical one. So it is for engines, packets, collectives, saves and restores,
checkpoints and rollbacks, register writes and the host. -/
def Obligations.EveryStepKeepsTheMemoriesCanonical : Prop :=
  ∀ s s' : State, s.canon → step s = .next s' → s'.canon

/-! ### Words of the control instructions (R47, R48) -/

/-- Decoder and encoder agree in both directions: every control instruction, with every operand at every value its format holds, is
read back from its word; and every word that the decoder reads is the word of the instruction it gives. -/
def Obligations.DecodeAndEncodeAgree : Prop :=
  (∀ (i : Instr) (w : BitVec 32), encode i = some w → ∃ t k, decodeCtl t k w = some i) ∧
  (∀ (t k : Nat) (w : BitVec 32) (i : Instr), decodeCtl t k w = some i → encode i = some w)

/-! ### Strands (chapter 2) -/

/-- An issue (R43): the strand goes behind the others by its stamp, SCU_ISSUED counts, and outside strand `k` and SCU_ISSUED
nothing of the tiles changes. Strand registers (R41): s0 reads as 0 and writes to it have no effect; a write of s1 to s15 is read
back and leaves the other registers, the program counter and the state of the strand as they were. -/
def Obligations.StrandsIssueAndHoldRegisters : Prop :=
  (∀ (s : State) (t k : Nat) (i : Instr), s.issues t k i →
     (s.issued t k).strand t k = { s.strand t k with stamp := (s.tile t).scu.clock + 1 } ∧
     ((s.issued t k).tile t).scu.issued = (s.tile t).scu.issued + 1 ∧
     strandFrame s (s.issued t k) t k) ∧
  (∀ (x : Strand) (r j : Nat) (v : W64),
     x.reg 0 = 0#64 ∧ x.setReg 0 v = x ∧
     (x.regs.length = 15 → 0 < r → r < 16 → (x.setReg r v).reg r = v) ∧
     (j ≠ r → (x.setReg r v).reg j = x.reg j) ∧
     x.setReg r v = { x with regs := (x.setReg r v).regs })

/-- The results of the register instructions (R48): a strand that issues one writes its result to rd and goes to the next word. `x`
is the strand before the issue. -/
def Obligations.RegisterInstructionsWriteTheirResult : Prop :=
  ∀ (s : State) (t k : Nat) (x : Strand), s.strand t k = x →
    (∀ (f : RFmt) (v : W64), s.issues t k (.alu t k f) → f.rsv = 0#8 →
      aluOp f.fn.toNat (x.reg f.ra.toNat) (x.reg f.rb.toNat) = some v →
      exec (.alu t k f) s = .next ((s.issued t k).result t k f.rd.toNat v)) ∧
    (∀ f : IFmt, s.issues t k (.addi t k f) → exec (.addi t k f) s =
      .next ((s.issued t k).result t k f.rd.toNat (x.reg f.ra.toNat + f.imm.signExtend 64))) ∧
    (∀ f : IFmt, s.issues t k (.andi t k f) → exec (.andi t k f) s =
      .next ((s.issued t k).result t k f.rd.toNat (x.reg f.ra.toNat &&& f.imm.signExtend 64))) ∧
    (∀ f : IFmt, s.issues t k (.ori t k f) → exec (.ori t k f) s =
      .next ((s.issued t k).result t k f.rd.toNat (x.reg f.ra.toNat ||| f.imm.signExtend 64))) ∧
    (∀ f : IFmt, s.issues t k (.xori t k f) → exec (.xori t k f) s =
      .next ((s.issued t k).result t k f.rd.toNat (x.reg f.ra.toNat ^^^ f.imm.signExtend 64))) ∧
    (∀ f : IFmt, s.issues t k (.shli t k f) → f.imm.toNat < 64 → exec (.shli t k f) s =
      .next ((s.issued t k).result t k f.rd.toNat (x.reg f.ra.toNat <<< f.imm.toNat))) ∧
    (∀ f : IFmt, s.issues t k (.shri t k f) → f.imm.toNat < 64 → exec (.shri t k f) s =
      .next ((s.issued t k).result t k f.rd.toNat (x.reg f.ra.toNat >>> f.imm.toNat))) ∧
    (∀ f : IFmt, s.issues t k (.srai t k f) → f.imm.toNat < 64 → exec (.srai t k f) s =
      .next ((s.issued t k).result t k f.rd.toNat ((x.reg f.ra.toNat).sshiftRight f.imm.toNat))) ∧
    (∀ f : IFmt, s.issues t k (.slti t k f) → exec (.slti t k f) s =
      .next ((s.issued t k).result t k f.rd.toNat
        (if (x.reg f.ra.toNat).toInt < f.imm.toInt then 1#64 else 0#64))) ∧
    (∀ f : LFmt, s.issues t k (.li t k f) → exec (.li t k f) s =
      .next ((s.issued t k).result t k f.rd.toNat (f.imm.signExtend 64))) ∧
    (∀ f : LFmt, s.issues t k (.shin t k f) → exec (.shin t k f) s =
      .next ((s.issued t k).result t k f.rd.toNat ((x.reg f.rd.toNat <<< 22) ||| f.imm.setWidth 64))) ∧
    (∀ (f : IFmt) (v : W64), s.issues t k (.getid t k f) → s.identity t x f.imm.toNat = some v →
      exec (.getid t k f) s = .next ((s.issued t k).result t k f.rd.toNat v)) ∧
    (∀ f : CFmt, s.issues t k (.rdc t k f) → f.rsv = 0#2 → ctrId x f / 64 = t →
      exec (.rdc t k f) s = .next ((s.issued t k).result t k f.rv.toNat ((s.ctr (ctrId x f)).setWidth 64)))

/-- Branches and jumps (R41, R48): a branch whose condition holds goes to pc + 4 × off18, another to the next word; JAL and JALR
write pc + 4 to rd first. `x` is the strand after the issue. -/
def Obligations.BranchesAndJumpsGoToTheirTarget : Prop :=
  ∀ (s : State) (t k : Nat) (x : Strand), (s.issued t k).strand t k = x →
    (∀ f : BFmt, s.issues t k (.beq t k f) → exec (.beq t k f) s = .next ((s.issued t k).setStrand t k
      (if x.reg f.ra.toNat = x.reg f.rb.toNat then x.goto (x.pc.toNat + 4 * f.off.toInt) else x.advance))) ∧
    (∀ f : BFmt, s.issues t k (.bne t k f) → exec (.bne t k f) s = .next ((s.issued t k).setStrand t k
      (if x.reg f.ra.toNat ≠ x.reg f.rb.toNat then x.goto (x.pc.toNat + 4 * f.off.toInt) else x.advance))) ∧
    (∀ f : BFmt, s.issues t k (.blt t k f) → exec (.blt t k f) s = .next ((s.issued t k).setStrand t k
      (if (x.reg f.ra.toNat).toInt < (x.reg f.rb.toNat).toInt then x.goto (x.pc.toNat + 4 * f.off.toInt) else x.advance))) ∧
    (∀ f : BFmt, s.issues t k (.bge t k f) → exec (.bge t k f) s = .next ((s.issued t k).setStrand t k
      (if (x.reg f.rb.toNat).toInt ≤ (x.reg f.ra.toNat).toInt then x.goto (x.pc.toNat + 4 * f.off.toInt) else x.advance))) ∧
    (∀ f : BFmt, s.issues t k (.bltu t k f) → exec (.bltu t k f) s = .next ((s.issued t k).setStrand t k
      (if (x.reg f.ra.toNat).toNat < (x.reg f.rb.toNat).toNat then x.goto (x.pc.toNat + 4 * f.off.toInt) else x.advance))) ∧
    (∀ f : BFmt, s.issues t k (.bgeu t k f) → exec (.bgeu t k f) s = .next ((s.issued t k).setStrand t k
      (if (x.reg f.rb.toNat).toNat ≤ (x.reg f.ra.toNat).toNat then x.goto (x.pc.toNat + 4 * f.off.toInt) else x.advance))) ∧
    (∀ f : LFmt, s.issues t k (.jal t k f) → exec (.jal t k f) s = .next ((s.issued t k).setStrand t k
      ((x.setReg f.rd.toNat (x.pc.setWidth 64 + 4#64)).goto (x.pc.toNat + 4 * f.imm.toInt)))) ∧
    (∀ f : IFmt, s.issues t k (.jalr t k f) → exec (.jalr t k f) s = .next ((s.issued t k).setStrand t k
      ((x.setReg f.rd.toNat (x.pc.setWidth 64 + 4#64)).goto
        ((x.reg f.ra.toNat + f.imm.signExtend 64) &&& 0xFFFFFFFFFFFFFFFC#64).toInt)))

/-- Loads and stores of the own scratchpad (R42, R48, R56): LD stalls the strand, and the arrival of its data writes rd and makes
it READY, or PARKED where a fault touched it meanwhile; ST stores the two words of rd (what they hold is unspecified under EXTEST,
R491). `x` is the strand after the issue. -/
def Obligations.LoadsAndStores : Prop :=
  ∀ (s : State) (t k : Nat),
    (∀ (f : IFmt) (x : Strand) (a : Nat), s.issues t k (.ld t k f) → (s.issued t k).strand t k = x →
      (x.reg f.ra.toNat + f.imm.signExtend 64).toNat = a → a % 8 = 0 → a + 8 ≤ 0x300000 →
      exec (.ld t k f) s = .next ((s.issued t k).setStrand t k { x with st := .stalled, stall := .load f.rd.toNat a })) ∧
    (∀ (x : Strand) (rd a : Nat) (lo hi : W32), s.strand t k = x → x.st = .stalled → x.stall = .load rd a →
      s.readLoc (.spad t a) (s.ctxOfGrid x.grid) = ((lo, false), s) →
      s.readLoc (.spad t (a + 4)) (s.ctxOfGrid x.grid) = ((hi, false), s) →
      exec (.ldDataArrival t k) s =
        .next (s.setStrand t k (x.setReg rd (hi ++ lo)).advance.unstall)) ∧
    (∀ (f : IFmt) (x : Strand) (a : Nat) (u : State), s.issues t k (.st t k f) → (s.issued t k).strand t k = x →
      (x.reg f.ra.toNat + f.imm.signExtend 64).toNat = a → a % 8 = 0 → a + 8 ≤ 0x300000 →
      ((s.issued t k).putWord t (.spad t a) ((x.reg f.rd.toNat).extractLsb' 0 32) false).putWord t (.spad t (a + 4))
        ((x.reg f.rd.toNat).extractLsb' 32 32) false = u →
      exec (.st t k f) s = .next (u.setStrand t k (u.strand t k).advance))

/-- ISSUE (R46, R49–R53): a descriptor with an allowed header enters its queue, with PATCH replaced where pe asks for it, and the
strand goes on; into a full queue it stalls the strand, and QUEUE_SLOT_FREED lets it in unless the tile is held. That the stalled
ISSUE keeps the 64 bytes and rb that it read, and takes its mode epoch as it enters, is the model's choice (DESIGN CHOICE, log 56).
`x` is the strand after the issue. -/
def Obligations.IssueFillsItsQueue : Prop :=
  ∀ (s u : State) (t k q ctx : Nat) (x : Strand) (d : W512),
    (∀ (f : QFmt) (l : List Byte), s.issues t k (.issue t k f) → (s.issued t k).strand t k = x →
      f.rsv = 0#13 → f.queue.toNat = q → q ≤ 6 → (x.reg f.ra.toNat).toNat % 64 = 0 →
      (x.reg f.ra.toNat).toNat + 64 ≤ 0x300000 → (s.ctxOfGrid x.grid).getD 0 = ctx →
      (s.issued t k).readRecord t (x.reg f.ra.toNat).toNat ctx 16 = ((l, false), u) →
      d = (if f.pe = 1#1 then withPatch (descOf l) (x.reg f.rb.toNat) else descOf l) → headerOk t d = true →
      exec (.issue t k f) s = .next (if (u.tile t).full q then u.setStrand t k { x with st := .stalled, stall := .queue q d }
        else (u.enqueue t q d (.strand k) ctx x.grid).setStrand t k x.advance)) ∧
    (s.strand t k = x → x.st = .stalled → x.stall = .queue q d → (s.tile t).full q = false → s.held t = false →
      (s.ctxOfGrid x.grid).getD 0 = ctx →
      exec (.queueSlotFreed t q k) s = .next ((s.enqueue t q d (.strand k) ctx x.grid).setStrand t k x.advance.unstall)) ∧
    (s.held t = true → exec (.queueSlotFreed t q k) s = .next s)

/-- Counters and the states of a strand (R42, R57–R61): SIG sends an update, SETC sets an own counter after the strand's updates to
it in flight, WAIT goes on or waits, a wake makes a waiting strand READY, an update that nothing precedes is added modulo 2^32,
YIELD goes on, EXIT ends the strand. `x` is the strand after the issue. -/
def Obligations.CountersAndStrandStates : Prop :=
  ∀ (s : State) (t k : Nat) (x : Strand),
    (∀ f : CFmt, s.issues t k (.sig t k f) → (s.issued t k).strand t k = x → f.rsv = 0#2 → ctrId x f % 64 < 60 →
      exec (.sig t k f) s = .next (((s.issued t k).setStrand t k x.advance).sendEvt (ctrId x f)
        ((x.reg f.rv.toNat).setWidth 32) (.strand t k))) ∧
    (∀ (f : CFmt) (c : Nat), s.issues t k (.setc t k f) → (s.issued t k).strand t k = x → f.rsv = 0#2 →
      ctrId x f = 64 * t + c → c < 60 →
      exec (.setc t k f) s = .next ((((s.issued t k).landFrom (.strand t k) (64 * t + c)).modTile t
        (fun v => v.putCtr c ((x.reg f.rv.toNat).setWidth 32))).setStrand t k x.advance)) ∧
    (∀ (f : CFmt) (c : Nat) (thr : W32), s.issues t k (.wait t k f) → (s.issued t k).strand t k = x → f.rsv = 0#2 →
      ctrId x f = 64 * t + c → c < 60 → (x.reg f.rv.toNat).setWidth 32 = thr →
      exec (.wait t k f) s = .next ((s.issued t k).setStrand t k
        (if (s.ctr (64 * t + c) - thr).toNat < 2 ^ 31 then x.advance
         else { x.advance with st := .waiting, waitC := c, waitT := thr, rel := false }))) ∧
    (s.strand t k = x → x.st = .waiting → x.rel = true ∨ ((s.tile t).ctr x.waitC - x.waitT).toNat < 2 ^ 31 →
      exec (.strandWake t k) s = .next (s.setStrand t k { x with st := .ready })) ∧
    (∀ (n : Nat) (e : Evt), s.evts[n]? = some e → (∀ e' ∈ s.evts.take n, e'.before e = false) →
      exec (.counterUpdate n) s = .next (({ s with evts := s.evts.take n ++ s.evts.drop (n + 1) }).modTile (e.ctr / 64)
        (fun v => v.putCtr (e.ctr % 64) (v.ctr (e.ctr % 64) + e.inc)))) ∧
    (s.issues t k (.yield t k ⟨0#26⟩) → (s.issued t k).strand t k = x →
      exec (.yield t k ⟨0#26⟩) s = .next ((s.issued t k).setStrand t k x.advance)) ∧
    (s.issues t k (.exit t k ⟨0#26⟩) → (s.issued t k).strand t k = x →
      exec (.exit t k ⟨0#26⟩) s = .next (((s.issued t k).setStrand t k { x with st := .done }).reap t k))

/-- Strand stops (R41, R49, R51, R427): reserved bits that are not 0, an undefined ALU function, a shift by more than 63, a counter
of another tile (but for SIG) or a device-owned one (but for RDC), an LD, ST or ISSUE that is misaligned or leaves the scratchpad,
an undefined identity or queue, a descriptor whose header is not allowed or that reads as poisoned, a fetch from a recorded bad
target, from a misaligned address or from beyond the scratchpad, a fetch that reads as poisoned, and an absent opcode stop the
strand with a record of class contained. -/
def Obligations.IllegalFormsStopTheStrand : Prop :=
  ∀ (s : State) (t k : Nat) (x : Strand), (s.issued t k).strand t k = x →
    (∀ f : RFmt, s.issues t k (.alu t k f) → f.rsv ≠ 0#8 ∨ 15 < f.fn.toNat →
      exec (.alu t k f) s = .next ((s.issued t k).stopStrand t k cStrand 0#64)) ∧
    (∀ f : IFmt, s.issues t k (.shli t k f) → 64 ≤ f.imm.toNat →
      exec (.shli t k f) s = .next ((s.issued t k).stopStrand t k cStrand 0#64)) ∧
    (∀ f : IFmt, s.issues t k (.shri t k f) → 64 ≤ f.imm.toNat →
      exec (.shri t k f) s = .next ((s.issued t k).stopStrand t k cStrand 0#64)) ∧
    (∀ f : IFmt, s.issues t k (.srai t k f) → 64 ≤ f.imm.toNat →
      exec (.srai t k f) s = .next ((s.issued t k).stopStrand t k cStrand 0#64)) ∧
    (∀ f : IFmt, s.issues t k (.getid t k f) → 8 ≤ f.imm.toNat →
      exec (.getid t k f) s = .next ((s.issued t k).stopStrand t k cStrand 0#64)) ∧
    (∀ f : CFmt, s.issues t k (.setc t k f) → f.rsv ≠ 0#2 ∨ ctrId x f / 64 ≠ t ∨ 60 ≤ ctrId x f % 64 →
      exec (.setc t k f) s = .next ((s.issued t k).stopStrand t k cStrand 0#64)) ∧
    (∀ f : CFmt, s.issues t k (.sig t k f) → f.rsv ≠ 0#2 ∨ 60 ≤ ctrId x f % 64 →
      exec (.sig t k f) s = .next ((s.issued t k).stopStrand t k cStrand 0#64)) ∧
    (∀ f : CFmt, s.issues t k (.wait t k f) → f.rsv ≠ 0#2 ∨ ctrId x f / 64 ≠ t ∨ 60 ≤ ctrId x f % 64 →
      exec (.wait t k f) s = .next ((s.issued t k).stopStrand t k cStrand 0#64)) ∧
    (∀ f : CFmt, s.issues t k (.rdc t k f) → f.rsv ≠ 0#2 ∨ ctrId x f / 64 ≠ t →
      exec (.rdc t k f) s = .next ((s.issued t k).stopStrand t k cStrand 0#64)) ∧
    (∀ f : IFmt, s.issues t k (.ld t k f) → (x.reg f.ra.toNat + f.imm.signExtend 64).toNat % 8 ≠ 0 ∨
        0x300000 < (x.reg f.ra.toNat + f.imm.signExtend 64).toNat + 8 →
      exec (.ld t k f) s =
        .next ((s.issued t k).stopStrand t k cStrand (x.reg f.ra.toNat + f.imm.signExtend 64))) ∧
    (∀ f : IFmt, s.issues t k (.st t k f) → (x.reg f.ra.toNat + f.imm.signExtend 64).toNat % 8 ≠ 0 ∨
        0x300000 < (x.reg f.ra.toNat + f.imm.signExtend 64).toNat + 8 →
      exec (.st t k f) s =
        .next ((s.issued t k).stopStrand t k cStrand (x.reg f.ra.toNat + f.imm.signExtend 64))) ∧
    (∀ f : QFmt, s.issues t k (.issue t k f) → f.rsv ≠ 0#13 ∨ 6 < f.queue.toNat ∨ (x.reg f.ra.toNat).toNat % 64 ≠ 0 ∨
        0x300000 < (x.reg f.ra.toNat).toNat + 64 →
      exec (.issue t k f) s = .next ((s.issued t k).stopStrand t k cStrand (x.reg f.ra.toNat))) ∧
    (∀ (f : QFmt) (l : List Byte) (bad : Bool) (u : State), s.issues t k (.issue t k f) → f.rsv = 0#13 → f.queue.toNat ≤ 6 →
      (x.reg f.ra.toNat).toNat % 64 = 0 → (x.reg f.ra.toNat).toNat + 64 ≤ 0x300000 →
      (s.issued t k).readRecord t (x.reg f.ra.toNat).toNat ((s.ctxOfGrid x.grid).getD 0) 16 = ((l, bad), u) →
      bad = true ∨ headerOk t (if f.pe = 1#1 then withPatch (descOf l) (x.reg f.rb.toNat) else descOf l) = false →
      exec (.issue t k f) s =
        .next (u.stopStrand t k (if bad = true then cPoisonCtl else cStrand) (x.reg f.ra.toNat))) ∧
    (∀ f : NFmt, s.issues t k (.yield t k f) → f.rsv ≠ 0#26 →
      exec (.yield t k f) s = .next ((s.issued t k).stopStrand t k cStrand 0#64)) ∧
    (∀ f : NFmt, s.issues t k (.exit t k f) → f.rsv ≠ 0#26 →
      exec (.exit t k f) s = .next ((s.issued t k).stopStrand t k cStrand 0#64)) ∧
    (s.mayIssue t k = true → (s.strand t k).bad.isSome ∨ (s.strand t k).pc.toNat % 4 ≠ 0 ∨ 0x300000 < (s.strand t k).pc.toNat + 4 →
      exec (.instructionFetchStop t k) s = .next (s.stopStrand t k cStrand 0#64)) ∧
    (∀ (w : W32) (p : Bool) (u : State), s.mayIssue t k = true → (s.strand t k).bad = none → (s.strand t k).pc.toNat % 4 = 0 →
      (s.strand t k).pc.toNat + 4 ≤ 0x300000 →
      s.readLoc (.spad t (s.strand t k).pc.toNat) (s.ctxOfGrid (s.strand t k).grid) = ((w, p), u) →
      (p = true → exec (.instructionFetchStop t k) s = .next (u.stopStrand t k cPoisonCtl ((s.strand t k).pc.setWidth 64))) ∧
      (p = false → decodeCtl t k w = none → exec (.instructionFetchStop t k) s = .next (u.stopStrand t k cStrand 0#64)))

/-- The frame of the control instructions that write no memory, counter or queue: outside their own strand and the error unit a
step leaves everything as it was, whatever the outcome. -/
def Obligations.ControlInstructionsKeepTheRest : Prop :=
  ∀ (s u : State) (t k : Nat) (i : Instr), onlyItsStrand i = true → decodeCtl t k ((encode i).getD 0#32) = some i →
    s.issues t k i → exec i s = .next u → strandFrame s u t k

/-! ### Descriptors and engines (chapters 2, 5 to 10) -/

/-- A descriptor that fails a check of its fields is refused at the moment it would start (R70): its entry leaves with no signal,
the strand that issued it ends, and a record of class contained with cause REFUSED is detected. Here for the mover, for a code its
engine does not define (R54: not while a press or fold holds queue 3), and for HEVENT. An entry with flawed words is read first:
one that reads as poisoned stops as a poisoned record does (R259, R427), and one whose errors are corrected goes on as a clean one. -/
def Obligations.RefusedDescriptorsAreDropped : Prop :=
  ∀ (s : State) (t off val : Nat) (e : QEntry),
    (s.turn t 5 e → dOp e.d = 0x31 → mvChk e.d = .error (off, val) →
      exec (.copy t) s = .next (s.refuse t 5 e off val)) ∧
    (s.turn t 5 e → dOp e.d = 0x33 → mvChk e.d = .error (off, val) →
      exec (.fill t) s = .next (s.refuse t 5 e off val)) ∧
    (s.turn t 6 e → dOp e.d = 0x71 → dField e.d 16 2 = 0x0280 → heventChk e.d = .error (off, val) →
      exec (.hevent t) s = .next (s.refuse t 6 e off val)) ∧
    (∀ q, q ≤ 5 → s.turn t q e → dOp e.d ∉ definedOps q → q ≠ 3 ∨ (s.tile t).prsIdle = true →
      exec (.undefinedEngOp t q) s = .next (s.refuse t q e 0 (dOp e.d))) ∧
    (s.turn t 6 e → edgeOps (dField e.d 16 2) = [] →
      exec (.undefinedEngOp t 6) s = .next (s.refuse t 6 e 16 (dField e.d 16 2))) ∧
    (s.startable t 5 = some e → dOp e.d = 0x31 → e.syn ≠ [] →
      ((s.readHead t 5 e).1 = true → exec (.copy t) s = .next ((s.readHead t 5 e).2.poisonStart t 5 e 0)) ∧
      ((s.readHead t 5 e).1 = false → mvChk e.d = .ok () → exec (.copy t) s = .next ((s.readHead t 5 e).2.started t 5 e Run.start))) ∧
    (∀ q k, e.org = .strand k → s.refuse t q e off val =
      ((s.detect { s.descRec t q e clsContained cRefused with
        info0 := BitVec.ofNat 64 (dOp e.d + (val % 2 ^ 48) * 65536), info1 := BitVec.ofNat 64 off }).endStrand t k).removeEntry t q e)

/-- Matrix descriptors (R214–R217, R397, R503) start when their turn has come and their checks pass; MMVAT and VATZERO also wait
for the drains issued before them (R33). `u` and `r` are what the start reads: the record, and under SR the seed and seq of R115.
Array descriptors (R133, R187–R192, R390) start when no press holds their bank (R32); a started read takes a copy of the slot and,
where some vector needs an analogue read, runs its calibration plane. A QUERY reads its live mask and its offsets, where it has
them, once. SETCORR sets the slot and completes at once. -/
def Obligations.MatrixAndArrayDescriptorsStart : Prop :=
  (∀ (s u : State) (t : Nat) (e : QEntry) (r : Run), s.turn t 0 e →
     (dOp e.d = 0x20 → mmStart t 0x20 e s = .go r u → exec (.mm t) s = .next (u.started t 0 e r)) ∧
     (dOp e.d = 0x21 → mmStart t 0x21 e s = .go r u → exec (.mmacc t) s = .next (u.started t 0 e r)) ∧
     (dOp e.d = 0x22 → vatFree t s e = true → mmStart t 0x22 e s = .go r u → exec (.mmvat t) s = .next (u.started t 0 e r)) ∧
     (dOp e.d = 0x23 → vatFree t s e = true → mmStart t 0x23 e s = .go r u → exec (.vatzero t) s = .next (u.started t 0 e r)) ∧
     (dOp e.d = 0x24 → rescoreStart t e s = .go r u → exec (.rescore t) s = .next (u.started t 0 e r))) ∧
  (∀ (s u v w : State) (t b : Nat) (e : QEntry) (r : Run) (cal : List AdcDev) (ws : List (W32 × Bool)) (mask ofs : List Byte),
     b < 2 → s.turn t (b + 1) e →
     (dOp e.d = 0x10 → bankFree t b s e = true → readStart t b cal e s = .go r u →
       exec (.read t b cal) s = .next (u.started t (b + 1) e r)) ∧
     (dOp e.d = 0x11 → setcorrChk ((s.tile t).bank b).cols e.d = .ok () →
       u = s.modTile t (fun v => v.modBank b (fun k => { k with corr :=
         ⟨BitVec.ofNat 64 (dField e.d 16 8), BitVec.ofNat 64 (dField e.d 24 8), dField e.d 32 1, e.ctx⟩ })) →
       exec (.setcorr t b) s = .next ((u.started t (b + 1) e Run.start).completeEntry t (b + 1) e)) ∧
     (dOp e.d = 0x12 → bankFree t b s e = true → queryChk (s.useOf e.mepoch) ((s.tile t).bank b) e.d = .ok () →
       runUnit t (if dField e.d 40 8 = 0 then pure [] else xReadWords (tileAgent t (b + 1) e) (dField e.d 40 8) 32) s = (.ok ws, v) →
       ws.any (·.2) = false → mask = (ws.map (fun x => leBytes 4 x.1.toNat)).flatten →
       (if qyOfsEn e.d then v.readRecord t (dField e.d 52 4) e.ctx ((s.tile t).bank b).cols else (([], false), v)) = ((ofs, false), w) →
       ((s.tile t).bank b).w8 = false ∨ dField e.d 40 8 = 0 ∨ lField mask 64 64 = 0 →
       armRun t b e cal [mask, ofs] (qyInput ((s.tile t).bank b).w8 e.d) (qyNvec e.d) w = .go r u →
       exec (.query t b cal) s = .next (u.started t (b + 1) e r)))

/-- What a started product has passed (R215, R216, R217): at least one row, N and K multiples of 32 within their limits, C on a
64-byte boundary and, with its last row, inside the scratchpad or the vat, and the record of 64 bytes read once. -/
def Obligations.StartedProductsAreInRange : Prop :=
  ∀ (s u : State) (t op : Nat) (e : QEntry) (r : Run), mmStart t op e s = .go r u →
    1 ≤ mmM e.d ∧ 32 ≤ mmN e.d ∧ mmN e.d ≤ 16384 ∧ mmN e.d % 32 = 0 ∧
    (op ≠ 0x23 → 32 ≤ mmK e.d ∧ mmK e.d ≤ 16777216 ∧ mmK e.d % 32 = 0) ∧
    dField e.d 32 4 % 64 = 0 ∧ dField e.d 36 4 % 64 = 0 ∧ dField e.d 36 4 + 64 ≤ 0x300000 ∧
    mmC e.d (prodOf (r.snap.headD [])) + (mmM e.d - 1) * (prodOf (r.snap.headD [])).ldc + (if mmBf e.d then 2 else 4) * mmN e.d ≤
      (if op = 0x22 ∨ op = 0x23 then 0x200000 else 0x300000) ∧
    r.snap.length = 1 ∧ r.unit = 0

/-- MATRIX_TILE_COMMIT (R219): the engine does the next unit of the running descriptor, one tile of C, or all of a RESCORE. `u` is
the state with that unit done. Companion work that is ready runs first (R199). Under pre-emption the descriptor then stands at its
stop point (R220); one whose grid is being stopped ends unsignalled. A unit that fails leaves what `failEntry` says: a fault is
taken. While the finished-block sub-queue is full (R249), or a tile of the descriptor that was sampled is still compared (R435), no
tile is committed. -/
def Obligations.MatrixTilesCommit : Prop :=
  ∀ (s u v : State) (t : Nat) (e : QEntry) (w : X Bool × Nat) (last : Bool), (s.tile t).running 0 = some e →
    (s.paused t = false → ((s.tile t).faultReg 0).pend = false →
      (mmFbq e.d && (s.tile t).fbqFull && dOp e.d != 0x24) = false → (s.tile t).sampleOf 0 e.seq false = false →
      (s.saving && e.halt) = false → s.compReady t 0 = none → s.compReady t 1 = none → e.run.unit < matrixUnits e.d →
      s.workOf t 0 e = some w →
      (runUnit t w.1 s = (.ok last, u) →
        v = (if dOp e.d = 0x24 then u.modEntry t 0 e.seq (fun e => e.modRun (fun r => { r with unit := 1 })) else u) →
        (v.stopping e = false → exec (.matrixTileCommit t) s = .next (if v.saving then v.haltEntry t 0 e.seq else v)) ∧
        (v.stopping e = true → exec (.matrixTileCommit t) s = .next (v.removeEntry t 0 e))) ∧
      (∀ x, runUnit t w.1 s = (.error x, u) → exec (.matrixTileCommit t) s = .next (u.failEntry t 0 e x))) ∧
    (mmFbq e.d = true → (s.tile t).fbqFull = true → dOp e.d ≠ 0x24 → exec (.matrixTileCommit t) s = .next s) ∧
    ((s.tile t).sampleOf 0 e.seq false = true → exec (.matrixTileCommit t) s = .next s)

/-- The vectors of a READ or QUERY (R132, R190, R197, R199, R200, R280): the next one is read and waits for its companion work, or
is written at once where it needs none; the first waiting one whose work is given is written, banks in the order in which their
vectors were read; diverted ones come after the last. `u` is the state with the work done. No vector is read while eight wait, or
while the rows that wait leave no place in the finished-block sub-queue of a READ that queues its rows (R249). -/
def Obligations.ArrayVectorsAreWritten : Prop :=
  ∀ (s u w w' : State) (t b : Nat) (e : QEntry) (pv : PendVec) (l : List PendVec) (devs : List AdcDev), s.bankRun t b = some e →
    (((s.tile t).bank b).run.vec < (if dOp e.d = 0x12 then qyNvec e.d else rdNvec e.d) → ((s.tile t).bank b).run.pend.length < 8 →
      dOp e.d = 0x12 ∨ rdFbq e.d = false ∨ (s.tile t).fbHeld b + ((s.tile t).bank b).run.pend.length < 16 →
      (s.saving && e.halt) = false →
      runUnit t (do
        if dOp e.d = 0x12 then queryVector t b e devs else readVector t b e devs
        flushRemote (tileAgent t (b + 1) e)) s = (.ok (), u) →
      w = (if u.saving then u.haltEntry t (b + 1) e.seq else u) →
      (((w.tile t).bank b).run.pend.length ≠ 1 ∨ (((w.tile t).bank b).run.pend = [pv] ∧ pv.work = true) →
        exec (.arrayVectorDone t b devs) s = .next w) ∧
      (((w.tile t).bank b).run.pend = [pv] → pv.work = false → (w.tile t).sampleOf (b + 1) e.seq true = false →
        runUnit t (writePend t b e pv) w = (.ok (), w') → exec (.arrayVectorDone t b devs) s = .next w')) ∧
    (8 ≤ ((s.tile t).bank b).run.pend.length ∨
        (dOp e.d ≠ 0x12 ∧ rdFbq e.d = true ∧ 16 ≤ (s.tile t).fbHeld b + ((s.tile t).bank b).run.pend.length) →
      exec (.arrayVectorDone t b devs) s = .next s) ∧
    (((s.tile t).bank b).run.pend = pv :: l → (s.tile t).sampleVec b e.seq pv.vec = false →
      (pv.work = true → s.compFirst t b pv.order = true) →
      runUnit t (writePend t b e pv) s = (.ok (), u) → exec (.companionWorkDone t b) s = .next u) ∧
    (dOp e.d = 0x10 → ((s.tile t).bank b).run.vec = rdNvec e.d → ((s.tile t).bank b).run.pend = [] →
      s.compFirst t b ((((s.tile t).bank b).run.divs.head?.map (·.order)).getD 0) = true →
      exec (.divertBatch t b) s = .next (divertAll t b e ((s.tile t).bank b).run.divs.length s))

/-- Vector descriptors (R230–R250, R396) start when their fields, and for RUN and FBQRUN their program and table, pass; under SR
the engine's seq advances (R115). FBQ_BLOCK_DONE (R250, R253): the running FBQRUN takes the next block of its sub-queue through its
program; under pre-emption, and where its grid is being stopped, it comes to a free number `n` of 128-element slices and stands at
its stop point. Mover descriptors (R272, R229) start when their fields pass; a drain also waits for the matrix work on the vat
issued before it (R33). -/
def Obligations.VectorAndMoverDescriptorsStart : Prop :=
  (∀ (s u : State) (t : Nat) (e : QEntry) (r r0 : Run), s.turn t 4 e →
     r0 = { Run.start with seed := (s.tile t).seed, seq := (s.tile t).vcSeq.toNat } →
     (dOp e.d = 0x40 → progStart t false e s = .go r u → exec (.run t) s = .next (u.started t 4 e r)) ∧
     (dOp e.d = 0x41 → progStart t true e s = .go r u → exec (.fbqrun t) s = .next (u.started t 4 e r)) ∧
     (dOp e.d = 0x42 → rgChk e.d = .ok () → exec (.rgather t) s = .next (s.started t 4 e r0)) ∧
     (dOp e.d = 0x43 → rsChk e.d = .ok () → exec (.rset t) s = .next (s.started t 4 e r0)) ∧
     (dOp e.d = 0x44 → aqChk e.d = .ok () →
       (aqMode e.d = 1 → exec (.actq t) s = .next ((s.modTile t (fun v => { v with vcSeq := v.vcSeq + 1 })).started t 4 e r0)) ∧
       (aqMode e.d ≠ 1 → exec (.actq t) s = .next (s.started t 4 e r0))) ∧
     (dOp e.d = 0x45 → wqChk e.d = .ok () →
       (dField e.d 45 1 = 1 → exec (.wquant t) s = .next ((s.modTile t (fun v => { v with vcSeq := v.vcSeq + 1 })).started t 4 e r0)) ∧
       (dField e.d 45 1 ≠ 1 → exec (.wquant t) s = .next (s.started t 4 e r0))) ∧
     (dOp e.d = 0x46 → tmChk e.d = .ok () → exec (.topmerge t) s = .next (s.started t 4 e r0))) ∧
  (∀ (s u v : State) (t n all : Nat) (e : QEntry) (b : FbEnt) (l : List FbEnt) (done stop : Bool), s.vecRunning t = some e → dOp e.d = 0x41 →
     e.run.blk < vBlocks e.d → (s.tile t).vec.fbq[vSrc e.d]? = some (b :: l) →
     stop = (s.saving || s.stopping e) → (stop && e.halt) = false → all = vNinstr e.d * (b.rows * b.cols / 128 + 1) + 1 →
     (n, v) = (if stop then s.drawUpTo all else (all, s)) → runUnits t (fbqUnitOf (tileAgent t 4 e)) n v = (.ok done, u) →
     exec (.fbqBlockDone t) s = .next (if stop then u.haltEntry t 4 e.seq else u)) ∧
  (∀ (s : State) (t : Nat) (e : QEntry), s.turn t 5 e →
     (dOp e.d = 0x30 → drainFree t s e = true → vdChk e.d = .ok () → exec (.vdrain t) s = .next (s.started t 5 e Run.start)) ∧
     (dOp e.d = 0x31 → mvChk e.d = .ok () → exec (.copy t) s = .next (s.started t 5 e Run.start)) ∧
     (dOp e.d = 0x32 → mvChk e.d = .ok () → exec (.xpose t) s = .next (s.started t 5 e Run.start)) ∧
     (dOp e.d = 0x33 → mvChk e.d = .ok () → exec (.fill t) s = .next (s.started t 5 e Run.start)))

/-- Presses (R156–R173): a FULL, DELTA or REFRESH starts with the press controller idle and no read of its bank running; a DELTA or
REFRESH then compares the digest of the present image, with its bank under press. A completed press leaves the image in the bank;
one whose verify failed goes on as a FULL. -/
def Obligations.PressesStartAndComplete : Prop :=
  ∀ (s u : State) (t : Nat) (e : QEntry),
    (s.turn t 3 e → pressFree t s e = true →
      (dOp e.d = 1 → pressChk 1 (s.useOf e.mepoch) (s.tile t) e.d = .ok () →
        exec (.full t) s = .next ((s.started t 3 e Run.start).beginPress t 1 (pdBank e.d))) ∧
      (dOp e.d = 2 → pressChk 2 (s.useOf e.mepoch) (s.tile t) e.d = .ok () →
        u = (s.started t 3 e Run.start).beginPress t 2 (pdBank e.d) →
        exec (.delta t) s = .next (match runUnit t (xDigest (tileAgent t 3 e) (pdOld e.d) (pdOldScale e.d) (pdFmt e.d)) u with
          | (.ok h, u) => if h = ((u.tile t).bank (pdBank e.d)).digest then
              u.modPrs t (fun p => { p with running := p.running.map (fun r => { r with checked := true }) })
            else (u.modPrs t (fun p => { p with running := none })).refuse t 3 e 32 (dField e.d 32 8)
          | (.error x, u) => u.failEntry t 3 e x)) ∧
      (dOp e.d = 3 → pressChk 3 (s.useOf e.mepoch) (s.tile t) e.d = .ok () →
        u = (s.started t 3 e Run.start).beginPress t 3 (pdBank e.d) →
        exec (.refresh t) s = .next (match runUnit t (xDigest (tileAgent t 3 e) (pdCode e.d) (pdScale e.d) (pdFmt e.d)) u with
          | (.ok h, u) => if h = ((u.tile t).bank (pdBank e.d)).digest then
              u.modPrs t (fun p => { p with running := p.running.map (fun r => { r with checked := true }) })
            else (u.modPrs t (fun p => { p with running := none })).refuse t 3 e 16 (dField e.d 16 8)
          | (.error x, u) => u.failEntry t 3 e x))) ∧
    (∀ (pr : PrsRun) (out : PressOut) (done : Bool) (parts : List Part), (s.tile t).prs.running = some pr →
      (s.tile t).running 3 = some e → pr.fold = false → pr.checked = true → s.paused t = false → ((s.tile t).faultReg 3).pend = false →
      runUnits t (pressUnit (tileAgent t 3 e)) 1026 s = (.ok done, u) →
      parts = ((u.entry t 3 e.seq).map (fun e => e.run.snap)).getD [] →
      (pr.op = 1 ∨ pr.escal = true ∨ u.verifyFails t pr.bank pr.op e.d parts out = false →
        exec (.pressComplete t out) s = .next ((u.pressDone t pr.bank pr.op (pr.op == 1 || pr.escal) false e.d e.ctx
          (u.descRec t 3 e clsDeferred cPoisonData) parts out).completeEntry t 3 e)) ∧
      (pr.op ≠ 1 → pr.escal = false → u.verifyFails t pr.bank pr.op e.d parts out = true →
        exec (.pressComplete t out) s =
          .next ((u.escalate t pr.bank pr.op e.d parts out).modEntry t 3 e.seq (fun e => { e with run := Run.start }))))

/-- Folds (R201–R204): FOLDARM and FOLDCLR arm and disarm a bank's fold; a commit begins the due folds of the tile, bank 0 first;
the DELTA starts within the power budget, after the digest of the present image agrees; at its end FGEN rises, SLOT flips and the
rank is 0; at the end of the fold the former B factor is 0 and FOLD_CTR is signalled with 1. -/
def Obligations.FoldsRunTheirSteps : Prop :=
  ∀ (s u : State) (t b : Nat) (e : QEntry),
    (s.turn t 3 e → dOp e.d = 4 → (s.tile t).prsIdle = true →
      foldarmChk (s.useOf e.mepoch) (s.tile t) e.d = .ok () → dField e.d 48 1 = b →
      u = s.modFold t b (fun _ => { Fold.reset with
        armed := true, slot := dField e.d 49 1, k := BitVec.ofNat 16 (faK e.d), phase := BitVec.ofNat 16 (dField e.d 52 2)
        masterA := BitVec.ofNat 64 (dField e.d 16 8), masterB := BitVec.ofNat 64 (dField e.d 24 8)
        codeAddr := BitVec.ofNat 64 (dField e.d 32 8), scaleAddr := BitVec.ofNat 64 (dField e.d 40 8)
        rmode := dField e.d 54 1, ctr := dField e.d 56 2, stride := BitVec.ofNat 32 (faStride e.d), ctx := e.ctx }) →
      exec (.foldarm t) s = .next ((u.started t 3 e Run.start).completeEntry t 3 e)) ∧
    (s.turn t 3 e → dOp e.d = 5 → (s.tile t).prsIdle = true → foldclrChk e.d = .ok () →
      u = s.modFold t (dField e.d 48 1) (fun f => { f with armed := false }) →
      exec (.foldclr t) s = .next ((u.started t 3 e Run.start).completeEntry t 3 e)) ∧
    (∀ (ep : W64) (l : List W64) (w : State), (s.tile t).commits = ep :: l → ((s.tile t).bank 0).fold.run = false →
      ((s.tile t).bank 1).fold.run = false → u = (s.modTile t (fun v => { v with commits := l })).markSaved t ep →
      w = (if ((u.tile t).bank 0).fold.dueAt ep then u.beginFold t 0 ep else u) →
      exec (.tileCommit t) s = .next (if ((w.tile t).bank 1).fold.dueAt ep then w.beginFold t 1 ep else w)) ∧
    (∀ d, b < 2 → ((s.tile t).bank b).fold.run = true → ((s.tile t).bank b).fold.stage = .quantised → (s.tile t).prs.running = none →
      (s.tile t).reading b = false → b = 0 ∨ ((s.tile t).bank 0).fold.run = false → s.owes t 7 (foldId t b) = false →
      s.overBudget true = false → s.paused t = false → d = foldDesc b ((s.tile t).bank b) →
      exec (.foldDeltaStart t b) s = .next
        (match runUnit t (xDigest (foldAgent t b ((s.tile t).bank b).fold) (pdOld d) (pdOldScale d) (pdFmt d)) s with
        | (.ok h, u) =>
          if h = ((s.tile t).bank b).digest then
            ((u.foldNext t b).modPrs t (fun p => { p with running := some ⟨b, 2, false, true, true, []⟩ })).modFold t b
              (fun f => { f with stage := .pressing })
          else u.foldFail t b 2 0 0
        | (.error .wait, u) => u
        | (.error x, u) => u.foldFail t b 2 (foldWhy x).1 (foldWhy x).2)) ∧
    (∀ (pr : PrsRun) (out : PressOut) (k : Bank) (done : Bool) (parts : List Part), (s.tile t).prs.running = some pr → pr.fold = true →
      s.paused t = false → (s.tile t).bank pr.bank = k →
      runUnits t (pressUnit (foldAgent t pr.bank k.fold)) 1026 s = (.ok done, u) → parts = (u.foldRun t pr.bank).snap →
      pr.escal = true ∨ u.verifyFails t pr.bank 2 (foldDesc pr.bank k) parts out = false →
      exec (.foldDeltaComplete t out) s = .next (((u.pressDone t pr.bank 2 pr.escal true (foldDesc pr.bank k) k.fold.ctx
        { mkRec clsDeferred cPoisonData t with ctx := some k.fold.ctx } parts out).foldNext t pr.bank).modTile t
          (fun v => v.modBank pr.bank (fun k => { k with
            fgen := k.fgen + 1, fold := { k.fold with stage := .pressed, formerB := k.corr, slot := 1 - k.fold.slot }
            corr := { k.corr with rank := 0 } })))) ∧
    (∀ f n done, b < 2 → ((s.tile t).bank b).fold = f → f.run = true → f.stage = .pressed →
      n = f.formerB.rank * ((s.tile t).bank b).cols / 2 →
      runUnits t (foldZero { foldAgent t b f with ctx := f.formerB.ctx } f.formerB.b.toNat n) (n / 16 + 2) s = (.ok done, u) →
      u.owes t 7 (foldId t b) = false → s.paused t = false →
      exec (.foldComplete t b) s = .next (((u.modFold t b (fun f => { f with run := false, stage := .idle })).sideEnd
        (foldId t b)).sendEvt f.ctr 1#32 (.fold t b)))

/-- Edge descriptors (R297, R301, R331, R341, R349–R363, R374) start at the unit that bytes 16–17 name. `u` and `r` are what the
unit's start reads and sends. -/
def Obligations.EdgeDescriptorsStart : Prop :=
  ∀ (s u : State) (t : Nat) (e : QEntry) (r : Run), s.turn t 6 e →
    (dOp e.d = 0x60 → dField e.d 16 2 = 0x0100 → updFree s e = true → runUnit t (upStart t 0x60 e) s = (.ok (.go r), u) →
      exec (.update t) s = .next (u.started t 6 e r)) ∧
    (dOp e.d = 0x61 → dField e.d 16 2 = 0x0100 → updFree s e = true → runUnit t (upStart t 0x61 e) s = (.ok (.go r), u) →
      exec (.gnorm t) s = .next (u.started t 6 e r)) ∧
    (dOp e.d = 0x80 → dField e.d 16 2 = 0x0300 → runUnit t (dispatchStart t e) s = (.ok (.go r), u) →
      exec (.dispatch t) s = .next (u.started t 6 e r)) ∧
    (dOp e.d = 0x81 → dField e.d 16 2 = 0x0300 → runUnit t (combineStart t e) s = (.ok (.go r), u) →
      exec (.combine t) s = .next (u.started t 6 e r)) ∧
    (dOp e.d = 0x82 → dField e.d 16 2 = 0x0300 → runUnit t (coStart t e) s = (.ok (.go r), u) →
      exec (.redscat t) s = .next (u.started t 6 e r)) ∧
    (dOp e.d = 0x83 → dField e.d 16 2 = 0x0300 → runUnit t (coStart t e) s = (.ok (.go r), u) →
      exec (.allgather t) s = .next (u.started t 6 e r)) ∧
    (dOp e.d = 0x70 → dField e.d 16 2 = 0x0200 → rsigChk e.d = .ok () →
      exec (.rsig t) s = .next ((s.requestPk ⟨t, t, e.ctx, 6, e.seq, false⟩
        (s.mkPacket 0x06 (rsigDev e.d) e.ctx 0 (rsigCtr e.d) (dField e.d 24 4) t) 0 noPage (.away (rsigDev e.d) 0)).started t 6 e Run.start)) ∧
    (dOp e.d = 0x71 → dField e.d 16 2 = 0x0280 → heventChk e.d = .ok () →
      exec (.hevent t) s = .next ((s.post (some e.ctx) 0x05 (leBytes 32 (dField e.d 24 32))).finishEdge t e.seq))

/-- Completion (R55): a running descriptor whose work is done signals DONE_INC to DONE_CTR and leaves; with requests unacknowledged
it first waits for them (R330). A finished one of queues 0 to 5 leaves once nothing is owed; one of a grid being stopped leaves
without a signal (R365). A vector descriptor counts its alarms first, a READ or QUERY frees its bank, a collective ends with its
last step, a press ends by PRESS_COMPLETE alone, and the descriptors of queue 6 leave in their order. -/
def Obligations.DescriptorsComplete : Prop :=
  ∀ (s u : State) (t q i : Nat) (e : QEntry), ((s.tile t).queue q)[i]? = some e → (s.tile t).faulted q e = false →
    (e.ph = .finished → q ≠ 6 → s.owes t q e.seq = false →
      (s.stopping e = false → exec (.descriptorComplete t q i) s = .next (s.completeEntry t q e)) ∧
      (s.stopping e = true → exec (.descriptorComplete t q i) s = .next (s.removeEntry t q e))) ∧
    (e.ph = .waiting → s.stopping e = true → exec (.descriptorComplete t q i) s = .next (s.abandonEntry t q e)) ∧
    (e.ph = .running → q = 0 → matrixUnits e.d ≤ e.run.unit → (s.tile t).sampleOf 0 e.seq true = false →
      (s.stopping e = false → s.owes t 0 e.seq = false → exec (.descriptorComplete t q i) s = .next (s.completeEntry t 0 e)) ∧
      (s.stopping e = true → exec (.descriptorComplete t q i) s = .next (s.abandonEntry t 0 e))) ∧
    (∀ w, e.ph = .running → q = 5 → s.paused t = false → s.stopping e = false → s.saving = false → s.workOf t 5 e = some w →
      runUnits t w.1 w.2 s = (.ok true, u) → exec (.descriptorComplete t q i) s = .next (u.atEnd t 5 e)) ∧
    (∀ w, e.ph = .running → q = 4 → dOp e.d ≠ 0x41 → s.paused t = false → s.stopping e = false → s.saving = false →
      s.workOf t 4 e = some w → runUnits t w.1 w.2 s = (.ok true, u) →
      exec (.descriptorComplete t q i) s = .next ((u.vecAlarms t e.d).atEnd t 4 e)) ∧
    (e.ph = .running → q = 4 → dOp e.d = 0x41 → s.paused t = false → s.stopping e = false → e.run.blk = vBlocks e.d →
      exec (.descriptorComplete t q i) s = .next ((s.vecAlarms t e.d).atEnd t 4 e)) ∧
    (∀ b, e.ph = .running → b < 2 → q = b + 1 → readDone (s.tile t) b e = true →
      exec (.descriptorComplete t q i) s = .next ((s.endRead t q).atEnd t q e)) ∧
    (e.ph = .running → q = 3 → exec (.descriptorComplete t q i) s = .next s) ∧
    (e.ph = .finished → q = 6 → exec (.descriptorComplete t q i) s = .next (s.drainEdge t 33)) ∧
    (∀ w, e.ph = .running → q = 6 → dOp e.d ≠ 0x92 → s.stopping e = false → dField e.d 16 2 ≠ 0x0100 ∨ s.updFirst e = true →
      edgeWork t e = some w → runUnits t w.1 w.2 s = (.ok true, u) →
      (u.dsp.colls.any (fun c => c.tile == t && c.seq == e.seq) = false →
        exec (.descriptorComplete t q i) s = .next (u.finishEdge t e.seq)) ∧
      (u.dsp.colls.any (fun c => c.tile == t && c.seq == e.seq) = true → u.collDone t e.seq = true → u.owes t 6 e.seq = false →
        exec (.descriptorComplete t q i) s = .next ((u.finishColl t e.seq).finishEdge t e.seq))) ∧
    (e.ph = .running → q = 6 → dOp e.d = 0x92 → exec (.descriptorComplete t q i) s = .next (s.finishEdge t e.seq)) ∧
    (s.atEnd t q e = if s.owes t q e.seq then s.modEntry t q e.seq (fun e => { e with ph := .finished }) else s.completeEntry t q e) ∧
    (∀ k, e.org = .strand k → dDoneEn e.d = true →
      s.completeEntry t q e = (s.sendEvt (dDoneCtr e.d) (dDoneInc e.d) (.queue t q)).removeEntry t q e)

/-! ### Memory, contexts and grids (chapters 2, 10 and 12) -/

/-- Translation faults (R276–R278, R335): a running descriptor whose next access does not translate takes a fault: its queue's
registers are set, its strand is parked and a FAULT frame is posted; a READ or QUERY goes back to its first vector that is not
written (R190). XLRESUME retries it or aborts it with a record. A failed host access is a fault with reason HOSTERR: a running
descriptor takes it where it stands, a head about to start and work outside the queues (queue 7) meet it at their next host access
(DESIGN CHOICE, log 62). ADAPTER_RESET (R335): every running descriptor whose next access is to the host is parked, in the order of
tiles and queues, and the work outside the queues meets the failure at its next host access. With no descriptor in any queue and no
such work nothing changes. -/
def Obligations.TranslationFaultsAreTakenAndSettled : Prop :=
  (∀ (s u v : State) (t q i w : Nat) (e : QEntry),
     (∀ (k reason access addr : Nat), e.org = .strand k →
       s.takeFault t q e reason access addr = (((({ s with xl := { s.xl with faultSeq := s.xl.faultSeq + 1 } } : State).modTile t
         (fun v => { v with faults := v.faults.set q ⟨true, BitVec.ofNat 64 addr, reason, access, e.ctx, s.xl.faultSeq, e.seq⟩ })).parkStrand t k).post (some e.ctx) 0x02
         (leBytes 2 (8 * t + q) ++ leBytes 1 reason ++ leBytes 1 access ++ leBytes 4 e.ctx ++ leBytes 4 s.xl.faultSeq.toNat ++
           leBytes 4 0 ++ leBytes 8 addr))) ∧
     (∀ (r a ad : Nat), s.faultAhead t q i = some (e, .fault r a ad, u) → v = u.rewindBank t q → ((v.tile t).faultReg q).pend = false →
       exec (.translationFault t q i) s = .next (v.takeFault t q e r a ad)) ∧
     (q ≠ 1 → q ≠ 2 → u.rewindBank t q = u) ∧
     (∀ (b : Nat) (pv : PendVec) (l : List PendVec), b < 2 → ((u.tile t).bank b).run.pend = pv :: l → u.rewindBank t (b + 1) =
       u.modARun t b (fun r => { r with vec := pv.vec, pend := [], divs := r.divs.filter (·.vec < pv.vec) })) ∧
     (∀ (o : QEntry) (a ad : Nat), q ≠ 7 → ((s.tile t).queue q)[i]? = some o →
       (o.ph ≠ .waiting → (s.armFail t q o.seq).faultAhead t q i = some (e, .fault 8 a ad, u) → v = u.rewindBank t q →
         ((v.tile t).faultReg q).pend = false → exec (.hostAccessFailed t q i) s = .next (v.takeFault t q e 8 a ad)) ∧
       (o.ph = .waiting → ((s.tile t).next q).any (fun x => x.1 == i) = true → exec (.hostAccessFailed t q i) s = .next (s.armFail t q o.seq))) ∧
     (q = 7 → exec (.hostAccessFailed t q i) s = .next (s.armFail (sideTile t i) 7 i)) ∧
     (t < 1024 → ((s.tile t).faultReg q).pend = true → s.entry t q ((s.tile t).faultReg q).entry = some e → s.stopping e = false →
       exec (.xlresumeRetry t q w) s = .next ((s.clearFault t q).unparkFor t e) ∧
       exec (.xlresumeAbort t q w) s = .next ((((s.clearFault t q).detect
         { (s.clearFault t q).descRec t q e clsContained cXlAbort with
           info0 := BitVec.ofNat 64 ((s.tile t).faultReg q).reason, addr := ((s.tile t).faultReg q).addr }).endIssuer t e).abandonEntry t q e)) ∧
     (((s.tile t).faultReg q).pend = false →
       exec (.xlresumeRetry t q w) s = .next (s.csrAcc w 0x20000001088) ∧
       exec (.xlresumeAbort t q w) s = .next (s.csrAcc w 0x20000001088))) ∧
  (∀ s : State,
     (∀ u, u = s.tiles.foldl (fun u p => (List.range 7).foldl (fun u q =>
       ((u.tile p.1).queue q).zipIdx.foldl (fun u o => if o.1.ph = .waiting then u else u.hostFails p.1 q o.2) u) u) s →
       exec .adapterReset s = .next (u.side.foldl (fun u o => u.hostFails (o.seq / 2) 7 o.seq) u)) ∧
     ((∀ p ∈ s.tiles, ∀ q, (s.tile p.1).queue q = []) → s.side = [] → exec .adapterReset s = .next s))

/-- Saving and restoring a context (R15, R280–R285). A request is posted, and one while an operation is in progress logs CSRACC; as
it takes effect a SAVE of the running context begins, and one that breaks a condition fails; once every tile has stopped, the
clutch functions hold no READY or ABANDON of it and all event traffic has arrived, the areas are written; then the context is saved
and none runs; a RESTORE reloads it, and with its folds done its tiles re-enter. That a SAVE of a context that does not run fails
is read from R280 and R282 by inference (DEDUCED, log 24), and the data of a save area that no rule lays out are free values whose
contents the model also keeps (DESIGN CHOICE, log 23). -/
def Obligations.ContextsAreSavedAndRestored : Prop :=
  ∀ (s u : State) (v : W64) (w c w' : Nat), c = bitsOf v.toNat 0 4 →
    (bitsOf v.toNat 4 2 = 1 → s.xl.state ≠ 1 → s.wbusy domXl = false → exec (.preemptSave v w) s =
      .next { s with posted := smSet none s.posted domXl (some (0x20000001180, v, w)) }) ∧
    (bitsOf v.toNat 4 2 = 2 → s.xl.state ≠ 1 → s.wbusy domXl = false → exec (.preemptRestore v w) s =
      .next { s with posted := smSet none s.posted domXl (some (0x20000001180, v, w)) }) ∧
    (bitsOf v.toNat 4 2 = 1 → s.xl.state = 1 → exec (.preemptSave v w) s = .next (s.csrAcc w 0x20000001180)) ∧
    (bitsOf v.toNat 4 2 = 2 → s.xl.state = 1 → exec (.preemptRestore v w) s = .next (s.csrAcc w 0x20000001180)) ∧
    (smGet none s.posted domXl = some (0x20000001180, v, w') →
      (bitsOf v.toNat 4 2 = 1 → s.xl.runCtx = some c → areaOk (saveBase s c) = true → exec (.wbusyClear .xlate) s =
        .next (State.clearPost { s with xl := { s.xl with ctx := c, cur := c, op := 0, state := 1, phase := .stopping } } domXl)) ∧
      (bitsOf v.toNat 4 2 = 1 → s.xl.runCtx ≠ some c → exec (.wbusyClear .xlate) s =
        .next (State.clearPost { s with xl := { s.xl with ctx := c, op := 0, state := 3 } } domXl)) ∧
      (∀ k, bitsOf v.toNat 4 2 = 2 → smGet none s.xl.saved c = some k → s.xl.runCtx = none → areaOk (saveBase s c) = true →
        exec (.wbusyClear .xlate) s =
          .next (State.clearPost { s with xl := { s.xl with ctx := c, cur := c, op := 0, state := 1, phase := .loading } } domXl)) ∧
      (bitsOf v.toNat 4 2 = 2 → smGet none s.xl.saved c = none → exec (.wbusyClear .xlate) s =
        .next (State.clearPost { s with xl := { s.xl with ctx := c, op := 0, state := 3 } } domXl))) ∧
    (s.xl.phase = .stopping → (∀ p ∈ s.tiles, p.2.stopped = true) → s.clu.readies = [] → s.clu.abandons = [] → s.remotes = [] → s.evts = [] →
      s.transfersHeld = false → u = (List.range 1024).foldl (fun x t => x.saveTile (saveBase s s.xl.cur) t) s →
      exec .preemptSaveWrite s = .next { u with
        tiles := u.tiles.foldl (fun m p => smSet Tile.reset m p.1 p.2.vacate) u.tiles
        xl := { u.xl with phase := .writing, saved := smSet none u.xl.saved u.xl.cur (some ⟨u.tiles.map (fun p => (p.1, p.2.save)), u.mode.mepoch, [],
          (u.grids.filter (fun g => g.stopping && g.ctx == u.xl.cur)).map (·.num), s.freeCtr⟩) } }) ∧
    (s.xl.phase = .writing → s.transfersHeld = false →
      exec .preemptSaveDone s = .next (State.preFrame { s with xl := { s.xl with state := 2, phase := .idle, runCtx := none } } 1)) ∧
    (s.transfersHeld = false → s.xl.phase = .loading →
      u = (List.range 1024).foldl (fun x t => x.restoreTile (saveBase x s.xl.cur) s.xl.cur t) { s with xl := { s.xl with phase := .restoring } } →
      exec .preemptRestoreDone s = .next (if u.xl.phase = .restoring ∧ u.foldsDone = true then u.finishRestore else u)) ∧
    (s.transfersHeld = false → s.xl.phase = .restoring → (∀ p ∈ s.tiles, (p.2.bank 0).fold.run = false ∧ (p.2.bank 1).fold.run = false) →
      u = (List.range 1024).foldl (fun x t => x.reenterTile s.xl.cur t) s → (∀ d ∈ u.lnk.discards, d.ctx ≠ s.xl.cur) →
      exec .preemptRestoreDone s = .next (State.preFrame { u with xl := { u.xl with
        state := 2, phase := .idle, runCtx := some s.xl.cur, saved := smSet none u.xl.saved s.xl.cur none } } 2))

/-- Submission rings (R337): the doorbell sets TAIL and the port takes records; a TAIL more than the ring's size ahead of HEAD has
no effect and is logged. GRID_LAUNCH (R64, R65, R337): the record that a ring holds launches when it can: the code is read once,
every tile of its rectangle gets its copy, its strands and an increment of counter 60, the grid takes the lowest free number
(DESIGN CHOICE, log 57), and the next record is taken. A strand at launch (R65): READY at CODE_OFS + ENTRY, with s1 its linear
index, s2 ARG_ADDR, s3 its index in the tile, and every other register 0. -/
def Obligations.GridsLaunch : Prop :=
  (∀ (s : State) (r w : Nat) (v : W64) (x : SqRing), r < 16 → s.ring r = x → x.usable = true →
     ((v.setWidth 16 - x.head).toNat ≤ 2 ^ x.log2n →
       exec (.lnkSqtail r v w) s = .next ((s.modRing r (fun x => { x with tail := v.setWidth 16 })).takeRecords r 4097)) ∧
     (2 ^ x.log2n < (v.setWidth 16 - x.head).toNat →
       exec (.lnkSqtail r v w) s = .next (s.csrAcc w (0x20000221008 + 16 * r)))) ∧
  (∀ (s u : State) (r i : Nat) (l : List Byte) (x : SqRing) (code : List (W32 × Bool)), s.ring r = x → x.held = some (i, l) →
     s.launchable x.ctx l = true →
     (s.copyStart r x.ctx).copyFailed r = false →
     runUnit 1024 (xReadWords ⟨uHost, uHost, x.ctx, 7, copyId r, false⟩ (gCode l) (gBytes l / 4)) (s.copyStart r x.ctx) = (.ok code, u) →
     exec (.gridLaunch r) s = .next (((gTiles l).foldl (fun (y : State) t => y.launchTile l s.freeGrid code t)
       { u with grids := u.grids ++ [⟨s.freeGrid, r, x.ctx, i, l, false⟩], xl := { u.xl with runCtx := some x.ctx } }).leaveRecord r)) ∧
  (∀ (l : List Byte) (num lin loc j : Nat), j ≠ 1 → j ≠ 2 → j ≠ 3 →
     (startStrand l num lin loc).st = .ready ∧
     (startStrand l num lin loc).pc = BitVec.ofNat 32 (gField l 12 4 + gField l 16 4) ∧
     (startStrand l num lin loc).reg 1 = BitVec.ofNat 64 lin ∧
     (startStrand l num lin loc).reg 2 = BitVec.ofNat 64 (gField l 32 8) ∧
     (startStrand l num lin loc).reg 3 = BitVec.ofNat 64 loc ∧ (startStrand l num lin loc).reg j = 0#64)

/-- The ends of a grid (R66): with all its strands ended and all their descriptors with them, each tile adds 1 to counter 61 and a
GRID frame of STATUS 0 is posted, unless a detected error is about to stop it; a stopped grid adds to no counter and posts STATUS
3. -/
def Obligations.GridsComplete : Prop :=
  ∀ (s : State) (n : Nat) (g : Grid), s.gridOf n = some g → s.gridDone g = true →
    (g.stopping = false → s.stopDue g.ctx = false → s.xl.runCtx = some g.ctx →
      exec (.gridComplete n) s = .next ((((gTiles g.record).foldl (fun u t => u.modTile t (fun v => v.setCtr 61 (v.ctr 61 + 1))) s).dropGrid g).post
        (some g.ctx) 0x01 (leBytes 1 g.ring ++ leBytes 1 0 ++ leBytes 2 g.idx ++ leBytes 1 g.num ++ leBytes 3 0 ++
          leBytes 8 (gField g.record 32 8)))) ∧
    (g.stopping = true →
      exec (.gridErrorCompletion n) s = .next ((s.dropGrid g).post
        (some g.ctx) 0x01 (leBytes 1 g.ring ++ leBytes 1 3 ++ leBytes 2 g.idx ++ leBytes 1 g.num ++ leBytes 3 0 ++
          leBytes 8 (gField g.record 32 8))))

/-- Event rings (R338): the oldest frame goes to its ring; a ring that is full drops it and counts it in LOST, and when space has
returned a LOST frame goes first. -/
def Obligations.EventFramesReachTheirRing : Prop :=
  ∀ (s : State) (f : Frame) (l : List Frame) (r : EqRing), s.frames = f :: l → s.eq[f.ring]? = some r → r.en = true →
    (r.size ≤ (r.tail - r.head).toNat → exec .hev s =
      .next { s with frames := l, eq := s.eq.set f.ring { r with lost := satAdd 32 r.lost 1, lostOwed := r.lostOwed + 1 } }) ∧
    ((r.tail - r.head).toNat < r.size → 0 < r.lostOwed → exec .hev s =
      .next (State.writeFrame { s with eq := s.eq.set f.ring { r with lostOwed := 0 } } f.ring 0x06 (leBytes 4 r.lostOwed))) ∧
    ((r.tail - r.head).toNat < r.size → r.lostOwed = 0 → exec .hev s =
      .next (State.writeFrame { s with frames := l } f.ring f.typ f.body)) ∧
    (∀ (b : List Byte) (typ : Nat), r.arm = false → s.writeFrame f.ring typ b = { s with
      hostMem := s.hostMem.putBytes (bitsOf r.base.toNat 12 36 * 4096 + 64 * (r.tail.toNat % r.size)) (frameBytes typ r.phase r.eseq.toNat b)
      eq := s.eq.set f.ring { r with tail := r.tail + 1, eseq := r.eseq + 1, arm := false } })

/-! ### Errors (chapter 17) -/

/-- Detection (R422, R428): the record waits with the time and the epoch, a record of class contained other than ROLLBACK makes an
action due for the context that runs, if one does, one of class fatal the hold. The class actions (R422, R423): a contained action
that is due stops the grids of the context that ran when the record was detected, and reports the failure; with none due nothing
stops. A fatal action holds every tile. -/
def Obligations.DetectionAndClassActions : Prop :=
  (∀ (s : State) (r : Rec),
     (s.detect r).err.det = s.err.det ++ [{ r with stamp := s.time, epoch := s.epoch.setWidth 32 }] ∧
     ((s.detect r).err.fatalDue = true ↔ s.err.fatalDue = true ∨ r.cls = 3) ∧
     (∀ c, r.cls = 2 → r.cause ≠ 0x1A → s.xl.runCtx = some c → (s.detect r).err.contDue = s.err.contDue ++ [c]) ∧
     (r.cls ≠ 2 ∨ r.cause = 0x1A ∨ s.xl.runCtx = none → (s.detect r).err.contDue = s.err.contDue) ∧
     s.detect r = { s with err := (s.detect r).err }) ∧
  (∀ (s : State) (c : Nat) (l : List Nat),
     (s.err.contDue = c :: l →
       exec .containedAction s = .next (State.stopGrids { s with err := { s.err with contDue := l } } c).failRpt) ∧
     (s.err.contDue = [] → exec .containedAction s = .next s) ∧
     (s.err.fatalDue = true → exec .fatalAction s = .next { s with
       holds := { s.holds with fatal := true }, err := { s.err with fatalDue := false }
       eft := { s.eft with trip := if s.eft.trip = 0 then 5 else s.eft.trip } }) ∧
     (∀ u t, exec .fatalAction s = .next u → s.err.fatalDue = true → u.held t = true))

/-- Repetitions (R432): a record with the unit, cause, SUB and ADDR of a record of class corrected that waits adds 1 to its REPEAT
and takes no place. -/
def Obligations.RepetitionsAddToRepeat : Prop :=
  ∀ (s : State) (r x : Rec) (l a b : List Rec), s.err.det = r :: l → (r.eft = false ∨ s.mpRuns = true) → s.err.waiting = a ++ x :: b →
    x.cls = 0 → x.unit = r.unit → x.cause = r.cause → x.sub = r.sub → x.addr = r.addr →
    (∀ y ∈ a, y.cls = 0 → y.unit = r.unit → y.cause = r.cause → y.sub = r.sub → y.addr ≠ r.addr) →
    exec .errorRecordRaise s =
      .next { s with err := { s.err with det := l, waiting := a ++ { x with rep := x.rep + 1 } :: b } }

/-- Raising (R431): a record that repeats none and finds a place waits in its class in the order of STAMP; it is taken in hand at
once when none is in hand, or when its class is above the one in hand, which is then set aside to the front of its class. Handling
(R429, R430, R433, R434): the record in hand takes the next LSEQ, its 64 bytes lie at slot LSEQ mod 1,024 of the ring and count in
the summary, and one that posts sends an ERROR frame whose body is bytes 0–31 of the record, to the ring of CTX when CTX is valid
and otherwise to DEVRING. -/
def Obligations.RecordsWaitAndAreHandled : Prop :=
  (∀ (s : State) (r : Rec) (l : List Rec), s.err.det = r :: l → r.eft = false → mergeInto r s.err.waiting = none → s.err.count < 256 →
     exec .errorRecordRaise s = .next { s with err := ErrUnit.pick { s.err with det := l, waiting := putWaiting r s.err.waiting } } ∧
     (∀ x ∈ s.err.waiting, r.cls ≤ x.cls → (x.cls = r.cls → x.stamp ≤ r.stamp) → putWaiting r [x] = [x, r]) ∧
     (∀ x ∈ s.err.waiting, x.cls = r.cls → x.setAside = false → r.stamp < x.stamp → putWaiting r [x] = [r, x]) ∧
     (s.err.inHand = none → s.err.waiting = [] →
       exec .errorRecordRaise s = .next { s with err := { s.err with det := l, inHand := some r } }) ∧
     (∀ h, s.err.inHand = some h → h.cls < r.cls → s.err.waiting = [] →
       exec .errorRecordRaise s = .next { s with err := { s.err with
         det := l, inHand := some r, waiting := [{ h with setAside := true }] } })) ∧
  (∀ (s : State) (r : Rec) (b : List Byte), s.err.inHand = some r → s.mpRuns = true →
     b = r.bytes s.err.nextSeq ((if r.setAside then 1 else 0) + 2 * (if s.err.lostBefore then 1 else 0)) → s.err.waiting = [] → s.err.lostEscDue = false →
     exec .recordHandled s = .next { s with
       err := { s.err with
         inHand := none, nextSeq := s.err.nextSeq + 1, lostBefore := false, sum := s.err.sum.note r b
         ring := smSet [] s.err.ring (s.err.nextSeq.toNat % 1024) b }
       eft := { s.eft with mirror := s.err.sum.note r b, mirrorSeq := s.err.nextSeq + 1 }
       frames := if postsFrame r then s.frames ++ [⟨r.ctx.getD s.devRing, 0x09, b.take 32⟩] else s.frames })

/-- Flash copies, shadow compares, scrubs and what the stacks report (R179, R258–R260, R434–R438). The summary and the ledgers are
written while the MP runs. A sampled tile is written once its comparison has been made: as it is where it passes, with every word
marked poisoned and a record where it does not. A scrub goes through the flawed words of a memory, and leaves one without any as it
is. The stacks' temperatures take the values read, and so does ECS, which takes the reading and adds nothing to what it held
(DEDUCED, log 30). -/
def Obligations.KeepingUpTheRecords : Prop :=
  ∀ (s : State) (t : Nat),
    (s.mpRuns = true → exec .summaryWrite s = .next (s.writeSummary false)) ∧
    (s.mpRuns = true → s.mp.state = 2 → exec .ledgerWrite s = .next (s.writeLedgers false)) ∧
    (∀ (q seq : Nat) (n w : List W32) (code : Nat) (vat : Bool) (ws : List ShWrite) (bs : List FbEnt),
      (s.tile t).shadow.sample = some (.matrix q seq n w code vat ws bs) → matrixPasses n w code = true →
      exec (.shadowCompare t) s = .next ((bs.foldl (fun u b => u.pushFbq t 0 b)
        (ws.foldl (fun u x => u.putC t vat { x with poison := x.poison || false }) s)).modTile t
        (fun v => { v with shadow := { v.shadow with sample := none, sampled := satAdd 32 v.shadow.sampled 1 } }))) ∧
    (∀ (q seq : Nat) (n w : List W32) (code : Nat) (vat : Bool) (ws : List ShWrite) (bs : List FbEnt),
      (s.tile t).shadow.sample = some (.matrix q seq n w code vat ws bs) → matrixPasses n w code = false →
      exec (.shadowCompare t) s = .next (((bs.foldl (fun u b => u.pushFbq t 0 b)
        (ws.foldl (fun u x => u.putC t vat { x with poison := true }) s)).shadowRec t q seq false (matrixError n w)).modTile t
        (fun v => { v with shadow := { v.shadow with sample := none, sampled := satAdd 32 v.shadow.sampled 1 } }))) ∧
    (exec (.scrubPeriod (.spad t)) s = .next ((s.tile t).spad.syn.foldl (fun u p => u.scrubWord (.spad t (4 * p.1))) s)) ∧
    ((s.tile t).spad.syn = [] → exec (.scrubPeriod (.spad t)) s = .next s) ∧
    (∀ n, (∀ p ∈ s.dram.syn, stackOf (4 * p.1) ≠ n) → exec (.scrubPeriod (.stack n)) s = .next s) ∧
    (∀ n temp, s.mpRuns = true → s.rails.dram = true → temp < 256 →
      exec (.stackTempRead (List.replicate n temp)) s = .next ((List.range n).foldl
        (fun u i => u.modStack i (fun k => { k with temp := BitVec.ofNat 8 temp })) s)) ∧
    (∀ c, s.rails.dram = true → c < 2 ^ 24 → exec (.ecsRead [c]) s = .next (s.modStack 0 (fun k => { k with ecs := BitVec.ofNat 24 c })))

/-! ### Index mode and checks (chapters 15 and 17) -/

/-- MODE_CHANGE (R443): a write of MP_IDXCFG posts its value, raises the mode epoch, opens the fence over every tile and empties
the learned profile; while a write of the management domain waits it has no effect and logs CSRACC. A tile's acknowledgement sets
its bit while others are owed; at the timeout the tiles that have not acknowledged are fenced off, and the fence releases (R444);
the profile is emptied by R416. That every accepted write of MP_IDXCFG opens a fence, and that every tile without an
acknowledgement is fenced off, are the model's reading (DEDUCED, log 33). -/
def Obligations.ModeChangesFenceTheTiles : Prop :=
  ∀ (s : State) (v : W64) (w t : Nat),
    (s.wbusy domMp = false → 3600 ≤ bitsOf v.toNat 4 17 → bitsOf v.toNat 4 17 ≤ 86400 → bitsOf v.toNat 24 8 ≠ 0 →
      exec (.modeChange v w) s = .next { s with
        posted := smSet none s.posted domMp (some (0x20000480700, v, w))
        mode := { s.mode with
          mepoch := s.mode.mepoch + 1, fence := true, ack := 0#1024, next := v.getLsbD 0
          hist := smSet false s.mode.hist (s.mode.mepoch + 1).toNat (v.getLsbD 0) }
        pwr := { s.pwr with profile := [] } }) ∧
    (s.wbusy domMp = true → exec (.modeChange v w) s = .next (s.csrAcc w 0x20000480700)) ∧
    (t < 1024 → s.mode.fence = true → s.mode.ack.getLsbD t = false → smGet false s.mode.hist s.mode.mepoch.toNat = false →
      (s.tile t).oldWorkDone s.mode.mepoch false = true → s.mode.ack ||| (1#1024 <<< t) ≠ BitVec.allOnes 1024 →
      exec (.modeAck t) s = .next { s with mode := { s.mode with
        ack := s.mode.ack ||| (1#1024 <<< t), fenced := s.mode.fenced &&& ~~~(1#1024 <<< t) } }) ∧
    (s.mode.fence = true → exec .fenceTimeout s = .next ((List.range 1024).foldl (fun u t =>
      if u.mode.ack.getLsbD t then u else u.fenceOff t) s).releaseFence) ∧
    (s.releaseFence.mode.fence = false ∧ s.releaseFence.mode.use = s.mode.next ∧ s.releaseFence.mode.mepoch = s.mode.mepoch)

/-- Refreshes (R170, R399): the figures of a bank, emptied or not, are kept; as its age or its hot seconds reach the threshold it
asks for a refresh with one event, whether or not a drift alarm has asked already; the MP puts a REFRESH of an index bank whose
period has passed, or that asks, behind queue 3. -/
def Obligations.RefreshesAreAskedAndIssued : Prop :=
  ∀ (s : State) (t b age hot : Nat) (k : Bank), t < 1024 → b < 2 → s.mpRuns = true → (s.tile t).bank b = k →
    (age < 90000 → hot < 9000 → exec (.refreshRequest t b age hot) s =
      .next (s.modTile t (fun v => v.modBank b (fun k => { k with age := age, hot := hot, refreq := k.refreq || false })))) ∧
    (90000 ≤ age ∨ 9000 ≤ hot → k.age < 90000 → k.hot < 9000 → exec (.refreshRequest t b age hot) s =
      .next ((s.modTile t (fun v => v.modBank b (fun k => { k with age := age, hot := hot, refreq := k.refreq || true }))).notice t 6 b 0)) ∧
    (90000 ≤ age ∨ 9000 ≤ hot → 90000 ≤ k.age ∨ 9000 ≤ k.hot → exec (.refreshRequest t b age hot) s =
      .next (s.modTile t (fun v => v.modBank b (fun k => { k with age := age, hot := hot, refreq := k.refreq || true })))) ∧
    (∀ d c, k.press = some (d, c) → s.mode.use = true → k.idx = true → s.periodOver k = true ∨ k.refreq = true → k.refStopped = false →
      s.xl.runCtx = some c → s.mpRefreshes < s.mode.maxref → (s.tile t).full 3 = false →
      (∀ e ∈ (s.tile t).queue 3, e.org = .mp → dField e.d 41 1 ≠ b) →
      ∃ u, exec (.indexRefreshIssue t b true) s = .next u ∧ u.mp.timeouts = 0 ∧
        { u with mp := s.mp } = s.enqueue t 3 (refreshDesc b d) .mp c 16)

/-- The field cross-check and the diagnostic path (R440–R442, R446, R476, R478): every tile runs the tests with its partner in the
other half; each tile of a pair that differs runs them again with its neighbour, tile XOR 0x001; one that differs there too is
faulty, and where neither does both are suspect. Each tile named has one record. -/
def Obligations.ChecksAndDiagnosis : Prop :=
  ∀ (s : State) (v : W64) (w u : Nat),
    (v.getLsbD 0 = true → s.mp.xState ≠ 1 → exec (.mpXchkStart v w) s =
      .next { s with mp := { s.mp with xState := if s.xl.runCtx.isSome then 3 else 1 } }) ∧
    (∀ res odd x y named, s.mp.xState = 1 → x = (List.range 512).foldl (fun x t => x.testPair 0x200 t) s →
      odd = (List.range 512).filterMap (fun t => (x.xchkTest s res false t (t ^^^ 0x200)).map (fun n => (t, n))) →
      y = odd.foldl (fun x p => x.rerunPair p.1) x → named = (odd.map (fun p => y.xchkNamed s res p.1 p.2)).flatten →
      exec (.xchkDone res) s = .next (
        let z := named.foldl (fun x n => x.detect { mkRec 0 0x27 n.1 with
          info0 := if n.2.1 then 1#64 else 2#64, info1 := BitVec.ofNat 64 n.2.2 }) y
        { z with mp := { z.mp with
          xState := 2, timeouts := 0, xFaulty := (named.filter (·.2.1)).length, xSuspect := (named.filter (fun x => !x.2.1)).length } })) ∧
    (∀ t, s.rerunPair t = (s.testPair 1 t).testPair 1 (t ^^^ 0x200)) ∧
    (∀ (old : State) (res : List XchkRes) (t n : Nat),
      (s.xchkTest old res true t (t ^^^ 1) = none → s.xchkTest old res true (t ^^^ 0x200) (t ^^^ 0x200 ^^^ 1) = none →
        s.xchkNamed old res t n = [(t, false, n), (t ^^^ 0x200, false, n)]) ∧
      (s.xchkTest old res true t (t ^^^ 1) ≠ none → s.xchkTest old res true (t ^^^ 0x200) (t ^^^ 0x200 ^^^ 1) = none →
        s.xchkNamed old res t n = [(t, true, n)]) ∧
      (s.xchkTest old res true t (t ^^^ 1) ≠ none → s.xchkTest old res true (t ^^^ 0x200) (t ^^^ 0x200 ^^^ 1) ≠ none →
        s.xchkNamed old res t n = [(t, true, n), (t ^^^ 0x200, true, n)])) ∧
    (s.wbusy domMp = false → bitsOf v.toNat 8 6 ≤ 32 → bitsOf v.toNat 16 12 % 8 = 0 → exec (.mpDiagsel v w) s =
      .next { s with posted := smSet none s.posted domMp (some (0x20000480A00, v, w)), mp := { s.mp with diagValid := false } }) ∧
    (∀ row col t ofs, smGet none s.posted domMp = some (0x20000480A00, v, w) → bitsOf v.toNat 0 5 = row → bitsOf v.toNat 8 6 = col → col ≤ 32 →
      bitsOf v.toNat 16 12 = ofs → ofs % 8 = 0 → s.logicalOf row col = some t →
      exec (.diagReadDone true) s = .next (
        let x := s.clearPost domMp
        { x with mp := { x.mp with
          diagRow := row, diagCol := col, diagOfs := ofs, diagValid := true
          diagData := csrRead x (0x10000000000 + t * 0x800000 + 0x700000 + ofs), timeouts := 0 } })) ∧
    (s.mpRuns = true → u < 1024 → exec (.mpAccessTimeout u) s = .next ((s.detect (mkRec 2 0x1F u)).fenceOff u)) ∧
    (∀ a, 0x200004D0000 ≤ a → a < 0x200004E0000 → exec (.eftAccessTimeout false a v) s =
      .next { s with host := { s.host with answer := some (BitVec.allOnes 64, false) } }) ∧
    (∀ a, exec (.eftAccessTimeout true a v) s = .next s)

/-! ### Registers (chapter 19) -/

/-- An unassigned offset (R472): in a block, an offset that no register is assigned to reads 0, and a write to it has no effect but
a record of class corrected with cause CSRACC; in the EFT block while the MP runs, since R476 gives accesses that it does not
forward no record. So it is for the stack-0-only offsets in the blocks of stacks 1 to 7 and the port-0-only ones in the DSP blocks
of ports 1 to 17. -/
def Obligations.UnassignedOffsetsReadZero : Prop :=
  ∀ (s : State) (v : W64) (w off : Nat), s.rails.io = true → s.rails.core = true → off < 0x10000 → off % 8 = 0 →
    (∀ t blk, t < 1024 → blk < 16 → tileAssigned blk off = false →
      csrRead s (tileAt t blk off) = 0#64 ∧
      exec (.registerWrite (tileAt t blk off) 8 v w) s = .next (s.detect { mkRec 0 0x20 w with addr := BitVec.ofNat 64 (tileAt t blk off) })) ∧
    (∀ k, k < 0x100 → edgeAssigned k off = false →
      csrRead s (edgeAt k off) = 0#64 ∧ ((k = 0x4D → s.mpRuns = true) → exec (.registerWrite (edgeAt k off) 8 v w) s = .next (s.detect { mkRec 0 0x20 w with addr := BitVec.ofNat 64 (edgeAt k off) }))) ∧
    (∀ k, 1 ≤ k → k ≤ 7 → 0x1000 ≤ off → off < 0x1200 → edgeAssigned k off = false) ∧
    (∀ k, 0x29 ≤ k → k ≤ 0x39 → off ≠ 0 → edgeAssigned k off = false)

/-- Clears (R123, R135, R198, R251, R345, R350) and seeds (R115): a write of 1 to a counter's bit sets it to 0 and re-arms its
alarm; a write of a seed starts its sequences at 0. -/
def Obligations.ClearsAndSeeds : Prop :=
  ∀ (s : State) (v : W64) (w n : Nat), s.rails.core = true → s.rails.io = true →
    (n < 1024 → exec (.tileNumclr n v w) s = .next (s.modTile n (fun x => { x with num := x.num.clear v.toNat }))) ∧
    (n < 1024 → v.getLsbD 0 = true → v.getLsbD 1 = true → exec (.arrEvtclr n v w) s =
      .next (s.modTile n (fun x => { x with arr := { x.arr with adcRange := 0#32, adcSat := 0#32 } }))) ∧
    (n < 1024 → exec (.arrSpillclr n v w) s =
      .next (s.modTile n (fun x => { x with arr := { x.arr with spill := x.arr.spill.clear v.toNat } }))) ∧
    (n < 1024 → v = 0xFFFF#64 → exec (.vecHistclr n v w) s = .next (s.modTile n (fun x => { x with vec := { x.vec with
      hist := x.vec.hist.filter (fun p => !(p.1 < 1024 && v.getLsbD (p.1 / 64)))
      halmFired := (List.range 16).foldl (fun f i => f &&& ~~~(7#48 <<< (3 * i))) x.vec.halmFired } }))) ∧
    (n < 8 → s.wbusy (domUpd n) = false → exec (.updNumclr n v w) s =
      .next { s with posted := smSet none s.posted (domUpd n) (some (0x20000080280 + n * 0x10000, v, w)) }) ∧
    (exec (.dspTokclr v w) s = .next { s with dsp := { s.dsp with tok := s.dsp.tok.clear v.toNat } }) ∧
    (exec (.dspNumclr v w) s = .next { s with dsp := { s.dsp with num := s.dsp.num.clear v.toNat } }) ∧
    (n < 19 → exec (.lnkNumclr n v w) s = .next (s.modPort n (fun x => { x with num := x.num.clear v.toNat }))) ∧
    (n < 1024 → exec (.tileRngseed n v w) s = .next (s.modTile n (fun x => { x with seed := v, mxSeq := 0#24, vcSeq := 0#24 }))) ∧
    (n < 8 → s.wbusy (domUpd n) = false → exec (.updRngseed n v w) s =
      .next { s with posted := smSet none s.posted (domUpd n) (some (0x20000080300 + n * 0x10000, v, w)) }) ∧
    (n < 18 → exec (.lnkRngseed n v w) s = .next (s.modPort n (fun x => { x with seed := v, seq := 0#24 })))

/-- Posted writes of the translation domain (R15, R266, R270): a write of MEM_XLROOT_n or MEM_XLINV waits; while one waits another
has no effect and logs CSRACC; once every access that used a matching translation has completed, the invalidation drops them
everywhere. Posted writes (R15, R461): a posted write takes effect when its WBUSY clears, and the domain is free again; PWR_CAP and
PWR_LEARN are posted and logged where a field refuses. Register writes (R15, R469): an aligned 64-bit write of a powered block goes
to its register, so for the alarm enables and the seed of a tile, the wear limit where the MP writes it before the lock, and a save
base, which is posted; any other access has no effect and logs CSRACC, and a block without power takes none, nor does the EFT block
while the MP does not run (R476). One wear limit for the module is log 36; that a write of it by another party before the lock logs
CSRACC is the model's reading (DEDUCED, log 39). -/
def Obligations.WritesArePostedOrRefused : Prop :=
  (∀ (s : State) (v : W64) (w n : Nat), n < 16 →
     (s.wbusy domXl = false →
       exec (.memXlrootWrite n v w) s =
         .next { s with posted := smSet none s.posted domXl (some (0x20000001000 + 8 * n, v, w)) } ∧
       exec (.memXlinv v w) s = .next { s with posted := smSet none s.posted domXl (some (0x20000001080, v, w)) }) ∧
     (s.wbusy domXl = true →
       exec (.memXlrootWrite n v w) s = .next (s.csrAcc w (0x20000001000 + 8 * n)) ∧
       exec (.memXlinv v w) s = .next (s.csrAcc w 0x20000001080)) ∧
     (∀ u, smGet none s.posted domXl = some (0x20000001080, v, w) →
       (∀ r ∈ s.remotes, r.page ≠ noPage → xlinvHits v ⟨r.ctx, r.page, 0#64⟩ = false) → u = (s.dropCached (xlinvHits v)).clearPost domXl →
       exec .xlinvComplete s = .next { u with xl := { u.xl with inv := v &&& 0xFFFFFFE0003F#64 } })) ∧
  (∀ (s : State) (v : W64) (w n : Nat), n < 8 →
     (smGet none s.posted (domUpd n) = some (0x20000080280 + n * 0x10000, v, w) →
       exec (.wbusyClear (.upd n)) s = .next ((s.modUpd n (fun u => { u with num := u.num.clear v.toNat })).clearPost (domUpd n))) ∧
     (smGet none s.posted (domUpd n) = some (0x20000080300 + n * 0x10000, v, w) →
       exec (.wbusyClear (.upd n)) s =
         .next ((s.modUpd n (fun u => { u with seed := v, seqs := List.replicate 32 0#24 })).clearPost (domUpd n))) ∧
     (smGet none s.posted domXl = some (0x20000001000 + 8 * n, v, w) →
       exec (.wbusyClear .xlate) s = .next ((s.setRoot n v).clearPost domXl)) ∧
     (s.wbusy domPwr = false → s.pwr.refuses (s.locks w) 0x08 v = false → exec (.pwrCapWrite v w) s =
       .next { s with posted := smSet none s.posted domPwr (some (0x20000490008, v, w)) }) ∧
     (s.wbusy domPwr = false → bitsOf v.toNat 8 8 ≠ 0 → exec (.pwrLearnClr v w) s =
       .next { s with posted := smSet none s.posted domPwr (some (0x20000490020, v, w)) }) ∧
     (s.wbusy domPwr = true → exec (.pwrCapWrite v w) s = .next (s.csrAcc w 0x20000490008) ∧
       exec (.pwrLearnClr v w) s = .next (s.csrAcc w 0x20000490020))) ∧
  (∀ (s : State) (v : W64) (w a size t blk k off : Nat),
     (s.rails.core = true → t < 1024 →
       (blk < 16 → off < 0x10000 → off % 8 = 0 →
         exec (.registerWrite (0x10000700000 + t * 0x800000 + blk * 0x10000 + off) 8 v w) s = .next (s.writeTile w t blk off v)) ∧
       exec (.registerWrite (0x10000700288 + t * 0x800000) 8 v w) s =
         .next (s.modTile t (fun x => { x with num := x.num.writeAlm 10 v.toNat (bitsOf v.toNat 16 10) })) ∧
       exec (.registerWrite (0x10000700300 + t * 0x800000) 8 v w) s =
         .next (s.modTile t (fun x => { x with seed := v, mxSeq := 0#24, vcSeq := 0#24 })) ∧
       (s.sec.gecko = false → exec (.registerWrite (0x100007300A0 + t * 0x800000) 8 v 0xB00) s =
         .next { s with lim := { s.lim with wearLim := v.setWidth 40 } }) ∧
       (s.sec.gecko = true ∨ w ≠ 0xB00 → (v ^^^ csrRead s (0x100007300A0 + t * 0x800000)) &&& 0xFFFFFFFFFF#64 ≠ 0#64 →
         exec (.registerWrite (0x100007300A0 + t * 0x800000) 8 v w) s = .next (s.csrAcc w (0x100007300A0 + t * 0x800000)))) ∧
     (s.rails.io = true → k < 0x100 → (k = 0x4D → s.mpRuns = true) → off < 0x10000 → off % 8 = 0 →
       exec (.registerWrite (0x20000000000 + k * 0x10000 + off) 8 v w) s = .next (s.writeEdge w k off v)) ∧
     (∀ n, s.rails.io = true → n < 16 → s.wbusy domXl = false → exec (.registerWrite (0x20000001100 + 8 * n) 8 v w) s =
       .next { s with posted := smSet none s.posted domXl (some (0x20000001100 + 8 * n, v, w)) }) ∧
     (0x200004D0000 ≤ a → a < 0x200004E0000 → s.mpRuns = false → exec (.registerWrite a size v w) s = .next s) ∧
     (s.csrLive a = true → s.eftDark a = false → size ≠ 8 ∨ a % 8 ≠ 0 →
       exec (.registerWrite a size v w) s = .next (s.detect { mkRec 0 0x20 w with addr := BitVec.ofNat 64 a })) ∧
     (s.csrLive a = false → exec (.registerWrite a size v w) s = .next s))

/-- The BARs (R334, R460): every part of BAR0 maps what the table gives it: the registers of the host port's block, the two
mailboxes, MBDOOR, the MSI-X table, whose writes send messages that are no longer masked, and the pending bits, which no write
changes; BAR2 reaches DRAM and the tile CSRs once the image is applied; BAR4 reaches the edge CSRs, and answers only when the
module is locked. An offset that nothing serves is an Unsupported Request with a record; an access that touches registers and is
too long, or runs on beyond them, reads 0 or writes nothing, with a record (R469). That host writes to the outgoing mailbox and the
pending bits have no effect, what 'applied' means, and the layout of the MSI-X table are the model's (DEDUCED and PRESUMED, log
40). -/
def Obligations.BarsReachWhatTheyMap : Prop :=
  ∀ (s u : State) (v x : W64) (ofs n size : Nat), s.rails.io = true → 0 < n → 0 < size → size ≤ 8 →
    (ofs < 0x4000 → 8 < n ∨ 0x4000 < ofs + n →
      exec (.hostBarAccess 0 ofs n true v) s = .next (s.csrAcc 0x912 (0x20000220000 + ofs)) ∧
      exec (.hostBarAccess 0 ofs n false v) s = .next (State.csrAcc
        { s with host := { s.host with answer := some (0#64, false) } } 0x912 (0x20000220000 + ofs))) ∧
    (s.applied = true → s.sec.gecko = true → ofs < 0x1000000 → 0x1000000 < ofs + n →
      exec (.hostBarAccess 4 ofs n true v) s = .next (s.csrAcc 0x912 (0x20000000000 + ofs)) ∧
      exec (.hostBarAccess 4 ofs n false v) s = .next (State.csrAcc
        { s with host := { s.host with answer := some (0#64, false) } } 0x912 (0x20000000000 + ofs))) ∧
    (ofs + size ≤ 0x4000 →
      exec (.hostBarAccess 0 ofs size true v) s = .next (s.csrStore 0x912 (0x20000220000 + ofs) size v) ∧
      (s.csrLoad 0x912 (0x20000220000 + ofs) size = (x, u) →
        exec (.hostBarAccess 0 ofs size false v) s = .next { u with host := { u.host with answer := some (x, false) } })) ∧
    (0x8000 ≤ ofs → ofs + size ≤ 0x9000 → exec (.hostBarAccess 0 ofs size true v) s = .next { s with host := { s.host with
      inbox := putBytesAt s.host.inbox (ofs - 0x8000) (leBytes size v.toNat) } }) ∧
    (0x8000 ≤ ofs → ofs + size ≤ 0x9000 → exec (.hostBarAccess 0 ofs size false v) s =
      .next { s with host := { s.host with answer := some (BitVec.ofNat 64 (bytesAt s.host.inbox (ofs - 0x8000) size), false) } }) ∧
    (0x9000 ≤ ofs → ofs + size ≤ 0xA000 → exec (.hostBarAccess 0 ofs size true v) s = .next s ∧
      exec (.hostBarAccess 0 ofs size false v) s =
        .next { s with host := { s.host with answer := some (BitVec.ofNat 64 (bytesAt s.host.outbox (ofs - 0x9000) size), false) } }) ∧
    (exec (.hostBarAccess 0 0xA000 size true v) s = exec (.mbdoor v) s ∧
      exec (.hostBarAccess 0 0xA000 size false v) s = .next { s with host := { s.host with
        answer := some (BitVec.ofNat 64 (bitsOf (mbdoorValue s).toNat 0 (8 * size)), false) } }) ∧
    (0xC000 ≤ ofs → ofs + size ≤ 0xC200 →
      exec (.hostBarAccess 0 ofs size true v) s = .next (State.unmask { s with host := { s.host with
        msixTable := putBytesAt s.host.msixTable (ofs - 0xC000) (leBytes size v.toNat) } }) ∧
      exec (.hostBarAccess 0 ofs size false v) s =
        .next { s with host := { s.host with answer := some (BitVec.ofNat 64 (bytesAt s.host.msixTable (ofs - 0xC000) size), false) } }) ∧
    (0xD000 ≤ ofs → ofs + size ≤ 0xD008 → exec (.hostBarAccess 0 ofs size true v) s = .next s ∧
      exec (.hostBarAccess 0 ofs size false v) s = .next { s with host := { s.host with
        answer := some (BitVec.ofNat 64 (bitsOf s.host.pba.toNat (8 * (ofs - 0xD000)) (8 * size)), false) } }) ∧
    (s.applied = true → s.host.aper = 0 → ofs + size ≤ 0x1000000000 →
      exec (.hostBarAccess 2 ofs size true v) s = .next (s.writeBytesLoc uHost (.dram ofs) (leBytes size v.toNat)) ∧
      (∀ l p, s.hostRead ofs size = ((l, p), u) → exec (.hostBarAccess 2 ofs size false v) s =
        .next { u with host := { u.host with answer := some (BitVec.ofNat 64 (leVal l), p) } })) ∧
    (∀ t blk off, s.applied = true → s.host.aper = 16 → t < 1024 → blk < 16 → off < 0x10000 → off % 8 = 0 →
      ofs = t * 0x800000 + 0x700000 + blk * 0x10000 + off →
      exec (.hostBarAccess 2 ofs 8 true v) s = .next (s.csrStore 0x912 (0x10000000000 + ofs) 8 v)) ∧
    (s.applied = true → s.host.aper = 16 → ofs + size ≤ 0x1000000000 → isTileCsr (0x10000000000 + ofs) = true →
      isTileCsr (0x10000000000 + ofs + size - 1) = false → (∀ p, locOf (0x10000000000 + ofs + size - 1) ≠ .csr p) →
      exec (.hostBarAccess 2 ofs size true v) s = .next (s.csrAcc 0x912 (0x10000000000 + ofs)) ∧
      exec (.hostBarAccess 2 ofs size false v) s = .next (State.csrAcc
        { s with host := { s.host with answer := some (0#64, false) } } 0x912 (0x10000000000 + ofs))) ∧
    (s.applied = false → ofs + size ≤ 0x1000000000 → exec (.hostBarAccess 2 ofs size true v) s = .next (State.csrAcc
      { s with host := { s.host with answer := none } } 0x912 (s.host.aper * 0x1000000000 + ofs))) ∧
    (s.applied = true → s.sec.gecko = true → ofs + size ≤ 0x1000000 →
      exec (.hostBarAccess 4 ofs size true v) s = .next (s.csrStore 0x912 (0x20000000000 + ofs) size v) ∧
      (s.csrLoad 0x912 (0x20000000000 + ofs) size = (x, u) →
        exec (.hostBarAccess 4 ofs size false v) s = .next { u with host := { u.host with answer := some (x, false) } })) ∧
    (s.sec.gecko = false → exec (.hostBarAccess 4 ofs size false v) s =
      .next (State.csrAcc { s with host := { s.host with answer := none } } 0x912 (0x20000000000 + ofs))) ∧
    (∀ wr, exec (.hostBarAccess 1 ofs size wr v) s = .next (State.csrAcc { s with host := { s.host with answer := none } } 0x912 ofs))

/-! ### Power (chapter 16) -/

/-- The droop detector of a tile (R30): rows 2k and 2k + 1 and the columns of band b have detector 4k + b, the bands being physical
columns 0–7, 8–15, 16–23 and 24–32; a tripped detector holds the tiles of its region. -/
def Obligations.DroopRegions : Prop :=
  (∀ k b row col, k < 16 → b < 4 → (row = 2 * k ∨ row = 2 * k + 1) →
    (if b = 3 then 24 ≤ col ∧ col ≤ 32 else 8 * b ≤ col ∧ col ≤ 8 * b + 7) → droopIdx row col = 4 * k + b) ∧
  (∀ (s : State) (t : Nat), s.holds.droop.getLsbD (droopIdx (t / 32) (s.physCol t)) = true → s.held t = true)

/-- Inputs and trips (R403, R404): samples are kept; the input's start and loss give and take all power; a trip turns every rail
but V_eft off and the eft island writes a record of class fatal. -/
def Obligations.InputsAndTrips : Prop :=
  ∀ (s : State) (v i d : Nat),
    (s.eft.pstate ≠ 0 → s.rails.io = true → 5000 ≤ v → v ≤ 65535 → i ≤ 65535 → exec (.inputSample v i) s =
      .next { s with eft := { s.eft with vin := v }, pwr := { s.pwr with vin := v, iin := i } }) ∧
    (s.eft.pstate ≠ 0 → s.rails.io = true → v < 5000 → i ≤ 65535 → exec (.inputSample v i) s =
      .next { s with eft := { s.eft with vin := v }, pwr := { s.pwr with vin := v, iin := i, flags := s.pwr.flags ||| 8#4 } }) ∧
    (s.eft.pstate ≠ 0 →
      exec (.inputTrip .under) s = .next (s.tripRails 2 0x31) ∧ exec (.inputTrip .over) s = .next (s.tripRails 3 0x32) ∧
      exec (.inputTrip .current) s = .next (s.tripRails 4 0x33)) ∧
    (s.rails.stage1 = false → 4800 ≤ v → exec (.stage1Start v) s =
      .next { s.unpowered with eft := { s.unpowered.eft with vin := v } }) ∧
    (s.rails.stage1 = true → v < 4400 → exec (.stage1Stop v) s = .next { s.unpowered with
      rails := ⟨false, false, false, false⟩, eft := { s.unpowered.eft with pstate := 0, vin := v } }) ∧
    (s.eft.pstate ≠ 0 → d < 64 → ∃ u, exec (.thermalTrip d) s = .next u ∧ u.rails.core = false ∧ u.rails.io = false ∧
      u.rails.dram = false ∧ u.eft.pstate = 1 ∧ u.eft.trip = 1 ∧ u.pins.tripAlert = true ∧
      (s.sess.status ≠ 1 → u.flash = s.flash))

/-- The cap's tick (R413–R415): the sample and the average are kept; the cap asks for a setpoint of 550 to 800 mV and an n of 4 to
64, and moves neither by itself. A sample above 1.10 times the effective cap asks for a lower setpoint; a cap that the floor cannot
meet raises the effective cap to the average and keeps the floor. -/
def Obligations.CapTicksAskWithinBounds : Prop :=
  ∀ (s : State) (pin pavg : Nat), s.rails.io = true → s.rails.core = true → s.posted = [] → s.pwr.n ≤ 64 → 550 ≤ s.pwr.vset → s.pwr.vset ≤ 800 →
    pin ≤ 65535 → pavg ≤ 65535 →
    ∃ u, exec (.capTick pin pavg) s = .next u ∧ u.pwr.pin = pin ∧ u.pwr.pavg = pavg ∧ u.pwr.n = s.pwr.n ∧ u.pwr.vset = s.pwr.vset ∧
      (∃ v, u.pwr.capV = some v ∧ 550 ≤ v ∧ v ≤ 800) ∧ 4 ≤ u.pwr.capN ∧ u.pwr.capN ≤ 64 ∧
      (¬ (s.pwr.vset = 550 ∧ s.pwr.n = 4) → u.pwr.effw = s.pwr.capw ∧ u.pwr.reach = s.pwr.reach) ∧
      (11 * u.pwr.effw < 10 * pin → 550 < s.pwr.vset → ∃ v, u.pwr.capV = some v ∧ v < s.pwr.vset) ∧
      (s.pwr.vset = 550 → s.pwr.n = 4 → s.pwr.capw < pavg → pavg ≤ 4095 →
        u.pwr.effw = pavg ∧ u.pwr.reach = pavg ∧ u.pwr.capV = some 550 ∧ u.pwr.capN = 4)

/-- The controller's steps (R408–R412, R416, R417, R419): rationing falls at once and rises by at most 8 a frame; the setpoint
moves 1 mV toward its target in RUN, and waits after a droop until every detector is clear; a droop holds its region, and after 1
µs or more it returns by eighths, as any stop does; the throttle steps down at 95 °C and up at 92 °C. That a scan below 95 °C
leaves THROTTLE as it was is the model's reading (DEDUCED, log 37); that an ISSUE_RAMP_STEP at full rate, number 64 included,
begins a ramp is its choice (DESIGN CHOICE, log 51). -/
def Obligations.ControllerSteps : Prop :=
  ∀ (s : State) (p : Pwr) (d us : Nat), s.rails.core = true → s.pwr = p →
    (p.slewHold = false → min p.thrN p.capN ≤ p.n → exec .rationFrame s =
      .next (State.inWindow { s with pwr := { p with n := min p.thrN p.capN } } 0)) ∧
    (p.slewHold = false → p.n < min p.thrN p.capN → exec .rationFrame s =
      .next (State.inWindow { s with pwr := { p with n := min (min p.thrN p.capN) (p.n + 8) } } 0)) ∧
    (s.eft.pstate = 3 → p.slewHold = false → p.vset < p.target → exec .setpointSlewStep s = .next { s with pwr := { p with vset := p.vset + 1 } }) ∧
    (s.eft.pstate = 3 → p.slewHold = false → p.target < p.vset → exec .setpointSlewStep s = .next { s with pwr := { p with vset := p.vset - 1 } }) ∧
    (p.slewHold = true → s.holds.droop ≠ 0#64 → exec .setpointSlewStep s = .next s) ∧
    (s.eft.pstate ≠ 3 → exec .setpointSlewStep s = .next s) ∧
    (s.eft.pstate = 3 → p.slewHold = true → s.holds.droop = 0#64 → exec .setpointSlewStep s = .next { s with pwr := { p with slewHold := false } }) ∧
    (d < 64 → s.holds.droop.getLsbD d = false → exec (.droopTrip d) s = .next { s with
      holds := { s.holds with droop := s.holds.droop ||| (1#64 <<< d) }
      pwr := { p with events := satAdd 32 p.events 1, slewHold := true } }) ∧
    (s.holds.droop.getLsbD d = true → 1 ≤ us → exec (.droopClear d us) s = .next { s with
      holds := { s.holds with droop := s.holds.droop &&& ~~~(1#64 <<< d) }
      pwr := { p with gatedUs := satAdd 32 p.gatedUs us, ramp := smSet 0 p.ramp d 1 } }) ∧
    (s.holds.droop.getLsbD d = true → exec (.droopClear d 0) s = .next { s with
      holds := { s.holds with droop := s.holds.droop &&& ~~~(1#64 <<< d) } }) ∧
    (∀ k, smGet 0 p.ramp d = k → d ≤ 64 → exec (.issueRampStep d) s = .next { s with
      pwr := { p with ramp := smSet 0 p.ramp d (if 7 ≤ k then 0 else k + 1) } }) ∧
    (∃ u, exec .learnBinEnd s = .next u ∧ u.pwr.epochMs = p.epochMs + 1 ∧ u.pwr.tick = 0 ∧ u.pwr.vset = p.vset ∧
      (p.learnEn = false → u.pwr.profile = p.profile)) ∧
    (p.throttle = true → 95 ≤ p.tmax → 550 < p.thrV.getD p.target → exec .throttleStep s =
      .next { s with pwr := { p with thrV := some (max 550 (p.thrV.getD p.target - 5)) } }) ∧
    (p.throttle = true → p.tmax ≤ 92 → p.thrN < 64 → exec .throttleStep s =
      .next { s with pwr := { p with thrN := min 64 (p.thrN + 4) } }) ∧
    (d < 1056 → us < 95 → p.temps = [] → 0 < us → exec (.thermalScan [(d, us)]) s =
      .next { s with pwr := { p with temps := [(d, us)], tmax := us, ttile := d, throttle := p.throttle } }) ∧
    (p.paceEn = false → d ≤ 2047 → exec (.paceRead d us) s = .next { s with pwr := { p with achieved := d, paceV := some us } })

/-! ### Start-up and management (chapters 17, 18 and 20) -/

/-- The board lines (R450, R484–R488): MOD_PWREN's assertion is a start condition, its deassertion starts the lockout and in START,
RUN and RECOVERY turns the rails off; MOD_RESET_N starts and ends a cold reset; BOARD_HALT_N holds every tile; a line held too long
gives one record of its assertion. A cold reset (R451): the module is in EFT with every rail but V_eft off, TRIP and the gecko lock
clear, nothing of the job is left, and the flash and host memory stay; a start is due when MOD_PWREN is asserted and MOD_RESET_N is
not. -/
def Obligations.BoardLinesAndReset : Prop :=
  (∀ s : State, s.eft.pstate ≠ 0 →
     (s.pins.pwren = false → exec .modPwrenAssert s =
       .next { s with pins := { s.pins with pwren := true }, eft := { s.eft with startPend := true } }) ∧
     (s.pins.pwren = true → s.eft.pstate = 1 → exec .modPwrenDeassert s =
       .next { s with pins := { s.pins with pwren := false }, eft := { s.eft with startPend := false, lockout := true } }) ∧
     (s.pins.pwren = true → 2 ≤ s.eft.pstate → exec .modPwrenDeassert s = .next { s.railsOff with
       pins := { s.railsOff.pins with pwren := false }, eft := { s.railsOff.eft with startPend := false, lockout := true } }) ∧
     (s.eft.lockout = true → exec .lockoutExpire s = .next { s with eft := { s.eft with lockout := false } }) ∧
     (s.pins.rst = false → exec .modResetNAssert s =
       .next (State.coldState { s with pins := { s.pins with rst := true, resetLogged := false } })) ∧
     (s.pins.rst = true → exec .modResetNDeassert s = .next { s with
       pins := { s.pins with rst := false }, eft := { s.eft with rstLow := false, startPend := s.pins.pwren } }) ∧
     (s.pins.rst = true → s.pins.resetLogged = false → exec .resetHeldTimeout s = .next (State.eftRecord { s with
       pins := { s.pins with resetLogged := true }, eft := { s.eft with rstLow := true } } 3 0x34)) ∧
     (s.pins.halt = false → exec .boardHaltNAssert s = .next { s with pins := { s.pins with halt := true, haltLogged := false } }) ∧
     (∀ t u, s.pins.halt = false → exec .boardHaltNAssert s = .next u → u.held t = true) ∧
     (s.pins.halt = true → s.rails.core = false → exec .boardHaltNDeassert s = .next { s with pins := { s.pins with halt := false } }) ∧
     (s.pins.halt = true → s.rails.core = true → exec .boardHaltNDeassert s = .next { s with
       pins := { s.pins with halt := false }
       pwr := { s.pwr with ramp := (List.range 64).foldl (fun m d => smSet 0 m d 1) s.pwr.ramp } }) ∧
     (s.pins.halt = true → s.pins.haltLogged = false → exec .haltHeldTimeout s =
       .next (State.eftRecord { s with pins := { s.pins with haltLogged := true } } 0 0x26)) ∧
     (s.eft.pstate = 1 → s.pins.pwren = true → s.eft.wakeEn = true → exec .hostPortWake s =
       .next { s with eft := { s.eft with startPend := true } })) ∧
  (∀ s : State, s.eft.pstate ≠ 0 → s.sess.status ≠ 1 → ∃ u, exec .coldReset s = .next u ∧
     u.eft.pstate = 1 ∧ u.eft.trip = 0 ∧ u.sec.gecko = false ∧ u.rails.io = false ∧ u.rails.core = false ∧ u.rails.dram = false ∧
     u.tiles = [] ∧ u.grids = [] ∧ u.dram = Mem.empty ∧ u.epoch = 0#64 ∧ u.flash = s.flash ∧ u.hostMem = s.hostMem ∧
     u.pending = s.pending ∧ u.eft.startPend = (s.pins.pwren && !s.pins.rst))

/-- The watchdog and the timekeeper (R447, R449): a signal notes the time; 100 ms without one make the MP dead: the eft island
takes the fatal class action, so that every tile is held, and writes one record of class fatal with cause MPFAULT and EFT set into
its mirror; nothing else changes. A tick is one unit of time, in every state but OFF, and changes nothing else; the timekeeper
starts at 0 when the island powers up. The MP's readings (R377, R452): the regulators' readings are kept, the drive's SMART page
goes into the error summary, and a sensor snapshot takes every reading with the time of its scan, those of the trip sensors being
free values; nothing else changes. -/
def Obligations.ManagementKeepsTime : Prop :=
  (∀ (s : State) (r : Rec) (vin : Nat),
     (s.mpRuns = true → exec .mpWatchdogSignal s = .next { s with eft := { s.eft with signalAt := s.time } }) ∧
     (s.mpRuns = true → r = { mkRec 3 0x35 uEft with eft := true, stamp := s.time, epoch := s.epoch.setWidth 32 } →
       exec .mpWatchdogExpire s = .next { s with
         mp := { s.mp with alive := false }
         holds := { s.holds with fatal := true }
         err := { s.err with fatalDue := false }
         eft := { s.eft with
           mpDead := true, trip := if s.eft.trip = 0 then 5 else s.eft.trip
           mirror := s.eft.mirror.note r (r.bytes s.eft.mirrorSeq 4), mirrorSeq := s.eft.mirrorSeq + 1 } }) ∧
     (∀ u t, s.mpRuns = true → exec .mpWatchdogExpire s = .next u → u.held t = true) ∧
     (s.eft.pstate ≠ 0 → exec .timekeeperTick s = .next { s with time := s.time + 1 }) ∧
     (s.eft.pstate = 0 → exec .timekeeperTick s = .next s) ∧
     (s.rails.stage1 = false → 4800 ≤ vin → ∃ u, exec (.stage1Start vin) s = .next u ∧ u.time = 0#64)) ∧
  (∀ (s : State) (vals : List Nat) (page : List Byte), s.mpRuns = true →
     (exec (.regulatorRead vals) s = .next { s with mp := { s.mp with regs := vals } }) ∧
     (s.clu.drive = true → exec (.smartLogRead page) s = .next (State.askDrive { s with
       err := { s.err with sum := { s.err.sum with smart := page } }, eft := { s.eft with mirror := { s.err.sum with smart := page } } } [.smartLog])) ∧
     (s.clu.drive = false → exec (.smartLogRead page) s = .next s) ∧
     (∀ trips u, freeReadings 64 s = (trips, u) → exec .sensorSnapshot s = .next { u with eft := { u.eft with
       snap := ([s.time.toNat, s.pwr.vin, s.pwr.iin, s.holds.droop.toNat] ++ s.stackRegs.map (fun k => k.temp.toNat) ++ trips ++
         (List.range 1056).map (fun p => smGet 0 s.pwr.temps p) ++ s.mp.regs) } }))

/-- Start-up (R450, R453, R454, R460): START_UP takes POS_ID, turns V_io on and the start condition is used up; a stack that trains
is READY and one that fails stops start-up, as a missed deadline does: the module is then in RECOVERY with V_core and V_dram off,
the power state being the model's choice (log 62); at the end the module is in RUN, locked, and answers for its device id. -/
def Obligations.StartupRunsItsSteps : Prop :=
  ∀ (s : State) (n : Nat) (env : StartEnv) (r : ReadyEnv),
    (s.canStart = true → ∃ u, exec (.startUp env) s = .next u ∧ u.pins.posId = env.posId % 64 ∧ u.rails.io = true ∧ u.eft.startPend = false ∧
      (u.eft.pstate = 2 ∨ u.eft.pstate = 4)) ∧
    (s.mpRuns = true → s.mp.state = 1 → s.mp.step = 7 → n < 8 → exec (.stackTrained n true) s =
      .next { s with stackRegs := modAt s.stackRegs n (fun k => { k with ready := true }) }) ∧
    (s.mpRuns = true → s.mp.state = 1 → s.mp.step = 7 → n < 8 → exec (.stackTrained n false) s = .next s.stopStart) ∧
    (s.mpRuns = true → s.mp.state = 1 → exec .startupDeadline s = .next s.stopStart) ∧
    (∃ d, s.stopStart.eft.pstate = 4 ∧ s.stopStart.pwr.vset = 0 ∧ s.stopStart.rails.core = false ∧ s.stopStart.rails.dram = false ∧ s.stopStart.mp.state = 4 ∧ s.stopStart.mp.step = s.mp.step ∧
      s.stopStart.err.det = s.err.det ++ [d] ∧ d.cls = 3 ∧ d.cause = 0x36) ∧
    (s.mpRuns = true → s.mp.state = 1 → s.mp.step = 7 → s.stackRegs.all (·.ready) = true → ∃ u, exec (.startupReady r) s = .next u ∧
      u.eft.pstate = 3 ∧ u.sec.gecko = true ∧ u.mp.state = 2 ∧ u.mp.step = 10 ∧ u.lnk.idV = true ∧ u.clu.drive = r.drive)

/-- Management commands served by the MP (R434, R452, R462–R467). `f` is the frame that the channel holds, sound and with body `b`;
each command answers with a response to it. The lengths and layouts of the bodies are the model's (log 15), and that WAKE over the
mailbox is answered with BADCMD is its reading of R462 (DEDUCED, log 38). What the eft island serves over I3C (R445, R450, R462):
while the MP does not run it answers the served commands itself; WAKE in EFT is a start condition, and RESET follows its response. -/
def Obligations.ManagementCommandsAnswer : Prop :=
  (∀ (s : State) (c : Chan) (f b : List Byte), s.mpRuns = true → s.mp.state ≠ 3 → s.frameOf c = some f → frameFault f = none → mBody f = b →
     (mOpc f = 0x01 → b = [0#8] → exec (.mgmtGetid c) s = .next (s.respond c (mResponse f 0 s.idPage0)) ∧ s.idPage0.length = 2016) ∧
     (mOpc f = 0x01 → b = [1#8] → exec (.mgmtGetid c) s = .next (s.respond c (mResponse f 0 (s.idPart 2)))) ∧
     (mOpc f = 0x02 → b.length = 32 → s.sec.idFail = false → exec (.attest c) s = .next (s.respond c (mResponse f 0 (s.report b ++
       mldsaSign s.mp.idSeed (shake256 (s.report b)) (asciiBytes "HGK-ATTEST"))))) ∧
     (mOpc f = 0x02 → b.length = 32 → s.sec.idFail = true → exec (.attest c) s = .next (s.respond c (mResponse f 4 []))) ∧
     (mOpc f = 0x03 → b = [] → exec (.readsum c) s = .next (s.respond c (mResponse f 0 (s.err.sum.bytes s.err.nextSeq s.time)))) ∧
     (mOpc f = 0x04 → b = [] → exec (.readsens c) s = .next (s.respond c (mResponse f 0 (Config.snapBytes s.eft.snap)))) ∧
     (mOpc f = 0x05 → b.length = 8 → lField b 4 4 ≤ 63 → exec (.readlog c) s =
       .next (s.respond c (mResponse f 0 (s.readLog (lField b 0 4) (lField b 4 4))))) ∧
     (mOpc f = 0x10 → b.length = 4 → leVal b ≤ 0xFFF → s.wbusy domPwr = false → exec (.setcap c) s =
       .next ((s.pwrWrite 0xB00 0x08 (BitVec.ofNat 64 (leVal b + s.pwr.capmax * 2 ^ 16))).respond c (mResponse f 0 []))) ∧
     (mOpc f = 0x11 → b = [] → c = .host → ∃ u, exec (.powerdown c) s = .next u ∧ u.mp.after = 2 ∧ u.mp.hostResp = some (mResponse f 0 [])) ∧
     (mOpc f = 0x11 → b = [] → c = .i3c f → exec (.powerdown c) s = .next ((s.respond c (mResponse f 0 [])).powerDown)) ∧
     (mOpc f = 0x12 → b = [] → c = .host → ∃ u, exec (.reset c) s = .next u ∧ u.mp.after = 1 ∧ u.mp.hostResp = some (mResponse f 0 [])) ∧
     (mOpc f = 0x12 → b = [] → c = .i3c f → exec (.reset c) s = .next ((s.respond c (mResponse f 0 [])).coldState)) ∧
     (mOpc f = 0x13 → b = [] → c = .host → exec (.wake c) s = .next (s.respond c (mResponse f 1 [])))) ∧
  (∀ (s : State) (f : List Byte), s.eft.pstate ≠ 0 → s.i3c.addr.isSome = true → frameFault f = none → mBody f = [] →
     (mOpc f = 0x13 → s.eft.pstate = 1 → s.pins.pwren = true → exec (.wake (.i3c f)) s =
       .next (State.respond { s with eft := { s.eft with startPend := true } } (.i3c f) (mResponse f 0 []))) ∧
     (mOpc f = 0x04 → exec (.eftI3cTakeover f) s = .next (s.respond (.i3c f) (mResponse f 0 (Config.snapBytes s.eft.snap)))) ∧
     (mOpc f = 0x04 → s.mpRuns = false → exec (.readsens (.i3c f)) s =
       .next (s.respond (.i3c f) (mResponse f 0 (Config.snapBytes s.eft.snap)))) ∧
     (mOpc f = 0x12 → exec (.eftI3cTakeover f) s = .next ((s.respond (.i3c f) (mResponse f 0 [])).coldState)))

/-- The update path (R463, R464): UPDBEGIN opens a session for one image, UPDDATA stages bytes within its length, UPDEND starts the
checks, UPDSTAT reports, and the checks end with the image in its region of the flash or with a refusal. The layouts and lengths of
the bodies are the model's (log 15), and so is one state for the checks and the writing (DESIGN CHOICE, log 42). -/
def Obligations.UpdatesGoThroughTheirSession : Prop :=
  ∀ (s : State) (c : Chan) (f b : List Byte), s.mpRuns = true →
    (s.frameOf c = some f → frameFault f = none → mBody f = b →
      (mOpc f = 0x20 → s.barred c = false → b.length = 8 → s.sess.chan = none → lField b 0 1 ≤ 1 → lField b 4 4 ≤ imageRoom (lField b 0 1) →
        exec (.updbegin c) s = .next (State.respond { s with sess := ⟨some (chanNum c), lField b 0 1, lField b 4 4, [], 0, 0⟩ } c (mResponse f 0 []))) ∧
      (mOpc f = 0x20 → s.barred c = true → exec (.updbegin c) s = .next (s.respond c (mResponse f 6 []))) ∧
      (mOpc f = 0x21 → s.sess.chan = some (chanNum c) → s.sess.status = 0 → 16 ≤ b.length → lField b 0 4 + (b.length - 16) ≤ s.sess.total →
        exec (.upddata c) s = .next (State.respond { s with sess := { s.sess with staged := (b.drop 16).zipIdx.foldl (fun m p => smSet 0#8 m (lField b 0 4 + p.2) p.1) s.sess.staged } } c (mResponse f 0 []))) ∧
      (mOpc f = 0x22 → b = [] → s.sess.chan = some (chanNum c) → s.sess.status = 0 →
        exec (.updend c) s = .next (State.respond { s with sess := { s.sess with status := 1 } } c (mResponse f 0 []))) ∧
      (mOpc f = 0x23 → b = [] → s.sess.status ≠ 1 →
        exec (.updstat c) s = .next (s.respond c (mResponse f 0 (leBytes 1 s.sess.status ++ leBytes 1 s.sess.result))))) ∧
    (s.sess.status = 1 → s.mp.state ≠ 3 →
      exec (.updateImageDone true) s = .next (if s.stagedResult = 0 then
          State.endSession { s with flash := s.flash.program s.sess.kind s.sess.image } 3 0
        else s.endSession 4 s.stagedResult) ∧
      exec (.updateImageDone false) s = .next
        (if s.stagedResult = 0 then s.breakUpdate.endSession 4 4 else s.endSession 4 s.stagedResult))

/-- The mailbox (R340): MBDOOR hands over the command, bytes of the management channel fill the inbox, and a response sets READY,
clears BUSY and posts an MGMT frame. The I3C target (R462): ENTDAA gives an address where there is none, SETNEWDA and RSTDAA change
and clear it; the other CCCs need one, and answer most significant byte first. JTAG (R460, R491): IDCODE shifts out the code,
BYPASS one bit; the boundary instructions work until the lock closes them, and then act as BYPASS (the model's choice, log 15). -/
def Obligations.ChannelsOfTheBoard : Prop :=
  (∀ (s : State) (v : W64) (r bytes : List Byte) (ofs : Nat), s.rails.io = true →
     (s.host.busy = false → v.getLsbD 0 = true → exec (.mbdoor v) s = .next { s with host := { s.host with busy := true, rdy := false } }) ∧
     (s.host.busy = true → exec (.mbdoor v) s = .next (s.csrAcc 0x912 0xA000)) ∧
     (s.mpRuns = true → s.host.busy = true → s.mp.hostResp = some r → s.mp.after = 0 → r.length ≤ 4096 → exec .mgmtResponse s = .next { s with
       host := { s.host with outbox := r.zipIdx.foldl (fun m p => smSet 0#8 m p.2 p.1) s.host.outbox, busy := false, rdy := true }
       mp := { s.mp with hostResp := none, after := 0 }
       frames := s.frames ++ [⟨s.devRing, 0x07, []⟩] }) ∧
     (ofs + bytes.length ≤ 4096 → exec (.mgmt ofs bytes) s = .next { s with host := { s.host with
       inbox := bytes.zipIdx.foldl (fun m p => smSet 0#8 m (ofs + p.2) p.1) s.host.inbox } })) ∧
  (∀ (s : State) (a old : Nat) (m : Byte) (n : W16), s.eft.pstate ≠ 0 →
     (s.i3c.addr = none → a < 128 → exec (.entdaa a) s = .next { s with i3c := { s.i3c with addr := some a } }) ∧
     (s.i3c.addr = some old → a < 128 → exec (.setnewda a) s = .next { s with i3c := { s.i3c with addr := some a } }) ∧
     (exec .rstdaa s = .next { s with i3c := { s.i3c with addr := none } }) ∧
     (s.i3c.addr = some old →
       exec .getpid s = .next { s with i3c := { s.i3c with ccc := (leBytes 6 ((Config.i3cValue 0).toNat / 64 * 64 + s.pins.posId % 64)).reverse } } ∧
       exec .getbcr s = .next { s with i3c := { s.i3c with ccc := leBytes 1 (Config.i3cValue 1).toNat } } ∧
       exec .getdcr s = .next { s with i3c := { s.i3c with ccc := leBytes 1 (Config.i3cValue 2).toNat } } ∧
       exec .getstatus s = .next { s with i3c := { s.i3c with ccc := (leBytes 2 (Config.i3cStatus (s.mp.state == 2 && s.mpRuns) s.i3c.ibi).toNat).reverse } } ∧
       exec .getmwl s = .next { s with i3c := { s.i3c with ccc := (leBytes 2 s.i3c.mwl.toNat).reverse } } ∧
       exec .getmrl s = .next { s with i3c := { s.i3c with ccc := (leBytes 2 s.i3c.mrl.toNat).reverse } } ∧
       exec (.enec m) s = .next { s with i3c := { s.i3c with events := s.i3c.events ||| m } } ∧
       exec (.disec m) s = .next { s with i3c := { s.i3c with events := s.i3c.events &&& ~~~m } } ∧
       exec (.setmwl n) s = .next { s with i3c := { s.i3c with mwl := n } } ∧
       exec (.setmrl n) s = .next { s with i3c := { s.i3c with mrl := n } })) ∧
  (∀ (s : State) (cells : List Bool), s.eft.pstate ≠ 0 →
     (exec .idcode s = .next { s with jtag := { s.jtag with instr := 1, dr := (List.range 32).map (fun i => bitOf 0x1102474B i), tlr := false } }) ∧
     (exec .bypass s = .next { s with jtag := { s.jtag with instr := 0, dr := [false], tlr := false } }) ∧
     (s.boundaryOpen = true → ∃ u dr, exec (.samplePreload cells) s = .next { u with jtag := ⟨2, dr, cells, false⟩ } ∧ u = { s with freeCtr := s.freeCtr + 1 } ∧
       dr.length = cells.length) ∧
     (s.boundaryOpen = true → exec .extest s = .next { s with jtag := { s.jtag with instr := 3, tlr := false } }) ∧
     (s.boundaryOpen = false → exec .extest s = exec .bypass s ∧ exec (.samplePreload cells) s = exec .bypass s))

/-! ### Ports and packets (chapters 12 and 13) -/

/-- Training (R313, R314, R325, R332, R361, R492): DOWN to UP by detection on all lanes or on one healthy half where X4OK allows
it, equalisation, deskew and parameters; the receiver keeps which pair carries which lane, and whether inverted; a retrain takes
the same way again. A port comes UP on healthy lanes only; the host port has credits in hop class 0 only. A duplicate id brings the
port DOWN, an unexpected peer keeps it out of every bond; both give a LINK event. Retraining (R314, R322, R329): lost frame lock,
too many uncorrectable codewords in the window, 16 replays of a flit or a lost lane make an UP port retrain, and a record of class
corrected is logged. The third failure in a row brings it DOWN: a LINK event, one record, and the requests in flight on the port
fail. -/
def Obligations.PortsTrainAndRetrain : Prop :=
  (∀ (s u : State) (p : Nat) (peer : PeerParam) (pairs : List (Option (Nat × Bool))), p < 19 →
     ((s.port p).st = 1 → (p = 18 ∨ s.lnk.idV = true) →
       (seenLanes pairs = 0xFF#8 → exec (.linkDetect p pairs) s =
         .next (s.modPort p (fun x => { x with st := 2, laneOk := 0xFF#8, x4 := false, half := false, rxMap := pairs }))) ∧
       ((s.port p).x4ok = true →
         (seenLanes pairs = 0x0F#8 → exec (.linkDetect p pairs) s =
           .next (s.modPort p (fun x => { x with st := 2, laneOk := 0x0F#8, x4 := true, half := false, rxMap := pairs }))) ∧
         (seenLanes pairs = 0xF0#8 → exec (.linkDetect p pairs) s =
           .next (s.modPort p (fun x => { x with st := 2, laneOk := 0xF0#8, x4 := true, half := true, rxMap := pairs }))))) ∧
     ((s.port p).st = 1 → p ≠ 18 → s.lnk.idV = false → exec (.linkDetect p pairs) s = .next s) ∧
     ((∀ i : Nat, i < 8 → ∃ (k : Nat) (inv : Bool), pairs[k]? = some (some (i, inv))) → seenLanes pairs = 0xFF#8) ∧
     ((s.port p).carries = true →
       ((s.port p).st = 2 → exec (.linkEqDone p) s = .next (s.modPort p (fun x => { x with st := 3 }))) ∧
       ((s.port p).st = 6 → (s.port p).sub = 0 → exec (.linkEqDone p) s = .next (s.modPort p (fun x => { x with sub := 1 })))) ∧
     ((s.port p).carries = false → exec (.linkEqDone p) s = .next s ∧ exec (.linkParamDone p peer) s = .next s) ∧
     ((s.port p).st = 3 → exec (.linkDeskewDone p) s =
       .next (s.modPort p (fun x => { x with st := 4, sent := some (s.paramOf p) }))) ∧
     ((s.port p).st = 6 → (s.port p).sub = 1 → exec (.linkDeskewDone p) s =
       .next (s.modPort p (fun x => { x with sub := 2, sent := some (s.paramOf p) }))) ∧
     ((s.port p).st = 4 ∨ (s.port p).st = 6 ∧ (s.port p).sub = 2 → (s.port p).carries = true →
       (p ≠ 18 → peer.dev ≠ s.devId → (s.port p).expect = none → (s.port p).bond = 31 →
         exec (.linkParamDone p peer) s = .next (s.modPort p (fun x => { x.up peer with apart := false }))) ∧
       (p = 18 → exec (.linkParamDone p peer) s =
         .next (s.modPort p (fun x => { x.up { peer with credits := hostPools peer.credits } with apart := false }))) ∧
       (∀ d, p ≠ 18 → peer.dev ≠ s.devId → (s.port p).expect = some d → d ≠ peer.dev →
         u = s.modPort p (fun x => { x.up peer with apart := true }) → exec (.linkParamDone p peer) s = .next (u.linkEvent p)) ∧
       (p ≠ 18 → peer.dev = s.devId → exec (.linkParamDone p peer) s =
         .next ((s.modPort p (fun x => { x with peerDev := peer.dev, peerPort := peer.port })).portDown p)))) ∧
  (∀ (s u : State) (p lane : Nat) (c : Nat), p < 19 →
     ((s.port p).st = 5 →
       ((s.port p).lockLost = true → exec (.linkRetrain p .frameLock) s = .next (s.startRetrain p 0)) ∧
       (64 < (s.port p).winBad → exec (.linkRetrain p .uncorrectable) s = .next (s.startRetrain p 0)) ∧
       (16 ≤ (s.port p).replays → exec (.linkRetrain p .replays) s = .next (s.startRetrain p 0)) ∧
       (lane < 8 → (s.port p).laneOk.getLsbD lane = true →
         exec (.laneLoss p lane) s =
           .next ((s.modPort p (fun x => { x with laneOk := x.laneOk &&& ~~~(1#8 <<< lane) })).startRetrain p lane))) ∧
     ((s.port p).st = 6 → (s.port p).fails < 2 →
       exec (.retrainAttemptFailed p) s = .next (s.modPort p (fun x => { x with fails := x.fails + 1, sub := 0 }))) ∧
     ((s.port p).st = 6 → (s.port p).fails = 2 → s.out = [] → u = (s.modPort p Port.goDown).linkEvent p →
       (c = if (u.members (s.port p).bond).any (fun q => (u.port q).st == 5) then clsCorrected else clsContained) →
       exec (.linkDown p) s = .next ((s.remotes.filter (fun r => r.port == some p)).foldl
         (fun (v : State) (r : Remote) => if v.remotes.any (fun y => y.tag == r.tag) then v.failRemote r 0xFF else v)
         (u.detect { mkRec c cLinkDown (uPort p) with ctx := u.xl.runCtx }))))

/-- Sending (R315, R322, R422): an UP port sends the flits of its retry buffer that are to go again, in order, and only IDLE flits
while the buffer is full, when it has nothing to send, and after a fatal error. A NAK, or 2 µs without an ACK for what was sent,
starts a replay; a replay counts one, starts at the oldest flit, and changes no flit. Receiving (R312, R315, R322): a flit with an
uncorrectable codeword, a wrong FCRC or an unexpected FSEQ is discarded and asks for one NAK; the next DATA flit in order is
accepted into packets, which take the link that the route table gives, its ACK and NAK and its credits taken. A sound DATA flit
with another FSEQ gives its ACK and NAK alone; an IDLE flit gives its credits too, and asks for a NAK where it is ahead. -/
def Obligations.FlitsAreSentAndReceived : Prop :=
  (∀ (s u : State) (p : Nat) (f : TxFlit) (idle : State), p < 19 → (s.port p).st = 5 →
     idle = s.modPort p (fun x => (takeGive x (giveNow x)).sendFlit x.txSeq 0 (flitBody (giveNow x) [])) →
     (s.holds.fatal = true → exec (.flitTime p) s = .next idle) ∧
     (s.holds.fatal = false →
       ((s.port p).retry[(s.port p).resend]? = some f →
         exec (.flitTime p) s = .next (s.modPort p (fun x => ({ x with resend := x.resend + 1 } : Port).sendFlit f.seq 1 f.body))) ∧
       ((s.port p).retry.length ≤ (s.port p).resend → min 512 (s.port p).depth ≤ (s.port p).retry.length →
         exec (.flitTime p) s = .next idle) ∧
       ((s.port p).retry.length ≤ (s.port p).resend → (s.port p).cur = [] → s.out = [] → exec (.flitTime p) s = .next idle) ∧
       (∀ l, (s.port p).retry.length ≤ (s.port p).resend → (s.port p).retry.length < min 512 (s.port p).depth → l ≠ [] →
         s.fillSlots p 40 15 [] = (l, u) →
         exec (.flitTime p) s = .next (u.modPort p (fun x =>
           let g := giveNow x
           let body := flitBody g l
           let y := takeGive x g
           ({ y with txSeq := (x.txSeq + 1) % 4096, retry := x.retry ++ [TxFlit.mk x.txSeq body], resend := x.resend + 1 } : Port).sendFlit
             x.txSeq 1 body)))) ∧
     ((s.port p).nakReq = true → exec (.flitNakResend p) s = .next (s.modPort p Port.startReplay)) ∧
     ((s.port p).retry ≠ [] →
       exec (.ackTimeoutResend p) s = .next (s.modPort p Port.startReplay)) ∧
     (∀ x : Port, x.startReplay.retry = x.retry ∧ x.startReplay.resend = 0 ∧ x.startReplay.replays = x.replays + 1)) ∧
  (∀ (s : State) (p corr uncorr : Nat) (flit l : List Byte) (rx : BitVec 31) (x y z : Port) (cr : List Nat), p < 19 → (s.port p).st = 5 → flit.length = 256 →
     scramble (s.port p).rx flit = (l, rx) →
     x = { s.port p with rx := rx, corr := satAdd 32 (s.port p).corr corr, uncorr := satAdd 32 (s.port p).uncorr uncorr, winBad := (s.port p).winBad + uncorr } →
     (uncorr ≠ 0 ∨ (s.port p).lockLost = true ∨ 8192 ≤ lField l 0 2 ∨ crc32c (l.take 252) ≠ BitVec.ofNat 32 (lField l 252 4) →
       exec (.flitReceive p flit corr uncorr none) s = .next (s.modPort p (fun _ =>
         if (s.port p).nakSent then x else { x with nakDue := true, nakSent := true }))) ∧
     (uncorr = 0 → (s.port p).lockLost = false → crc32c (l.take 252) = BitVec.ofNat 32 (lField l 252 4) →
       (z = if bitOf (lField l 2 2) 12 then { x.acked (lField l 2 2 % 4096) with nakReq := true } else x.acked (lField l 2 2 % 4096)) →
       cr = modAt (modAt z.credits (lField l 4 2 % 16) (· + lField l 4 2 / 16)) (lField l 6 2 % 16) (· + lField l 6 2 / 16) →
       (lField l 0 2 / 4096 = 1 → lField l 0 2 % 4096 = (s.port p).rxSeq →
         y = { z with rxSeq := ((s.port p).rxSeq + 1) % 4096, nakSent := false, credits := cr } →
         exec (.flitReceive p flit corr uncorr none) s =
           .next (State.routeNew p (s.port p).rcvd.length (s.modPort p (fun _ => y.accept (unitPort p) (flitSlots l))))) ∧
       (lField l 0 2 / 4096 = 1 → lField l 0 2 % 4096 ≠ (s.port p).rxSeq →
         exec (.flitReceive p flit corr uncorr none) s = .next (s.modPort p (fun _ =>
           if (s.port p).nakSent then z else { z with nakDue := true, nakSent := true }))) ∧
       (lField l 0 2 / 4096 = 0 → y = { z with credits := cr } →
         (lField l 0 2 % 4096 = (s.port p).rxSeq → exec (.flitReceive p flit corr uncorr none) s = .next (s.modPort p (fun _ => y))) ∧
         (lField l 0 2 % 4096 ≠ (s.port p).rxSeq → exec (.flitReceive p flit corr uncorr none) s = .next (s.modPort p (fun _ =>
           if (s.port p).nakSent then y else { y with nakDue := true, nakSent := true }))))) ∧
     (∀ fc, exec (.flitReceive p flit corr uncorr (some fc)) s =
       exec (.flitReceive p flit corr uncorr none) (s.modPort p (fun x => x.frameSeen fc))))

/-- Forwarding (R324, R326): a packet for another device goes on by the link that the route table gave as it arrived, with HOPS one
higher; without a route it is answered with UNREACH, after three hops with TOOFAR; a packet that has no answer is dropped. Answers
(R329, R330): an answer settles the request that carries its tag and came from the device it was sent to; one that no request
awaits is dropped. A NAK, or 10 ms without an answer, fails the request. -/
def Obligations.PacketsAreForwardedAndSettled : Prop :=
  (∀ (s u : State) (p i b : Nat) (k : Packet), s.packetAt p i = some k → u = s.dropRcvd p i k →
     (k.hop = .unreach → exec (.packetForward p i) s = .next (u.nakBack p k 16)) ∧
     (k.hop = .bond b →
       (3 ≤ k.hops → exec (.packetForward p i) s = .next (u.nakBack p k 18)) ∧
       (k.hops < 3 → exec (.packetForward p i) s =
         .next { u with out := u.out ++ [{ k with hops := k.hops + 1, via := b, unit := unitPort p }] })) ∧
     (k.hop = .loc → exec (.packetForward p i) s = .next s) ∧
     (unanswered k.opc = true → ∀ r, u.nakBack p k r = u)) ∧
  (∀ (s u : State) (p i tag : Nat) (k : Packet) (r : Remote), s.packetAt p i = some k → k.hop = .loc → u = s.dropRcvd p i k →
     (k.opc = 0x04 → u.asked k [0x01] = some r → exec (.wrack p i) s = .next ((u.settle r).flushDue r.tile r.queue r.seq)) ∧
     (k.opc = 0x11 → u.asked k [0x10] = some r → exec (.rsack p i) s = .next (u.settle r)) ∧
     (k.opc = 0x13 → u.asked k [0x12] = some r → exec (.grpack p i) s = .next (u.settle r)) ∧
     (k.opc = 0x07 → u.asked k [0x06] = some r → exec (.sigack p i) s = .next ((u.settle r).finishEdge r.tile r.seq)) ∧
     (k.opc = 0x03 → u.asked k [0x02] = some r → k.rind = none →
       exec (.rdrsp p i) s = .next ((u.settle r).modEntry r.tile r.queue r.seq (fun e => e.modRun (fun w =>
         { w with rbuf := ⟨r.dst, r.addr, k.words.take (r.len / 4), false, r.page, none⟩ :: w.rbuf })))) ∧
     (k.opc = 0x03 → u.asked k [0x02] = none → exec (.rdrsp p i) s = .next u) ∧
     (k.opc = 0x04 → u.asked k [0x01] = none → exec (.wrack p i) s = .next u) ∧
     (k.opc = 0x05 → u.remotes.find? (fun y => y.tag == k.tag) = some r →
       exec (.nak p i) s = .next ((u.modPort p (fun x => { x with nakrcvd := satAdd 16 x.nakrcvd 1 })).failRemote r (k.info % 256))) ∧
     (∀ q, s.remotes.find? (fun y => y.tag == tag) = some r → r.port = some q →
       exec (.remoteTimeout tag) s =
         .next ((s.modPort q (fun x => { x with timeout := satAdd 16 x.timeout 1 })).failRemote r 0xFF)) ∧
     (u.settle r).remotes = u.remotes.filter (fun x => x.tag != r.tag))

/-- Requests for this device (R318, R324, R328, R330, R57): an unknown opcode and a malformed packet are BADOP (19); a context that
neither runs nor is saved is NOCTX (17), a saved one's requests are discarded and counted; what does not translate is answered with
its reason. A WR is written and acknowledged, an RDREQ answered with its data, a SIG applied and acknowledged unless its counter is
the device's. How a WR counts under PARTIAL, and the FMT of an answer to a read, are the model's (DESIGN CHOICE, log 58). -/
def Obligations.RequestsAreServed : Prop :=
  ∀ (s u v : State) (p i : Nat) (k : Packet) (l : Loc), s.packetAt p i = some k → k.hop = .loc → u = s.dropRcvd p i k →
    (knownOpc k.opc = false →
      exec (.wr p i) s = .next (u.nakBack p k 19) ∧ exec (.rdreq p i) s = .next (u.nakBack p k 19) ∧
      exec (.sigPacket p i) s = .next (u.nakBack p k 19)) ∧
    (k.opc = 0x01 →
      (k.bad = true ∨ spanOk k.addr (4 * k.words.length) = false → exec (.wr p i) s = .next (u.nakBack p k 19)) ∧
      (k.bad = false → spanOk k.addr (4 * k.words.length) = true →
        (u.ctxFate k.ctx = .none → exec (.wr p i) s = .next (u.nakBack p k 17)) ∧
        (u.ctxFate k.ctx = .saved → exec (.wr p i) s = .next (u.discard p k)) ∧
        (∀ r, u.ctxFate k.ctx = .runs → u.portXlate p k.ctx k.addr 1 = (.error r, v) → exec (.wr p i) s = .next (v.nakBack p k r)) ∧
        (u.ctxFate k.ctx = .runs → u.portXlate p k.ctx k.addr 1 = (.ok l, v) → k.rind = none →
          exec (.wr p i) s = .next (((v.countPartial [l] (4 * k.words.length)).putWords (uPort p) l k.words).answer p k 0x04 id)))) ∧
    (k.opc = 0x02 →
      (k.bad = true ∨ k.words ≠ [] ∨ spanOk k.addr k.value = false → exec (.rdreq p i) s = .next (u.nakBack p k 19)) ∧
      (∀ ws w, k.bad = false → k.words = [] → spanOk k.addr k.value = true → k.value ≠ 4096 → u.ctxFate k.ctx = .runs →
        u.portXlate p k.ctx k.addr 0 = (.ok l, v) → v.getWords l k.ctx (k.value / 4) = (ws, w) →
        exec (.rdreq p i) s = .next (w.answer p k 0x03 (fun a => { a with words := ws, rind := none, fmt := Config.rawFmt % 256 })))) ∧
    (k.opc = 0x06 →
      (k.bad = true ∨ k.words ≠ [] ∨ 65536 ≤ k.addr → exec (.sigPacket p i) s = .next (u.nakBack p k 19)) ∧
      (k.bad = false → k.words = [] → k.addr < 65536 →
        (deviceCtr k.addr = true → exec (.sigPacket p i) s = .next (u.nakBack p k 20)) ∧
        (deviceCtr k.addr = false → u.ctxFate k.ctx = .none → exec (.sigPacket p i) s = .next (u.nakBack p k 17)) ∧
        (deviceCtr k.addr = false → u.ctxFate k.ctx = .saved → exec (.sigPacket p i) s = .next (u.discard p k)) ∧
        (deviceCtr k.addr = false → u.ctxFate k.ctx = .runs →
          exec (.sigPacket p i) s = .next ((u.addCtr k.addr (BitVec.ofNat 32 k.value)).answer p k 0x07 id))))

/-- Collective packets (R344, R354, R356, R357): a COLLARM arms its rank, or waits for the collective; traffic of a saved context
is discarded and counted (R285); a contribution is decoded, added in place (the first one in place of what stood there, without
ACC) and acknowledged; a group write is rounded to DFMT, written and acknowledged; either is refused when no such collective runs.
100 ms without an arm fail the collective. -/
def Obligations.CollectivePacketsAreServed : Prop :=
  ∀ (s u : State) (p i : Nat) (k : Packet) (c : Coll), s.packetAt p i = some k → k.hop = .loc → u = s.dropRcvd p i k →
    (k.opc = 0x14 →
      (u.ctxFate k.ctx = .saved → exec (.collarm p i) s = .next (u.discard p k)) ∧
      (u.ctxFate k.ctx ≠ .saved → u.coll (pkId k) = some c → exec (.collarm p i) s =
        .next (u.modColl c.id (fun c => { c with armed := (c.armed ++ [pkRank k]).eraseDups }))) ∧
      (u.ctxFate k.ctx ≠ .saved → u.coll (pkId k) = none → exec (.collarm p i) s =
        .next { u with dsp := { u.dsp with arms := u.dsp.arms ++ [(pkId k, pkRank k)] } })) ∧
    (k.opc = 0x10 →
      (groupOk k = false → exec (.rsgrp p i) s = .next (u.nakBack p k 19)) ∧
      (groupOk k = true → u.ctxFate k.ctx = .saved → exec (.rsgrp p i) s = .next (u.discard p k)) ∧
      (groupOk k = true → u.ctxFate k.ctx = .runs → u.coll (pkId k) = none → exec (.rsgrp p i) s = .next (u.nakBack p k 22)) ∧
      (∀ dst v old w new cnt0 sum cnt n, groupOk k = true → u.coll (pkId k) = some c → coScat c.d = true → coOrder c.d = false →
        u.ctxFate k.ctx = .runs → u.placeLines p k.ctx k.addr 1 64 = (.ok dst, v) → v.readLines k.ctx dst = (old, w) →
        decodeGroup k = (new, cnt0) → (n = if k.fmt ≤ 1 then (new.filter (fun w => nonFin w.1)).length else 0) →
        (let q := (k.addr + 2 ^ 64 - coDst c.d) % 2 ^ 64 / 4096
         let turn := smGet 0 c.turn q
         addGroup (if turn = 0 && !coAcc c.d then List.replicate 1024 (0#32, false) else old) new = (sum, cnt) →
         exec (.rsgrp p i) s = .next (((((w.countPartial dst 64).writeLines (uPort p) dst sum).dspCount ((2, n) :: cnt0 ++ cnt)).modColl c.id
           (fun c => { c with turn := smSet 0 c.turn q (turn + 1), applied := c.applied + 1 })).ackGroup p k 0x11 (coRank c.d))))) ∧
    (k.opc = 0x12 →
      (groupOk k = false → exec (.grpwr p i) s = .next (u.nakBack p k 19)) ∧
      (groupOk k = true → u.ctxFate k.ctx = .saved → exec (.grpwr p i) s = .next (u.discard p k)) ∧
      (groupOk k = true → u.ctxFate k.ctx = .runs → pkId k ≠ 0 → u.coll (pkId k) = none →
        exec (.grpwr p i) s = .next (u.nakBack p k 22)) ∧
      (∀ dst v es new cnt0 n, groupOk k = true → pkId k = 0 → k.fmt ≠ 0 → pkDfmt k = 0 → u.ctxFate k.ctx = .runs →
        u.placeLines p k.ctx k.addr 1 64 = (.ok dst, v) → decodeGroup k = (es, cnt0) →
        new = es.map (fun w => (if nonFin w.1 then nan32 else w.1, w.2)) → n = (new.filter (fun w => nonFin w.1)).length →
        exec (.grpwr p i) s = .next ((((v.countPartial dst 64).writeLines (uPort p) dst new).dspCount ([(0, 0), (1, n)] ++ cnt0)).ackGroup p k 0x13
          (((u.coll (pkId k)).map (fun c => coRank c.d)).getD 0)))) ∧
    (∀ id r, s.coll id = some c → (List.range c.members.length).find? (fun r => !c.armed.contains r) = some r →
      exec (.collarmTimeout id) s =
        .next (s.failRemote ⟨65536, (c.members[r]?).getD 0, 0x14, c.tile, 6, c.seq, none, 0, 0, c.ctx, noPage,
          .away ((c.members[r]?).getD 0) 0⟩ 0xFF))

/-! ### The clutch (chapter 14) -/

/-- Clutch descriptors (R362, R363, R374): a READY or an ABANDON for the next epoch leaves queue 6 for the clutch functions; a
READY may make this device ready, an ABANDON withholds it and reports to the manager (R366); CKPTTAB registers a table that takes
effect at the next commit and whose copy goes to the manager. A descriptor that breaks a check is refused. That ABANDONs and READYs
leave queue 6 is the model's reading (DEDUCED, log 18); the FLAGS, COUNT and body of the FAILRPT and the HEART that carries the
table are its own (DESIGN CHOICE, logs 48 and 61). -/
def Obligations.ClutchDescriptorsAreHeld : Prop :=
  ∀ (s u : State) (t : Nat) (e : QEntry), s.turn t 6 e → dField e.d 16 2 = 0x0400 →
    (dOp e.d = 0x90 → readyChk s e.d = .ok () → exec (.ready t) s = .next ((State.maybeReady (s.modClu (fun c =>
      { c with need := some (dField e.d 32 2), readies := c.readies ++ [(t, e)] }))).intoClutch t e)) ∧
    (∀ o v, dOp e.d = 0x90 → readyChk s e.d = .error (o, v) → exec (.ready t) s = .next (s.refuse t 6 e o v)) ∧
    (dOp e.d = 0x91 → abandonChk s e.d = .ok () →
      u = s.modClu (fun c => { c with abandoned := true, abandons := c.abandons ++ [(t, e)] }) →
      exec (.abandon t) s = .next ((u.cluSend 0x3B s.clu.mgrId (s.epoch + 1) 0 1 (s.clu.gen :: s.clu.who)).intoClutch t e)) ∧
    (∀ o v, dOp e.d = 0x91 → abandonChk s e.d = .error (o, v) → exec (.abandon t) s = .next (s.refuse t 6 e o v)) ∧
    (∀ l, dOp e.d = 0x92 → dField e.d 18 6 = 0 → 1 ≤ dField e.d 32 4 → dField e.d 32 4 ≤ 4096 → dField e.d 36 4 = 0 →
      runUnit t (xBytes (cluAgent t e) (dField e.d 24 8) (8 * dField e.d 32 4 + 1) (32 * dField e.d 32 4)) s = (.ok (l, none), u) →
      ckAll l (dField e.d 32 4) = .ok () →
      ∀ tab, tab = CkTab.mk ((List.range (dField e.d 32 4)).map (ckEnt l)) (dField e.d 40 8) (dField e.d 48 8) (dPatch e.d) →
        ckTabChk tab = .ok () →
        exec (.ckpttab t) s = .next (((u.modClu (fun c => { c with nextTable := some tab })).sendTable).started t 6 e Run.start)) ∧
    (s.clu.role ≠ 0 → s.lnk.idV = true → s.sendTable = (s.modClu (fun c => { c with tabOwed := true })).sendHeart) ∧
    (∀ tab, s.clu.role = 0 → s.clu.nextTable = some tab → s.sendTable = s.modClu (fun c =>
      { c with tabOwed := false, nextTabs := putDev c.nextTabs s.devId tab }))

/-- Commits (R364, R367, R368, R371, R372): counts of ready subtrees of the next epoch are taken; CCOMMIT for the next epoch is
passed on, applied and acknowledged, one already applied goes on and is acknowledged again; acknowledgements are summed, and end
the commit at the manager; the standby stores a decision and answers; with a standby a decision binds only once its MACK has come.
What a device that was declared failed says is answered with CROLL, for no epoch that is decided to commit; so is what a module
says whose id another has taken. A count of an older generation is void, and one that comes early waits. A commit takes the epoch
and leaves no READY and no ABANDON held. The generations, the CROLL's FLAGS and the order of body words are the model's (DESIGN
CHOICE, logs 48 and 61), and that a rollback decision waits for MACK is its reading (DEDUCED, log 61). -/
def Obligations.CommitMessages : Prop :=
  ∀ (s u : State) (src : Sender) (n : Nat) (e : W64) (fl : Byte) (r : MirrorRec) (k : CkRec) (g : MgrRoll) (y : CluCount),
    (u = s.takeClu 0x30 → (u.clu.role = 0 → u.clu.failed.contains src.dev = false ∧ getDev u.clu.holders src.dev = src.former) →
      (src.gen = u.clu.gen → e = u.epoch + 1 → u.clu.roll = none →
        exec (.cready src e n) s = .next (u.modClu (fun c => { c with creadys := putCount c.creadys src.dev n })).maybeReady) ∧
      (src.gen < u.clu.gen → exec (.cready src e n) s = .next u) ∧
      (u.clu.gen < src.gen ∨ src.gen = u.clu.gen ∧ (e ≠ u.epoch + 1 ∨ u.clu.roll.isSome = true) → y = ⟨false, src.dev, e, src.gen, n⟩ →
        exec (.cready src e n) s = .next (u.modClu (fun c => { c with
          early := c.early.filter (fun z => !(z.ack == false && z.src == src.dev)) ++ [y] })))) ∧
    (u = s.takeClu 0x30 → u.clu.role = 0 → u.clu.failed.contains src.dev = true ∨ getDev u.clu.holders src.dev ≠ src.former →
      (u.clu.decided = none → exec (.cready src e n) s =
        .next (u.cluAll [src.dev] 0x33 (u.epoch + 1) 0 1 (longWords u.epoch.toNat ++ [u.clu.gen, 0] ++ [src.dev]))) ∧
      (∀ d x, u.clu.decided = some (d, x) → exec (.cready src e n) s =
        .next (u.cluAll [src.dev] 0x33 (d + 1) 0 1 (longWords d.toNat ++ [u.clu.gen, 0] ++ [src.dev])))) ∧
    (s.clu.early = [y] → s.hearEarly = (s.modClu (fun c => { c with early := [] })).hearCount y) ∧
    (u = s.takeClu 0x31 →
      (e = u.epoch + 1 → exec (.ccommit e fl) s = .next (u.commitDown e fl).hearEarly) ∧
      (e = u.epoch → exec (.ccommit e fl) s =
        .next ((u.cluAll u.clu.tree.children 0x31 e 0 fl.toNat []).modClu (fun c => { c with ackDue := true, ccacks := [] })).maybeAck) ∧
      (e ≠ u.epoch + 1 → e ≠ u.epoch → exec (.ccommit e fl) s = .next u)) ∧
    (u = s.takeClu 0x32 → (u.clu.role = 0 → u.clu.failed.contains src.dev = false ∧ getDev u.clu.holders src.dev = src.former) →
      (src.gen = u.clu.gen → e = u.epoch → exec (.ccack src e n) s =
        .next ((u.modClu (fun c => { c with ccacks := putCount c.ccacks src.dev n })).maybeAck).settleCommit) ∧
      (src.gen < u.clu.gen → exec (.ccack src e n) s = .next u)) ∧
    (u = s.takeClu 0x3D → u.clu.role = 1 →
      (r.ckpt = none →
        exec (.mirror r) s = .next ((u.modClu (fun c => { c with mirror := some r })).cluSend 0x3E u.clu.mgrId r.epoch 0 0 [])) ∧
      (r.ckpt = some k → exec (.mirror r) s =
        .next ((u.modClu (fun c => { c.noteHist k with ckpts := (k :: c.ckpts).take 2, lastCk := k.epoch })).cluSend 0x3E u.clu.mgrId r.epoch 0 0 []))) ∧
    (u = s.takeClu 0x3E → u.clu.role = 0 →
      (u.clu.ckOwed = none → u.clu.decided = some (e, fl) → u.clu.bound = false → exec (.mack e) s = .next (u.bindCommit e fl)) ∧
      (u.clu.ckOwed = some k → k.epoch = e → exec (.mack e) s = .next (u.ckptComplete k)) ∧
      (u.clu.ckOwed = none → u.clu.decided = none → u.clu.rolling = some g → g.phase = .mirror → g.epoch = e →
        exec (.mack e) s = .next u.rollOut)) ∧
    (s.applyCommit e fl).epoch = e ∧ (s.applyCommit e fl).clu.readies = [] ∧ (s.applyCommit e fl).clu.abandons = [] ∧
    (s.applyCommit e fl).clu.need = none

/-- Rollbacks (R363–R365, R371, R382–R385, R422): CROLL stops the grids of the running context, drops held READYs and ABANDONs,
counts a ready that the drain held and logs one record, whose class action it is, and the restore begins; an ABANDON's lets a drain
run. Once those grids have ended, and with every digest verified, the restored device has the restore epoch and reports; where one
does not verify it says so. The manager collects the reports: the last survivor's ends the rollback or brings the spares in, and a
bad one gives the restore point up. A FAILRPT at the manager is a failure to handle, or asks for a rollback with no restore, which
waits for a decision that stands; a clutch held for want of a restore point handles none. Where a substitution follows, the frame
with STATE 1 waits for the new routes. That hold, COUNT 0 for a restore that failed, the generations and the MIRROR of a rollback's
decision are the model's (DESIGN CHOICE and DEDUCED, logs 48 and 61). -/
def Obligations.RollbackMessages : Prop :=
  ∀ (s u v w x : State) (e rest : W64) (cause f : Nat) (dev : Sender) (note : RollNote) (got : RestoreData) (ab : Bool) (r : Roll) (g h : MgrRoll),
    (cause < 0x80 → r = ⟨e, rest, cause, (note.failed[0]?).getD 0xFFFF, false⟩ →
      u = (match s.xl.runCtx with | some x => (s.takeClu 0x33).stopGrids x | none => s.takeClu 0x33).dropHeld (fun _ => true) →
      v = u.detect { mkRec clsContained cRollback uClutch with ctx := u.xl.runCtx } →
      w = v.rollFrame r 0 →
      exec (.croll e rest cause note) s = .next (w.modClu (fun c =>
        { c.countHold w.time with
          roll := some r, rollDue := if note.subst then some r else none, gen := note.gen
          need := none, abandoned := false, sent := false, creadys := []
          failCount := if c.role = 1 ∧ c.firstCommit.isSome = true then c.failCount + (note.failed.filter (fun d => !c.failed.contains d)).length
            else c.failCount
          failed := if c.role = 1 then note.failed.foldl addDev c.failed else c.failed
          drain := if cause = 2 then c.drain else none
          cand := if cause = 2 then c.cand else none
          ckfail := if cause ≠ 2 ∧ c.role ≠ 0 ∧ (c.drain.isSome = true ∨ c.cand.isSome = true) then satAdd 8 c.ckfail 1 else c.ckfail }))) ∧
    (s.clu.roll = none ∨ s.stopOver = false → exec (.rollbackRestoreDone got) s = .next s) ∧
    (s.clu.roll = some r → s.stopOver = true → (s.snapReads r).restoreEntries r got = (true, u) → w = u.backTo r →
      w.cluSend 0x34 w.clu.mgrId r.epoch 1 0 (w.clu.gen :: w.clu.who) = x →
      v = (if w.clu.rollDue.isSome then x else x.rollFrame r 1) →
      (r.keep = false → w.epoch = r.restore) ∧
      (v.clu.former = none → exec (.rollbackRestoreDone got) s =
        .next (v.modClu (fun c => { c with roll := none, former := none, rolls := satAdd 16 c.rolls 1 })).hearEarly) ∧
      (v.clu.former = some f → exec (.rollbackRestoreDone got) s =
        .next ((v.cluFrame 0x12 (leBytes 2 v.devId ++ leBytes 2 f ++ leBytes 1 1)).modClu (fun c =>
          { c with roll := none, former := none, rolls := satAdd 16 c.rolls 1 })).hearEarly)) ∧
    (s.clu.roll = some r → s.stopOver = true → (s.snapReads r).restoreEntries r got = (false, u) →
      exec (.rollbackRestoreDone got) s = .next (u.cluSend 0x34 u.clu.mgrId r.epoch 0 0 (u.clu.gen :: u.clu.who))) ∧
    (r.keep = true ∨ s.clu.drive = false ∨ s.clu.tree.snapFor = none → s.snapReads r = s) ∧
    (r.restore = s.epoch → s.clu.former = none → s.restoreEntries r got = (true, s)) ∧
    (r.keep = true → s.restoreEntries r got = (true, s)) ∧
    (u = s.takeClu 0x34 → u.clu.role = 0 → u.clu.failed.contains dev.dev = false → getDev u.clu.holders dev.dev = dev.former →
      (dev.gen ≠ u.clu.gen ∨ u.clu.rolling = none → exec (.crdone ⟨dev, ab⟩) s = .next u) ∧
      (dev.gen = u.clu.gen → u.clu.rolling = some g → exec (.crdone ⟨dev, false⟩) s = .next (u.badRestore g)) ∧
      (dev.gen = u.clu.gen → u.clu.rolling = some g → h = { g with dones := addDev g.dones dev.dev } → v = u.modClu (fun c => { c with rolling := some h }) →
        (g.phase = .survivors → (∃ d ∈ u.devId :: u.clu.live, d ∉ h.dones) → exec (.crdone ⟨dev, true⟩) s = .next v) ∧
        (g.phase = .survivors → (∀ d ∈ u.devId :: u.clu.live, d ∈ h.dones) →
          (v.clu.toReplace v.devId = [] → exec (.crdone ⟨dev, true⟩) s = .next (v.endRoll h)) ∧
          (v.clu.toReplace v.devId ≠ [] → v.clu.stuck = false → g.failed ≠ [] → exec (.crdone ⟨dev, true⟩) s = .next (v.substitute h))) ∧
        (g.phase = .spares → (∀ p ∈ g.subs, p.1 ∈ h.dones) → exec (.crdone ⟨dev, true⟩) s = .next (v.endRoll h)))) ∧
    (u = s.takeClu 0x3B → u.clu.role = 0 → u.clu.failed.contains dev.dev = false → getDev u.clu.holders dev.dev = dev.former →
      (2 ∉ u.clu.stops → exec (.failrpt dev ⟨e, false⟩) s = .next (u.mgrFail dev.dev)) ∧
      (dev.gen < u.clu.gen → exec (.failrpt dev ⟨e, true⟩) s = .next u) ∧
      (u.clu.gen ≤ dev.gen → u.clu.decided.isSome = true ∨ u.clu.rolling.isSome = true →
        exec (.failrpt dev ⟨e, true⟩) s = .next (u.modClu (fun c => { c with abandonDue := some e }))) ∧
      (u.clu.gen ≤ dev.gen → u.clu.decided = none → u.clu.rolling = none → v = u.modClu (fun c => { c with abandonDue := none }) →
        (e = u.epoch + 1 → exec (.failrpt dev ⟨e, true⟩) s =
          .next (v.decideRoll ⟨u.epoch + 1, u.epoch, 2, [], .mirror, [], [], u.epoch⟩)) ∧
        (e ≠ u.epoch + 1 → exec (.failrpt dev ⟨e, true⟩) s = .next v))) ∧
    (s.endRoll g = (State.takeAbandon (s.modClu (fun c =>
      { c with rolling := none, lost := if c.stuck = true ∨ g.failed = [] then c.lost else [] }))).maybeReady) ∧
    (u = s.takeClu 0x3B → u.clu.role ≠ 0 → exec (.failrpt dev ⟨e, ab⟩) s = .next u)

/-- Heartbeats and takeover (R371, R373): a HEART at the manager shows that a device lives and what it reports, and brings a CROLL
to one declared failed, until its next start-up, and to a module whose id another has taken; at the standby it shows that the
manager lives; at another device it comes from a new manager, which gets a HEART in answer. Every period a device sends its own and
counts one more for those it watches; enough of them declare a failure, or make the standby take over: with no decision stored it
rolls back, its own drive and tables counted, and devices that hold job state and spares are known apart. The manager sends XCHECK,
when and to which device being free. The FLAGS and body words of HEART, what first and former reports say, the takeover's HEARTs
and its generation are the model's (DESIGN CHOICE, logs 48 and 61). -/
def Obligations.HeartbeatsAndTakeover : Prop :=
  ∀ (s u v : State) (dev : Nat) (rep : DevReport) (eps others : List (Nat × DevReport)),
    (u = s.takeClu 0x35 →
      (u.clu.role = 0 → getDev u.clu.holders dev ≠ rep.former ∨ (u.clu.failed.contains dev = true ∧ rep.first = false) →
        exec (.heart dev rep) s = .next (u.answerFailed dev)) ∧
      (u.clu.role = 0 → getDev u.clu.holders dev = rep.former → u.clu.failed.contains dev = false ∨ rep.first = true → exec (.heart dev rep) s = .next (u.heard dev rep)) ∧
      (u.clu.role = 1 → dev = u.clu.mgrId → exec (.heart dev rep) s =
        .next (u.modClu (fun c => { c with missed := smSet 0 c.missed dev 0 }))) ∧
      (2 ≤ u.clu.role → exec (.heart dev rep) s = .next (u.modClu (fun c => { c with mgrId := dev, tabOwed := true })).sendHeart)) ∧
    (s.clu.tabOwed = false → s.clu.drive = false → s.clu.origin = none → s.sendHeart =
      (s.cluSend 0x35 s.clu.mgrId s.epoch (if s.clu.holdsJob then 1 else 0) 0 [if s.clu.hbFirst then 1 else 0, 0, 0, 0, 0]).modClu
        (fun c => { c with tabOwed := false, hbFirst := false })) ∧
    (u = { s with freeCtr := s.freeCtr + 1 } →
      s.scheduleXcheck = u ∨ ∃ d ∈ s.devId :: s.clu.live, s.scheduleXcheck = u.cluSend 0x3F d u.epoch 0 0 []) ∧
    (s.holds.fatal = true ∨ s.lnk.idV = false → exec .heartbeatPeriod s = .next s) ∧
    (s.holds.fatal = false → s.lnk.idV = true →
      (s.clu.role = 1 → exec .heartbeatPeriod s = .next (s.sendHeart.modClu (fun c =>
        { c with missed := smSet 0 c.missed c.mgrId (smGet 0 c.missed c.mgrId + 1) }))) ∧
      (2 ≤ s.clu.role → exec .heartbeatPeriod s = .next s.sendHeart) ∧
      (s.clu.role = 0 → exec .heartbeatPeriod s = .next (s.mgrPeriod.modClu (fun c =>
        { c with missed := c.watched.foldl (fun m d => smSet 0 m d (smGet 0 m d + 1)) c.missed })))) ∧
    (s.clu.role = 0 → dev ∈ s.clu.known → dev ∉ s.clu.failed → s.clu.miss ≤ smGet 0 s.clu.missed dev →
      exec (.heartbeatMiss dev) s = .next (s.mgrFail dev)) ∧
    (smGet 0 s.clu.missed dev < s.clu.miss → exec (.heartbeatMiss dev) s = .next s) ∧
    (s.clu.role = 1 → s.clu.miss ≤ smGet 0 s.clu.missed s.clu.mgrId → s.clu.mirror = none →
      v = s.cluAll (eps.map (·.1)) 0x35 s.epoch 0 0 [] → others = eps.filter (fun p => p.1 != s.clu.mgrId && p.1 != v.devId) →
      u = (v.modClu (fun c => others.foldl (fun (c : Clu) p => c.join v.epoch p.1 p.2) { c.noteReport v.epoch v.devId v.ownReport with
        gen := c.gen + 65536, treeLive := [], tabOwed := false, role := 0, mgrId := v.devId, sbyLost := true, known := [], spares := []
        holders := others.filterMap (fun p => p.2.former.map (fun f => (p.1, f)))
        missed := [], failed := [s.clu.mgrId], failCount := c.failCount + (if c.firstCommit.isSome then 1 else 0)
        lost := if c.mgrOnly then [] else [s.clu.mgrId] })).detect (mkRec clsCorrected cRole uClutch) →
      exec (.standbyTakeover eps) s = .next (u.replan.startRoll 3)) ∧
    (s.clu.role ≠ 1 → exec (.standbyTakeover eps) s = .next s)

/-- Checkpoints (R363, R375, R377–R379, R427): a drain that could not leave the device, or that meets poison, fails at this device;
one that is done writes the slot for others' pieces, hands its own parts on, flushes the drive, reports its digests to the manager
and ends, so that a ready that it held is counted; a report reaches the manager's catalogue; CKPTOK names the newest complete
checkpoint, and the next one takes the other slots. The words of CKPTDONE, the place of the parity slot, the outbox, the free
pieces and drive commands, and that the number advances at CKPTOK are the model's (DESIGN CHOICE, logs 48, 49 and 61). Routes,
roles and checks (R326, R361, R366, R382, R440): ROUTEUPD writes the table and is acknowledged, and a survivor then posts the frame
with STATE 1 of its rollback, a manager notes the acknowledgements, and with the last one the spares restore; SUBST makes a spare a
WORKER with the failed device's id; TREECFG gives a device its place in the tree and its plan; XCHECK brings a NOTICE of source 9. -/
def Obligations.CheckpointsRoutesAndRoles : Prop :=
  (∀ (s u v w x : State) (c e : W64) (dev : Sender) (digs data : List (List Byte)) (tab : CkTab) (cat : List CatEnt) (parts : List CkPart),
     (s.clu.drain = some c → exec (.ckptDrainDone false) s = .next s.drainFail) ∧
     (s.clu.drain = none → ∀ ok, exec (.ckptDrainDone ok) s = .next s) ∧
     (∀ a, s.clu.drain = some c → s.clu.table = some tab → s.drainAll tab c 0 tab.ents = ((data, some a), u) →
       exec (.ckptDrainDone true) s =
         .next (u.detect { mkRec clsDeferred cPoisonData uClutch with addr := BitVec.ofNat 64 a }).drainFail) ∧
     (s.clu.drain = some c → s.clu.table = some tab → s.drainAll tab c 0 tab.ents = ((data, none), u) → digs = data.map entryDigest →
       cat = catOf u.clu.tree (fullSnap u.clu.snapEvery u.clu.ckSeq) c (newestOf u.clu.saved u.devId) tab digs →
       parts = (if u.clu.tree.group.isEmpty then [] else parityParts u.clu.tree
         (((tab.ents.zip data).filter (fun p => !cfgSnaps u.clu.tree p.1.tid)).map (·.2)).flatten) ++ snapParts u.clu.tree c cat data →
       v = u.freeRange (parAddr tab u.clu.tree u.clu.ckSeq) (u.clu.tree.held / 4) →
       w = State.snapData (v.modClu (fun x => { x with
         cand := some ⟨c, x.ckSeq, [u.clu.tree.group], u.clu.tree.shards, [], [(v.devId, cat)]⟩, outbox := parts })) NvmeCmd.write →
       x = (if w.clu.drive then w.askDrive [.flush] else w) →
       exec (.ckptDrainDone true) s = .next (x.cluSend 0x39 x.clu.mgrId c digs.length 0 ((digs.flatten).map (·.toNat) ++ x.clu.who)).drainEnd) ∧
     (∀ f, s.clu.drive = false ∨ s.clu.tree.snapFor = none → s.snapData f = s) ∧
     (u = s.takeClu 0x39 → u.clu.role = 0 → u.clu.failed.contains dev.dev = false → getDev u.clu.holders dev.dev = dev.former →
       exec (.ckptdone dev e digs) s = .next (u.ckReport dev.dev e digs)) ∧
     (u = s.takeClu 0x39 → u.clu.role ≠ 0 → exec (.ckptdone dev e digs) s = .next u) ∧
     (u.clu.ckRun ≠ some e → u.ckReport dev.dev e digs = u) ∧
     (u = s.takeClu 0x3A → u.clu.cand = none → exec (.ckptok e) s = .next (u.modClu (fun x =>
       { x with ckpt := e, ckv := true, slot := x.ckSeq % 2, ckSeq := x.ckSeq + 1, cand := none }))) ∧
     (∀ k, u = s.takeClu 0x3A → u.clu.cand = some k → k.epoch = e → exec (.ckptok e) s = .next (u.modClu (fun x => { x with
       ckpt := e, ckv := true, slot := x.ckSeq % 2, ckSeq := x.ckSeq + 1, cand := none
       saved := (k :: x.saved).take 2, own := (e :: x.own).take 2 }))) ∧
     (∀ f, s.clu.drive = true → u = s.detect (mkRec clsCorrected cNvmeFail uMgmt) →
       (u.clu.drain = none → exec (.nvmeTimeout f) s = .next u) ∧
       (u.clu.drain = some c → exec (.nvmeTimeout f) s = .next u.drainFail))) ∧
  (∀ (s u w : State) (dev b id : Nat) (ack : Sender) (v : Bool) (cfg : TreeCfg) (r h : MgrRoll) (q : Roll),
     (u = s.takeClu 0x36 → smWf 0#16 u.lnk.route → dev < 4096 → b < 32 → ∃ w, exec (.routeupd [⟨dev, b, v⟩]) s = .next w ∧
       smGet 0#16 w.lnk.route dev = (if v then BitVec.ofNat 16 (0x8000 + b) else 0#16) ∧
       (∀ d, d ≠ dev → smGet 0#16 w.lnk.route d = smGet 0#16 u.lnk.route d)) ∧
     (∀ m, u = s.takeClu 0x36 → m = smSet 0#16 u.lnk.route (dev % 4096) (BitVec.ofNat 16 (if v then 0x8000 + b % 32 else 0)) →
       w = State.cluSend { u with lnk := { u.lnk with route := m } } 0x37 u.clu.mgrId u.epoch 0 0 u.clu.who →
       (u.clu.rollDue = none → exec (.routeupd [⟨dev, b, v⟩]) s = .next w) ∧
       (u.clu.rollDue = some q → u.clu.roll = none → exec (.routeupd [⟨dev, b, v⟩]) s =
         .next ((w.modClu (fun c => { c with rollDue := none })).rollFrame q 1))) ∧
     (u = s.takeClu 0x37 → u.clu.role = 0 → u.clu.failed.contains ack.dev = false → getDev u.clu.holders ack.dev = ack.former → u.clu.rolling = some r → r.phase = .routes →
       h = { r with dones := addDev r.dones ack.dev } → w = u.modClu (fun c => { c with rolling := some h }) →
       ((∃ d ∈ u.devId :: u.clu.live ++ u.clu.spares, d ∉ h.dones) → exec (.routeack ack) s = .next w) ∧
       ((∀ d ∈ u.devId :: u.clu.live ++ u.clu.spares, d ∈ h.dones) → exec (.routeack ack) s =
         .next ((w.replan.modClu (fun c => { c with rolling := some { h with phase := .spares, dones := [] } })).sendRoll
           (h.subs.map (·.1)) h false))) ∧
     (u = s.takeClu 0x37 → u.clu.role ≠ 0 → exec (.routeack ack) s = .next u) ∧
     (u = s.takeClu 0x38 → u.clu.role = 3 → id < 4096 →
       exec (.subst id) s = .next (((({ u with devId := id } : State).modClu (fun c =>
         { c with role := 2, former := some u.devId, origin := some u.devId })).detect (mkRec clsCorrected cRole uClutch)).cluFrame 0x12
           (leBytes 2 id ++ leBytes 2 u.devId ++ leBytes 1 0))) ∧
     (u = s.takeClu 0x38 → u.clu.role ≠ 3 → exec (.subst id) s = .next u) ∧
     (exec (.treecfg cfg) s = .next ((((s.takeClu 0x3C).modClu (fun c => c.plant cfg)).maybeAck).maybeReady).hearEarly) ∧
     (∀ c : Clu, c.gen ≠ cfg.gen → (c.plant cfg).gen = cfg.gen ∧ (c.plant cfg).creadys = [] ∧ (c.plant cfg).ccacks = [] ∧ (c.plant cfg).sent = false ∧
       (c.commits ≠ 0#32 → (c.plant cfg).ackDue = true)) ∧
     (∀ c : Clu, cfg.table = none → c.gen = cfg.gen → c.tree.parent = cfg.parent → c.tree.children = cfg.children → c.plant cfg = { c with tree := cfg }) ∧
     exec .xcheck s = .next ((s.takeClu 0x3F).notice uClutch 9 0 0))

end Sys2ProofStatements
end

