-- ==== Sys2Proof/Laws/Sparse.lean ====
section
/-! SUPPORT. The sparse maps and the memories: a read after a write, a write elsewhere, and the canonical form, which every write
keeps. -/

namespace Sys2Proof.Machine

variable {α : Type} [DecidableEq α]

/-! ### Sparse maps -/

/-- A written key reads as written when the value is not the default. -/
theorem smGet_smSet_self (d v : α) (m : SMap α) (k : Nat) (h : v ≠ d) : smGet d (smSet d m k v) k = v := by
  induction m with
  | nil => simp [smSet, smGet, h]
  | cons p r ih =>
    obtain ⟨j, w⟩ := p
    simp only [smSet]
    split
    · simp [smGet]
    · split
      · simp [smGet]
      · next hk => simp [smGet, hk, ih]

/-- A write leaves every other key alone. -/
theorem smGet_smSet_other (d v : α) (m : SMap α) (k i : Nat) (h : i ≠ k) : smGet d (smSet d m k v) i = smGet d m i := by
  have h' : k ≠ i := fun e => h e.symm
  induction m with
  | nil => by_cases hv : v = d <;> simp [smSet, smGet, hv, h']
  | cons p r ih =>
    obtain ⟨j, w⟩ := p
    simp only [smSet]
    split
    · split <;> simp [smGet, h']
    · split
      · next hj => subst hj; split <;> simp [smGet, h']
      · simp only [smGet]; split
        · rfl
        · exact ih

omit [DecidableEq α] in
/-- A key below every listed key reads as the default. -/
theorem smGet_below (d : α) (m : SMap α) (k : Nat) (h : ∀ p ∈ m, k < p.1) : smGet d m k = d := by
  induction m with
  | nil => rfl
  | cons p r ih =>
    obtain ⟨j, w⟩ := p
    have hj : j ≠ k := by have := h (j, w) (by simp); simp at this; omega
    simp only [smGet, hj, if_false]
    exact ih (fun p hp => h p (by simp [hp]))

/-- The keys of a written map are the old ones and the written one. -/
theorem smSet_keys (d v : α) (m : SMap α) (k : Nat) (p : Nat × α) (h : p ∈ smSet d m k v) :
    p ∈ m ∨ (p = (k, v) ∧ v ≠ d) := by
  induction m with
  | nil =>
    by_cases hv : v = d
    · simp [smSet, hv] at h
    · simp [smSet, hv] at h; exact .inr ⟨h, hv⟩
  | cons q r ih =>
    obtain ⟨j, w⟩ := q
    simp only [smSet] at h
    split at h
    · split at h
      · exact .inl h
      · next hv => rcases List.mem_cons.1 h with h | h
                   · exact .inr ⟨h, hv⟩
                   · exact .inl h
    · split at h
      · split at h
        · exact .inl (List.mem_cons_of_mem _ h)
        · next hv => rcases List.mem_cons.1 h with h | h
                     · exact .inr ⟨h, hv⟩
                     · exact .inl (List.mem_cons_of_mem _ h)
      · rcases List.mem_cons.1 h with h | h
        · exact .inl (by simp [h])
        · rcases ih h with h | h
          · exact .inl (List.mem_cons_of_mem _ h)
          · exact .inr h

/-- A write keeps the canonical form. -/
theorem smSet_wf (d v : α) (m : SMap α) (k : Nat) (h : smWf d m) : smWf d (smSet d m k v) := by
  refine ⟨?_, fun p hp => ?_⟩
  · induction m with
    | nil => by_cases hv : v = d <;> simp [smSet, hv]
    | cons q r ih =>
      obtain ⟨j, w⟩ := q
      obtain ⟨hp, hd⟩ := h
      have hp' := List.pairwise_cons.1 hp
      simp only [smSet]
      split
      · next hk =>
        split
        · exact hp
        · refine List.pairwise_cons.2 ⟨fun p hm => ?_, hp⟩
          rcases List.mem_cons.1 hm with hm | hm
          · subst hm; exact hk
          · have := hp'.1 p hm; simp only at this; show k < p.1; omega
      · next hk =>
        split
        · next hj =>
          subst hj
          split
          · exact hp'.2
          · exact List.pairwise_cons.2 ⟨fun p hm => hp'.1 p hm, hp'.2⟩
        · next hj =>
          refine List.pairwise_cons.2 ⟨fun p hm => ?_, ih ⟨hp'.2, fun p hm => hd p (List.mem_cons_of_mem _ hm)⟩⟩
          rcases smSet_keys d v r k p hm with hm | ⟨hm, -⟩
          · exact hp'.1 p hm
          · subst hm; show j < k; omega
  · rcases smSet_keys d v m k p hp with hm | ⟨hm, hv⟩
    · exact h.2 p hm
    · subst hm; exact hv

/-- In a canonical map a written key reads as written. -/
theorem smGet_smSet_wf (d v : α) (m : SMap α) (k : Nat) (h : smWf d m) : smGet d (smSet d m k v) k = v := by
  by_cases hv : v = d
  · subst hv
    induction m with
    | nil => simp [smSet, smGet]
    | cons p r ih =>
      obtain ⟨j, w⟩ := p
      obtain ⟨hp, hd⟩ := h
      have hp' := List.pairwise_cons.1 hp
      simp only [smSet]
      split
      · next hk =>
        refine smGet_below _ _ _ (fun p hm => ?_)
        simp only [if_true] at hm
        rcases List.mem_cons.1 hm with hm | hm
        · subst hm; exact hk
        · have := hp'.1 p hm; simp only at this; omega
      · split
        · next hj =>
          subst hj
          exact smGet_below _ _ _ (fun p hm => hp'.1 p (by simpa using hm))
        · next hj =>
          simp only [smGet, hj, if_false]
          exact ih ⟨hp'.2, fun p hm => hd p (List.mem_cons_of_mem _ hm)⟩
  · exact smGet_smSet_self d v m k hv

omit [DecidableEq α] in
/-- A value that a canonical map gives is the default or listed. -/
theorem smGet_mem (d : α) (m : SMap α) (k : Nat) : smGet d m k = d ∨ (k, smGet d m k) ∈ m := by
  induction m with
  | nil => exact .inl rfl
  | cons p r ih =>
    obtain ⟨j, w⟩ := p
    simp only [smGet]
    split
    · next hj => subst hj; exact .inr (by simp)
    · rcases ih with h | h
      · exact .inl h
      · exact .inr (List.mem_cons_of_mem _ h)

omit [DecidableEq α] in
/-- The empty map is canonical. -/
theorem smWf_nil (d : α) : smWf d [] := ⟨List.Pairwise.nil, fun _ h => by cases h⟩

/-! ### Memories -/

@[simp] theorem Mem.byte_setByte_other (m : Mem) (a b : Nat) (v : Byte) (h : b ≠ a) :
    (m.setByte a v).byte b = m.byte b := smGet_smSet_other _ _ _ _ _ h

theorem Mem.byte_setByte (m : Mem) (a : Nat) (v : Byte) (h : m.wf) : (m.setByte a v).byte a = v :=
  smGet_smSet_wf _ _ _ _ h.1

theorem Mem.empty_wf : Mem.empty.wf := ⟨smWf_nil _, smWf_nil _⟩

theorem Mem.setByte_wf (m : Mem) (a : Nat) (v : Byte) (h : m.wf) : (m.setByte a v).wf := ⟨smSet_wf _ _ _ _ h.1, h.2⟩

theorem Mem.setSyn_wf (m : Mem) (a : Nat) (v : BitVec 7) (h : m.wf) : (m.setSyn a v).wf := ⟨h.1, smSet_wf _ _ _ _ h.2⟩

theorem Mem.put_wf (l : List Byte) : ∀ (m : Mem) (a : Nat), m.wf → (m.put a l).wf := by
  induction l with
  | nil => exact fun m a h => h
  | cons b r ih => exact fun m a h => ih _ _ (m.setByte_wf a b h)

/-- A store outside `[a, a + n)` leaves a byte as it was. -/
theorem Mem.byte_put_other (l : List Byte) : ∀ (m : Mem) (a b : Nat), b < a ∨ a + l.length ≤ b →
    (m.put a l).byte b = m.byte b := by
  induction l with
  | nil => exact fun m a b h => rfl
  | cons x r ih =>
    intro m a b h
    simp only [List.length_cons] at h
    show ((m.setByte a x).put (a + 1) r).byte b = m.byte b
    rw [ih _ _ _ (by omega), Mem.byte_setByte_other _ _ _ _ (by omega)]

theorem Mem.put32_wf (m : Mem) (a : Nat) (v : W32) (mark : Bool) (h : m.wf) : (m.put32 a v mark).wf :=
  Mem.setSyn_wf _ _ _ (Mem.put_wf _ _ _ h)

theorem Mem.afterRead_wf (m : Mem) (a : Nat) (y : BitVec 7) (h : m.wf) : (m.afterRead a y).wf := by
  unfold Mem.afterRead; split
  · exact Mem.setSyn_wf _ _ _ h
  · exact h

theorem Mem.heal_wf (m : Mem) (a : Nat) (h : m.wf) : (m.heal a).wf := by
  unfold Mem.heal; split
  · exact Mem.put32_wf _ _ _ _ h
  · exact Mem.setSyn_wf _ _ _ h
  · exact h

theorem Mem.putBytes_wf (m : Mem) (a : Nat) (l : List Byte) (h : m.wf) : (m.putBytes a l).wf := by
  unfold Mem.putBytes
  generalize List.range (l.length / 4 + 2) = r
  have h0 : (((m.heal a).heal (a + l.length - 1)).put a l).wf := Mem.put_wf l _ a (Mem.heal_wf _ _ (Mem.heal_wf _ _ h))
  dsimp only
  revert h0
  generalize ((m.heal a).heal (a + l.length - 1)).put a l = m'
  induction r generalizing m' with
  | nil => exact fun h => h
  | cons i r ih =>
    intro h'
    refine ih _ ?_
    dsimp only
    split
    · split
      · exact Mem.setSyn_wf _ _ _ h'
      · split <;> exact Mem.setSyn_wf _ _ _ h'
    · exact h'

/-! ### Tiles -/

theorem State.tile_setTile_other (s : State) (t j : Nat) (v : Tile) (h : j ≠ t) : (s.setTile t v).tile j = s.tile j :=
  smGet_smSet_other _ _ _ _ _ h

theorem State.tile_setTile (s : State) (t : Nat) (v : Tile) (h : smWf Tile.reset s.tiles) : (s.setTile t v).tile t = v :=
  smGet_smSet_wf _ _ _ _ h

theorem State.tile_modTile_other (s : State) (t j : Nat) (f : Tile → Tile) (h : j ≠ t) :
    (s.modTile t f).tile j = s.tile j := smGet_smSet_other _ _ _ _ _ h

theorem State.tile_modTile (s : State) (t : Nat) (f : Tile → Tile) (h : smWf Tile.reset s.tiles) :
    (s.modTile t f).tile t = f (s.tile t) := smGet_smSet_wf _ _ _ _ h

theorem State.tile_modTile_ne (s : State) (t : Nat) (f : Tile → Tile) (h : f (s.tile t) ≠ Tile.reset) :
    (s.modTile t f).tile t = f (s.tile t) := smGet_smSet_self _ _ _ _ h

theorem State.modTile_wf (s : State) (t : Nat) (f : Tile → Tile) (h : smWf Tile.reset s.tiles) :
    smWf Tile.reset (s.modTile t f).tiles := smSet_wf _ _ _ _ h

end Sys2Proof.Machine
end

