-- ==== Sys2Proof/Laws/State.lean ====
section
/-! SUPPORT. What each update of the state leaves in each field. -/

namespace Sys2Proof.Machine

/-! ### withPending -/

section

variable (s : State) (l : List Instr)

@[simp] theorem State.withPending_pending : (s.withPending l).pending = l := rfl
@[simp] theorem State.withPending_freeCtr : (s.withPending l).freeCtr = s.freeCtr := rfl
@[simp] theorem State.withPending_tiles : (s.withPending l).tiles = s.tiles := rfl
@[simp] theorem State.withPending_dram : (s.withPending l).dram = s.dram := rfl
@[simp] theorem State.withPending_dramRind : (s.withPending l).dramRind = s.dramRind := rfl
@[simp] theorem State.withPending_hostMem : (s.withPending l).hostMem = s.hostMem := rfl
@[simp] theorem State.withPending_stackRegs : (s.withPending l).stackRegs = s.stackRegs := rfl
@[simp] theorem State.withPending_upd : (s.withPending l).upd = s.upd := rfl
@[simp] theorem State.withPending_updNext : (s.withPending l).updNext = s.updNext := rfl
@[simp] theorem State.withPending_posted : (s.withPending l).posted = s.posted := rfl
@[simp] theorem State.withPending_xl : (s.withPending l).xl = s.xl := rfl
@[simp] theorem State.withPending_grids : (s.withPending l).grids = s.grids := rfl
@[simp] theorem State.withPending_evts : (s.withPending l).evts = s.evts := rfl
@[simp] theorem State.withPending_frames : (s.withPending l).frames = s.frames := rfl
@[simp] theorem State.withPending_err : (s.withPending l).err = s.err := rfl
@[simp] theorem State.withPending_out : (s.withPending l).out = s.out := rfl
@[simp] theorem State.withPending_remotes : (s.withPending l).remotes = s.remotes := rfl
@[simp] theorem State.withPending_side : (s.withPending l).side = s.side := rfl
@[simp] theorem State.withPending_nextTag : (s.withPending l).nextTag = s.nextTag := rfl
@[simp] theorem State.withPending_sq : (s.withPending l).sq = s.sq := rfl
@[simp] theorem State.withPending_eq : (s.withPending l).eq = s.eq := rfl
@[simp] theorem State.withPending_mode : (s.withPending l).mode = s.mode := rfl
@[simp] theorem State.withPending_lim : (s.withPending l).lim = s.lim := rfl
@[simp] theorem State.withPending_holds : (s.withPending l).holds = s.holds := rfl
@[simp] theorem State.withPending_epoch : (s.withPending l).epoch = s.epoch := rfl
@[simp] theorem State.withPending_time : (s.withPending l).time = s.time := rfl
@[simp] theorem State.withPending_skip : (s.withPending l).skip = s.skip := rfl
@[simp] theorem State.withPending_devId : (s.withPending l).devId = s.devId := rfl
@[simp] theorem State.withPending_devRing : (s.withPending l).devRing = s.devRing := rfl
@[simp] theorem State.withPending_lnk : (s.withPending l).lnk = s.lnk := rfl
@[simp] theorem State.withPending_host : (s.withPending l).host = s.host := rfl
@[simp] theorem State.withPending_dsp : (s.withPending l).dsp = s.dsp := rfl
@[simp] theorem State.withPending_clu : (s.withPending l).clu = s.clu := rfl
@[simp] theorem State.withPending_rails : (s.withPending l).rails = s.rails := rfl
@[simp] theorem State.withPending_pwr : (s.withPending l).pwr = s.pwr := rfl
@[simp] theorem State.withPending_eft : (s.withPending l).eft = s.eft := rfl
@[simp] theorem State.withPending_pins : (s.withPending l).pins = s.pins := rfl
@[simp] theorem State.withPending_mp : (s.withPending l).mp = s.mp := rfl
@[simp] theorem State.withPending_sec : (s.withPending l).sec = s.sec := rfl
@[simp] theorem State.withPending_flash : (s.withPending l).flash = s.flash := rfl
@[simp] theorem State.withPending_sess : (s.withPending l).sess = s.sess := rfl
@[simp] theorem State.withPending_i3c : (s.withPending l).i3c = s.i3c := rfl
@[simp] theorem State.withPending_jtag : (s.withPending l).jtag = s.jtag := rfl

end

/-! ### setTile -/

section

variable (s : State) (t : Nat) (v : Tile)

@[simp] theorem State.setTile_pending : (s.setTile t v).pending = s.pending := rfl
@[simp] theorem State.setTile_freeCtr : (s.setTile t v).freeCtr = s.freeCtr := rfl
@[simp] theorem State.setTile_tiles : (s.setTile t v).tiles = smSet Tile.reset s.tiles t v := rfl
@[simp] theorem State.setTile_dram : (s.setTile t v).dram = s.dram := rfl
@[simp] theorem State.setTile_dramRind : (s.setTile t v).dramRind = s.dramRind := rfl
@[simp] theorem State.setTile_hostMem : (s.setTile t v).hostMem = s.hostMem := rfl
@[simp] theorem State.setTile_stackRegs : (s.setTile t v).stackRegs = s.stackRegs := rfl
@[simp] theorem State.setTile_upd : (s.setTile t v).upd = s.upd := rfl
@[simp] theorem State.setTile_updNext : (s.setTile t v).updNext = s.updNext := rfl
@[simp] theorem State.setTile_posted : (s.setTile t v).posted = s.posted := rfl
@[simp] theorem State.setTile_xl : (s.setTile t v).xl = s.xl := rfl
@[simp] theorem State.setTile_grids : (s.setTile t v).grids = s.grids := rfl
@[simp] theorem State.setTile_evts : (s.setTile t v).evts = s.evts := rfl
@[simp] theorem State.setTile_frames : (s.setTile t v).frames = s.frames := rfl
@[simp] theorem State.setTile_err : (s.setTile t v).err = s.err := rfl
@[simp] theorem State.setTile_out : (s.setTile t v).out = s.out := rfl
@[simp] theorem State.setTile_remotes : (s.setTile t v).remotes = s.remotes := rfl
@[simp] theorem State.setTile_side : (s.setTile t v).side = s.side := rfl
@[simp] theorem State.setTile_nextTag : (s.setTile t v).nextTag = s.nextTag := rfl
@[simp] theorem State.setTile_sq : (s.setTile t v).sq = s.sq := rfl
@[simp] theorem State.setTile_eq : (s.setTile t v).eq = s.eq := rfl
@[simp] theorem State.setTile_mode : (s.setTile t v).mode = s.mode := rfl
@[simp] theorem State.setTile_lim : (s.setTile t v).lim = s.lim := rfl
@[simp] theorem State.setTile_holds : (s.setTile t v).holds = s.holds := rfl
@[simp] theorem State.setTile_epoch : (s.setTile t v).epoch = s.epoch := rfl
@[simp] theorem State.setTile_time : (s.setTile t v).time = s.time := rfl
@[simp] theorem State.setTile_skip : (s.setTile t v).skip = s.skip := rfl
@[simp] theorem State.setTile_devId : (s.setTile t v).devId = s.devId := rfl
@[simp] theorem State.setTile_devRing : (s.setTile t v).devRing = s.devRing := rfl
@[simp] theorem State.setTile_lnk : (s.setTile t v).lnk = s.lnk := rfl
@[simp] theorem State.setTile_host : (s.setTile t v).host = s.host := rfl
@[simp] theorem State.setTile_dsp : (s.setTile t v).dsp = s.dsp := rfl
@[simp] theorem State.setTile_clu : (s.setTile t v).clu = s.clu := rfl
@[simp] theorem State.setTile_rails : (s.setTile t v).rails = s.rails := rfl
@[simp] theorem State.setTile_pwr : (s.setTile t v).pwr = s.pwr := rfl
@[simp] theorem State.setTile_eft : (s.setTile t v).eft = s.eft := rfl
@[simp] theorem State.setTile_pins : (s.setTile t v).pins = s.pins := rfl
@[simp] theorem State.setTile_mp : (s.setTile t v).mp = s.mp := rfl
@[simp] theorem State.setTile_sec : (s.setTile t v).sec = s.sec := rfl
@[simp] theorem State.setTile_flash : (s.setTile t v).flash = s.flash := rfl
@[simp] theorem State.setTile_sess : (s.setTile t v).sess = s.sess := rfl
@[simp] theorem State.setTile_i3c : (s.setTile t v).i3c = s.i3c := rfl
@[simp] theorem State.setTile_jtag : (s.setTile t v).jtag = s.jtag := rfl

end

/-! ### modTile -/

section

variable (s : State) (t : Nat) (f : Tile → Tile)

@[simp] theorem State.modTile_pending : (s.modTile t f).pending = s.pending := rfl
@[simp] theorem State.modTile_freeCtr : (s.modTile t f).freeCtr = s.freeCtr := rfl
@[simp] theorem State.modTile_tiles : (s.modTile t f).tiles = smSet Tile.reset s.tiles t (f (s.tile t)) := rfl
@[simp] theorem State.modTile_dram : (s.modTile t f).dram = s.dram := rfl
@[simp] theorem State.modTile_dramRind : (s.modTile t f).dramRind = s.dramRind := rfl
@[simp] theorem State.modTile_hostMem : (s.modTile t f).hostMem = s.hostMem := rfl
@[simp] theorem State.modTile_stackRegs : (s.modTile t f).stackRegs = s.stackRegs := rfl
@[simp] theorem State.modTile_upd : (s.modTile t f).upd = s.upd := rfl
@[simp] theorem State.modTile_updNext : (s.modTile t f).updNext = s.updNext := rfl
@[simp] theorem State.modTile_posted : (s.modTile t f).posted = s.posted := rfl
@[simp] theorem State.modTile_xl : (s.modTile t f).xl = s.xl := rfl
@[simp] theorem State.modTile_grids : (s.modTile t f).grids = s.grids := rfl
@[simp] theorem State.modTile_evts : (s.modTile t f).evts = s.evts := rfl
@[simp] theorem State.modTile_frames : (s.modTile t f).frames = s.frames := rfl
@[simp] theorem State.modTile_err : (s.modTile t f).err = s.err := rfl
@[simp] theorem State.modTile_out : (s.modTile t f).out = s.out := rfl
@[simp] theorem State.modTile_remotes : (s.modTile t f).remotes = s.remotes := rfl
@[simp] theorem State.modTile_side : (s.modTile t f).side = s.side := rfl
@[simp] theorem State.modTile_nextTag : (s.modTile t f).nextTag = s.nextTag := rfl
@[simp] theorem State.modTile_sq : (s.modTile t f).sq = s.sq := rfl
@[simp] theorem State.modTile_eq : (s.modTile t f).eq = s.eq := rfl
@[simp] theorem State.modTile_mode : (s.modTile t f).mode = s.mode := rfl
@[simp] theorem State.modTile_lim : (s.modTile t f).lim = s.lim := rfl
@[simp] theorem State.modTile_holds : (s.modTile t f).holds = s.holds := rfl
@[simp] theorem State.modTile_epoch : (s.modTile t f).epoch = s.epoch := rfl
@[simp] theorem State.modTile_time : (s.modTile t f).time = s.time := rfl
@[simp] theorem State.modTile_skip : (s.modTile t f).skip = s.skip := rfl
@[simp] theorem State.modTile_devId : (s.modTile t f).devId = s.devId := rfl
@[simp] theorem State.modTile_devRing : (s.modTile t f).devRing = s.devRing := rfl
@[simp] theorem State.modTile_lnk : (s.modTile t f).lnk = s.lnk := rfl
@[simp] theorem State.modTile_host : (s.modTile t f).host = s.host := rfl
@[simp] theorem State.modTile_dsp : (s.modTile t f).dsp = s.dsp := rfl
@[simp] theorem State.modTile_clu : (s.modTile t f).clu = s.clu := rfl
@[simp] theorem State.modTile_rails : (s.modTile t f).rails = s.rails := rfl
@[simp] theorem State.modTile_pwr : (s.modTile t f).pwr = s.pwr := rfl
@[simp] theorem State.modTile_eft : (s.modTile t f).eft = s.eft := rfl
@[simp] theorem State.modTile_pins : (s.modTile t f).pins = s.pins := rfl
@[simp] theorem State.modTile_mp : (s.modTile t f).mp = s.mp := rfl
@[simp] theorem State.modTile_sec : (s.modTile t f).sec = s.sec := rfl
@[simp] theorem State.modTile_flash : (s.modTile t f).flash = s.flash := rfl
@[simp] theorem State.modTile_sess : (s.modTile t f).sess = s.sess := rfl
@[simp] theorem State.modTile_i3c : (s.modTile t f).i3c = s.i3c := rfl
@[simp] theorem State.modTile_jtag : (s.modTile t f).jtag = s.jtag := rfl

end

/-! ### setStrand -/

section

variable (s : State) (t k : Nat) (x : Strand)

@[simp] theorem State.setStrand_pending : (s.setStrand t k x).pending = s.pending := rfl
@[simp] theorem State.setStrand_freeCtr : (s.setStrand t k x).freeCtr = s.freeCtr := rfl
@[simp] theorem State.setStrand_tiles : (s.setStrand t k x).tiles = smSet Tile.reset s.tiles t ((s.tile t).setStrand k x) := rfl
@[simp] theorem State.setStrand_dram : (s.setStrand t k x).dram = s.dram := rfl
@[simp] theorem State.setStrand_dramRind : (s.setStrand t k x).dramRind = s.dramRind := rfl
@[simp] theorem State.setStrand_hostMem : (s.setStrand t k x).hostMem = s.hostMem := rfl
@[simp] theorem State.setStrand_stackRegs : (s.setStrand t k x).stackRegs = s.stackRegs := rfl
@[simp] theorem State.setStrand_upd : (s.setStrand t k x).upd = s.upd := rfl
@[simp] theorem State.setStrand_updNext : (s.setStrand t k x).updNext = s.updNext := rfl
@[simp] theorem State.setStrand_posted : (s.setStrand t k x).posted = s.posted := rfl
@[simp] theorem State.setStrand_xl : (s.setStrand t k x).xl = s.xl := rfl
@[simp] theorem State.setStrand_grids : (s.setStrand t k x).grids = s.grids := rfl
@[simp] theorem State.setStrand_evts : (s.setStrand t k x).evts = s.evts := rfl
@[simp] theorem State.setStrand_frames : (s.setStrand t k x).frames = s.frames := rfl
@[simp] theorem State.setStrand_err : (s.setStrand t k x).err = s.err := rfl
@[simp] theorem State.setStrand_out : (s.setStrand t k x).out = s.out := rfl
@[simp] theorem State.setStrand_remotes : (s.setStrand t k x).remotes = s.remotes := rfl
@[simp] theorem State.setStrand_side : (s.setStrand t k x).side = s.side := rfl
@[simp] theorem State.setStrand_nextTag : (s.setStrand t k x).nextTag = s.nextTag := rfl
@[simp] theorem State.setStrand_sq : (s.setStrand t k x).sq = s.sq := rfl
@[simp] theorem State.setStrand_eq : (s.setStrand t k x).eq = s.eq := rfl
@[simp] theorem State.setStrand_mode : (s.setStrand t k x).mode = s.mode := rfl
@[simp] theorem State.setStrand_lim : (s.setStrand t k x).lim = s.lim := rfl
@[simp] theorem State.setStrand_holds : (s.setStrand t k x).holds = s.holds := rfl
@[simp] theorem State.setStrand_epoch : (s.setStrand t k x).epoch = s.epoch := rfl
@[simp] theorem State.setStrand_time : (s.setStrand t k x).time = s.time := rfl
@[simp] theorem State.setStrand_skip : (s.setStrand t k x).skip = s.skip := rfl
@[simp] theorem State.setStrand_devId : (s.setStrand t k x).devId = s.devId := rfl
@[simp] theorem State.setStrand_devRing : (s.setStrand t k x).devRing = s.devRing := rfl
@[simp] theorem State.setStrand_lnk : (s.setStrand t k x).lnk = s.lnk := rfl
@[simp] theorem State.setStrand_host : (s.setStrand t k x).host = s.host := rfl
@[simp] theorem State.setStrand_dsp : (s.setStrand t k x).dsp = s.dsp := rfl
@[simp] theorem State.setStrand_clu : (s.setStrand t k x).clu = s.clu := rfl
@[simp] theorem State.setStrand_rails : (s.setStrand t k x).rails = s.rails := rfl
@[simp] theorem State.setStrand_pwr : (s.setStrand t k x).pwr = s.pwr := rfl
@[simp] theorem State.setStrand_eft : (s.setStrand t k x).eft = s.eft := rfl
@[simp] theorem State.setStrand_pins : (s.setStrand t k x).pins = s.pins := rfl
@[simp] theorem State.setStrand_mp : (s.setStrand t k x).mp = s.mp := rfl
@[simp] theorem State.setStrand_sec : (s.setStrand t k x).sec = s.sec := rfl
@[simp] theorem State.setStrand_flash : (s.setStrand t k x).flash = s.flash := rfl
@[simp] theorem State.setStrand_sess : (s.setStrand t k x).sess = s.sess := rfl
@[simp] theorem State.setStrand_i3c : (s.setStrand t k x).i3c = s.i3c := rfl
@[simp] theorem State.setStrand_jtag : (s.setStrand t k x).jtag = s.jtag := rfl

end

/-! ### addCtr -/

section

variable (s : State) (c : Nat) (n : W32)

@[simp] theorem State.addCtr_pending : (s.addCtr c n).pending = s.pending := rfl
@[simp] theorem State.addCtr_freeCtr : (s.addCtr c n).freeCtr = s.freeCtr := rfl
@[simp] theorem State.addCtr_dram : (s.addCtr c n).dram = s.dram := rfl
@[simp] theorem State.addCtr_dramRind : (s.addCtr c n).dramRind = s.dramRind := rfl
@[simp] theorem State.addCtr_hostMem : (s.addCtr c n).hostMem = s.hostMem := rfl
@[simp] theorem State.addCtr_stackRegs : (s.addCtr c n).stackRegs = s.stackRegs := rfl
@[simp] theorem State.addCtr_upd : (s.addCtr c n).upd = s.upd := rfl
@[simp] theorem State.addCtr_updNext : (s.addCtr c n).updNext = s.updNext := rfl
@[simp] theorem State.addCtr_posted : (s.addCtr c n).posted = s.posted := rfl
@[simp] theorem State.addCtr_xl : (s.addCtr c n).xl = s.xl := rfl
@[simp] theorem State.addCtr_grids : (s.addCtr c n).grids = s.grids := rfl
@[simp] theorem State.addCtr_evts : (s.addCtr c n).evts = s.evts := rfl
@[simp] theorem State.addCtr_frames : (s.addCtr c n).frames = s.frames := rfl
@[simp] theorem State.addCtr_err : (s.addCtr c n).err = s.err := rfl
@[simp] theorem State.addCtr_out : (s.addCtr c n).out = s.out := rfl
@[simp] theorem State.addCtr_remotes : (s.addCtr c n).remotes = s.remotes := rfl
@[simp] theorem State.addCtr_side : (s.addCtr c n).side = s.side := rfl
@[simp] theorem State.addCtr_nextTag : (s.addCtr c n).nextTag = s.nextTag := rfl
@[simp] theorem State.addCtr_sq : (s.addCtr c n).sq = s.sq := rfl
@[simp] theorem State.addCtr_eq : (s.addCtr c n).eq = s.eq := rfl
@[simp] theorem State.addCtr_mode : (s.addCtr c n).mode = s.mode := rfl
@[simp] theorem State.addCtr_lim : (s.addCtr c n).lim = s.lim := rfl
@[simp] theorem State.addCtr_holds : (s.addCtr c n).holds = s.holds := rfl
@[simp] theorem State.addCtr_epoch : (s.addCtr c n).epoch = s.epoch := rfl
@[simp] theorem State.addCtr_time : (s.addCtr c n).time = s.time := rfl
@[simp] theorem State.addCtr_skip : (s.addCtr c n).skip = s.skip := rfl
@[simp] theorem State.addCtr_devId : (s.addCtr c n).devId = s.devId := rfl
@[simp] theorem State.addCtr_devRing : (s.addCtr c n).devRing = s.devRing := rfl
@[simp] theorem State.addCtr_lnk : (s.addCtr c n).lnk = s.lnk := rfl
@[simp] theorem State.addCtr_host : (s.addCtr c n).host = s.host := rfl
@[simp] theorem State.addCtr_dsp : (s.addCtr c n).dsp = s.dsp := rfl
@[simp] theorem State.addCtr_clu : (s.addCtr c n).clu = s.clu := rfl
@[simp] theorem State.addCtr_rails : (s.addCtr c n).rails = s.rails := rfl
@[simp] theorem State.addCtr_pwr : (s.addCtr c n).pwr = s.pwr := rfl
@[simp] theorem State.addCtr_eft : (s.addCtr c n).eft = s.eft := rfl
@[simp] theorem State.addCtr_pins : (s.addCtr c n).pins = s.pins := rfl
@[simp] theorem State.addCtr_mp : (s.addCtr c n).mp = s.mp := rfl
@[simp] theorem State.addCtr_sec : (s.addCtr c n).sec = s.sec := rfl
@[simp] theorem State.addCtr_flash : (s.addCtr c n).flash = s.flash := rfl
@[simp] theorem State.addCtr_sess : (s.addCtr c n).sess = s.sess := rfl
@[simp] theorem State.addCtr_i3c : (s.addCtr c n).i3c = s.i3c := rfl
@[simp] theorem State.addCtr_jtag : (s.addCtr c n).jtag = s.jtag := rfl

end

/-! ### modEntry -/

section

variable (s : State) (t q e : Nat) (f : QEntry → QEntry)

@[simp] theorem State.modEntry_pending : (s.modEntry t q e f).pending = s.pending := (by unfold State.modEntry; split <;> rfl)
@[simp] theorem State.modEntry_freeCtr : (s.modEntry t q e f).freeCtr = s.freeCtr := (by unfold State.modEntry; split <;> rfl)
@[simp] theorem State.modEntry_dram : (s.modEntry t q e f).dram = s.dram := (by unfold State.modEntry; split <;> rfl)
@[simp] theorem State.modEntry_dramRind : (s.modEntry t q e f).dramRind = s.dramRind := (by unfold State.modEntry; split <;> rfl)
@[simp] theorem State.modEntry_hostMem : (s.modEntry t q e f).hostMem = s.hostMem := (by unfold State.modEntry; split <;> rfl)
@[simp] theorem State.modEntry_stackRegs : (s.modEntry t q e f).stackRegs = s.stackRegs := (by unfold State.modEntry; split <;> rfl)
@[simp] theorem State.modEntry_upd : (s.modEntry t q e f).upd = s.upd := (by unfold State.modEntry; split <;> rfl)
@[simp] theorem State.modEntry_updNext : (s.modEntry t q e f).updNext = s.updNext := (by unfold State.modEntry; split <;> rfl)
@[simp] theorem State.modEntry_posted : (s.modEntry t q e f).posted = s.posted := (by unfold State.modEntry; split <;> rfl)
@[simp] theorem State.modEntry_xl : (s.modEntry t q e f).xl = s.xl := (by unfold State.modEntry; split <;> rfl)
@[simp] theorem State.modEntry_grids : (s.modEntry t q e f).grids = s.grids := (by unfold State.modEntry; split <;> rfl)
@[simp] theorem State.modEntry_evts : (s.modEntry t q e f).evts = s.evts := (by unfold State.modEntry; split <;> rfl)
@[simp] theorem State.modEntry_frames : (s.modEntry t q e f).frames = s.frames := (by unfold State.modEntry; split <;> rfl)
@[simp] theorem State.modEntry_err : (s.modEntry t q e f).err = s.err := (by unfold State.modEntry; split <;> rfl)
@[simp] theorem State.modEntry_out : (s.modEntry t q e f).out = s.out := (by unfold State.modEntry; split <;> rfl)
@[simp] theorem State.modEntry_remotes : (s.modEntry t q e f).remotes = s.remotes := (by unfold State.modEntry; split <;> rfl)
@[simp] theorem State.modEntry_nextTag : (s.modEntry t q e f).nextTag = s.nextTag := (by unfold State.modEntry; split <;> rfl)
@[simp] theorem State.modEntry_sq : (s.modEntry t q e f).sq = s.sq := (by unfold State.modEntry; split <;> rfl)
@[simp] theorem State.modEntry_eq : (s.modEntry t q e f).eq = s.eq := (by unfold State.modEntry; split <;> rfl)
@[simp] theorem State.modEntry_mode : (s.modEntry t q e f).mode = s.mode := (by unfold State.modEntry; split <;> rfl)
@[simp] theorem State.modEntry_lim : (s.modEntry t q e f).lim = s.lim := (by unfold State.modEntry; split <;> rfl)
@[simp] theorem State.modEntry_holds : (s.modEntry t q e f).holds = s.holds := (by unfold State.modEntry; split <;> rfl)
@[simp] theorem State.modEntry_epoch : (s.modEntry t q e f).epoch = s.epoch := (by unfold State.modEntry; split <;> rfl)
@[simp] theorem State.modEntry_time : (s.modEntry t q e f).time = s.time := (by unfold State.modEntry; split <;> rfl)
@[simp] theorem State.modEntry_skip : (s.modEntry t q e f).skip = s.skip := (by unfold State.modEntry; split <;> rfl)
@[simp] theorem State.modEntry_devId : (s.modEntry t q e f).devId = s.devId := (by unfold State.modEntry; split <;> rfl)
@[simp] theorem State.modEntry_devRing : (s.modEntry t q e f).devRing = s.devRing := (by unfold State.modEntry; split <;> rfl)
@[simp] theorem State.modEntry_lnk : (s.modEntry t q e f).lnk = s.lnk := (by unfold State.modEntry; split <;> rfl)
@[simp] theorem State.modEntry_host : (s.modEntry t q e f).host = s.host := (by unfold State.modEntry; split <;> rfl)
@[simp] theorem State.modEntry_dsp : (s.modEntry t q e f).dsp = s.dsp := (by unfold State.modEntry; split <;> rfl)
@[simp] theorem State.modEntry_clu : (s.modEntry t q e f).clu = s.clu := (by unfold State.modEntry; split <;> rfl)
@[simp] theorem State.modEntry_rails : (s.modEntry t q e f).rails = s.rails := (by unfold State.modEntry; split <;> rfl)
@[simp] theorem State.modEntry_pwr : (s.modEntry t q e f).pwr = s.pwr := (by unfold State.modEntry; split <;> rfl)
@[simp] theorem State.modEntry_eft : (s.modEntry t q e f).eft = s.eft := (by unfold State.modEntry; split <;> rfl)
@[simp] theorem State.modEntry_pins : (s.modEntry t q e f).pins = s.pins := (by unfold State.modEntry; split <;> rfl)
@[simp] theorem State.modEntry_mp : (s.modEntry t q e f).mp = s.mp := (by unfold State.modEntry; split <;> rfl)
@[simp] theorem State.modEntry_sec : (s.modEntry t q e f).sec = s.sec := (by unfold State.modEntry; split <;> rfl)
@[simp] theorem State.modEntry_flash : (s.modEntry t q e f).flash = s.flash := (by unfold State.modEntry; split <;> rfl)
@[simp] theorem State.modEntry_sess : (s.modEntry t q e f).sess = s.sess := (by unfold State.modEntry; split <;> rfl)
@[simp] theorem State.modEntry_i3c : (s.modEntry t q e f).i3c = s.i3c := (by unfold State.modEntry; split <;> rfl)
@[simp] theorem State.modEntry_jtag : (s.modEntry t q e f).jtag = s.jtag := (by unfold State.modEntry; split <;> rfl)

end

/-! ### post -/

section

variable (s : State) (c : Option Nat) (y : Nat) (b : List Byte)

@[simp] theorem State.post_pending : (s.post c y b).pending = s.pending := rfl
@[simp] theorem State.post_freeCtr : (s.post c y b).freeCtr = s.freeCtr := rfl
@[simp] theorem State.post_tiles : (s.post c y b).tiles = s.tiles := rfl
@[simp] theorem State.post_dram : (s.post c y b).dram = s.dram := rfl
@[simp] theorem State.post_dramRind : (s.post c y b).dramRind = s.dramRind := rfl
@[simp] theorem State.post_hostMem : (s.post c y b).hostMem = s.hostMem := rfl
@[simp] theorem State.post_stackRegs : (s.post c y b).stackRegs = s.stackRegs := rfl
@[simp] theorem State.post_upd : (s.post c y b).upd = s.upd := rfl
@[simp] theorem State.post_updNext : (s.post c y b).updNext = s.updNext := rfl
@[simp] theorem State.post_posted : (s.post c y b).posted = s.posted := rfl
@[simp] theorem State.post_xl : (s.post c y b).xl = s.xl := rfl
@[simp] theorem State.post_grids : (s.post c y b).grids = s.grids := rfl
@[simp] theorem State.post_evts : (s.post c y b).evts = s.evts := rfl
@[simp] theorem State.post_frames : (s.post c y b).frames = s.frames ++ [⟨c.getD s.devRing, y, b⟩] := rfl
@[simp] theorem State.post_err : (s.post c y b).err = s.err := rfl
@[simp] theorem State.post_out : (s.post c y b).out = s.out := rfl
@[simp] theorem State.post_remotes : (s.post c y b).remotes = s.remotes := rfl
@[simp] theorem State.post_side : (s.post c y b).side = s.side := rfl
@[simp] theorem State.post_nextTag : (s.post c y b).nextTag = s.nextTag := rfl
@[simp] theorem State.post_sq : (s.post c y b).sq = s.sq := rfl
@[simp] theorem State.post_eq : (s.post c y b).eq = s.eq := rfl
@[simp] theorem State.post_mode : (s.post c y b).mode = s.mode := rfl
@[simp] theorem State.post_lim : (s.post c y b).lim = s.lim := rfl
@[simp] theorem State.post_holds : (s.post c y b).holds = s.holds := rfl
@[simp] theorem State.post_epoch : (s.post c y b).epoch = s.epoch := rfl
@[simp] theorem State.post_time : (s.post c y b).time = s.time := rfl
@[simp] theorem State.post_skip : (s.post c y b).skip = s.skip := rfl
@[simp] theorem State.post_devId : (s.post c y b).devId = s.devId := rfl
@[simp] theorem State.post_devRing : (s.post c y b).devRing = s.devRing := rfl
@[simp] theorem State.post_lnk : (s.post c y b).lnk = s.lnk := rfl
@[simp] theorem State.post_host : (s.post c y b).host = s.host := rfl
@[simp] theorem State.post_dsp : (s.post c y b).dsp = s.dsp := rfl
@[simp] theorem State.post_clu : (s.post c y b).clu = s.clu := rfl
@[simp] theorem State.post_rails : (s.post c y b).rails = s.rails := rfl
@[simp] theorem State.post_pwr : (s.post c y b).pwr = s.pwr := rfl
@[simp] theorem State.post_eft : (s.post c y b).eft = s.eft := rfl
@[simp] theorem State.post_pins : (s.post c y b).pins = s.pins := rfl
@[simp] theorem State.post_mp : (s.post c y b).mp = s.mp := rfl
@[simp] theorem State.post_sec : (s.post c y b).sec = s.sec := rfl
@[simp] theorem State.post_flash : (s.post c y b).flash = s.flash := rfl
@[simp] theorem State.post_sess : (s.post c y b).sess = s.sess := rfl
@[simp] theorem State.post_i3c : (s.post c y b).i3c = s.i3c := rfl
@[simp] theorem State.post_jtag : (s.post c y b).jtag = s.jtag := rfl

end

/-! ### detect -/

section

variable (s : State) (r : Rec)

@[simp] theorem State.detect_pending : (s.detect r).pending = s.pending := rfl
@[simp] theorem State.detect_freeCtr : (s.detect r).freeCtr = s.freeCtr := rfl
@[simp] theorem State.detect_tiles : (s.detect r).tiles = s.tiles := rfl
@[simp] theorem State.detect_dram : (s.detect r).dram = s.dram := rfl
@[simp] theorem State.detect_dramRind : (s.detect r).dramRind = s.dramRind := rfl
@[simp] theorem State.detect_hostMem : (s.detect r).hostMem = s.hostMem := rfl
@[simp] theorem State.detect_stackRegs : (s.detect r).stackRegs = s.stackRegs := rfl
@[simp] theorem State.detect_upd : (s.detect r).upd = s.upd := rfl
@[simp] theorem State.detect_updNext : (s.detect r).updNext = s.updNext := rfl
@[simp] theorem State.detect_posted : (s.detect r).posted = s.posted := rfl
@[simp] theorem State.detect_xl : (s.detect r).xl = s.xl := rfl
@[simp] theorem State.detect_grids : (s.detect r).grids = s.grids := rfl
@[simp] theorem State.detect_evts : (s.detect r).evts = s.evts := rfl
@[simp] theorem State.detect_frames : (s.detect r).frames = s.frames := rfl
@[simp] theorem State.detect_out : (s.detect r).out = s.out := rfl
@[simp] theorem State.detect_remotes : (s.detect r).remotes = s.remotes := rfl
@[simp] theorem State.detect_side : (s.detect r).side = s.side := rfl
@[simp] theorem State.detect_nextTag : (s.detect r).nextTag = s.nextTag := rfl
@[simp] theorem State.detect_sq : (s.detect r).sq = s.sq := rfl
@[simp] theorem State.detect_eq : (s.detect r).eq = s.eq := rfl
@[simp] theorem State.detect_mode : (s.detect r).mode = s.mode := rfl
@[simp] theorem State.detect_lim : (s.detect r).lim = s.lim := rfl
@[simp] theorem State.detect_holds : (s.detect r).holds = s.holds := rfl
@[simp] theorem State.detect_epoch : (s.detect r).epoch = s.epoch := rfl
@[simp] theorem State.detect_time : (s.detect r).time = s.time := rfl
@[simp] theorem State.detect_skip : (s.detect r).skip = s.skip := rfl
@[simp] theorem State.detect_devId : (s.detect r).devId = s.devId := rfl
@[simp] theorem State.detect_devRing : (s.detect r).devRing = s.devRing := rfl
@[simp] theorem State.detect_lnk : (s.detect r).lnk = s.lnk := rfl
@[simp] theorem State.detect_host : (s.detect r).host = s.host := rfl
@[simp] theorem State.detect_dsp : (s.detect r).dsp = s.dsp := rfl
@[simp] theorem State.detect_clu : (s.detect r).clu = s.clu := rfl
@[simp] theorem State.detect_rails : (s.detect r).rails = s.rails := rfl
@[simp] theorem State.detect_pwr : (s.detect r).pwr = s.pwr := rfl
@[simp] theorem State.detect_eft : (s.detect r).eft = s.eft := rfl
@[simp] theorem State.detect_pins : (s.detect r).pins = s.pins := rfl
@[simp] theorem State.detect_mp : (s.detect r).mp = s.mp := rfl
@[simp] theorem State.detect_sec : (s.detect r).sec = s.sec := rfl
@[simp] theorem State.detect_flash : (s.detect r).flash = s.flash := rfl
@[simp] theorem State.detect_sess : (s.detect r).sess = s.sess := rfl
@[simp] theorem State.detect_i3c : (s.detect r).i3c = s.i3c := rfl
@[simp] theorem State.detect_jtag : (s.detect r).jtag = s.jtag := rfl

end

/-! ### sendEvt -/

section

variable (s : State) (c : Nat) (n : W32) (a : EvtSrc)

@[simp] theorem State.sendEvt_pending : (s.sendEvt c n a).pending = s.pending := rfl
@[simp] theorem State.sendEvt_freeCtr : (s.sendEvt c n a).freeCtr = s.freeCtr := rfl
@[simp] theorem State.sendEvt_tiles : (s.sendEvt c n a).tiles = s.tiles := rfl
@[simp] theorem State.sendEvt_dram : (s.sendEvt c n a).dram = s.dram := rfl
@[simp] theorem State.sendEvt_dramRind : (s.sendEvt c n a).dramRind = s.dramRind := rfl
@[simp] theorem State.sendEvt_hostMem : (s.sendEvt c n a).hostMem = s.hostMem := rfl
@[simp] theorem State.sendEvt_stackRegs : (s.sendEvt c n a).stackRegs = s.stackRegs := rfl
@[simp] theorem State.sendEvt_upd : (s.sendEvt c n a).upd = s.upd := rfl
@[simp] theorem State.sendEvt_updNext : (s.sendEvt c n a).updNext = s.updNext := rfl
@[simp] theorem State.sendEvt_posted : (s.sendEvt c n a).posted = s.posted := rfl
@[simp] theorem State.sendEvt_xl : (s.sendEvt c n a).xl = s.xl := rfl
@[simp] theorem State.sendEvt_grids : (s.sendEvt c n a).grids = s.grids := rfl
@[simp] theorem State.sendEvt_evts : (s.sendEvt c n a).evts = s.evts ++ [⟨c, n, a⟩] := rfl
@[simp] theorem State.sendEvt_frames : (s.sendEvt c n a).frames = s.frames := rfl
@[simp] theorem State.sendEvt_err : (s.sendEvt c n a).err = s.err := rfl
@[simp] theorem State.sendEvt_out : (s.sendEvt c n a).out = s.out := rfl
@[simp] theorem State.sendEvt_remotes : (s.sendEvt c n a).remotes = s.remotes := rfl
@[simp] theorem State.sendEvt_side : (s.sendEvt c n a).side = s.side := rfl
@[simp] theorem State.sendEvt_nextTag : (s.sendEvt c n a).nextTag = s.nextTag := rfl
@[simp] theorem State.sendEvt_sq : (s.sendEvt c n a).sq = s.sq := rfl
@[simp] theorem State.sendEvt_eq : (s.sendEvt c n a).eq = s.eq := rfl
@[simp] theorem State.sendEvt_mode : (s.sendEvt c n a).mode = s.mode := rfl
@[simp] theorem State.sendEvt_lim : (s.sendEvt c n a).lim = s.lim := rfl
@[simp] theorem State.sendEvt_holds : (s.sendEvt c n a).holds = s.holds := rfl
@[simp] theorem State.sendEvt_epoch : (s.sendEvt c n a).epoch = s.epoch := rfl
@[simp] theorem State.sendEvt_time : (s.sendEvt c n a).time = s.time := rfl
@[simp] theorem State.sendEvt_skip : (s.sendEvt c n a).skip = s.skip := rfl
@[simp] theorem State.sendEvt_devId : (s.sendEvt c n a).devId = s.devId := rfl
@[simp] theorem State.sendEvt_devRing : (s.sendEvt c n a).devRing = s.devRing := rfl
@[simp] theorem State.sendEvt_lnk : (s.sendEvt c n a).lnk = s.lnk := rfl
@[simp] theorem State.sendEvt_host : (s.sendEvt c n a).host = s.host := rfl
@[simp] theorem State.sendEvt_dsp : (s.sendEvt c n a).dsp = s.dsp := rfl
@[simp] theorem State.sendEvt_clu : (s.sendEvt c n a).clu = s.clu := rfl
@[simp] theorem State.sendEvt_rails : (s.sendEvt c n a).rails = s.rails := rfl
@[simp] theorem State.sendEvt_pwr : (s.sendEvt c n a).pwr = s.pwr := rfl
@[simp] theorem State.sendEvt_eft : (s.sendEvt c n a).eft = s.eft := rfl
@[simp] theorem State.sendEvt_pins : (s.sendEvt c n a).pins = s.pins := rfl
@[simp] theorem State.sendEvt_mp : (s.sendEvt c n a).mp = s.mp := rfl
@[simp] theorem State.sendEvt_sec : (s.sendEvt c n a).sec = s.sec := rfl
@[simp] theorem State.sendEvt_flash : (s.sendEvt c n a).flash = s.flash := rfl
@[simp] theorem State.sendEvt_sess : (s.sendEvt c n a).sess = s.sess := rfl
@[simp] theorem State.sendEvt_i3c : (s.sendEvt c n a).i3c = s.i3c := rfl
@[simp] theorem State.sendEvt_jtag : (s.sendEvt c n a).jtag = s.jtag := rfl

end

/-! ### draw -/

section

variable (s : State)

@[simp] theorem State.draw_pending : s.draw.2.pending = s.pending := rfl
@[simp] theorem State.draw_freeCtr : s.draw.2.freeCtr = s.freeCtr + 1 := rfl
@[simp] theorem State.draw_tiles : s.draw.2.tiles = s.tiles := rfl
@[simp] theorem State.draw_dram : s.draw.2.dram = s.dram := rfl
@[simp] theorem State.draw_dramRind : s.draw.2.dramRind = s.dramRind := rfl
@[simp] theorem State.draw_hostMem : s.draw.2.hostMem = s.hostMem := rfl
@[simp] theorem State.draw_stackRegs : s.draw.2.stackRegs = s.stackRegs := rfl
@[simp] theorem State.draw_upd : s.draw.2.upd = s.upd := rfl
@[simp] theorem State.draw_updNext : s.draw.2.updNext = s.updNext := rfl
@[simp] theorem State.draw_posted : s.draw.2.posted = s.posted := rfl
@[simp] theorem State.draw_xl : s.draw.2.xl = s.xl := rfl
@[simp] theorem State.draw_grids : s.draw.2.grids = s.grids := rfl
@[simp] theorem State.draw_evts : s.draw.2.evts = s.evts := rfl
@[simp] theorem State.draw_frames : s.draw.2.frames = s.frames := rfl
@[simp] theorem State.draw_err : s.draw.2.err = s.err := rfl
@[simp] theorem State.draw_out : s.draw.2.out = s.out := rfl
@[simp] theorem State.draw_remotes : s.draw.2.remotes = s.remotes := rfl
@[simp] theorem State.draw_side : s.draw.2.side = s.side := rfl
@[simp] theorem State.draw_nextTag : s.draw.2.nextTag = s.nextTag := rfl
@[simp] theorem State.draw_sq : s.draw.2.sq = s.sq := rfl
@[simp] theorem State.draw_eq : s.draw.2.eq = s.eq := rfl
@[simp] theorem State.draw_mode : s.draw.2.mode = s.mode := rfl
@[simp] theorem State.draw_lim : s.draw.2.lim = s.lim := rfl
@[simp] theorem State.draw_holds : s.draw.2.holds = s.holds := rfl
@[simp] theorem State.draw_epoch : s.draw.2.epoch = s.epoch := rfl
@[simp] theorem State.draw_time : s.draw.2.time = s.time := rfl
@[simp] theorem State.draw_skip : s.draw.2.skip = s.skip := rfl
@[simp] theorem State.draw_devId : s.draw.2.devId = s.devId := rfl
@[simp] theorem State.draw_devRing : s.draw.2.devRing = s.devRing := rfl
@[simp] theorem State.draw_lnk : s.draw.2.lnk = s.lnk := rfl
@[simp] theorem State.draw_host : s.draw.2.host = s.host := rfl
@[simp] theorem State.draw_dsp : s.draw.2.dsp = s.dsp := rfl
@[simp] theorem State.draw_clu : s.draw.2.clu = s.clu := rfl
@[simp] theorem State.draw_rails : s.draw.2.rails = s.rails := rfl
@[simp] theorem State.draw_pwr : s.draw.2.pwr = s.pwr := rfl
@[simp] theorem State.draw_eft : s.draw.2.eft = s.eft := rfl
@[simp] theorem State.draw_pins : s.draw.2.pins = s.pins := rfl
@[simp] theorem State.draw_mp : s.draw.2.mp = s.mp := rfl
@[simp] theorem State.draw_sec : s.draw.2.sec = s.sec := rfl
@[simp] theorem State.draw_flash : s.draw.2.flash = s.flash := rfl
@[simp] theorem State.draw_sess : s.draw.2.sess = s.sess := rfl
@[simp] theorem State.draw_i3c : s.draw.2.i3c = s.i3c := rfl
@[simp] theorem State.draw_jtag : s.draw.2.jtag = s.jtag := rfl

end

/-! ### modPort -/

section

variable (s : State) (p : Nat) (f : Port → Port)

@[simp] theorem State.modPort_pending : (s.modPort p f).pending = s.pending := rfl
@[simp] theorem State.modPort_freeCtr : (s.modPort p f).freeCtr = s.freeCtr := rfl
@[simp] theorem State.modPort_tiles : (s.modPort p f).tiles = s.tiles := rfl
@[simp] theorem State.modPort_dram : (s.modPort p f).dram = s.dram := rfl
@[simp] theorem State.modPort_dramRind : (s.modPort p f).dramRind = s.dramRind := rfl
@[simp] theorem State.modPort_hostMem : (s.modPort p f).hostMem = s.hostMem := rfl
@[simp] theorem State.modPort_stackRegs : (s.modPort p f).stackRegs = s.stackRegs := rfl
@[simp] theorem State.modPort_upd : (s.modPort p f).upd = s.upd := rfl
@[simp] theorem State.modPort_updNext : (s.modPort p f).updNext = s.updNext := rfl
@[simp] theorem State.modPort_posted : (s.modPort p f).posted = s.posted := rfl
@[simp] theorem State.modPort_xl : (s.modPort p f).xl = s.xl := rfl
@[simp] theorem State.modPort_grids : (s.modPort p f).grids = s.grids := rfl
@[simp] theorem State.modPort_evts : (s.modPort p f).evts = s.evts := rfl
@[simp] theorem State.modPort_frames : (s.modPort p f).frames = s.frames := rfl
@[simp] theorem State.modPort_err : (s.modPort p f).err = s.err := rfl
@[simp] theorem State.modPort_out : (s.modPort p f).out = s.out := rfl
@[simp] theorem State.modPort_remotes : (s.modPort p f).remotes = s.remotes := rfl
@[simp] theorem State.modPort_side : (s.modPort p f).side = s.side := rfl
@[simp] theorem State.modPort_nextTag : (s.modPort p f).nextTag = s.nextTag := rfl
@[simp] theorem State.modPort_sq : (s.modPort p f).sq = s.sq := rfl
@[simp] theorem State.modPort_eq : (s.modPort p f).eq = s.eq := rfl
@[simp] theorem State.modPort_mode : (s.modPort p f).mode = s.mode := rfl
@[simp] theorem State.modPort_lim : (s.modPort p f).lim = s.lim := rfl
@[simp] theorem State.modPort_holds : (s.modPort p f).holds = s.holds := rfl
@[simp] theorem State.modPort_epoch : (s.modPort p f).epoch = s.epoch := rfl
@[simp] theorem State.modPort_time : (s.modPort p f).time = s.time := rfl
@[simp] theorem State.modPort_skip : (s.modPort p f).skip = s.skip := rfl
@[simp] theorem State.modPort_devId : (s.modPort p f).devId = s.devId := rfl
@[simp] theorem State.modPort_devRing : (s.modPort p f).devRing = s.devRing := rfl
@[simp] theorem State.modPort_host : (s.modPort p f).host = s.host := rfl
@[simp] theorem State.modPort_dsp : (s.modPort p f).dsp = s.dsp := rfl
@[simp] theorem State.modPort_clu : (s.modPort p f).clu = s.clu := rfl
@[simp] theorem State.modPort_rails : (s.modPort p f).rails = s.rails := rfl
@[simp] theorem State.modPort_pwr : (s.modPort p f).pwr = s.pwr := rfl
@[simp] theorem State.modPort_eft : (s.modPort p f).eft = s.eft := rfl
@[simp] theorem State.modPort_pins : (s.modPort p f).pins = s.pins := rfl
@[simp] theorem State.modPort_mp : (s.modPort p f).mp = s.mp := rfl
@[simp] theorem State.modPort_sec : (s.modPort p f).sec = s.sec := rfl
@[simp] theorem State.modPort_flash : (s.modPort p f).flash = s.flash := rfl
@[simp] theorem State.modPort_sess : (s.modPort p f).sess = s.sess := rfl
@[simp] theorem State.modPort_i3c : (s.modPort p f).i3c = s.i3c := rfl
@[simp] theorem State.modPort_jtag : (s.modPort p f).jtag = s.jtag := rfl

end

/-! ### modClu -/

section

variable (s : State) (f : Clu → Clu)

@[simp] theorem State.modClu_pending : (s.modClu f).pending = s.pending := rfl
@[simp] theorem State.modClu_freeCtr : (s.modClu f).freeCtr = s.freeCtr := rfl
@[simp] theorem State.modClu_tiles : (s.modClu f).tiles = s.tiles := rfl
@[simp] theorem State.modClu_dram : (s.modClu f).dram = s.dram := rfl
@[simp] theorem State.modClu_dramRind : (s.modClu f).dramRind = s.dramRind := rfl
@[simp] theorem State.modClu_hostMem : (s.modClu f).hostMem = s.hostMem := rfl
@[simp] theorem State.modClu_stackRegs : (s.modClu f).stackRegs = s.stackRegs := rfl
@[simp] theorem State.modClu_upd : (s.modClu f).upd = s.upd := rfl
@[simp] theorem State.modClu_updNext : (s.modClu f).updNext = s.updNext := rfl
@[simp] theorem State.modClu_posted : (s.modClu f).posted = s.posted := rfl
@[simp] theorem State.modClu_xl : (s.modClu f).xl = s.xl := rfl
@[simp] theorem State.modClu_grids : (s.modClu f).grids = s.grids := rfl
@[simp] theorem State.modClu_evts : (s.modClu f).evts = s.evts := rfl
@[simp] theorem State.modClu_frames : (s.modClu f).frames = s.frames := rfl
@[simp] theorem State.modClu_err : (s.modClu f).err = s.err := rfl
@[simp] theorem State.modClu_out : (s.modClu f).out = s.out := rfl
@[simp] theorem State.modClu_remotes : (s.modClu f).remotes = s.remotes := rfl
@[simp] theorem State.modClu_side : (s.modClu f).side = s.side := rfl
@[simp] theorem State.modClu_nextTag : (s.modClu f).nextTag = s.nextTag := rfl
@[simp] theorem State.modClu_sq : (s.modClu f).sq = s.sq := rfl
@[simp] theorem State.modClu_eq : (s.modClu f).eq = s.eq := rfl
@[simp] theorem State.modClu_mode : (s.modClu f).mode = s.mode := rfl
@[simp] theorem State.modClu_lim : (s.modClu f).lim = s.lim := rfl
@[simp] theorem State.modClu_holds : (s.modClu f).holds = s.holds := rfl
@[simp] theorem State.modClu_epoch : (s.modClu f).epoch = s.epoch := rfl
@[simp] theorem State.modClu_time : (s.modClu f).time = s.time := rfl
@[simp] theorem State.modClu_skip : (s.modClu f).skip = s.skip := rfl
@[simp] theorem State.modClu_devId : (s.modClu f).devId = s.devId := rfl
@[simp] theorem State.modClu_devRing : (s.modClu f).devRing = s.devRing := rfl
@[simp] theorem State.modClu_lnk : (s.modClu f).lnk = s.lnk := rfl
@[simp] theorem State.modClu_host : (s.modClu f).host = s.host := rfl
@[simp] theorem State.modClu_dsp : (s.modClu f).dsp = s.dsp := rfl
@[simp] theorem State.modClu_clu : (s.modClu f).clu = f s.clu := rfl
@[simp] theorem State.modClu_rails : (s.modClu f).rails = s.rails := rfl
@[simp] theorem State.modClu_pwr : (s.modClu f).pwr = s.pwr := rfl
@[simp] theorem State.modClu_eft : (s.modClu f).eft = s.eft := rfl
@[simp] theorem State.modClu_pins : (s.modClu f).pins = s.pins := rfl
@[simp] theorem State.modClu_mp : (s.modClu f).mp = s.mp := rfl
@[simp] theorem State.modClu_sec : (s.modClu f).sec = s.sec := rfl
@[simp] theorem State.modClu_flash : (s.modClu f).flash = s.flash := rfl
@[simp] theorem State.modClu_sess : (s.modClu f).sess = s.sess := rfl
@[simp] theorem State.modClu_i3c : (s.modClu f).i3c = s.i3c := rfl
@[simp] theorem State.modClu_jtag : (s.modClu f).jtag = s.jtag := rfl

end

end Sys2Proof.Machine
end

