-- ==== Sys2Proof/Laws/Memory.lean ====
section
/-! SUPPORT. Every memory operation keeps the memories canonical, and a write leaves every other byte alone. -/

namespace Sys2Proof.Machine

/-! ### What canonical needs -/

theorem Tile.reset_wf : Tile.reset.spad.wf ∧ Tile.reset.vat.wf := ⟨Mem.empty_wf, Mem.empty_wf⟩

/-- In a canonical state every tile's memories are canonical, listed or not. -/
theorem State.canon_tile (s : State) (h : s.canon) (t : Nat) : (s.tile t).spad.wf ∧ (s.tile t).vat.wf := by
  rcases smGet_mem Tile.reset s.tiles t with he | hm
  · unfold State.tile; rw [he]; exact Tile.reset_wf
  · exact h.2.2.2 _ hm

theorem State.canon_setTile (s : State) (t : Nat) (v : Tile) (h : s.canon) (h1 : v.spad.wf) (h2 : v.vat.wf) :
    (s.setTile t v).canon := by
  refine ⟨smSet_wf _ _ _ _ h.1, h.2.1, h.2.2.1, fun p hp => ?_⟩
  rcases smSet_keys _ _ _ _ _ hp with hm | he
  · exact h.2.2.2 p hm
  · rw [he.1]; exact ⟨h1, h2⟩

theorem State.canon_modTile (s : State) (t : Nat) (f : Tile → Tile) (h : s.canon)
    (hf : ∀ v : Tile, v.spad.wf → v.vat.wf → (f v).spad.wf ∧ (f v).vat.wf) : (s.modTile t f).canon :=
  have ht := s.canon_tile h t
  s.canon_setTile t _ h (hf _ ht.1 ht.2).1 (hf _ ht.1 ht.2).2

/-- A change of a tile that leaves its memories alone. -/
theorem State.canon_modTile_same (s : State) (t : Nat) (f : Tile → Tile) (h : s.canon)
    (h1 : ∀ v : Tile, (f v).spad = v.spad) (h2 : ∀ v : Tile, (f v).vat = v.vat) : (s.modTile t f).canon :=
  s.canon_modTile t f h (fun v a b => ⟨by rw [h1]; exact a, by rw [h2]; exact b⟩)

/-- A change outside the tiles and memories. -/
theorem State.canon_of_eq (s u : State) (h : s.canon) (h1 : u.tiles = s.tiles) (h2 : u.dram = s.dram) (h3 : u.hostMem = s.hostMem) :
    u.canon := by
  unfold State.canon
  rw [h1, h2, h3]
  exact h

theorem State.canon_detect (s : State) (r : Rec) (h : s.canon) : (s.detect r).canon := s.canon_of_eq _ h rfl rfl rfl

theorem State.canon_setStrand (s : State) (t k : Nat) (x : Strand) (h : s.canon) : (s.setStrand t k x).canon :=
  s.canon_modTile_same t _ h (fun _ => rfl) (fun _ => rfl)

/-! ### Memory operations -/

/-- A command to a stack changes the stack, the draws and the records at most (R258). -/
theorem State.stackCmd_frame (s : State) (n : Nat) (c : Option Nat) :
    s.stackCmd n c = { s with
      stackRegs := (s.stackCmd n c).stackRegs, freeCtr := (s.stackCmd n c).freeCtr, err := (s.stackCmd n c).err } := by
  unfold State.stackCmd
  split <;> rfl

theorem State.dramCmd_frame (s : State) (l : Loc) (c : Option Nat) :
    s.dramCmd l c = { s with
      stackRegs := (s.dramCmd l c).stackRegs, freeCtr := (s.dramCmd l c).freeCtr, err := (s.dramCmd l c).err } := by
  cases l with
  | dram a => exact s.stackCmd_frame _ c
  | _ => rfl

@[simp] theorem State.dramCmd_tiles (s : State) (l : Loc) (c : Option Nat) : (s.dramCmd l c).tiles = s.tiles := by rw [s.dramCmd_frame]
@[simp] theorem State.dramCmd_dram (s : State) (l : Loc) (c : Option Nat) : (s.dramCmd l c).dram = s.dram := by rw [s.dramCmd_frame]
@[simp] theorem State.dramCmd_hostMem (s : State) (l : Loc) (c : Option Nat) : (s.dramCmd l c).hostMem = s.hostMem := by
  rw [s.dramCmd_frame]

@[simp] theorem State.dramCmd_spad (s : State) (t o : Nat) (c : Option Nat) : s.dramCmd (.spad t o) c = s := rfl
@[simp] theorem State.dramCmd_vat (s : State) (t o : Nat) (c : Option Nat) : s.dramCmd (.vat t o) c = s := rfl
@[simp] theorem State.dramCmd_host (s : State) (a : Nat) (c : Option Nat) : s.dramCmd (.host a) c = s := rfl

theorem State.canon_dramCmd (s : State) (l : Loc) (c : Option Nat) (h : s.canon) : (s.dramCmd l c).canon :=
  s.canon_of_eq _ h (s.dramCmd_tiles l c) (s.dramCmd_dram l c) (s.dramCmd_hostMem l c)

theorem State.canon_setMem (s : State) (l : Loc) (m : Mem) (h : s.canon) (hm : m.wf) : (s.setMem l m).canon := by
  cases l with
  | dram a => exact ⟨h.1, hm, h.2.2.1, h.2.2.2⟩
  | spad t o => exact s.canon_modTile t _ h (fun _ _ b => ⟨hm, b⟩)
  | vat t o => exact s.canon_modTile t _ h (fun _ a _ => ⟨a, hm⟩)
  | host a => exact ⟨h.1, h.2.1, hm, h.2.2.2⟩
  | resv t o => exact h
  | csr a => exact h
  | unassigned => exact h

/-- The memory of a place is canonical. -/
theorem State.memOf_wf (s : State) (l : Loc) (m : Mem) (o : Nat) (h : s.canon) (hm : s.memOf l = some (m, o)) : m.wf := by
  cases l with
  | dram a => cases hm; exact h.2.1
  | spad t o => cases hm; exact (s.canon_tile h t).1
  | vat t o => cases hm; exact (s.canon_tile h t).2
  | host a => cases hm; exact h.2.2.1
  | resv t o => cases hm
  | csr a => cases hm
  | unassigned => cases hm

theorem State.canon_eccEvent (s : State) (l : Loc) (y : BitVec 7) (c : Option Nat) (h : s.canon) : (s.eccEvent l y c).canon := by
  unfold State.eccEvent
  dsimp only
  split
  · exact h
  · exact h
  · refine State.canon_detect _ _ ?_
    split
    · exact s.canon_of_eq _ h rfl rfl rfl
    · exact s.canon_modTile_same _ _ h (fun _ => rfl) (fun _ => rfl)
    · exact h
  · refine State.canon_detect _ _ ?_
    split
    · exact s.canon_of_eq _ h rfl rfl rfl
    · exact h

theorem State.canon_readLoc (s : State) (l : Loc) (c : Option Nat) (h : s.canon) : (s.readLoc l c).2.canon := by
  unfold State.readLoc
  dsimp only
  replace h := s.canon_dramCmd l c h
  revert h
  generalize s.dramCmd l c = s
  intro h
  cases hm : s.memOf l with
  | none => dsimp only; split <;> exact h
  | some p =>
    obtain ⟨m, o⟩ := p
    dsimp only
    split
    · exact h
    · exact State.canon_eccEvent _ _ _ _ (s.canon_setMem l _ h (Mem.afterRead_wf _ _ _ (s.memOf_wf l m o h hm)))

theorem State.canon_clearRind (s : State) (l : Loc) (h : s.canon) : (s.clearRind l).canon := by
  cases l with
  | dram a => exact s.canon_of_eq _ h rfl rfl rfl
  | spad t o => exact s.canon_modTile_same t _ h (fun _ => rfl) (fun _ => rfl)
  | _ => exact h

/-- A write that reaches no memory at most logs a record. -/
theorem State.canon_astray (s : State) (w : Nat) (l : Loc) (h : s.canon) :
    (if s.eftDark l.addr then s else s.csrAcc w l.addr).canon := by
  split
  · exact h
  · exact State.canon_detect _ _ h

theorem State.canon_writeLoc (s : State) (w : Nat) (l : Loc) (v : W32) (mark : Bool) (h : s.canon) : (s.writeLoc w l v mark).canon := by
  have hd := s.canon_dramCmd l none h
  cases l with
  | dram a => exact State.canon_clearRind _ _ (show State.canon _ from ⟨hd.1, Mem.put32_wf _ _ _ _ hd.2.1, hd.2.2.1, hd.2.2.2⟩)
  | spad t o => exact State.canon_clearRind _ _ (s.canon_modTile t _ h (fun _ a b => ⟨Mem.put32_wf _ _ _ _ a, b⟩))
  | host a => exact ⟨h.1, h.2.1, Mem.put32_wf _ _ _ _ h.2.2.1, h.2.2.2⟩
  | vat t o => exact s.canon_astray w (.vat t o) h
  | resv t o => exact s.canon_astray w (.resv t o) h
  | csr a => exact s.canon_astray w (.csr a) h
  | unassigned => exact h

/-- Running work's words keep the memories canonical. -/
theorem State.canon_putWord (s : State) (w : Nat) (l : Loc) (v : W32) (mark : Bool) (h : s.canon) : (s.putWord w l v mark).canon := by
  have hm : (s.made v).2.canon := by
    unfold State.made
    split
    · exact s.canon_of_eq _ h rfl rfl rfl
    · exact h
  exact State.canon_writeLoc _ _ _ _ _ hm

theorem State.canon_readAll (f : Nat → Loc) (l : List Nat) (s : State) (h : s.canon) :
    (l.foldl (fun s x => (s.readLoc (f x) none).2) s).canon := by
  induction l generalizing s with
  | nil => exact h
  | cons x l ih => exact ih _ (s.canon_readLoc (f x) none h)

theorem State.canon_writeBytesLoc (s : State) (w : Nat) (l : Loc) (b : List Byte) (h : s.canon) : (s.writeBytesLoc w l b).canon := by
  cases l with
  | dram a =>
    have h := State.canon_readAll .dram (partWords a b.length) _ (s.canon_dramCmd (.dram a) none h)
    exact State.canon_clearRind _ _ (show State.canon _ from ⟨h.1, Mem.putBytes_wf _ _ _ h.2.1, h.2.2.1, h.2.2.2⟩)
  | spad t o =>
    have h := State.canon_readAll (.spad t) (partWords o b.length) s h
    exact State.canon_clearRind _ _ (State.canon_modTile _ t _ h (fun _ a b => ⟨Mem.putBytes_wf _ _ _ a, b⟩))
  | host a => exact ⟨h.1, h.2.1, Mem.putBytes_wf _ _ _ h.2.2.1, h.2.2.2⟩
  | vat t o => exact s.canon_astray w (.vat t o) h
  | resv t o => exact s.canon_astray w (.resv t o) h
  | csr a => exact s.canon_astray w (.csr a) h
  | unassigned => exact h

theorem State.canon_writeVat (s : State) (t o : Nat) (v : W32) (mark : Bool) (h : s.canon) : (s.writeVat t o v mark).canon :=
  s.canon_modTile t _ h (fun _ a b => ⟨a, Mem.put32_wf _ _ _ _ b⟩)

/-! ### What units of work write and leave -/

theorem Mem.foldl_wf {α : Type} (f : Mem → α → Mem) (hf : ∀ m x, m.wf → (f m x).wf) (l : List α) (m : Mem) (h : m.wf) : (l.foldl f m).wf := by
  induction l generalizing m with
  | nil => exact h
  | cons x l ih => exact ih _ (hf m x h)

/-- Changes of tiles, one after another, each of which keeps the memories canonical. -/
theorem State.canon_foldl {α : Type} (f : State → α → State) (hf : ∀ u x, u.canon → (f u x).canon) (l : List α) (s : State) (h : s.canon) :
    (l.foldl f s).canon := by
  induction l generalizing s with
  | nil => exact h
  | cons x l ih => exact ih _ (hf s x h)

theorem State.canon_markLoc (s : State) (l : Loc) (h : s.canon) : (s.markLoc l).canon := by
  unfold State.markLoc
  cases hm : s.memOf l with
  | none => exact h
  | some p => exact s.canon_setMem l _ h (Mem.setSyn_wf _ _ _ (s.memOf_wf l p.1 p.2 h hm))

theorem State.canon_keepMark (s : State) (l : Loc) (h : s.canon) : (s.keepMark l).canon := by
  have hm := s.canon_markLoc l h
  cases l with
  | vat t o => exact State.canon_modTile_same _ t _ hm (fun _ => rfl) (fun _ => rfl)
  | _ => exact hm

theorem State.canon_keepMarks (pre post : State) (h : pre.canon) : (pre.keepMarks post).canon :=
  State.canon_foldl _ (fun u _ hu => u.canon_keepMark _ hu) _ _ h

/-- What a failed unit leaves is canonical where the state before it was. -/
theorem State.canon_unitUndo (pre post : State) (t : Nat) (h : pre.canon) : (pre.unitUndo post t).canon :=
  State.canon_of_eq ((pre.keepMarks post).modTile t (fun v => { v with dma := { v.dma with
      cache := (post.tile t).dma.cache, xlhit := (post.tile t).dma.xlhit, xlmiss := (post.tile t).dma.xlmiss } })) _
    (State.canon_modTile_same _ t _ (pre.canon_keepMarks post h) (fun _ => rfl) (fun _ => rfl)) rfl rfl rfl

theorem State.canon_made (s : State) (v : W32) (h : s.canon) : (s.made v).2.canon := by
  unfold State.made
  split
  · exact s.canon_of_eq _ h rfl rfl rfl
  · exact h

theorem State.canon_writeAt (s : State) (w : Nat) (l : Loc) (v : W32) (m : Bool) (h : s.canon) : (s.writeAt w l v m).canon := by
  unfold State.writeAt
  split
  · exact s.canon_putWord _ _ _ _ h
  · have hb := State.canon_writeBytesLoc _ w l (leBytes 4 (s.made v).1.toNat) (s.canon_made v h)
    dsimp only
    split
    · exact State.canon_markLoc _ _ (State.canon_markLoc _ _ hb)
    · exact hb

theorem State.canon_putWords (s : State) (w : Nat) (l : Loc) (ws : List (W32 × Bool)) (h : s.canon) : (s.putWords w l ws).canon := by
  induction ws generalizing s l with
  | nil => exact h
  | cons x ws ih => exact ih _ _ (s.canon_writeAt w l x.1 x.2 h)

theorem State.canon_poisonVat (s : State) (t o : Nat) (h : s.canon) : (s.poisonVat t o).canon := by
  unfold State.poisonVat
  dsimp only
  split
  · exact s.canon_modTile t _ h (fun _ a b => ⟨a, Mem.setSyn_wf _ _ _ b⟩)
  · exact State.canon_modTile _ t _ (s.canon_modTile_same t _ h (fun _ => rfl) (fun _ => rfl)) (fun _ a b => ⟨a, Mem.setSyn_wf _ _ _ b⟩)

theorem State.canon_zeroVat (s : State) (t ctx a n : Nat) (joined more : Bool) (h : s.canon) : (s.zeroVat t ctx a n joined more).canon := by
  have hr (b : Bool) (u : State) (hu : u.canon) (l : Loc) (c : Option Nat) : (if b then (u.readLoc l c).2 else u).canon := by
    cases b
    · exact hu
    · exact u.canon_readLoc l c hu
  exact State.canon_modTile _ t _ (hr _ _ (hr _ _ h _ _) _ _)
    (fun _ x b => ⟨x, Mem.foldl_wf _ (fun _ _ h => Mem.setSyn_wf _ _ _ h) _ _ (Mem.putBytes_wf _ _ _ b)⟩)

/-- A committed element keeps the memories canonical. -/
theorem State.canon_putC (s : State) (t : Nat) (vat : Bool) (w : ShWrite) (h : s.canon) : (s.putC t vat w).canon := by
  have hm := s.canon_made w.v h
  unfold State.putC
  dsimp only
  split
  · have hb : (if vat = true then
        (s.made w.v).2.modTile t (fun x => { x with vat := x.vat.putBytes w.addr (leBytes 4 (s.made w.v).1.toNat) })
        else (s.made w.v).2.writeBytesLoc t (.spad t w.addr) (leBytes 4 (s.made w.v).1.toNat)).canon := by
      split
      · exact State.canon_modTile _ t _ hm (fun _ a b => ⟨a, Mem.putBytes_wf _ _ _ b⟩)
      · exact State.canon_writeBytesLoc _ _ _ _ hm
    split
    · refine State.canon_foldl _ (fun u a hu => ?_) _ _ hb
      split
      · exact u.canon_poisonVat t a hu
      · exact u.canon_modTile t _ hu (fun _ x b => ⟨Mem.setSyn_wf _ _ _ x, b⟩)
    · exact hb
  · split
    · refine State.canon_writeVat _ _ _ _ _ ?_
      split
      · exact State.canon_modTile_same _ _ _ hm (fun _ => rfl) (fun _ => rfl)
      · exact hm
    · exact State.canon_writeLoc _ _ _ _ _ hm

/-! ### Frames of memory operations -/

theorem Mem.byte_setSyn (m : Mem) (a b : Nat) (y : BitVec 7) : (m.setSyn a y).byte b = m.byte b := rfl

/-- A word write leaves every byte outside the word alone. -/
theorem Mem.byte_put32_other (m : Mem) (a b : Nat) (v : W32) (mark : Bool) (h : b < a ∨ a + 4 ≤ b) :
    (m.put32 a v mark).byte b = m.byte b := by
  refine (Mem.byte_setSyn _ _ _ _).trans (Mem.byte_put_other _ m a b ?_)
  have : (leBytes 4 v.toNat).length = 4 := rfl
  rw [this]; exact h

/-- A write of a scratchpad word: every other byte of that scratchpad, every other tile, and all but the tiles are as they were. -/
theorem State.writeLoc_spad_frame (s : State) (w t o : Nat) (v : W32) (mark : Bool) (h : smWf Tile.reset s.tiles) :
    (∀ b, b < o ∨ o + 4 ≤ b → ((s.writeLoc w (.spad t o) v mark).tile t).spad.byte b = (s.tile t).spad.byte b) ∧
    (∀ j, j ≠ t → (s.writeLoc w (.spad t o) v mark).tile j = s.tile j) ∧
    s.writeLoc w (.spad t o) v mark = { s with tiles := (s.writeLoc w (.spad t o) v mark).tiles } := by
  refine ⟨fun b hb => ?_, fun j hj => ?_, rfl⟩
  · show (((s.modTile t _).modTile t _).tile t).spad.byte b = _
    rw [State.tile_modTile _ _ _ (State.modTile_wf _ _ _ h), State.tile_modTile _ _ _ h]
    exact Mem.byte_put32_other _ _ _ _ _ hb
  · show ((s.modTile t _).modTile t _).tile j = _
    rw [State.tile_modTile_other _ _ _ _ hj, State.tile_modTile_other _ _ _ _ hj]

/-- A write of a DRAM word: every other byte of DRAM, and all but DRAM, its tags and what the command to the stack changes, are as they
were. -/
theorem State.writeLoc_dram_frame (s : State) (w a : Nat) (v : W32) (mark : Bool) :
    (∀ b, b < a ∨ a + 4 ≤ b → (s.writeLoc w (.dram a) v mark).dram.byte b = s.dram.byte b) ∧
    s.writeLoc w (.dram a) v mark =
      { s.dramCmd (.dram a) none with
        dram := (s.writeLoc w (.dram a) v mark).dram, dramRind := (s.writeLoc w (.dram a) v mark).dramRind } := by
  refine ⟨fun b hb => ?_, rfl⟩
  show ((s.dramCmd (.dram a) none).dram.put32 a v mark).byte b = _
  rw [s.dramCmd_dram]
  exact Mem.byte_put32_other _ _ _ _ _ hb

end Sys2Proof.Machine
end

