-- ==== Sys2Proof/Laws/Canon.lean ====
section
/-! SUPPORT. What writes memory beside the words of running work keeps it canonical: saves and restores, frames, the cross-check, and the
ends of power. With Laws/Memory.lean these are all the places where a memory changes. -/

namespace Sys2Proof.Machine

/-! ### Blocks of a memory -/

theorem smWf_filter {α : Type} (d : α) (p : Nat × α → Bool) (m : SMap α) (h : smWf d m) : smWf d (m.filter p) :=
  ⟨h.1.filter p, fun x hx => h.2 x (List.mem_filter.mp hx).1⟩

theorem smSet_foldl_wf {α β : Type} [DecidableEq α] (d : α) (k : β → Nat) (v : β → α) (l : List β) (m : SMap α) (h : smWf d m) :
    smWf d (l.foldl (fun m x => smSet d m (k x) (v x)) m) := by
  induction l generalizing m with
  | nil => exact h
  | cons x l ih => exact ih _ (smSet_wf _ _ _ _ h)

/-- A block taken over from any memory leaves a canonical one canonical. -/
theorem Mem.blit_wf (dst src : Mem) (o d len : Nat) (h : dst.wf) : (dst.blit src o d len).wf :=
  ⟨smSet_foldl_wf _ _ _ _ _ (smWf_filter _ _ _ h.1), smSet_foldl_wf _ _ _ _ _ (smWf_filter _ _ _ h.2)⟩

/-! ### Saves and restores -/

theorem State.canon_dram (s : State) (m : Mem) (h : s.canon) (hm : m.wf) : ({ s with dram := m } : State).canon := ⟨h.1, hm, h.2.2.1, h.2.2.2⟩

theorem State.canon_readFlaws (s : State) (m : Mem) (loc : Nat → Loc) (o len ctx : Nat) (h : s.canon) : (s.readFlaws m loc o len ctx).canon :=
  State.canon_foldl _ (fun u x hu => u.canon_readLoc (loc (4 * x.1)) (some ctx) hu) _ s h

theorem State.canon_draw (s : State) (h : s.canon) : s.draw.2.canon := s.canon_of_eq _ h rfl rfl rfl

theorem State.canon_freeFill (n : Nat) : ∀ (s : State) (a : Nat), s.canon → (s.freeFill a n).canon := by
  induction n with
  | zero => exact fun _ _ h => h
  | succ n ih =>
    intro s a h
    exact ih _ _ ((s.draw.2).canon_dram _ (s.canon_draw h) (Mem.put32_wf _ _ _ _ (Mem.put32_wf _ _ _ _ h.2.1)))

theorem State.canon_putArea (s : State) (a : Nat) (l : List Byte) (h : s.canon) : (s.putArea a l).canon :=
  s.canon_dram _ h (Mem.putBytes_wf _ _ _ h.2.1)

theorem State.canon_freshTags (s : State) (d len : Nat) (h : s.canon) : (s.freshTags d len).canon := s.canon_of_eq _ h rfl rfl rfl

theorem State.canon_physBytes (n : Nat) : ∀ (s : State) (a : Nat), s.canon → (s.physBytes a n).2.canon := by
  induction n with
  | zero => exact fun _ _ h => h
  | succ n ih => exact fun s a h => ih _ _ (s.canon_readLoc (locOf a) none h)

/-- A queue's descriptors in a save area, with their check bits. -/
theorem State.canon_putEntries (s : State) (f : Nat → Nat) (l : List (QEntry × Nat)) (h : s.canon) :
    (l.foldl (fun (s : State) (p : QEntry × Nat) =>
      let b := f p.2
      let s := s.putArea b (leBytes 64 p.1.d.toNat)
      { s with dram := p.1.syn.foldl (fun (m : Mem) (y : Nat × BitVec 7) => m.setSyn (b + 4 * y.1) y.2) s.dram }) s).canon :=
  State.canon_foldl _ (fun u p hu =>
    have ha := u.canon_putArea (f p.2) (leBytes 64 p.1.d.toNat) hu
    State.canon_dram _ _ ha (Mem.foldl_wf _ (fun _ _ hm => Mem.setSyn_wf _ _ _ hm) _ _ ha.2.1)) _ _ h

theorem State.canon_putQueues (s : State) (v : Tile) (f : Nat → Nat → Nat) (h : s.canon) :
    ((List.range 7).foldl (fun (s : State) (q : Nat) => (v.queue q).zipIdx.foldl (fun (s : State) (p : QEntry × Nat) =>
      let b := f q p.2
      let s := s.putArea b (leBytes 64 p.1.d.toNat)
      { s with dram := p.1.syn.foldl (fun (m : Mem) (y : Nat × BitVec 7) => m.setSyn (b + 4 * y.1) y.2) s.dram }) s) s).canon :=
  State.canon_foldl _ (fun u q hu => u.canon_putEntries (f q) (v.queue q).zipIdx hu) _ s h

theorem State.canon_blits (s : State) (m n : Mem) (a b c d e k : Nat) (h : s.canon) :
    ({ s with dram := (s.dram.blit m a b c).blit n d e k } : State).canon :=
  s.canon_dram _ h (Mem.blit_wf _ _ _ _ _ (Mem.blit_wf _ _ _ _ _ h.2.1))

/-- A tile's part of a save area is written into canonical memory. -/
theorem State.canon_saveTile (s : State) (base t : Nat) (h : s.canon) : (s.saveTile base t).canon := by
  unfold State.saveTile
  dsimp only
  exact State.canon_freshTags _ _ _ (State.canon_blits _ _ _ _ _ _ _ _ _ (State.canon_putQueues _ _ _ (State.canon_putArea _ _ _
    (State.canon_putArea _ _ _ (State.canon_freeFill _ _ _ (State.canon_readFlaws _ _ _ _ _ _ (s.canon_readFlaws _ _ _ _ _ h)))))))

/-- A tile's part of a save area comes back into canonical memories. -/
theorem State.canon_loadTile (s : State) (base t : Nat) (k : SavedTile) (h : s.canon) : (s.loadTile base t k).canon := by
  unfold State.loadTile
  exact State.canon_modTile _ t _ (State.canon_physBytes _ _ _ (s.canon_readFlaws _ _ _ _ _ h))
    (fun _ a b => ⟨Mem.blit_wf _ _ _ _ _ a, Mem.blit_wf _ _ _ _ _ b⟩)

/-! ### Frames -/

theorem State.canon_sendMsix (s : State) (n : Nat) (h : s.canon) : (s.sendMsix n).canon := by
  unfold State.sendMsix
  split <;> exact s.canon_of_eq _ h rfl rfl rfl

/-- A frame in host memory. -/
theorem State.canon_writeFrame (s : State) (c typ : Nat) (body : List Byte) (h : s.canon) : (s.writeFrame c typ body).canon := by
  unfold State.writeFrame
  split
  · exact h
  · have hb (a : Nat) (l : List Byte) (r : List EqRing) : ({ s with
        hostMem := s.hostMem.putBytes a l, eq := r } : State).canon :=
      ⟨h.1, h.2.1, Mem.putBytes_wf _ _ _ h.2.2.1, h.2.2.2⟩
    dsimp only
    split
    · exact State.canon_sendMsix _ _ (hb _ _ _)
    · exact hb _ _ _

/-! ### Free memories, and the ends of power -/

theorem freeWords_canon (n : Nat) : ∀ s : State, s.canon → (freeWords n s).2.canon := by
  induction n with
  | zero => exact fun _ h => h
  | succ n ih => exact fun s h => ih _ (s.canon_draw h)

theorem freeMem_canon (n : Nat) (s : State) (h : s.canon) : (freeMem n s).1.wf ∧ (freeMem n s).2.canon :=
  ⟨Mem.put_wf _ _ _ Mem.empty_wf, freeWords_canon n s h⟩

theorem State.reset_canon : State.reset.canon := ⟨smWf_nil _, Mem.empty_wf, Mem.empty_wf, fun _ h => nomatch h⟩

/-- A state in which all memories but the host's are as after a cold reset. -/
theorem State.canon_of_reset (u : State) (h1 : u.tiles = []) (h2 : u.dram = Mem.empty) (h3 : u.hostMem.wf) : u.canon := by
  refine ⟨?_, ?_, h3, ?_⟩
  · rw [h1]; exact smWf_nil _
  · rw [h2]; exact Mem.empty_wf
  · rw [h1]; exact fun _ h => nomatch h

theorem State.mirrorOwn_hostMem (s : State) : s.mirrorOwn.hostMem = s.hostMem := by
  unfold State.mirrorOwn
  generalize s.err.det.filter (·.eft) = l
  induction l generalizing s with
  | nil => rfl
  | cons r l ih => exact (ih _).trans rfl

theorem State.drawUpTo_hostMem (s : State) (n : Nat) : (s.drawUpTo n).2.hostMem = s.hostMem := rfl

theorem State.breakUpdate_hostMem (s : State) : s.breakUpdate.hostMem = s.hostMem := by
  unfold State.breakUpdate
  split
  · dsimp only
    split <;> rfl
  · rfl

theorem State.canon_railsOff (s : State) (h : s.canon) : s.railsOff.canon :=
  State.canon_of_reset _ rfl rfl (by
    show (s.mirrorOwn.breakUpdate).hostMem.wf
    rw [State.breakUpdate_hostMem, State.mirrorOwn_hostMem]; exact h.2.2.1)

theorem State.canon_unpowered (s : State) (h : s.canon) : s.unpowered.canon :=
  State.canon_of_reset _ rfl rfl (by
    show (s.breakUpdate).hostMem.wf
    rw [State.breakUpdate_hostMem]; exact h.2.2.1)

end Sys2Proof.Machine
end

