-- ==== Sys2Proof/Laws/Registers.lean ====
section
/-! SUPPORT. Writes of CSRs: where a write of a block's offset goes, and posted writes. -/

namespace Sys2Proof.Machine

/-- A 64-bit write at an aligned offset of a tile block. -/
theorem State.csrStore_tile (s : State) (w t blk off : Nat) (v : W64) (hp : s.rails.core = true) (ht : t < 1024) (hb : blk < 16)
    (ho : off < 0x10000) (h8 : off % 8 = 0) : s.csrStore w (tileAt t blk off) 8 v = s.writeTile w t blk off v := by
  have ha : isTileCsr (tileAt t blk off) = true := by
    unfold isTileCsr tileAt tileBase selfBase
    rw [Bool.and_eq_true, Bool.and_eq_true]
    exact ⟨⟨decide_eq_true (by omega), decide_eq_true (by omega)⟩, decide_eq_true (by omega)⟩
  have h1 : (tileAt t blk off - tileBase) / 0x800000 = t := by unfold tileAt tileBase; omega
  have h2 : (tileAt t blk off - tileBase) % 0x800000 - 0x700000 = blk * 0x10000 + off := by unfold tileAt tileBase; omega
  have h3 : (blk * 0x10000 + off) / 0x10000 = blk := by omega
  have h4 : (blk * 0x10000 + off) % 0x10000 = off := by omega
  have h5 : tileAt t blk off % 8 = 0 := by unfold tileAt tileBase; omega
  have h6 : s.eftDark (tileAt t blk off) = false := by
    unfold State.eftDark
    rw [decide_eq_false (show ¬ 0x200004D0000 ≤ tileAt t blk off by unfold tileAt tileBase; omega)]
    rfl
  unfold State.csrStore State.csrLive State.csrWrite
  dsimp only
  rw [h6, ha, hp, h1, h2, h3, h4]
  simp [h5]

/-- A 64-bit write at an aligned offset of an edge unit's block, but for the EFT block while the MP is dead. -/
theorem State.csrStore_edge (s : State) (w k off : Nat) (v : W64) (hp : s.rails.io = true) (hk : k < 0x100) (ho : off < 0x10000)
    (h8 : off % 8 = 0) (hd : s.eftDark (edgeAt k off) = false) : s.csrStore w (edgeAt k off) 8 v = s.writeEdge w k off v := by
  have ht : isTileCsr (edgeAt k off) = false := by
    unfold isTileCsr edgeAt edgeBase tileBase selfBase
    rw [Bool.and_eq_false_iff, Bool.and_eq_false_iff]
    exact .inl (.inr (decide_eq_false (by omega)))
  have ha : isEdgeCsr (edgeAt k off) = true := by
    unfold isEdgeCsr edgeAt edgeBase
    rw [Bool.and_eq_true]
    exact ⟨decide_eq_true (by omega), decide_eq_true (by omega)⟩
  have h1 : (edgeAt k off - edgeBase) / 0x10000 = k := by unfold edgeAt edgeBase; omega
  have h2 : (edgeAt k off - edgeBase) % 0x10000 = off := by unfold edgeAt edgeBase; omega
  have h5 : edgeAt k off % 8 = 0 := by unfold edgeAt edgeBase; omega
  unfold State.csrStore State.csrLive State.csrWrite
  dsimp only
  rw [hd, ha, ht, hp, h1, h2]
  simp [h5]

/-- A write of another size, or of an address that is not a multiple of 8 (R469). -/
theorem State.csrStore_narrow (s : State) (w a size : Nat) (v : W64) (hd : s.eftDark a = false) (hl : s.csrLive a = true)
    (h : size ≠ 8 ∨ a % 8 ≠ 0) : s.csrStore w a size v = s.csrAcc w a := by
  unfold State.csrStore
  rw [hd, if_neg Bool.false_ne_true, if_pos hl, if_neg]
  rintro ⟨h1, h2⟩
  exact h.elim (fun h => h h1) (fun h => h h2)

/-- A block without power takes no write. -/
theorem State.csrStore_dead (s : State) (w a size : Nat) (v : W64) (hl : s.csrLive a = false) : s.csrStore w a size v = s := by
  unfold State.csrStore
  rw [hl]
  split <;> rfl

/-- A write of the EFT block that the MP does not forward has no effect and no record (R476). -/
theorem State.csrStore_dark (s : State) (w a size : Nat) (v : W64) (hd : s.eftDark a = true) : s.csrStore w a size v = s := by
  unfold State.csrStore
  exact if_pos hd

/-- A posted write: it waits, or another waits and it is logged (R15). -/
theorem State.postWrite_free (s : State) (d w a : Nat) (v : W64) (h : s.wbusy d = false) :
    s.postWrite d w a v = { s with posted := smSet none s.posted d (some (a, v, w)) } := by
  unfold State.postWrite
  rw [h]
  rfl

theorem State.postWrite_busy (s : State) (d w a : Nat) (v : W64) (h : s.wbusy d = true) :
    s.postWrite d w a v = s.csrAcc w a := by
  unfold State.postWrite
  rw [h]
  rfl

/-- What is logged when some field refuses its value. -/
@[simp] theorem State.logIf_false (s : State) (w a : Nat) : s.logIf false w a = s := rfl
@[simp] theorem State.logIf_true (s : State) (w a : Nat) : s.logIf true w a = s.csrAcc w a := rfl

end Sys2Proof.Machine
end

