-- ==== Sys2Proof/Laws/Start.lean ====
section
/-! SUPPORT. Starts of descriptors, units of work, and completions: everything each shared operation can do. -/

namespace Sys2Proof.Machine

/-! ### Units of work -/

/-- A unit that succeeds keeps its state. -/
theorem runUnit_ok {α : Type} (t : Nat) (x : X α) (s u : State) (a : α) (h : x.run.run s = (.ok a, u)) :
    runUnit t x s = (.ok a, u) := by
  unfold runUnit; rw [h]

/-- A unit that fails keeps what the accesses that it made leave behind. -/
theorem runUnit_error {α : Type} (t : Nat) (x : X α) (s u : State) (e : XErr) (h : x.run.run s = (.error e, u)) :
    runUnit t x s = (.error e, s.unitUndo u t) := by
  unfold runUnit; rw [h]

@[simp] theorem runUnit_pure {α : Type} (t : Nat) (a : α) (s : State) : runUnit t (pure a) s = (.ok a, s) := rfl

@[simp] theorem runUnit_fail {α : Type} (t : Nat) (e : XErr) (s : State) :
    runUnit t (xFail e : X α) s = (.error e, s.unitUndo s t) := rfl

/-- A unit that begins by looking at the state. -/
theorem runUnit_state {α : Type} (t : Nat) (f : State → X α) (s : State) :
    runUnit t (do let s ← xState; f s) s = runUnit t (f s) s := rfl

/-- A unit that ends with a change of the state. -/
theorem runUnit_mod {α : Type} (t : Nat) (f : State → State) (a : α) (s : State) :
    runUnit t (do xMod f; pure a) s = (.ok a, f s) := rfl

/-- The units of a descriptor: one that ends the work ends the run. -/
theorem runUnits_succ (t n : Nat) (x : X Bool) (s : State) :
    runUnits t x (n + 1) s =
      (match runUnit t x s with
      | (.ok true, s) => (.ok true, s)
      | (.ok false, s) => runUnits t x n s
      | (.error e, s) => (.error e, s)) := rfl

/-! ### Starts -/

/-- Everything that taking an entry can do: a clean one is taken as it is; else its words are read first, and a poisoned one stops it. -/
theorem State.withHead_cases (s : State) (t q : Nat) (e : QEntry) (k : QEntry → State → State) :
    (e.syn = [] ∧ s.withHead t q e k = k e s) ∨
    (e.syn ≠ [] ∧ (s.readHead t q e).1 = true ∧ s.withHead t q e k = (s.readHead t q e).2.poisonStart t q e 0) ∨
    (e.syn ≠ [] ∧ (s.readHead t q e).1 = false ∧ s.withHead t q e k = k { e with syn := [] } (s.readHead t q e).2) := by
  unfold State.withHead
  by_cases h : e.syn = []
  · exact .inl ⟨h, if_pos h⟩
  · rw [if_neg h]
    cases hr : s.readHead t q e with
    | mk bad u =>
      cases bad
      · exact .inr (.inr ⟨h, rfl, rfl⟩)
      · exact .inr (.inl ⟨h, rfl, rfl⟩)

/-- An entry whose words are clean is taken as it is. -/
theorem State.withHead_clean (s : State) (t q : Nat) (e : QEntry) (k : QEntry → State → State) (h : e.syn = []) :
    s.withHead t q e k = k e s := by
  unfold State.withHead; exact if_pos h

/-- Everything the start of a tile engine's descriptor can do. -/
theorem State.startDesc_cases (s : State) (t q op : Nat) (free : State → QEntry → Bool) (check : QEntry → State → StartRes) :
    s.startDesc t q op free check = s ∨
    ∃ e, s.startable t q = some e ∧ dOp e.d = op ∧ free s e = true ∧
      s.startDesc t q op free check = s.withHead t q e (fun e s => State.settleStart t q e (check e s)) := by
  unfold State.startDesc
  cases h : s.startable t q with
  | none => exact .inl rfl
  | some e =>
    dsimp only
    by_cases hc : dOp e.d = op ∧ free s e = true
    · refine .inr ⟨e, rfl, hc.1, hc.2, ?_⟩
      rw [if_pos hc]
      congr 1
    · exact .inl (if_neg hc)

/-- A descriptor whose turn has come, of the right code and not held, is looked at. -/
theorem State.startDesc_some (s : State) (t q op : Nat) (free : State → QEntry → Bool) (check : QEntry → State → StartRes)
    (e : QEntry) (h : s.startable t q = some e) (hs : e.syn = []) (ho : dOp e.d = op) (hf : free s e = true) :
    s.startDesc t q op free check = State.settleStart t q e (check e s) := by
  unfold State.startDesc
  rw [h]
  dsimp only
  rw [if_pos ⟨ho, hf⟩, s.withHead_clean _ _ _ _ hs]
  cases check e s <;> rfl

/-- With no descriptor to start, nothing happens. -/
theorem State.startDesc_none (s : State) (t q op : Nat) (free : State → QEntry → Bool) (check : QEntry → State → StartRes)
    (h : s.startable t q = none) : s.startDesc t q op free check = s := by
  unfold State.startDesc; rw [h]

/-- An edge descriptor that its unit takes. -/
theorem State.startEdge_go (s u : State) (t op edge : Nat) (free : State → QEntry → Bool) (work : QEntry → X StartX) (e : QEntry)
    (r : Run) (h : s.startable t 6 = some e) (hs : e.syn = []) (ho : dOp e.d = op) (he : dField e.d 16 2 = edge) (hf : free s e = true)
    (hw : runUnit t (work e) s = (.ok (.go r), u)) : s.startEdge t op edge free work = u.started t 6 e r := by
  unfold State.startEdge
  rw [h]
  dsimp only
  rw [if_pos ⟨ho, he, hf⟩, s.withHead_clean _ _ _ _ hs, hw]
  rfl

/-- An edge descriptor that its unit refuses. -/
theorem State.startEdge_refuse (s u : State) (t op edge : Nat) (free : State → QEntry → Bool) (work : QEntry → X StartX) (e : QEntry)
    (o v : Nat) (h : s.startable t 6 = some e) (hs : e.syn = []) (ho : dOp e.d = op) (he : dField e.d 16 2 = edge) (hf : free s e = true)
    (hw : runUnit t (work e) s = (.ok (.refuse o v), u)) : s.startEdge t op edge free work = u.refuse t 6 e o v := by
  unfold State.startEdge
  rw [h]
  dsimp only
  rw [if_pos ⟨ho, he, hf⟩, s.withHead_clean _ _ _ _ hs, hw]

/-- An edge descriptor whose start meets a translation fault or has to wait. -/
theorem State.startEdge_error (s u : State) (t op edge : Nat) (free : State → QEntry → Bool) (work : QEntry → X StartX) (e : QEntry)
    (x : XErr) (h : s.startable t 6 = some e) (hs : e.syn = []) (ho : dOp e.d = op) (he : dField e.d 16 2 = edge) (hf : free s e = true)
    (hw : runUnit t (work e) s = (.error x, u)) : s.startEdge t op edge free work = u.failEntry t 6 e x := by
  unfold State.startEdge
  rw [h]
  dsimp only
  rw [if_pos ⟨ho, he, hf⟩, s.withHead_clean _ _ _ _ hs, hw]

/-! ### Ends -/

/-- A descriptor of a strand that is refused: a record, the end of the strand, and the entry goes without a signal. -/
theorem State.refuse_strand (s : State) (t q k off val : Nat) (e : QEntry) (h : e.org = .strand k) :
    s.refuse t q e off val = (((s.detect { s.descRec t q e clsContained cRefused with
      info0 := BitVec.ofNat 64 (dOp e.d + (val % 2 ^ 48) * 65536), info1 := BitVec.ofNat 64 off }).endStrand t k).dropEntry t q e) := by
  unfold State.refuse State.endIssuer
  rw [h]

/-- A descriptor of a strand that completes. -/
theorem State.completeEntry_strand (s : State) (t q k : Nat) (e : QEntry) (h : e.org = .strand k) :
    s.completeEntry t q e =
      (if dDoneEn e.d then s.sendEvt (dDoneCtr e.d) (dDoneInc e.d) (.queue t q) else s).removeEntry t q e := by
  unfold State.completeEntry State.signalDone
  rw [h]

/-- The units that end an entry's work: it completes, or waits for what it sent. -/
theorem State.workEntry_done (s u : State) (t q : Nat) (e : QEntry) (x : X Bool) (n : Nat) (h : runUnits t x n s = (.ok true, u)) :
    s.workEntry t q e x n =
      if u.owes t q e.seq then u.modEntry t q e.seq (fun e => { e with ph := .finished }) else u.completeEntry t q e := by
  unfold State.workEntry; rw [h]

/-- Units that leave work to do. -/
theorem State.workEntry_more (s u : State) (t q : Nat) (e : QEntry) (x : X Bool) (n : Nat) (h : runUnits t x n s = (.ok false, u)) :
    s.workEntry t q e x n = u := by
  unfold State.workEntry; rw [h]

/-- A unit that cannot be done. -/
theorem State.workEntry_error (s u : State) (t q : Nat) (e : QEntry) (x : X Bool) (n : Nat) (y : XErr)
    (h : runUnits t x n s = (.error y, u)) : s.workEntry t q e x n = u.failEntry t q e y := by
  unfold State.workEntry; rw [h]

end Sys2Proof.Machine
end

