-- ==== Sys2Proof/Laws/Strand.lean ====
section
/-! SUPPORT. Strands: what a clean scratchpad read and an issue do, and what strand updates leave alone. -/

namespace Sys2Proof.Machine

/-- A tile that holds a strand is not the empty tile. -/
theorem State.tile_ne_reset (s : State) (t k : Nat) (h : (s.strand t k).st ≠ .free) : s.tile t ≠ Tile.reset := by
  intro e
  unfold State.strand at h
  rw [e] at h
  exact h rfl

/-- A word that does not read as poisoned has no uncorrectable syndrome. -/
theorem Mem.read32_clean (m : Mem) (a : Nat) (w : W32) (y : BitVec 7) (h : m.read32 a = (w, false, y)) :
    m.synAt a = y ∧ eccRead y ≠ .poison ∧ eccRead y ≠ .bad := by
  unfold Mem.read32 at h
  dsimp only at h
  cases he : eccRead (m.synAt a) <;> rw [he] at h <;> dsimp only at h <;> injection h with _ h <;> injection h with hp hy
  all_goals first
    | (cases hp; done)
    | (subst hy; rw [he]; exact ⟨rfl, by simp, by simp⟩)

/-- A scratchpad read that gives unpoisoned data leaves every tile as it was and logs at most a corrected error. -/
theorem State.readLoc_spad (s : State) (t o : Nat) (ctx : Option Nat) (w : W32) (y : BitVec 7)
    (h : (s.tile t).spad.read32 o = (w, false, y)) (ht : s.tile t ≠ Tile.reset) :
    ∃ e T, s.readLoc (.spad t o) ctx = ((w, false), { s with err := e, tiles := T }) ∧
      ∀ j, smGet Tile.reset T j = s.tile j := by
  obtain ⟨-, hp, hb⟩ := Mem.read32_clean _ _ _ _ h
  have hm : (s.tile t).spad.afterRead o y = (s.tile t).spad := by
    unfold Mem.afterRead
    split
    · next hbad => exact absurd hbad hb
    · rfl
  have hset : s.setMem (.spad t o) (s.tile t).spad = { s with tiles := smSet Tile.reset s.tiles t (s.tile t) } := rfl
  have hj : ∀ j, smGet Tile.reset (smSet Tile.reset s.tiles t (s.tile t)) j = s.tile j := by
    intro j
    by_cases e : j = t
    · subst e; exact smGet_smSet_self _ _ _ _ ht
    · exact smGet_smSet_other _ _ _ _ _ e
  simp only [State.readLoc, show s.dramCmd (.spad t o) ctx = s from rfl, State.memOf, h]
  split
  · exact ⟨s.err, s.tiles, rfl, fun _ => rfl⟩
  · rw [hm, hset]
    cases he : eccRead y <;> simp only [State.eccEvent, he]
    · exact ⟨s.err, _, rfl, hj⟩
    · exact ⟨_, _, rfl, hj⟩
    · exact ⟨_, _, rfl, hj⟩
    · exact absurd he hp
    · exact absurd he hb

/-- What an issuing strand is, and what it fetches. -/
theorem State.issues_cases (s : State) (t k : Nat) (i : Instr) (h : s.issues t k i = true) :
    s.mayIssue t k = true ∧ (s.strand t k).st = .ready ∧ s.fetchWord t k = encode i ∧
    ∃ w y, (s.tile t).spad.read32 (s.strand t k).pc.toNat = (w, false, y) ∧ encode i = some w := by
  simp only [State.issues, Bool.and_eq_true, beq_iff_eq] at h
  obtain ⟨⟨hm, hf⟩, he⟩ := h
  have hr : (s.strand t k).st = .ready := by
    simp only [State.mayIssue, Bool.and_eq_true, beq_iff_eq] at hm
    exact hm.1.2
  refine ⟨hm, hr, he, ?_⟩
  rw [← he]
  revert hf
  unfold State.fetchWord
  dsimp only
  split
  · intro hf; simp at hf
  · rcases hq : (s.tile t).spad.read32 (s.strand t k).pc.toNat with ⟨w, p, y⟩
    cases p
    · exact fun _ => ⟨w, y, rfl, rfl⟩
    · intro hf; simp at hf

/-- An issue: tile `t` counts it and the strand takes the newest stamp; every other tile, and everything but the errors, is as it
was. -/
theorem State.issued_spec (s : State) (t k : Nat) (i : Instr) (h : s.issues t k i = true) :
    ∃ e T, s.issued t k = { s with err := e, tiles := T } ∧
      smGet Tile.reset T t = { (s.tile t) with scu := { (s.tile t).scu with
        issued := (s.tile t).scu.issued + 1, clock := (s.tile t).scu.clock + 1
        strands := smSet Strand.none (s.tile t).scu.strands k
          { s.strand t k with stamp := (s.tile t).scu.clock + 1 } } } ∧
      ∀ j, j ≠ t → smGet Tile.reset T j = s.tile j := by
  obtain ⟨-, hr, -, w, y, hw, -⟩ := s.issues_cases t k i h
  have ht := s.tile_ne_reset t k (by rw [hr]; decide)
  obtain ⟨e, T, h1, h2⟩ := s.readLoc_spad t _ (s.ctxOfGrid (s.strand t k).grid) w y hw ht
  have ht' : ({ s with err := e, tiles := T } : State).tile t = s.tile t := h2 t
  refine ⟨e, (State.modTile { s with err := e, tiles := T } t (fun v =>
    Tile.setStrand { v with scu := { v.scu with issued := v.scu.issued + 1, clock := v.scu.clock + 1 } } k
      { v.strand k with stamp := v.scu.clock + 1 })).tiles, ?_, ?_, ?_⟩
  · unfold State.issued
    dsimp only
    rw [h1]
    rfl
  · have := State.tile_modTile_ne { s with err := e, tiles := T } t (fun v =>
      Tile.setStrand { v with scu := { v.scu with issued := v.scu.issued + 1, clock := v.scu.clock + 1 } } k
        { v.strand k with stamp := v.scu.clock + 1 }) (fun hh => by
          have := congrArg (fun v => v.scu.clock) hh
          simp [Tile.setStrand, Tile.reset, Scu.reset] at this)
    refine this.trans ?_
    dsimp only
    rw [ht']
    rfl
  · intro j hj
    have := State.tile_modTile_other { s with err := e, tiles := T } t j (fun v =>
      Tile.setStrand { v with scu := { v.scu with issued := v.scu.issued + 1, clock := v.scu.clock + 1 } } k
        { v.strand k with stamp := v.scu.clock + 1 }) hj
    exact this.trans (h2 j)

/-- The strand after its issue is the strand before it with a new stamp. -/
theorem State.issued_strand (s : State) (t k : Nat) (i : Instr) (h : s.issues t k i = true) :
    (s.issued t k).strand t k = { s.strand t k with stamp := (s.tile t).scu.clock + 1 } := by
  obtain ⟨-, hr, -, -⟩ := s.issues_cases t k i h
  obtain ⟨e, T, h1, h2, -⟩ := s.issued_spec t k i h
  have ht : (s.issued t k).tile t = smGet Tile.reset T t := by rw [h1]; rfl
  unfold State.strand
  rw [ht, h2]
  refine smGet_smSet_self _ _ _ _ (fun hh => ?_)
  have := congrArg Strand.st hh
  rw [show ({ s.strand t k with stamp := (s.tile t).scu.clock + 1 } : Strand).st = (s.strand t k).st from rfl, hr] at this
  cases this

theorem Strand.reg_stamp (x : Strand) (n r : Nat) : ({ x with stamp := n } : Strand).reg r = x.reg r := rfl

end Sys2Proof.Machine
end

