-- ==== Sys2Proof/Tests/Slice0.lean ====
section
/-! SUPPORT. Tests: ill-formed terms that `wf` refuses, words of the manual's encodings, and for each statement a concrete
state and operands that meet its hypotheses, clause by clause. -/

namespace Sys2Proof.Tests

-- One test at a time: each holds a whole state while it is evaluated.
set_option Elab.async false

open Sys2Proof Sys2Proof.Machine

/-! ### Ill-formed commands -/

theorem test_wf_tile : (Instr.mm 1024).wf = false ∧ (Instr.mm 1023).wf = true := by decide
theorem test_wf_strand : (Instr.strandWake 0 2048).wf = false ∧ (Instr.strandWake 0 2047).wf = true := by decide
theorem test_wf_queue : (Instr.undefinedEngOp 0 7).wf = false ∧ (Instr.undefinedEngOp 0 6).wf = true := by decide
theorem test_wf_bank : (Instr.setcorr 0 2).wf = false ∧ (Instr.setcorr 0 1).wf = true := by decide
theorem test_wf_port : (Instr.linkDown 19).wf = false ∧ (Instr.linkDown 18).wf = true := by decide
theorem test_wf_lane : (Instr.laneLoss 0 8).wf = false ∧ (Instr.laneLoss 0 7).wf = true := by decide
theorem test_wf_ring : (Instr.gridLaunch 16).wf = false ∧ (Instr.gridLaunch 15).wf = true := by decide
theorem test_wf_grid : (Instr.gridComplete 16).wf = false ∧ (Instr.gridComplete 15).wf = true := by decide
theorem test_wf_stack : (Instr.stackTrained 8 true).wf = false ∧ (Instr.stackTrained 7 true).wf = true := by decide
theorem test_wf_detector : (Instr.droopTrip 64).wf = false ∧ (Instr.droopTrip 63).wf = true := by decide
theorem test_wf_device : (Instr.crdone ⟨⟨4096, none, 0⟩, true⟩).wf = false ∧ (Instr.crdone ⟨⟨4095, none, 0⟩, true⟩).wf = true := by decide
theorem test_wf_party : (Instr.memXlinv 0#64 1024).wf = false ∧ (Instr.memXlinv 0#64 0x912).wf = true := by decide
theorem test_wf_size : (Instr.registerWrite 0 0 0#64 0).wf = false ∧ (Instr.registerWrite 0 16 0#64 0).wf = true := by decide
theorem test_wf_bar : (Instr.hostBarAccess 1 0 8 false 0#64).wf = false ∧ (Instr.hostBarAccess 2 0 8 false 0#64).wf = true := by
  decide
theorem test_wf_mailbox : (Instr.mgmt 4096 []).wf = false ∧ (Instr.mgmt 4095 []).wf = true := by decide
theorem test_wf_bus_address : (Instr.entdaa 128).wf = false ∧ (Instr.entdaa 127).wf = true := by decide
theorem test_wf_reserved_r : (Instr.alu 0 0 ⟨1#4, 2#4, 3#4, 1#8, 0#6⟩).wf = false := by decide
theorem test_wf_reserved_q : (Instr.issue 0 0 ⟨1#4, 2#4, 0#4, 0#1, 1#13⟩).wf = false := by decide
theorem test_wf_reserved_c : (Instr.sig 0 0 ⟨1#4, 2#4, 1#2, 0#16⟩).wf = false := by decide
theorem test_wf_reserved_n : (Instr.exit 0 0 ⟨1#26⟩).wf = false := by decide
theorem test_wf_scrub : (Instr.scrubPeriod (.stack 8)).wf = false ∧ (Instr.scrubPeriod (.vat 1023)).wf = true := by decide
theorem test_wf_domain : (Instr.wbusyClear (.upd 8)).wf = false ∧ (Instr.wbusyClear .eft).wf = true := by decide

/-! ### Words of the control instructions, bit by bit (R47, R48) -/

theorem test_word_alu : decodeCtl 3 5 0b000001_0001_0010_0011_00000000_001001#32 = some (.alu 3 5 ⟨1, 2, 3, 0, 9⟩) := by decide
theorem test_word_li : decodeCtl 3 5 0b001010_0100_1111111111111111111111#32 = some (.li 3 5 ⟨4, 0x3FFFFF⟩) := by decide
theorem test_word_st : decodeCtl 3 5 0b010001_1111_0001_000000000000001000#32 = some (.st 3 5 ⟨15, 1, 8⟩) := by decide
theorem test_word_blt : decodeCtl 3 5 0b011010_0101_0110_000000000000001000#32 = some (.blt 3 5 ⟨5, 6, 8⟩) := by decide
theorem test_word_issue : decodeCtl 3 5 0b100000_0010_0011_0100_1_0000000000000#32 = some (.issue 3 5 ⟨2, 3, 4, 1, 0⟩) := by decide
theorem test_word_sig : decodeCtl 3 5 0b101000_0001_0000_00_0000000000000111#32 = some (.sig 3 5 ⟨1, 0, 0, 7⟩) := by decide
theorem test_word_exit : decodeCtl 3 5 0b111001_00000000000000000000000000#32 = some (.exit 3 5 ⟨0⟩) := by decide
theorem test_word_opcode_0 : decodeCtl 3 5 0#32 = none := by decide
theorem test_table_gives_no_bits : decodeTableWord 32 0 = none := by decide

/-! ### Small states -/

/-- Where a step goes. -/
def after (c : Instr) (s : State) : State :=
  match exec c s with
  | .next u => u
  | _ => s

/-- Tile 0 with strand 0 READY at byte 0 of its scratchpad, which holds `w`; registers from s1 upward. -/
def strandAt (w : W32) (regs : List W64) : State :=
  State.reset.setTile 0 { Tile.reset with
    spad := Mem.empty.put32 0 w false
    scu := { Scu.reset with strands := [(0, { Strand.none with st := .ready, regs := regs ++ List.replicate (15 - regs.length) 0#64 })] } }

/-- The same with the word of `i`. -/
def at0 (i : Instr) (regs : List W64) : State := strandAt ((encode i).getD 0#32) regs

/-- A descriptor from its fields: offset, bytes, value. -/
def desc (l : List (Nat × Nat × Nat)) : W512 :=
  BitVec.ofNat 512 (l.foldl (fun (n : Nat) (p : Nat × Nat × Nat) => n + p.2.2 % 256 ^ p.2.1 * 256 ^ p.1) 0)

/-- An entry that waits, of strand 0. -/
def entryOf (d : W512) : QEntry := ⟨d, 0#16, .strand 0, 0, 0, 0, .waiting, Run.start, false, false, []⟩

/-- A DONE strand whose descriptor is `e`, in queue `q` of tile 0. -/
def queued (q : Nat) (e : QEntry) : State :=
  State.reset.setTile 0 { Tile.reset with
    queues := Tile.reset.queues.set q [e]
    scu := { Scu.reset with strands := [(0, { Strand.none with st := .ready })] } }

/-- The outcome is `u`. -/
def goesTo (o : Host.Outcome State Fault Refusal) (u : State) : Bool :=
  match o with
  | .next v => v == u
  | _ => false

/-- A result that is no error. -/
def fine {ε α β : Type} (x : Except ε α × β) : Bool :=
  match x.1 with
  | .ok _ => true
  | .error _ => false

/-! ### The block, and strands (chapter 2) -/

theorem test_idle_hyp : State.reset.pending = [] := by decide
theorem test_memories_hyp : State.reset.canon ∧ (State.reset.withPending [.strandWake 0 0]).pending = .strandWake 0 0 :: [] ∧
    ofStrands (.strandWake 0 0) = true ∧ goesTo (step (State.reset.withPending [.strandWake 0 0])) State.reset = true := by
  refine ⟨⟨?_, ⟨?_, ?_⟩, ⟨?_, ?_⟩, ?_⟩, ?_, ?_, ?_⟩ <;> decide +kernel

theorem test_encode_hyp : encode (.addi 3 5 ⟨1, 2, 0x3FFFF⟩) = some 0b000010_0001_0010_111111111111111111#32 := by decide
theorem test_registers_hyp : Strand.none.regs.length = 15 ∧ (0 : Nat) < 15 ∧ 15 < 16 := by decide

/-- The register instructions: every one is issued, with its side conditions at the ends of their ranges. -/
theorem test_register_instructions_hyp :
    (at0 (.alu 0 0 ⟨15, 0, 1, 0, 15⟩) [1]).issues 0 0 (.alu 0 0 ⟨15, 0, 1, 0, 15⟩) ∧ (aluOp 15 0#64 1#64).isSome ∧ aluOp 16 0#64 1#64 = none ∧
    (at0 (.addi 0 0 ⟨1, 1, 0x3FFFF⟩) []).issues 0 0 (.addi 0 0 ⟨1, 1, 0x3FFFF⟩) ∧
    (at0 (.andi 0 0 ⟨1, 1, 1⟩) []).issues 0 0 (.andi 0 0 ⟨1, 1, 1⟩) ∧
    (at0 (.ori 0 0 ⟨1, 1, 1⟩) []).issues 0 0 (.ori 0 0 ⟨1, 1, 1⟩) ∧
    (at0 (.xori 0 0 ⟨1, 1, 1⟩) []).issues 0 0 (.xori 0 0 ⟨1, 1, 1⟩) ∧
    (at0 (.shli 0 0 ⟨1, 1, 63⟩) []).issues 0 0 (.shli 0 0 ⟨1, 1, 63⟩) ∧
    (at0 (.shri 0 0 ⟨1, 1, 0⟩) []).issues 0 0 (.shri 0 0 ⟨1, 1, 0⟩) ∧
    (at0 (.srai 0 0 ⟨1, 1, 63⟩) []).issues 0 0 (.srai 0 0 ⟨1, 1, 63⟩) ∧
    (at0 (.slti 0 0 ⟨1, 1, 1⟩) []).issues 0 0 (.slti 0 0 ⟨1, 1, 1⟩) ∧
    (at0 (.li 0 0 ⟨1, 1⟩) []).issues 0 0 (.li 0 0 ⟨1, 1⟩) ∧
    (at0 (.shin 0 0 ⟨1, 1⟩) []).issues 0 0 (.shin 0 0 ⟨1, 1⟩) ∧
    (at0 (.getid 0 0 ⟨1, 0, 0⟩) []).issues 0 0 (.getid 0 0 ⟨1, 0, 0⟩) ∧ (State.reset.identity 0 Strand.none 0).isSome ∧
    (at0 (.rdc 0 0 ⟨1, 0, 0, 63⟩) []).issues 0 0 (.rdc 0 0 ⟨1, 0, 0, 63⟩) ∧ ctrId Strand.none ⟨1, 0, 0, 63⟩ / 64 = 0 := by
  decide +kernel

/-- ADDI adds the sign-extended immediate and wraps (R48). -/
theorem test_addi_wraps : ((after (.addi 0 0 ⟨2, 1, 0x3FFFF⟩) (at0 (.addi 0 0 ⟨2, 1, 0x3FFFF⟩) [0#64])).strand 0 0).reg 2 =
    0xFFFFFFFFFFFFFFFF#64 := by decide +kernel
/-- SHIN shifts 22 bits in below (R48). -/
theorem test_shin : ((after (.shin 0 0 ⟨1, 3⟩) (at0 (.shin 0 0 ⟨1, 3⟩) [1#64])).strand 0 0).reg 1 = 0x400003#64 := by decide +kernel
/-- SLTI compares signed (R48). -/
theorem test_slti_signed : ((after (.slti 0 0 ⟨2, 1, 0⟩) (at0 (.slti 0 0 ⟨2, 1, 0⟩) [0xFFFFFFFFFFFFFFFF#64])).strand 0 0).reg 2 =
    1#64 := by decide +kernel

theorem test_branches_hyp :
    (at0 (.beq 0 0 ⟨1, 2, 2⟩) [7, 7]).issues 0 0 (.beq 0 0 ⟨1, 2, 2⟩) ∧ (at0 (.bne 0 0 ⟨1, 2, 2⟩) []).issues 0 0 (.bne 0 0 ⟨1, 2, 2⟩) ∧
    (at0 (.blt 0 0 ⟨1, 2, 2⟩) []).issues 0 0 (.blt 0 0 ⟨1, 2, 2⟩) ∧ (at0 (.bge 0 0 ⟨1, 2, 2⟩) []).issues 0 0 (.bge 0 0 ⟨1, 2, 2⟩) ∧
    (at0 (.bltu 0 0 ⟨1, 2, 2⟩) []).issues 0 0 (.bltu 0 0 ⟨1, 2, 2⟩) ∧ (at0 (.bgeu 0 0 ⟨1, 2, 2⟩) []).issues 0 0 (.bgeu 0 0 ⟨1, 2, 2⟩) ∧
    (at0 (.jal 0 0 ⟨1, 2⟩) []).issues 0 0 (.jal 0 0 ⟨1, 2⟩) ∧ (at0 (.jalr 0 0 ⟨1, 1, 2⟩) []).issues 0 0 (.jalr 0 0 ⟨1, 1, 2⟩) := by
  decide +kernel
/-- A taken branch counts from its own address (R41). -/
theorem test_beq_target : ((after (.beq 0 0 ⟨1, 2, 2⟩) (at0 (.beq 0 0 ⟨1, 2, 2⟩) [7, 7])).strand 0 0).pc = 8#32 := by decide +kernel
/-- BLT is signed, BLTU is not (R48). -/
theorem test_blt_signed : ((after (.blt 0 0 ⟨1, 2, 4⟩) (at0 (.blt 0 0 ⟨1, 2, 4⟩) [0xFFFFFFFFFFFFFFFF#64, 0])).strand 0 0).pc = 16#32 := by
  decide +kernel
theorem test_bltu_unsigned : ((after (.bltu 0 0 ⟨1, 2, 4⟩) (at0 (.bltu 0 0 ⟨1, 2, 4⟩) [0xFFFFFFFFFFFFFFFF#64, 0])).strand 0 0).pc =
    4#32 := by decide +kernel
/-- JAL writes the address of the next word (R48). -/
theorem test_jal_link : ((after (.jal 0 0 ⟨1, 4⟩) (at0 (.jal 0 0 ⟨1, 4⟩) [])).strand 0 0).reg 1 = 4#64 := by decide +kernel

/-- LD and ST at the last word pair of the scratchpad. -/
theorem test_loads_hyp :
    (at0 (.ld 0 0 ⟨1, 2, 0⟩) [0, 0x2FFFF8]).issues 0 0 (.ld 0 0 ⟨1, 2, 0⟩) ∧ 0x2FFFF8 % 8 = 0 ∧ 0x2FFFF8 + 8 ≤ 0x300000 ∧
    (at0 (.st 0 0 ⟨1, 2, 0⟩) [5, 0x2FFFF8]).issues 0 0 (.st 0 0 ⟨1, 2, 0⟩) ∧
    ((after (.ld 0 0 ⟨1, 2, 0⟩) (at0 (.ld 0 0 ⟨1, 2, 0⟩) [0, 0x2FFFF8])).strand 0 0).st = .stalled ∧
    ((after (.ld 0 0 ⟨1, 2, 0⟩) (at0 (.ld 0 0 ⟨1, 2, 0⟩) [0, 0x2FFFF8])).strand 0 0).stall = .load 1 0x2FFFF8 ∧
    (State.reset.readLoc (.spad 0 0x2FFFF8) none) = ((0#32, false), State.reset) := by decide +kernel
/-- ST writes the low word first, little-endian (R13). -/
theorem test_st_bytes : ((after (.st 0 0 ⟨1, 2, 0⟩) (at0 (.st 0 0 ⟨1, 2, 0⟩) [0x0102030405060708#64, 8])).tile 0).spad.byte 8 = 8#8 := by
  decide +kernel
theorem test_ld_data : ((after (.ldDataArrival 0 0) (after (.ld 0 0 ⟨1, 2, 0⟩) (at0 (.ld 0 0 ⟨1, 2, 0⟩) [0, 0]))).strand 0 0).reg 1 =
    0x40480000#64 := by decide +kernel

/-- A strand with an ISSUE of queue 5 in front, whose descriptor at 0x2FFFC0 is a COPY. -/
def atIssue : State :=
  (at0 (.issue 0 0 ⟨1, 2, 5, 1, 0⟩) [0x2FFFC0, 9]).modTile 0 (fun v => { v with spad := v.spad.put 0x2FFFC0 [0x31#8] })

theorem test_issue_hyp : atIssue.issues 0 0 (.issue 0 0 ⟨1, 2, 5, 1, 0⟩) ∧ 0x2FFFC0 % 64 = 0 ∧ 0x2FFFC0 + 64 ≤ 0x300000 ∧
    (atIssue.issued 0 0).readRecord 0 0x2FFFC0 0 16 = ((0x31#8 :: List.replicate 63 0#8, false), atIssue.issued 0 0) ∧
    headerOk 0 (withPatch (descOf (0x31#8 :: List.replicate 63 0#8)) 9#64) = true := by decide +kernel
/-- The patch replaces bytes 56–63 (R53). -/
theorem test_issue_patches : (((after (.issue 0 0 ⟨1, 2, 5, 1, 0⟩) atIssue).tile 0).queue 5).map (fun e => (dOp e.d, dPatch e.d)) =
    [(0x31, 9)] := by decide +kernel
theorem test_slot_freed_hyp :
    let s := State.reset.setStrand 0 0 { Strand.none with st := .stalled, stall := .queue 3 0#512 }
    (s.strand 0 0).st = .stalled ∧ (s.strand 0 0).stall = .queue 3 0#512 ∧ (s.tile 0).full 3 = false := by decide +kernel

theorem test_counters_hyp :
    (at0 (.sig 0 0 ⟨1, 0, 0, 59⟩) [1]).issues 0 0 (.sig 0 0 ⟨1, 0, 0, 59⟩) ∧ ctrId Strand.none ⟨1, 0, 0, 59⟩ % 64 < 60 ∧
    (at0 (.setc 0 0 ⟨1, 0, 0, 59⟩) [1]).issues 0 0 (.setc 0 0 ⟨1, 0, 0, 59⟩) ∧ ctrId Strand.none ⟨1, 0, 0, 59⟩ = 64 * 0 + 59 ∧
    (at0 (.wait 0 0 ⟨1, 0, 0, 59⟩) [1]).issues 0 0 (.wait 0 0 ⟨1, 0, 0, 59⟩) ∧
    (at0 (.yield 0 0 ⟨0⟩) []).issues 0 0 (.yield 0 0 ⟨0⟩) ∧ (at0 (.exit 0 0 ⟨0⟩) []).issues 0 0 (.exit 0 0 ⟨0⟩) := by decide +kernel
theorem test_wait_waits : ((after (.wait 0 0 ⟨1, 0, 0, 5⟩) (at0 (.wait 0 0 ⟨1, 0, 0, 5⟩) [1])).strand 0 0).st = .waiting := by decide +kernel
theorem test_wake_hyp : (State.reset.setStrand 0 0 { Strand.none with st := .waiting, waitC := 5 }).strand 0 0 =
    { Strand.none with st := .waiting, waitC := 5 } ∧ (((State.reset.tile 0).ctr 5 - 0#32 : W32)).toNat < 2 ^ 31 := by decide +kernel
theorem test_counter_update_hyp : (State.reset.sendEvt 70 1#32 (.strand 0 0)).evts[0]? = some ⟨70, 1, .strand 0 0⟩ ∧
    (after (.counterUpdate 0) (State.reset.sendEvt 70 0xFFFFFFFF#32 (.strand 0 0))).ctr 70 = 0xFFFFFFFF#32 := by decide +kernel
theorem test_exit_frees : ((after (.exit 0 0 ⟨0⟩) (at0 (.exit 0 0 ⟨0⟩) [])).strand 0 0) = Strand.none := by decide +kernel

/-- Illegal forms at the first value outside each range. -/
theorem test_illegal_forms_hyp :
    (at0 (.alu 0 0 ⟨1, 1, 1, 0, 16⟩) []).issues 0 0 (.alu 0 0 ⟨1, 1, 1, 0, 16⟩) ∧ (at0 (.alu 0 0 ⟨1, 1, 1, 1, 0⟩) []).issues 0 0 (.alu 0 0 ⟨1, 1, 1, 1, 0⟩) ∧
    (at0 (.shli 0 0 ⟨1, 1, 64⟩) []).issues 0 0 (.shli 0 0 ⟨1, 1, 64⟩) ∧ (at0 (.getid 0 0 ⟨1, 1, 8⟩) []).issues 0 0 (.getid 0 0 ⟨1, 1, 8⟩) ∧
    (at0 (.setc 0 0 ⟨1, 0, 0, 60⟩) []).issues 0 0 (.setc 0 0 ⟨1, 0, 0, 60⟩) ∧ (at0 (.setc 0 0 ⟨1, 0, 0, 64⟩) []).issues 0 0 (.setc 0 0 ⟨1, 0, 0, 64⟩) ∧
    (at0 (.st 0 0 ⟨1, 0, 4⟩) []).issues 0 0 (.st 0 0 ⟨1, 0, 4⟩) ∧ (at0 (.issue 0 0 ⟨1, 0, 7, 0, 0⟩) []).issues 0 0 (.issue 0 0 ⟨1, 0, 7, 0, 0⟩) ∧
    (at0 (.exit 0 0 ⟨1⟩) []).issues 0 0 (.exit 0 0 ⟨1⟩) := by decide +kernel
theorem test_fetch_stop_hyp : (strandAt 0#32 []).mayIssue 0 0 = true ∧ ((strandAt 0#32 []).strand 0 0).bad = none ∧
    (strandAt 0#32 []).readLoc (.spad 0 0) ((strandAt 0#32 []).ctxOfGrid 0) = ((0#32, false), strandAt 0#32 []) ∧ decodeCtl 0 0 0#32 = none := by
  decide +kernel
theorem test_fetch_stop_ends : ((after (.instructionFetchStop 0 0) (strandAt 0#32 [])).strand 0 0).st = .free := by decide +kernel
theorem test_frame_hyp : onlyItsStrand (.li 0 0 ⟨1, 1⟩) = true ∧ decodeCtl 0 0 ((encode (.li 0 0 ⟨1, 1⟩)).getD 0#32) = some (.li 0 0 ⟨1, 1⟩) ∧
    (at0 (.li 0 0 ⟨1, 1⟩) []).issues 0 0 (.li 0 0 ⟨1, 1⟩) := by decide +kernel

/-! ### Descriptors and engines (chapters 2, 5 to 10) -/

/-- Bytes of a record at `a` of the scratchpad of tile 0. -/
def recordAt (s : State) (a : Nat) (l : List (Nat × Nat × Nat)) : State :=
  s.modTile 0 (fun v => { v with spad := v.spad.put a (leBytes 64 (desc l).toNat) })

/-- The entry runs. -/
def running (e : QEntry) : QEntry := { e with ph := .running }

/-- Where a check refuses: offset and value. -/
def refusedAt (c : Chk Unit) : Option (Nat × Nat) :=
  match c with
  | .ok _ => none
  | .error p => some p

/-- Whether a start goes. -/
def goes (r : StartRes) : Bool :=
  match r with
  | .go _ _ => true
  | _ => false

def goesX (r : Except XErr StartX × State) : Bool :=
  match r.1 with
  | .ok (.go _) => true
  | _ => false

def dCopy : W512 := desc [(0, 2, 0x31), (16, 8, 0x10200000000), (24, 8, 0x10200001000), (32, 4, 64), (36, 4, 64), (40, 4, 1), (44, 4, 64)]
def dFill : W512 := desc [(0, 2, 0x33), (24, 8, 0x10200001000), (36, 4, 64), (40, 4, 1), (44, 4, 64)]
def dXpose : W512 := desc [(0, 2, 0x32), (16, 8, 0x10200000000), (24, 8, 0x10200001000), (32, 4, 64), (36, 4, 64), (40, 4, 32), (44, 4, 32), (48, 1, 2)]
def dDrain : W512 := desc [(0, 2, 0x30), (16, 8, 0x10200001000), (28, 4, 64), (32, 4, 64), (36, 2, 1), (38, 2, 16)]

theorem test_refused_hyp :
    ((queued 5 (entryOf (desc [(0, 2, 0x31)]))).startable 0 5).isSome ∧ refusedAt (mvChk (desc [(0, 2, 0x31)])) = some (40, 0) ∧
    refusedAt (mvChk (desc [(0, 2, 0x33), (16, 1, 1)])) = some (16, 1) ∧
    ((queued 6 (entryOf (desc [(0, 2, 0x71), (16, 2, 0x0280), (18, 1, 1)]))).startable 0 6).isSome ∧
    refusedAt (heventChk (desc [(0, 2, 0x71), (16, 2, 0x0280), (18, 1, 1)])) = some (18, 1) ∧
    dOp (desc [(0, 2, 0x25)]) ∉ definedOps 0 ∧ edgeOps (dField (desc [(16, 2, 0x0201)]) 16 2) = [] := by decide +kernel
theorem test_refused_ends_strand :
    ((after (.copy 0) (queued 5 (entryOf (desc [(0, 2, 0x31)])))).tile 0).queue 5 = [] ∧
    ((after (.copy 0) (queued 5 (entryOf (desc [(0, 2, 0x31)])))).strand 0 0).st = .free ∧
    ((after (.copy 0) (queued 5 (entryOf (desc [(0, 2, 0x31)])))).err.det.map (fun r => (r.cls, r.cause, r.info1))) = [(2, 0x11, 40#64)] := by
  decide +kernel

/-- Products of the smallest size, with their record at 0. -/
def dMm (op m : Nat) : W512 :=
  desc [(0, 2, op), (16, 8, 0x10200001000), (24, 8, 0x10200002000), (32, 4, 0x4000), (40, 2, m), (42, 2, 32), (44, 4, 32)]
def recMm : List (Nat × Nat × Nat) := [(16, 4, 128), (20, 4, 128), (24, 4, 128)]
def atMm (op : Nat) : State := recordAt (queued 0 (entryOf (dMm op 1))) 0 recMm

theorem test_matrix_starts_hyp : (∀ op ∈ [0x20, 0x21, 0x22, 0x23], ((atMm op).startable 0 0).isSome ∧
    vatFree 0 (atMm op) (entryOf (dMm op 1)) = true ∧ goes (mmStart 0 op (entryOf (dMm op 1)) (atMm op)) = true) := by decide +kernel
def dRescore : W512 := desc [(0, 2, 0x24), (44, 2, 1)]
theorem test_rescore_hyp : goes (rescoreStart 0 (entryOf dRescore) (recordAt (queued 0 (entryOf dRescore)) 0 [(16, 4, 64), (20, 2, 32)])) =
    true := by decide +kernel

/-- A bank that holds a W8 image of zeros. -/
def pressedBank (s : State) (b : Nat) (idx : Bool) : State :=
  s.modTile 0 (fun v => v.modBank b (fun k => { k with fmt := 1, idx := idx }))
def dRead : W512 := desc [(0, 2, 0x10), (16, 8, 0x10200001000), (24, 8, 0), (32, 8, 0x10200002000), (40, 8, 0x10200003000), (52, 2, 1)]
def dQuery : W512 := desc [(0, 2, 0x12), (16, 8, 0x10200001000), (24, 8, 0x10200002000), (32, 8, 0x10200003000), (48, 2, 1)]

theorem test_array_starts_hyp :
    (∀ b ∈ [0, 1], ((pressedBank (queued (b + 1) (entryOf dRead)) b false).startable 0 (b + 1)).isSome ∧
      bankFree 0 b (queued (b + 1) (entryOf dRead)) (entryOf dRead) = true ∧
      goes (readStart 0 b [] (entryOf dRead) (pressedBank (queued (b + 1) (entryOf dRead)) b false)) = true) ∧
    ((queued 1 (entryOf (desc [(0, 2, 0x11)]))).startable 0 1).isSome ∧ refusedAt (setcorrChk 512 (desc [(0, 2, 0x11)])) = none ∧
    refusedAt (setcorrChk 512 (desc [(0, 2, 0x11), (16, 8, 64), (24, 8, 64), (32, 1, 64)])) = none ∧
    ((queued 1 (entryOf dQuery)).startable 0 1).isSome ∧ refusedAt (queryChk true { Bank.reset with fmt := 1, idx := true } dQuery) = none ∧
    dField dQuery 40 8 = 0 ∧ qyOfsEn dQuery = false := by decide +kernel

theorem test_products_in_range_hyp : goes (mmStart 0 0x23 (entryOf (dMm 0x23 1)) (atMm 0x23)) = true := by decide +kernel

/-- A running VATZERO of one tile of C. -/
def vatzeroRuns : State :=
  (State.reset.setTile 0 { Tile.reset with
    queues := Tile.reset.queues.set 0 [{ running (entryOf (dMm 0x23 1)) with
      run := { Run.start with snap := [leBytes 64 (desc recMm).toNat] } }] })
theorem test_tile_commit_hyp : ((vatzeroRuns.tile 0).running 0).isSome ∧ vatzeroRuns.paused 0 = false ∧
    ((vatzeroRuns.tile 0).faultReg 0).pend = false ∧ (vatzeroRuns.tile 0).sampleOf 0 0 false = false ∧ 0 < mmTiles (dMm 0x23 1) ∧
    ((((vatzeroRuns.tile 0).running 0).bind (vatzeroRuns.workOf 0 0)).map (fun w => fine (runUnit 0 w.1 vatzeroRuns))) = some true := by
  decide +kernel

/-- A read of a non-finite vector (shift 0x80) in bank 0, whose descriptor runs. -/
def readRuns (r : ARun) : State :=
  (pressedBank (queued 1 { running (entryOf dRead) with run := { Run.start with snap := [List.replicate 64 0#8] } }) 0 false).modTile 0
    (fun v => { v.modBank 0 (fun k => { k with run := r }) with spad := v.spad.put 0x3000 [0x80#8] })
def zeroPend : PendVec := ⟨0, List.replicate 512 (0#32, false), false, [], false, 0, 0, false⟩

/-- The next vector of the read in bank 0: its waiting vectors, and whether one of them waits for companion work. -/
def nextVector (r : ARun) : Option (Nat × Bool) :=
  match (readRuns r).bankRun 0 0 with
  | some e =>
    match runUnit 0 (do readVector 0 0 e []; flushRemote (tileAgent 0 1 e)) (readRuns r) with
    | (.ok _, u) => some (((u.tile 0).bank 0).run.pend.length, ((u.tile 0).bank 0).run.pend.any (fun p => p.work))
    | _ => none
  | none => none

theorem test_array_vectors_hyp : (0 : Nat) < rdNvec dRead ∧ rdFbq dRead = false ∧ nextVector ARun.none = some (1, false) ∧
    nextVector { ARun.none with pend := [zeroPend] } = some (2, false) := by
  decide +kernel
/-- Companion work stands ahead of a tile of a product (R199): the next vector's is ready, and comes first. -/
theorem test_companion_first_hyp : let s := readRuns { ARun.none with pend := [{ zeroPend with work := true }], vec := 1 }
    s.compFirst 0 0 zeroPend.order = true ∧ s.compReady 0 0 = some 0 ∧ (readRuns ARun.none).compReady 0 0 = none ∧
    (readRuns ARun.none).compReady 0 1 = none := by decide +kernel
theorem test_companion_work_hyp : ((readRuns { ARun.none with pend := [zeroPend], vec := 1 }).tile 0).sampleVec 0 0 0 = false ∧
    (match ((readRuns { ARun.none with pend := [zeroPend], vec := 1 }).bankRun 0 0) with
      | some e => fine (runUnit 0 (writePend 0 0 e zeroPend) (readRuns { ARun.none with pend := [zeroPend], vec := 1 }))
      | none => false) = true := by decide +kernel
theorem test_divert_hyp : (((readRuns { ARun.none with vec := 1 }).tile 0).bank 0).run.vec = rdNvec dRead ∧
    (((readRuns { ARun.none with vec := 1 }).tile 0).bank 0).run.pend = [] := by decide +kernel

/-- A program of one instruction, out = a (R237), at 0 and its table at 64. -/
def dRun (op : Nat) : W512 := desc [(0, 2, op), (20, 4, 64), (24, 4, if op = 0x40 then 1 else 0), (28, 1, 1), (32, 4, if op = 0x41 then 1 else 0)]
def atRun (op : Nat) : State :=
  recordAt (recordAt (queued 4 (entryOf (dRun op))) 0 [(0, 4, 0x00001207)]) 64 [(0, 8, 0x10200001000), (16, 8, 0x10200002000), (32, 8, 0x10200003000)]

theorem test_programs_hyp : ((atRun 0x40).startable 0 4).isSome ∧ goes (progStart 0 false (entryOf (dRun 0x40)) (atRun 0x40)) = true ∧
    goes (progStart 0 true (entryOf (dRun 0x41)) (atRun 0x41)) = true := by decide +kernel

theorem test_vector_starts_hyp :
    refusedAt (rgChk (desc [(0, 2, 0x42), (16, 8, 0x10200001000), (24, 8, 0x10200002000), (36, 4, 1), (40, 4, 32), (44, 4, 128)])) = none ∧
    refusedAt (rsChk (desc [(0, 2, 0x43), (16, 8, 0x10200001000), (24, 8, 0x10200002000), (40, 4, 1), (48, 1, 4)])) = none ∧
    refusedAt (aqChk (desc [(0, 2, 0x44), (16, 8, 0x10200001000), (24, 8, 0x10200002000), (32, 8, 0x10200003000), (44, 2, 1), (47, 1, 0x10), (48, 1, 1)])) = none ∧
    refusedAt (wqChk (desc [(0, 2, 0x45), (16, 8, 0x4000000), (24, 8, 0x8000000), (32, 8, 0xC000000), (40, 4, 1024), (44, 1, 0x14)])) = none ∧
    refusedAt (tmChk (desc [(0, 2, 0x46), (16, 8, 0x10200001000), (24, 8, 0x10200002000), (32, 2, 1), (34, 2, 32), (36, 2, 32), (38, 2, 1)])) = none := by
  decide +kernel

/-- An FBQRUN at the last slice of a block of one row of 32. -/
def fbqRuns : State :=
  (queued 4 { running (entryOf (dRun 0x41)) with run := { Run.start with unit := 1, snap := [List.replicate 16 0#8, List.replicate 64 0#8] } }).modTile 0
    (fun v => { v with vec := { v.vec with fbq := [[⟨0x10200001000#64, 0, 1, 32, 128, 0, 0, true⟩], [], []] } })
theorem test_fbq_block_hyp : (fbqRuns.vecRunning 0).isSome ∧ (fbqRuns.tile 0).vec.fbq[vSrc (dRun 0x41)]? = some (⟨0x10200001000#64, 0, 1, 32, 128, 0, 0, true⟩ :: []) ∧
    (match fbqRuns.vecRunning 0 with
      | some e => e.run.blk < vBlocks e.d && fine (runUnits 0 (fbqUnitOf (tileAgent 0 4 e)) (vNinstr e.d * (32 / 128 + 1) + 1) fbqRuns)
      | none => false) = true := by decide +kernel

theorem test_mover_starts_hyp : refusedAt (vdChk dDrain) = none ∧ drainFree 0 (queued 5 (entryOf dDrain)) (entryOf dDrain) = true ∧
    refusedAt (mvChk dCopy) = none ∧ refusedAt (mvChk dXpose) = none ∧ refusedAt (mvChk dFill) = none ∧ ((queued 5 (entryOf dFill)).startable 0 5).isSome := by
  decide +kernel

def dPress (op : Nat) : W512 := desc [(0, 2, op), (16, 8, 0x4000000), (24, 8, 0x8000000), (40, 1, 0x14), (41, 1, 1)]
def pressRuns (op : Nat) : State :=
  (queued 3 { running (entryOf (dPress op)) with run := { Run.start with unit := 1025 } }).modPrs 0 (fun p => { p with running := some ⟨1, op, false, false, true, []⟩ })
def noPress : PressOut := ⟨[], [], [], []⟩

theorem test_presses_hyp :
    ((queued 3 (entryOf (dPress 1))).startable 0 3).isSome ∧ pressFree 0 (queued 3 (entryOf (dPress 1))) (entryOf (dPress 1)) = true ∧
    refusedAt (pressChk 1 false Tile.reset (dPress 1)) = none ∧
    refusedAt (pressChk 2 false ((pressedBank State.reset 1 false).tile 0) (dPress 2)) = none ∧
    refusedAt (pressChk 3 false ((pressedBank State.reset 1 false).tile 0) (dPress 3)) = none ∧
    (∀ op ∈ [1, 2], ((pressRuns op).tile 0).prs.running = some ⟨1, op, false, false, true, []⟩ ∧ ((pressRuns op).tile 0).running 3 ≠ none ∧
      (pressRuns op).paused 0 = false ∧ (((pressRuns op).tile 0).faultReg 3).pend = false ∧
      fine (runUnits 0 (pressUnit (tileAgent 0 3 (entryOf (dPress op)))) 1026 (pressRuns op)) = true) ∧
    (pressRuns 2).verifyFails 0 1 2 (dPress 2) [] noPress = false ∧ (pressRuns 2).verifyFails 0 1 2 (dPress 2) [] ⟨[⟨0, 0, 792, [], []⟩], [], [], []⟩ = true := by decide +kernel

def dArm : W512 := desc [(0, 2, 4), (32, 8, 64), (40, 8, 64), (50, 2, 1), (60, 4, 1024)]
def foldState (f : Fold) (r : Option PrsRun) : State :=
  State.reset.modTile 0 (fun v => { v.modBank 0 (fun k => { k with fold := f }) with prs := { v.prs with running := r } })

theorem test_folds_hyp :
    ((queued 3 (entryOf dArm)).startable 0 3).isSome ∧ ((queued 3 (entryOf dArm)).tile 0).prsIdle = true ∧
    refusedAt (foldarmChk false Tile.reset dArm) = none ∧ refusedAt (foldclrChk (desc [(0, 2, 5), (48, 1, 1)])) = none ∧
    ((State.reset.modTile 0 (fun v => { v with commits := [7#64] })).tile 0).commits = [7#64] ∧
    Fold.reset.dueAt 7#64 = false ∧ { Fold.reset with armed := true, k := 7#16 }.dueAt 7#64 = true ∧
    (((foldState { Fold.reset with run := true, stage := .quantised } none).tile 0).bank 0).fold.stage = .quantised ∧
    ((foldState { Fold.reset with run := true, stage := .quantised } none).tile 0).reading 0 = false ∧
    ((foldState { Fold.reset with run := true, stage := .pressing } (some ⟨0, 2, false, true, true, []⟩)).tile 0).prs.running = some ⟨0, 2, false, true, true, []⟩ ∧
    (foldState { Fold.reset with run := true, stage := .pressing } (some ⟨0, 2, false, true, true, []⟩)).paused 0 = false ∧
    fine (runUnits 0 (foldZero (foldAgent 0 0 Fold.reset) 0x10200000000 0) 2 (State.reset.sideStart (foldId 0 0) 0#512 0 Run.start)) = true ∧
    fine (runUnits 0 (pressUnit (foldAgent 0 0 Fold.reset)) 1026 (State.reset.sideStart (foldId 0 0) 0#512 0 { Run.start with unit := 1025 })) = true ∧ State.reset.owes 0 7 (foldId 0 0) = false ∧
    State.reset.overBudget true = false ∧ State.reset.paused 0 = false := by decide +kernel

theorem test_edge_starts_hyp :
    let s (d : W512) := queued 6 (entryOf d)
    let upd (op : Nat) := desc [(0, 2, op), (16, 2, 0x0100), (24, 8, 0x10200000000), (32, 8, if op = 0x60 then 1 else 0), (40, 8, if op = 0x61 then 64 else 0)]
    let trec : List (Nat × Nat × Nat) := [(56, 4, 1), (61, 1, 1)]
    (∀ op ∈ [0x60, 0x61], ((s (upd op)).startable 0 6).isSome ∧ updFree (s (upd op)) (entryOf (upd op)) = true ∧
      goesX (runUnit 0 (upStart 0 op (entryOf (upd op))) (recordAt (s (upd op)) 0 trec)) = true) ∧
    (∀ op ∈ [0x82, 0x83], goesX (runUnit 0 (coStart 0 (entryOf (desc [(0, 2, op), (16, 2, 0x300), (18, 1, 1), (20, 2, 1), (40, 8, 0x10200000000), (48, 4, 1024)])))
      (s (desc [(0, 2, op), (16, 2, 0x300), (18, 1, 1), (20, 2, 1), (40, 8, 0x10200000000), (48, 4, 1024)]))) = true) ∧
    refusedAt (rsigChk (desc [(0, 2, 0x70), (16, 2, 0x0200), (18, 2, 4095), (20, 2, 59)])) = none ∧
    refusedAt (heventChk (desc [(0, 2, 0x71), (16, 2, 0x0280), (24, 8, 7)])) = none := by decide +kernel

def dDisp (op : Nat) : W512 := desc [(0, 2, op), (16, 2, 0x0300), (24, 8, 0x10200000000), (40, 8, 0x10200000100), (48, 8, 0x10200000200)]
def recDisp : List (Nat × Nat × Nat) := [(0, 8, 0x10200000300), (8, 8, 0x10200000400), (24, 4, 1), (28, 2, 32), (30, 2, 1), (32, 4, 128), (36, 1, 1)]
theorem test_expert_starts_hyp :
    goesX (runUnit 0 (combineStart 0 (entryOf (dDisp 0x81))) (recordAt (recordAt (queued 6 (entryOf (dDisp 0x81))) 0 recDisp) 0x100 [(2, 1, 2)])) = true := by
  decide +kernel
/-- The plan of a DISPATCH holds free bytes (log 4): its start goes for every value of them. -/
theorem test_dispatch_start_hyp :
    goesX (runUnit 0 (dispatchStart 0 (entryOf (dDisp 0x80))) (recordAt (queued 6 (entryOf (dDisp 0x80))) 0 recDisp)) = true := by
  decide +kernel

def fillRuns : State := queued 5 (running (entryOf dFill))
theorem test_complete_hyp :
    let s := queued 4 { entryOf (dRun 0x40) with ph := .finished }
    ((s.tile 0).queue 4).length = 1 ∧ s.owes 0 4 0 = false ∧ (s.tile 0).faulted 4 (entryOf (dRun 0x40)) = false := by decide +kernel
theorem test_fill_completes_hyp : (fillRuns.tile 0).faulted 5 (running (entryOf dFill)) = false ∧ fillRuns.paused 0 = false ∧
    fillRuns.stopping (running (entryOf dFill)) = false ∧
    ((fillRuns.workOf 0 5 (running (entryOf dFill))).map (fun w => fine (runUnits 0 w.1 w.2 fillRuns))) = some true := by decide +kernel
theorem test_matrix_completes_hyp : matrixUnits (dMm 0x23 1) ≤ 1 ∧ (vatzeroRuns.tile 0).sampleOf 0 0 true = false ∧ vatzeroRuns.owes 0 0 0 = false := by
  decide +kernel
theorem test_stopped_entry_hyp :
    State.stopping { State.reset with grids := [⟨0, 0, 0, 0, [], true⟩] } (entryOf dFill) = true := by decide +kernel
/-- A completed descriptor signals DONE_INC (R55). -/
theorem test_done_signal :
    let e := { entryOf (desc [(0, 2, 0x33), (2, 1, 1), (4, 2, 70), (8, 4, 3)]) with ph := .finished }
    (after (.descriptorComplete 0 5 0) (queued 5 e)).evts = [⟨70, 3#32, .queue 0 5⟩] := by decide +kernel

/-! ### Memory, contexts and grids (chapters 2, 10 and 12) -/

/-- A COPY from address 0 in a context without tables, running in tile 0. -/
def dCopyAway : W512 := desc [(0, 2, 0x31), (16, 8, 0), (24, 8, 0x10200001000), (32, 4, 64), (36, 4, 64), (40, 4, 1), (44, 4, 64)]
def copyRuns : State := queued 5 (running (entryOf dCopyAway))

/-- Tables that map the first 2 MiB of context 0 to the given leaf. -/
def paged (leaf : Nat) (s : State) : State :=
  { s with
    dram := ((s.dram.put 0x1000 (leBytes 8 0x2001)).put 0x2000 (leBytes 8 0x3001)).put 0x3000 (leBytes 8 leaf)
    xl := { s.xl with roots := s.xl.roots.set 0 0x1001#64 } }

/-- Why the next access of an entry faults: reason, access, address. -/
def faultOf (s : State) (t q i : Nat) : Option (Nat × Nat × Nat) :=
  match s.faultAhead t q i with
  | some (_, .fault r a ad, _) => some (r, a, ad)
  | _ => none

theorem test_translation_fault_hyp : faultOf copyRuns 0 5 0 = some (1, 2, 0) ∧ (copyRuns.tile 0).faultReg 5 = FaultReg.none ∧
    faultOf (paged 5 copyRuns) 0 5 0 = some (2, 0, 0) ∧ faultOf (paged 3 copyRuns) 0 5 0 = none := by decide +kernel
/-- The page lies in host memory, and the access fails there. -/
theorem test_host_access_hyp : faultOf ((paged 0x800000000007 copyRuns).armFail 0 5 0) 0 5 0 = some (8, 0, 0) ∧
    ((copyRuns.tile 0).queue 5)[0]? = some (running (entryOf dCopyAway)) ∧ (((queued 5 (entryOf dCopyAway)).tile 0).next 5).any (fun x => x.1 == 0) = true := by
  decide +kernel
/-- A head that has not started meets the failure when it starts (R335). -/
theorem test_host_access_waits : (after (.hostAccessFailed 0 5 0) (queued 5 (entryOf dCopyAway))).host.fail = [(0, 5, 0)] ∧
    (after (.hostAccessFailed 5 7 2048) State.reset).host.fail = [(uHost, 7, 2048)] := by decide +kernel
theorem test_fault_posts : (after (.translationFault 0 5 0) copyRuns).frames.map (fun f => (f.typ, f.body.take 4)) = [(2, [5#8, 0#8, 1#8, 2#8])] ∧
    ((after (.translationFault 0 5 0) copyRuns).strand 0 0).st = .parked := by decide +kernel
theorem test_resume_hyp : let s := after (.translationFault 0 5 0) copyRuns
    ((s.tile 0).faultReg 5).pend = true ∧ (s.entry 0 5 ((s.tile 0).faultReg 5).entry).isSome ∧ s.stopping (running (entryOf dCopyAway)) = false ∧
    ((s.tile 0).faultReg 4).pend = false := by decide +kernel
theorem test_resume_retry_unparks : ((after (.xlresumeRetry 0 5 0x912) (after (.translationFault 0 5 0) copyRuns)).strand 0 0).st = .ready := by
  decide +kernel
theorem test_adapter_hyp : (∀ p ∈ State.reset.tiles, ∀ q, (State.reset.tile p.1).queue q = []) ∧ State.reset.side = [] := by
  constructor
  · intro p h; simp [State.reset] at h
  · rfl

theorem test_posted_domain_hyp : State.reset.wbusy domXl = false ∧ (after (.memXlinv 3#64 0x912) State.reset).wbusy domXl = true ∧
    smGet none (after (.memXlinv 3#64 0x912) State.reset).posted domXl = some (0x20000001080, 3#64, 0x912) := by decide +kernel
theorem test_root_is_posted : smGet none (after (.memXlrootWrite 15 1#64 0x912) State.reset).posted domXl = some (0x20000001078, 1#64, 0x912) ∧
    (after (.wbusyClear .xlate) (after (.memXlrootWrite 15 1#64 0x912) State.reset)).xl.roots[15]? = some 1#64 := by decide +kernel

def runs (c : Nat) (s : State) : State := { s with xl := { s.xl with runCtx := some c } }
/-- A write of MEM_PREEMPT is posted. -/
def preempts (v : W64) (s : State) : State := { s with posted := [(domXl, some (0x20000001180, v, 0x912))] }
def phased (p : PrePhase) : State := { State.reset with xl := { Xlate.reset with phase := p, runCtx := some 1, cur := 1 } }
theorem test_contexts_hyp :
    bitsOf (0x11#64).toNat 4 2 = 1 ∧ bitsOf (0x11#64).toNat 0 4 = 1 ∧ bitsOf (0x21#64).toNat 4 2 = 2 ∧
    State.reset.xl.state ≠ 1 ∧ State.reset.wbusy domXl = false ∧
    ({ State.reset with xl := { Xlate.reset with state := 1 } } : State).xl.state = 1 ∧
    smGet none (preempts 0x11#64 (runs 1 State.reset)).posted domXl = some (0x20000001180, 0x11#64, 0x912) ∧
    (preempts 0x11#64 (runs 1 State.reset)).xl.runCtx = some 1 ∧ areaOk (saveBase (preempts 0x11#64 (runs 1 State.reset)) 1) = true ∧
    (preempts 0x11#64 (runs 2 State.reset)).xl.runCtx ≠ some 1 ∧ smGet none (preempts 0x21#64 State.reset).xl.saved 1 = none := by decide +kernel
/-- A request waits, and begins as it takes effect. -/
theorem test_save_begins : (after (.preemptSave 0x11#64 0x912) (runs 1 State.reset)).wbusy domXl = true ∧
    (after (.wbusyClear .xlate) (after (.preemptSave 0x11#64 0x912) (runs 1 State.reset))).xl.phase = .stopping ∧
    (after (.wbusyClear .xlate) (after (.preemptSave 0x11#64 0x912) (runs 2 State.reset))).xl.state = 3 := by decide +kernel
theorem test_save_writes_hyp : (phased .stopping).xl.phase = .stopping ∧ (∀ p ∈ (phased .stopping).tiles, p.2.stopped = true) ∧
    (phased .stopping).clu.readies = [] ∧ (phased .stopping).clu.abandons = [] ∧ (phased .stopping).remotes = [] ∧ (phased .stopping).evts = [] ∧
    (phased .stopping).transfersHeld = false := by decide +kernel
theorem test_restore_hyp :
    let k : SavedCtx := ⟨[], 0#16, [], [], 0⟩
    let s : State := preempts 0x21#64 { State.reset with xl := { Xlate.reset with saved := [(1, some k)] } }
    smGet none s.xl.saved (bitsOf (0x21#64).toNat 0 4) = some k ∧ s.xl.runCtx = none ∧ areaOk (saveBase s 1) = true ∧
    (phased .loading).xl.phase = .loading ∧ (phased .loading).transfersHeld = false ∧ (phased .restoring).xl.phase = .restoring ∧
    (phased .restoring).transfersHeld = false ∧
    (∀ p ∈ (phased .restoring).tiles, (p.2.bank 0).fold.run = false ∧ (p.2.bank 1).fold.run = false) := by decide +kernel
/-- A tile that re-enters keeps the discards of the links. -/
theorem test_restore_discards_hyp (l : List Nat) (s : State) (h : s.lnk.discards = []) :
    (l.foldl (fun x t => x.modTile t (fun k => k.reenter (x.savedTile 1 t))) s).lnk.discards = [] := by
  induction l generalizing s with
  | nil => exact h
  | cons t r ih => exact ih _ h
theorem test_save_done_hyp :
    let s : State := { State.reset with xl := { Xlate.reset with phase := .writing, runCtx := some 1, ctx := 1, state := 1 } }
    s.xl.phase = .writing ∧ s.transfersHeld = false ∧ (after .preemptSaveDone s).xl.state = 2 ∧ (after .preemptSaveDone s).xl.runCtx = none := by
  decide +kernel

/-- A grid record: 4 bytes of code at 0x4000, one strand on tile 0. -/
def gridRec : List Byte := leBytes 64 (desc [(0, 8, 0x4000), (8, 4, 4), (20, 2, 1), (24, 1, 1), (25, 1, 1), (32, 8, 77)]).toNat
def ringHolds : State :=
  { paged 3 State.reset with sq := State.reset.sq.set 2 ⟨true, 0, 4, 0x400#64, 0#16, 0#16, some (0, gridRec)⟩ }
theorem test_doorbell_hyp : (ringHolds.ring 2).usable = true ∧ ((16#64).setWidth 16 - (ringHolds.ring 2).head : W16).toNat ≤ 2 ^ (ringHolds.ring 2).log2n ∧
    2 ^ (ringHolds.ring 2).log2n < ((17#64).setWidth 16 - (ringHolds.ring 2).head : W16).toNat := by decide +kernel
theorem test_launch_hyp : (ringHolds.ring 2).held = some (0, gridRec) ∧ gridOk gridRec = true ∧ ringHolds.launchable 0 gridRec = true ∧
    (ringHolds.copyStart 2 0).copyFailed 2 = false ∧
    fine (runUnit 1024 (xReadWords ⟨uHost, uHost, 0, 7, copyId 2, false⟩ (gCode gridRec) (gBytes gridRec / 4)) (ringHolds.copyStart 2 0)) = true := by decide +kernel
/-- The launched strand has s2 at ARG_ADDR, and counter 60 counts the launch (R65). -/
theorem test_launch : ((after (.gridLaunch 2) ringHolds).strand 0 0).reg 2 = 77#64 ∧ (after (.gridLaunch 2) ringHolds).ctr 60 = 1#32 := by
  decide +kernel

def gridState (stop : Bool) : State := runs 0 { State.reset with grids := [⟨0, 2, 0, 5, gridRec, stop⟩] }
theorem test_grid_ends_hyp : ∀ b ∈ [false, true], ∃ g, (gridState b).gridOf 0 = some g ∧ (gridState b).gridDone g = true ∧ g.stopping = b ∧
    (gridState b).stopDue g.ctx = false ∧ (gridState b).xl.runCtx = some g.ctx := by
  intro b _; exact ⟨⟨0, 2, 0, 5, gridRec, b⟩, rfl, by cases b <;> decide +kernel, rfl, by cases b <;> decide +kernel, rfl⟩
theorem test_grid_complete : (after (.gridComplete 0) (gridState false)).ctr 61 = 1#32 ∧ (after (.gridComplete 0) (gridState false)).grids = [] ∧
    (after (.gridErrorCompletion 0) (gridState true)).ctr 61 = 0#32 := by decide +kernel

def evRing (tail : W16) (owed : Nat) : State :=
  { State.reset with
    frames := [⟨3, 0x05, []⟩]
    eq := State.reset.eq.set 3 ⟨true, false, 0, 6, 0#64, tail, 0#16, 0#32, 0#32, owed, false⟩ }
/-- Room is left at 63 frames and none at 64. -/
theorem test_event_ring_hyp : ((evRing 63#16 0).eq[3]?).map (fun r => decide (r.size ≤ (r.tail - r.head).toNat)) = some false ∧
    ((evRing 64#16 0).eq[3]?).map (fun r => decide (r.size ≤ (r.tail - r.head).toNat)) = some true ∧
    ((evRing 0#16 1).eq[3]?).map (fun r => (r.en, r.arm, r.lostOwed)) = some (true, false, 1) := by decide +kernel
theorem test_event_ring_drops : ((after .hev (evRing 64#16 0)).eq[3]?).map (fun r => (r.tail, r.lost)) = some (64#16, 1#32) ∧
    ((after .hev (evRing 63#16 0)).eq[3]?).map (fun r => (r.tail, r.lost)) = some (64#16, 0#32) := by decide +kernel

/-! ### Errors, index mode and registers (chapters 15, 17 and 19) -/

/-- The module in RUN: every rail on, the MP runs. -/
def up : State :=
  { State.reset with
    rails := ⟨true, true, true, true⟩
    eft := { State.reset.eft with pstate := 3 }
    mp := { State.reset.mp with alive := true, state := 2, step := 10 } }
def err0 : Rec := mkRec 0 0x20 7
def withErr (det waiting : List Rec) (hand : Option Rec) : State :=
  { up with err := { up.err with det := det, waiting := waiting, inHand := hand } }

theorem test_detection_hyp : (mkRec 2 0x10 0).cls = 2 ∧ (mkRec 3 0x30 0).cls = 3 ∧
    (State.detect (runs 1 up) (mkRec 2 0x1A 0)).err.contDue = [] ∧ (State.detect (runs 1 up) (mkRec 2 0x10 0)).err.contDue = [1] ∧
    (State.detect up (mkRec 2 0x10 0)).err.contDue = [] ∧
    (State.detect (runs 1 up) (mkRec 3 0x30 0)).err.fatalDue = true ∧ (runs 1 up).xl.runCtx = some 1 ∧ up.xl.runCtx = none := by decide +kernel
theorem test_repetition_hyp : (withErr [err0] [mkRec 1 4 7, err0] none).err.det = err0 :: [] ∧ up.mpRuns = true ∧
    [mkRec 1 4 7, err0] = [mkRec 1 4 7] ++ err0 :: [] ∧ err0.cls = 0 ∧ (∀ y ∈ [mkRec 1 4 7], y.cls ≠ 0) := by decide +kernel
theorem test_repetition_counts : (after .errorRecordRaise (withErr [err0] [err0, err0] none)).err.waiting.map (fun r => r.rep) = [1, 0] := by
  decide +kernel
theorem test_raise_hyp : err0.eft = false ∧ mergeInto err0 [mkRec 2 4 7] = none ∧ (withErr [err0] [mkRec 2 4 7] none).err.count < 256 ∧
    (withErr [err0] [] none).err.inHand = none ∧ (err0.cls < (mkRec 1 4 7).cls) ∧ (withErr [mkRec 1 4 7] [] (some err0)).err.inHand = some err0 ∧
    err0.stamp < { err0 with stamp := 1#64 }.stamp ∧ { err0 with stamp := 1#64 }.setAside = false := by
  decide +kernel
theorem test_handle_hyp : (withErr [] [] (some err0)).err.inHand = some err0 ∧ (withErr [] [] (some err0)).mpRuns = true ∧
    (withErr [] [] (some err0)).err.lostEscDue = false ∧ postsFrame err0 = false ∧ postsFrame (mkRec 1 4 7) = true := by decide +kernel
/-- A deferred record without a context goes to DEVRING as an ERROR frame (R433). -/
theorem test_handle_posts : (after .recordHandled (withErr [] [] (some (mkRec 1 4 7)))).frames.map (fun f => (f.ring, f.typ, f.body.length)) =
    [(0, 9, 32)] := by decide +kernel

def sampled (n w : List W32) : State :=
  up.modTile 0 (fun v => { v with shadow := { v.shadow with sample := some (.matrix 0 0 n w 0 false [⟨64, 4, 5#32, false⟩] []) } })
theorem test_keeping_hyp : up.mpRuns = true ∧ up.mp.state = 2 ∧ up.rails.dram = true ∧ matrixPasses [1#32] [1#32] 0 = true ∧
    matrixPasses [1#32] [2#32] 0 = false ∧ (sampled [1] [1]).tile 0 ≠ up.tile 0 ∧ (up.tile 0).spad.syn = [] ∧ up.dram.syn = [] := by decide +kernel
theorem test_shadow_mismatch : ((after (.shadowCompare 0) (sampled [1] [2])).tile 0).shadow.mismatch = 1#16 ∧
    ((after (.shadowCompare 0) (sampled [1] [1])).tile 0).shadow.mismatch = 0#16 := by decide +kernel

/-- The ends of PERIOD's range (R399). -/
theorem test_mode_hyp : up.wbusy domMp = false ∧ bitsOf (0x0100E100#64).toNat 4 17 = 3600 ∧ bitsOf (0x01151800#64).toNat 4 17 = 86400 ∧
    bitsOf (0x0100E100#64).toNat 24 8 ≠ 0 ∧ (after (.modeChange 0x0100E101#64 0x912) up).mode.fence = true ∧
    (after (.modeChange 0x0100E101#64 0x912) up).wbusy domMp = true := by decide +kernel
theorem test_mode_ack_hyp : let s := after (.modeChange 0x0100E100#64 0x912) up
    s.mode.fence = true ∧ s.mode.ack.getLsbD 1023 = false ∧ smGet false s.mode.hist s.mode.mepoch.toNat = false ∧
    (s.tile 1023).oldWorkDone s.mode.mepoch false = true ∧ s.mode.ack ||| (1#1024 <<< 1023) ≠ BitVec.allOnes 1024 := by decide +kernel
theorem test_fence_timeout_hyp : ({ up with mode := { up.mode with fence := true } } : State).mode.fence = true := by decide

/-- The thresholds of a refresh: 90,000 s of age or 9,000 hot seconds. -/
theorem test_refresh_hyp : ((pressedBank up 0 false).tile 0).bank 0 ≠ Bank.reset ∧ (((pressedBank up 0 false).tile 0).bank 0).fmt ≠ 0 ∧
    (after (.refreshRequest 0 0 89999 8999) (pressedBank up 0 false)).frames = [] ∧
    (after (.refreshRequest 0 0 90000 0) (pressedBank up 0 false)).frames.length = 1 ∧
    (after (.refreshRequest 0 0 0 9000) (pressedBank up 0 false)).frames.length = 1 := by decide +kernel
def indexBank : State :=
  { (up.modTile 0 (fun v => v.modBank 1 (fun k => { k with fmt := 1, idx := true, refreq := true, press := some (dPress 1, 1) }))) with
    mode := { up.mode with use := true }, xl := { up.xl with runCtx := some 1 } }
theorem test_index_refresh_hyp : ((indexBank.tile 0).bank 1).press = some (dPress 1, 1) ∧ indexBank.mode.use = true ∧ ((indexBank.tile 0).bank 1).idx = true ∧
    ((indexBank.tile 0).bank 1).refreq = true ∧ State.periodOver { up with time := 86400000000#64 } Bank.reset = true ∧
    ((indexBank.tile 0).bank 1).refStopped = false ∧ indexBank.mpRefreshes < indexBank.mode.maxref ∧ (indexBank.tile 0).full 3 = false ∧
    (indexBank.tile 0).queue 3 = [] := by decide +kernel
theorem test_index_refresh : (((after (.indexRefreshIssue 0 1 true) indexBank).tile 0).queue 3).map (fun e => (dOp e.d, e.org)) = [(3, .mp)] := by
  decide +kernel

theorem test_checks_hyp : (1#64).getLsbD 0 = true ∧ up.mp.xState ≠ 1 ∧ (after (.mpXchkStart 1#64 0x912) up).mp.xState = 1 ∧
    bitsOf (0xFF82000#64).toNat 8 6 = 32 ∧ bitsOf (0xFF82000#64).toNat 16 12 = 0xFF8 ∧ 0xFF8 % 8 = 0 ∧ up.wbusy domMp = false ∧
    smGet none (after (.mpDiagsel 0x2801F1F#64 0x912) up).posted domMp = some (0x20000480A00, 0x2801F1F#64, 0x912) ∧
    up.logicalOf 31 31 = some 1023 ∧ up.logicalOf 0 32 = none ∧ (0x200004D0000 : Nat) < 0x200004E0000 := by decide +kernel
/-- Two tiles with the same bank whose results are the exact ones agree in every test (R441). -/
theorem test_crosscheck_agree (s old : State) (res : List XchkRes) (t u : Nat) (hb : (s.tile t).bank 0 = (s.tile u).bank 0)
    (hr : ∀ r ∈ res, r.tile ≠ t ∧ r.tile ≠ u) : s.xchkTest old res true t u = none := by
  have he (n v : Nat) (hv : ∀ r ∈ res, r.tile ≠ v) : xchkOf res true n v = [] := by
    simp only [xchkOf, List.filter_eq_nil_iff]; intro r h; simp [hv r h]
  have hz (l : List Int) : (((l.zip l).map (fun p => p.1 - p.2)).map (fun v => v.natAbs ^ 2)).sum = 0 := by
    induction l with
    | nil => rfl
    | cons a l ih => simpa using ih
  have hn (lim : Nat) : s.xchkNoisy lim t u [] [] = false := by
    simp only [State.xchkNoisy, hb, hz, decide_eq_false_iff_not]
    have hs (l : List Nat) : (l.map (fun _ => 0)).sum = 0 := by induction l <;> simp_all
    rw [hs]; omega
  simp [State.xchkTest, he _ t (fun r h => (hr r h).1), he _ u (fun r h => (hr r h).2), hn, xchkUnlike]
/-- A pair that differs: a tile whose rerun with its neighbour differs too is faulty, else both are suspect (R442). -/
theorem test_crosscheck_named : State.reset.xchkNamed State.reset [] 0 1 = [(0, false, 1), (0x200, false, 1)] ∧
    State.reset.xchkNamed State.reset [⟨0, true, 1, 0, 7, 1⟩] 0 4 = [(0, true, 4)] := by
  have hb (t u : Nat) : (State.reset.tile t).bank 0 = (State.reset.tile u).bank 0 := rfl
  have h1 : State.reset.xchkTest State.reset [⟨0, true, 1, 0, 7, 1⟩] true 0 1 = some 1 := by decide +kernel
  have h2 (res : List XchkRes) (h : ∀ r ∈ res, r.tile ≠ 0x200 ∧ r.tile ≠ 0x201) :=
    test_crosscheck_agree State.reset State.reset res 0x200 0x201 (hb _ _) h
  have h3 := test_crosscheck_agree State.reset State.reset [] 0 1 (hb _ _) (by simp)
  exact ⟨by simp [State.xchkNamed, h2, h3], by simp [State.xchkNamed, h1, h2]⟩

/-- The last offset of a block, and the offsets beside an assigned one (R472). -/
theorem test_unassigned_hyp : up.rails.io = true ∧ up.rails.core = true ∧ tileAssigned 0 0xFFF8 = false ∧ tileAssigned 15 0 = false ∧
    tileAssigned 0 0x308 = true ∧ tileAssigned 0 0x310 = false ∧ edgeAssigned 0 0x1180 = true ∧ edgeAssigned 1 0x1180 = false ∧
    edgeAssigned 0xFF 0xFFF8 = false ∧ edgeAssigned 0x4D 0xFFF8 = false ∧ up.mpRuns = true ∧ edgeAssigned 0x28 0x128 = true ∧ edgeAssigned 0x39 8 = false := by decide +kernel
theorem test_clears_hyp : up.rails.core = true ∧ up.rails.io = true ∧ (3#64).getLsbD 0 = true ∧ (3#64).getLsbD 1 = true ∧
    up.wbusy (domUpd 7) = false := by decide +kernel
theorem test_numclr_clears : (((after (.tileNumclr 1023 2#64 1023) (up.numCount 1023 1 5)).tile 1023).num.cnt[1]?) = some 0#32 ∧
    (((after (.tileNumclr 1023 1#64 1023) (up.numCount 1023 1 5)).tile 1023).num.cnt[1]?) = some 5#32 := by decide +kernel
theorem test_posted_hyp : smGet none (after (.updNumclr 7 1#64 0x912) up).posted (domUpd 7) = some (0x200000F0280, 1#64, 0x912) ∧
    smGet none (after (.updRngseed 7 1#64 0x912) up).posted (domUpd 7) = some (0x200000F0300, 1#64, 0x912) ∧
    up.pwr.refuses (up.locks 0x912) 0x08 0xE100C80#64 = false ∧ bitsOf (0x100#64).toNat 8 8 ≠ 0 ∧
    (after (.pwrCapWrite 0xE100C80#64 0x912) up).wbusy domPwr = true := by decide +kernel
theorem test_narrow_hyp : up.eftDark 0x10000700300 = false ∧ State.reset.mpRuns = false ∧ State.reset.eftDark 0x200004D0000 = true ∧ up.csrLive 0x10000700300 = true ∧ up.csrLive 0x20000000004 = true ∧ (4 : Nat) ≠ 8 ∧ 0x20000000004 % 8 ≠ 0 := by
  decide +kernel
/-- The ends of the inbox and of DRAM, and the module locked or not. -/
theorem test_bars_hyp : up.rails.io = true ∧ 0x8FF8 + 8 ≤ 0x9000 ∧ up.applied = true ∧ up.host.aper = 0 ∧ 0xFFFFFFFF8 + 8 ≤ 0x1000000000 ∧
    up.sec.gecko = false := by decide +kernel
theorem test_inbox : (after (.hostBarAccess 0 0x8FF8 8 false 0#64) (after (.hostBarAccess 0 0x8FF8 8 true 0x0102030405060708#64) up)).host.answer =
    some (0x0102030405060708#64, false) := by decide +kernel

/-! ### Power, start-up and management (chapters 16, 17, 18 and 20) -/

def island : State := { up with eft := { up.eft with pstate := 1 }, mp := State.reset.mp, rails := Rails.reset }

/-- Each band of physical columns has its own detector (R30). -/
theorem test_droop_hyp : droopIdx 0 0 = 0 ∧ droopIdx 1 7 = 0 ∧ droopIdx 2 8 = 5 ∧ droopIdx 31 23 = 62 ∧ droopIdx 31 24 = 63 ∧ droopIdx 31 32 = 63 ∧
    (({ up with holds := { up.holds with droop := 1#64 <<< 63 } } : State).holds.droop).getLsbD (droopIdx (1023 / 32) (up.physCol 1023)) = true := by
  decide +kernel
theorem test_inputs_hyp : up.eft.pstate ≠ 0 ∧ up.rails.io = true ∧ (5000 : Nat) ≤ 5000 ∧ (65535 : Nat) ≤ 65535 ∧
    ({ up with rails := ⟨false, false, false, false⟩ } : State).rails.stage1 = false ∧ up.rails.stage1 = true ∧ (4399 : Nat) < 4400 := by decide +kernel
theorem test_undervoltage : (after (.inputTrip .under) up).rails = ⟨true, false, false, false⟩ ∧ (after (.inputTrip .under) up).eft.trip = 2 := by
  decide +kernel
def pwrOf (p : Pwr) : State := { up with pwr := p }
theorem test_cap_tick_hyp :
    (∀ s ∈ [pwrOf { up.pwr with vset := 600 }, pwrOf { up.pwr with vset := 550, n := 4 }], s.rails.io = true ∧ s.rails.core = true ∧ s.posted = [] ∧
      s.pwr.n ≤ 64 ∧ 550 ≤ s.pwr.vset ∧ s.pwr.vset ≤ 800) := by decide +kernel
theorem test_controller_hyp : up.pwr.slewHold = false ∧ min up.pwr.thrN up.pwr.capN ≤ up.pwr.n ∧
    (pwrOf { up.pwr with n := 4 }).pwr.n < min up.pwr.thrN up.pwr.capN ∧ (pwrOf { up.pwr with vset := 550 }).pwr.vset < up.pwr.target ∧
    up.pwr.target < (pwrOf { up.pwr with vset := up.pwr.target + 1 }).pwr.vset ∧ (pwrOf { up.pwr with slewHold := true }).holds.droop = 0#64 ∧
    up.holds.droop.getLsbD 63 = false ∧ ((after (.droopTrip 63) up).holds.droop).getLsbD 63 = true ∧
    smGet 0 (pwrOf { up.pwr with ramp := [(63, 7)] }).pwr.ramp 63 = 7 ∧ up.pwr.temps = [] ∧ up.pwr.paceEn = false ∧
    550 < up.pwr.thrV.getD up.pwr.target := by decide +kernel
/-- Rationing rises by 8 in a frame (R410). -/
theorem test_ration_rises : (after .rationFrame (pwrOf { up.pwr with n := 4 })).pwr.n = 12 := by decide +kernel
theorem test_throttle_steps : (after .throttleStep (pwrOf { up.pwr with throttle := true, tmax := 95, thrV := some 600 })).pwr.thrV = some 595 ∧
    (after .throttleStep (pwrOf { up.pwr with throttle := true, tmax := 94, thrV := some 600 })).pwr.thrV = some 600 ∧
    (after .throttleStep (pwrOf { up.pwr with throttle := true, tmax := 92, thrN := 62 })).pwr.thrN = 64 := by decide +kernel

def lines (p : Pins) : State := { up with pins := p }
theorem test_lines_hyp : up.eft.pstate ≠ 0 ∧ up.pins.pwren = false ∧ (lines { up.pins with pwren := true }).pins.pwren = true ∧ 2 ≤ up.eft.pstate ∧
    island.eft.pstate = 1 ∧ (lines { up.pins with rst := true, resetLogged := false }).pins.rst = true ∧ up.pins.rst = false ∧ up.pins.halt = false ∧
    (lines { up.pins with halt := true, haltLogged := false }).pins.halt = true ∧ island.rails.core = false ∧ up.sess.status ≠ 1 := by decide +kernel
theorem test_wake_line_hyp : let s : State := { island with pins := { island.pins with pwren := true }, eft := { island.eft with wakeEn := true } }
    s.eft.pstate = 1 ∧ s.pins.pwren = true ∧ s.eft.wakeEn = true ∧ (after .hostPortWake s).eft.startPend = true := by decide +kernel
theorem test_keeps_time_hyp : up.mpRuns = true ∧ ({ up with clu := { up.clu with drive := true } } : State).clu.drive = true := by decide +kernel

def starting : State :=
  { island with
    eft := { island.eft with startPend := true, vin := 5000 }
    pins := { island.pins with pwren := true } }
def stepSeven : State :=
  { up with
    eft := { up.eft with pstate := 2 }
    mp := { up.mp with state := 1, step := 7 }
    stackRegs := up.stackRegs.map (fun k => { k with ready := true }) }
theorem test_startup_hyp : starting.canStart = true ∧ stepSeven.mpRuns = true ∧ stepSeven.mp.state = 1 ∧ stepSeven.mp.step = 7 ∧
    stepSeven.stackRegs.all (fun k => k.ready) = true := by decide +kernel

/-- A sound frame with the given opcode and body. -/
def frame (opc : Nat) (body : List Byte) : List Byte :=
  let h := leBytes 2 opc ++ leBytes 2 body.length ++ List.replicate 8 0#8
  h ++ leBytes 4 (crc32c (h ++ body)).toNat ++ body
/-- The module with a dynamic address. -/
def addressed (s : State) : State := { s with i3c := { s.i3c with addr := some 8 } }
theorem test_frames_hyp : frameFault (frame 0x01 [0#8]) = none ∧ mBody (frame 0x01 [0#8]) = [0#8] ∧ mOpc (frame 0x01 [0#8]) = 0x01 ∧
    frameFault (frame 0x02 (List.replicate 32 7#8)) = none ∧ frameFault (frame 0x03 []) = none ∧
    frameFault (frame 0x05 (leBytes 4 0 ++ leBytes 4 63)) = none ∧ frameFault (frame 0x10 (leBytes 4 0xFFF)) = none ∧
    leVal (leBytes 4 0xFFF) = 0xFFF ∧ frameFault (frame 0x11 []) = none ∧ frameFault (frame 0x13 []) = none := by decide +kernel
theorem test_management_hyp : up.mpRuns = true ∧ up.mp.state ≠ 3 ∧ (addressed up).frameOf (.i3c (frame 0x03 [])) = some (frame 0x03 []) ∧
    up.sec.idFail = false ∧ up.wbusy domPwr = false ∧ lField (leBytes 4 0 ++ leBytes 4 63) 4 4 = 63 := by decide +kernel
def boxed (f : List Byte) : State := { up with host := { up.host with busy := true, inbox := putBytesAt [] 0 f } }
theorem test_mailbox_frame_hyp : ((boxed (frame 0x11 [])).frameOf .host).map (fun f => (frameFault f, mOpc f, mBody f)) = some (none, 0x11, []) ∧
    ((boxed (frame 0x12 [])).frameOf .host).map (fun f => (frameFault f, mOpc f, mBody f)) = some (none, 0x12, []) ∧
    ((boxed (frame 0x13 [])).frameOf .host).map (fun f => (frameFault f, mOpc f, mBody f)) = some (none, 0x13, []) := by decide +kernel
/-- READSUM answers in its own frame (R462). -/
theorem test_readsum_answers : mOpc (after (.readsum (.i3c (frame 0x03 []))) (addressed up)).i3c.resp = 0x03 := by decide +kernel
theorem test_takeover_hyp : island.eft.pstate = 1 ∧ (addressed island).i3c.addr.isSome = true ∧ island.mpRuns = false ∧ frameFault (frame 0x04 []) = none ∧
    frameFault (frame 0x12 []) = none ∧ (lines { up.pins with pwren := true }).pins.pwren = true := by decide +kernel

theorem test_updates_hyp :
    let b := leBytes 4 1 ++ leBytes 4 0x800000
    frameFault (frame 0x20 b) = none ∧ b.length = 8 ∧ lField b 0 1 = 1 ∧ lField b 4 4 ≤ imageRoom (lField b 0 1) ∧
    up.barred (.i3c []) = false ∧ up.sess.chan = none ∧
    State.barred { up with sec := { up.sec with noI3c := true } } (.i3c []) = true := by decide +kernel
theorem test_update_data_hyp :
    let s : State := { up with sess := ⟨some 1, 0, 17, [], 0, 0⟩ }
    let b := leBytes 4 16 ++ List.replicate 12 0#8 ++ [9#8]
    frameFault (frame 0x21 b) = none ∧ mBody (frame 0x21 b) = b ∧ s.sess.chan = some (chanNum (.i3c (frame 0x21 b))) ∧ s.sess.status = 0 ∧
    16 ≤ b.length ∧ lField b 0 4 + (b.length - 16) ≤ s.sess.total ∧ ({ s with sess := { s.sess with status := 1 } } : State).sess.status = 1 := by
  decide +kernel
theorem test_channels_hyp : up.rails.io = true ∧ up.host.busy = false ∧ (1#64).getLsbD 0 = true ∧ (boxed []).host.busy = true ∧ (boxed []).mp.after = 0 ∧
    4000 + (List.replicate 96 0#8).length ≤ 4096 ∧ up.i3c.addr = none ∧ (addressed up).i3c.addr = some 8 ∧ (127 : Nat) < 128 ∧
    up.boundaryOpen = true ∧ State.boundaryOpen { up with sec := { up.sec with gecko := true } } = false := by decide +kernel
/-- The maximum lengths are read most significant byte first (R462). -/
theorem test_getmwl : (after .getmwl (addressed { up with i3c := { up.i3c with mwl := 0x0102#16 } })).i3c.ccc = [1#8, 2#8] := by decide +kernel
/-- The code of R491. -/
theorem test_idcode : (after .idcode up).jtag.dr.take 8 = [true, true, false, true, false, false, true, false] := by decide +kernel

/-! ### Ports, packets and the clutch (chapters 12 to 14) -/

def portIs (p : Nat) (f : Port → Port) : State := up.modPort p f
def peer7 : PeerParam := ⟨7, 3, 1, List.replicate 10 64, 512⟩

theorem test_training_hyp : ((portIs 0 (fun x => { x with st := 1 })).port 0).st = 1 ∧ up.lnk.idV = false ∧
    ({ up with lnk := { up.lnk with idV := true } } : State).lnk.idV = true ∧ ((portIs 0 (fun x => { x with x4ok := true })).port 0).x4ok = true ∧
    (∀ st ∈ [2, 3, 4, 6], ((portIs 17 (fun x => { x with st := st, laneOk := 0xFF#8 })).port 17).st = st ∧
      ((portIs 17 (fun x => { x with st := st, laneOk := 0xFF#8 })).port 17).carries = true) ∧
    ((portIs 17 (fun x => { x with st := 2, laneOk := 0x0F#8, x4ok := false })).port 17).carries = false ∧
    ((portIs 17 (fun x => { x with st := 2, laneOk := 0x0F#8, x4ok := true, x4 := true })).port 17).carries = true ∧
    ((portIs 0 (fun x => { x with st := 6, sub := 2 })).port 0).sub = 2 ∧ peer7.dev ≠ up.devId ∧ (up.port 0).expect = none ∧ (up.port 0).bond = 31 ∧
    ((portIs 0 (fun x => { x with expect := some 6 })).port 0).expect = some 6 ∧ ({ peer7 with dev := 0 } : PeerParam).dev = up.devId := by decide +kernel
theorem test_retraining_hyp :
    let s := portIs 3 (fun x => { x with st := 5, lockLost := true, winBad := 65, replays := 16, laneOk := 0xFF#8 })
    (s.port 3).st = 5 ∧ (s.port 3).lockLost = true ∧ 64 < (s.port 3).winBad ∧ 16 ≤ (s.port 3).replays ∧ (s.port 3).laneOk.getLsbD 7 = true ∧
    ((portIs 3 (fun x => { x with st := 6, fails := 1 })).port 3).fails < 2 ∧ ((portIs 3 (fun x => { x with st := 6, fails := 2 })).port 3).fails = 2 ∧
    (portIs 3 (fun x => { x with st := 6, fails := 2 })).out = [] := by decide +kernel

/-- An UP port with one flit in its retry buffer. -/
def sender (resend : Nat) (nak : Bool) : State :=
  portIs 1 (fun x => { x with st := 5, retry := [⟨0, List.replicate 246 0#8⟩], resend := resend, nakReq := nak, depth := 2 })
def packet (opc dst hops : Nat) : Packet := ⟨opc, 9, dst, hops, 0, 77, 0, 0, 0, none, [], 30, 0, 0, false, []⟩
theorem test_sending_hyp : ((sender 0 false).port 1).retry[((sender 0 false).port 1).resend]? ≠ none ∧ (sender 0 false).holds.fatal = false ∧
    ((sender 1 false).port 1).resend = ((sender 1 false).port 1).retry.length ∧ ((sender 1 true).port 1).nakReq = true ∧
    ((sender 1 false).port 1).cur = [] ∧ (sender 1 false).out = [] ∧ ((sender 1 false).port 1).retry.length < min 512 ((sender 1 false).port 1).depth ∧
    min 512 ((portIs 1 (fun x => { x with st := 5, retry := [⟨0, []⟩], resend := 1, depth := 1 })).port 1).depth ≤ 1 := by decide +kernel
theorem test_fill_hyp : ((((sender 1 false).modPort 1 (fun x => { x with cur := [⟨List.replicate 16 0#8, false, false⟩] })).fillSlots 1 40 15 []).1).length = 1 := by
  decide +kernel

/-- A flit of 256 bytes with a right FCRC. -/
def soundFlit (fseq : Nat) : List Byte :=
  leBytes 2 fseq ++ List.replicate 250 0#8 ++ leBytes 4 (crc32c (leBytes 2 fseq ++ List.replicate 250 0#8)).toNat
/-- Scrambling twice from one state gives the flit back (R312): a flit on the lanes is a scrambled one. -/
theorem test_scramble_twice (x : BitVec 31) (l : List Byte) : (scramble x (scramble x l).1).1 = l := by
  induction l generalizing x with
  | nil => rfl
  | cons b r ih => simp [scramble, ih, BitVec.xor_assoc]
theorem test_receiving_hyp : (soundFlit 4096).length = 256 ∧ (up.port 1).rxSeq = 0 ∧ lField (soundFlit 4096) 0 2 = 4096 + (up.port 1).rxSeq ∧
    bitOf (lField (soundFlit 4096) 2 2) 12 = false ∧ lField (soundFlit 8192) 0 2 = 8192 := by decide +kernel
theorem test_fcrc_hyp (h : List Byte) (hl : h.length = 252) (c : W32) :
    (h ++ leBytes 4 c.toNat).take 252 = h ∧ BitVec.ofNat 32 (lField (h ++ leBytes 4 c.toNat) 252 4) = c := by
  constructor
  · rw [← hl, List.take_left]
  · apply BitVec.eq_of_toNat_eq
    rw [lField, ← hl, List.drop_left]
    have := c.isLt
    simp [leBytes, leVal]
    omega

/-- A packet that waits at port 2; device 5 is reached over bond 4. -/
def arrived (k : Packet) : State :=
  { (portIs 2 (fun x => { x with st := 5, rcvd := [k] })) with lnk := { (portIs 2 (fun x => { x with st := 5, rcvd := [k] })).lnk with route := [(5, 0x8004#16), (9, 0x8001#16)] } }
/-- The same with the link that the route table gave it (R326): 31 is none. -/
def routed (via hops : Nat) : Packet := { packet 1 5 hops with via := via }
theorem test_forwarding_hyp : (arrived (routed 4 2)).packetAt 2 0 = some (routed 4 2) ∧ (routed 4 2).hop = .bond 4 ∧ (routed 31 0).hop = .unreach ∧
    (packet 1 0 0).hop = .loc ∧ (routed 4 3).hops = 3 ∧ unanswered 0x40 = true := by decide +kernel
theorem test_forward : (after (.packetForward 2 0) (arrived (routed 4 2))).out.map (fun k => (k.hops, k.via)) = [(3, 4)] ∧
    (after (.packetForward 2 0) (arrived (routed 4 3))).out.map (fun k => (k.opc, k.info % 256)) = [(5, 18)] := by decide +kernel

def asking (opc : Nat) : Remote := ⟨77, 9, opc, 0, 6, 0, some 2, 0, 64, 0, noPage, .here 0⟩
def askedFor (k : Packet) (opc : Nat) : State := { arrived k with remotes := [asking opc] }
theorem test_answers_hyp : (∀ x ∈ [(0x04, 0x01), (0x11, 0x10), (0x13, 0x12), (0x07, 0x06), (0x03, 0x02)],
      ((askedFor (packet x.1 0 0) x.2).dropRcvd 2 0 (packet x.1 0 0)).asked (packet x.1 0 0) [x.2] = some (asking x.2)) ∧
    (arrived (packet 3 0 0)).asked (packet 3 0 0) [0x02] = none ∧ (arrived (packet 4 0 0)).asked (packet 4 0 0) [0x01] = none ∧
    (askedFor (packet 5 0 0) 1).remotes.find? (fun y => y.tag == 77) = some (asking 1) := by decide +kernel

/-- Requests for this device in running context 0, whose first 2 MiB are mapped. -/
def asked0 (k : Packet) : State := paged 7 { arrived k with xl := { up.xl with runCtx := some 0 } }
def wr0 : Packet := { packet 1 0 0 with addr := 0x4000, words := List.replicate 16 (5#32, false) }
def rd0 : Packet := { packet 2 0 0 with addr := 0x4000, value := 64 }
def servedAt (k : Packet) (acc : Nat) : Option Loc :=
  match ((asked0 k).dropRcvd 2 0 k).portXlate 2 0 k.addr acc with
  | (.ok l, _) => some l
  | _ => none
/-- What becomes of context 0's requests: 0 they run, 1 it is saved, 2 there is none. -/
def fate (s : State) : Nat :=
  match s.ctxFate 0 with
  | .runs => 0
  | .saved => 1
  | .none => 2
theorem test_requests_hyp : knownOpc 0x08 = false ∧ spanOk wr0.addr (4 * wr0.words.length) = true ∧ servedAt wr0 1 = some (.dram 0x4000) ∧
    fate ((asked0 wr0).dropRcvd 2 0 wr0) = 0 ∧ fate up = 2 ∧
    fate { up with xl := { up.xl with saved := [(0, some ⟨[], 0#16, [], [], 0⟩)] } } = 1 ∧
    spanOk rd0.addr rd0.value = true ∧ servedAt rd0 0 = some (.dram 0x4000) ∧ servedAt { wr0 with addr := 0x200000 } 1 = none ∧
    deviceCtr 60 = true ∧ deviceCtr 65535 = true ∧ deviceCtr 59 = false ∧ spanOk 0x1000 4096 = true ∧ spanOk 0x1040 4096 = false := by decide +kernel
theorem test_sig_counts : (after (.sigPacket 2 0) (asked0 { packet 6 0 0 with addr := 65, value := 3 })).ctr 65 = 3#32 := by decide +kernel

def dScat : W512 := desc [(0, 2, 0x82), (18, 1, 1), (20, 2, 2), (32, 8, 0x4000), (48, 4, 1024)]
def coll1 : Coll := ⟨1, 0, 0, 0, dScat, [0, 9], [0], [0, 0], [], [], 0⟩
def group (opc id : Nat) : Packet := { packet opc 0 0 with addr := 0x4000, words := List.replicate 1024 (0#32, false), info := id }
def collects (k : Packet) : State := { asked0 k with dsp := { up.dsp with colls := [coll1] } }
theorem test_collectives_hyp : groupOk (group 0x10 1) = true ∧ groupOk { group 0x10 1 with value := 1 } = false ∧
    ((collects (group 0x10 1)).dropRcvd 2 0 (group 0x10 1)).coll (pkId (group 0x10 1)) = some coll1 ∧ up.coll 1 = none ∧ coScat coll1.d = true ∧
    coOrder coll1.d = false ∧ pkId (group 0x12 0) = 0 ∧ pkDfmt (group 0x12 0) = 0 ∧ (packet 0x14 0 0).opc = 0x14 ∧
    (List.range coll1.members.length).find? (fun r => !coll1.armed.contains r) = some 1 ∧
    fine (((collects (group 0x10 1)).dropRcvd 2 0 (group 0x10 1)).placeLines 2 0 0x4000 1 64) = true := by decide +kernel

def dClu (op : Nat) : W512 := desc [(0, 2, op), (16, 2, 0x0400), (24, 8, if op = 0x92 then 0x10200000000 else 1), (32, 2, if op = 0x91 then 0 else 1)]
theorem test_clutch_descriptors_hyp : (∀ op ∈ [0x90, 0x91, 0x92], ((queued 6 (entryOf (dClu op))).startable 0 6).isSome) ∧
    refusedAt (readyChk State.reset (dClu 0x90)) = none ∧ refusedAt (abandonChk State.reset (dClu 0x91)) = none ∧
    refusedAt (readyChk State.reset (desc [(0, 2, 0x90), (24, 8, 2), (32, 2, 1)])) = some (24, 2) ∧
    refusedAt (ckAll (leBytes 32 0) 1) = none ∧
    fine (runUnit 0 (xBytes (cluAgent 0 (entryOf (dClu 0x92))) 0x10200000000 9 32) (queued 6 (entryOf (dClu 0x92)))) = true := by decide +kernel
theorem test_table_is_clean : (match (runUnit 0 (xBytes (cluAgent 0 (entryOf (dClu 0x92))) 0x10200000000 9 32) (queued 6 (entryOf (dClu 0x92)))).1 with
    | .ok (l, none) => l == List.replicate 32 0#8
    | _ => false) = true := by decide +kernel

/-- A manager, a standby, a worker; checkpoint and rollback records. -/
def clu (f : Clu → Clu) : State := { up with clu := f up.clu }
def mgr (f : Clu → Clu) : State := clu (fun c => f { c with role := 0 })
def sby (f : Clu → Clu) : State := clu (fun c => f { c with role := 1 })
def ck5 : CkRec := ⟨5#64, 0, [], 0, [], []⟩
def roll (p : RollPhase) (failed dones : List Nat) : MgrRoll := ⟨1#64, 0#64, 1, failed, p, [(9, 3)], dones, 0#64⟩

theorem test_commits_hyp : (clu (fun c => { c with role := 2 })).clu.role = 2 ∧ (mgr id).clu.failed.contains 3 = false ∧ (mgr (fun c => { c with failed := [3] })).clu.failed.contains 3 = true ∧
    (∀ opc ∈ [0x30, 0x31, 0x32, 0x33, 0x34, 0x35, 0x36, 0x37, 0x38, 0x39, 0x3A, 0x3B, 0x3C, 0x3D, 0x3E, 0x3F], (mgr id).takeClu opc = mgr id) ∧
    (1#64 : W64) = up.epoch + 1 ∧ (2#64 : W64) ≠ up.epoch + 1 ∧ (2#64 : W64) ≠ up.epoch ∧ (0#64 : W64) = up.epoch ∧ (sby id).clu.role = 1 ∧
    (MirrorRec.mk 1#64 true 0#8 none).ckpt = none ∧ (MirrorRec.mk 5#64 true 0#8 (some ck5)).ckpt = some ck5 := by decide +kernel
theorem test_mack_hyp :
    (let s := mgr (fun c => { c with decided := some (1#64, 0#8) })
     s.clu.decided = some (1#64, 0#8) ∧ s.clu.bound = false ∧ s.clu.ckOwed = none) ∧
    (let s := mgr (fun c => { c with ckOwed := some ck5 })
     s.clu.ckOwed = some ck5 ∧ ck5.epoch = 5#64) ∧
    (let s := mgr (fun c => { c with rolling := some (roll .mirror [3] []) })
     s.clu.ckOwed = none ∧ s.clu.decided = none ∧ s.clu.rolling = some (roll .mirror [3] []) ∧ (roll .mirror [3] []).phase = .mirror ∧
     (roll .mirror [3] []).epoch = 1#64) := by decide +kernel
/-- A commit takes its epoch (R364). -/
theorem test_commit_takes_epoch : (after (.ccommit 1#64 0#8) up).epoch = 1#64 := by decide +kernel

/-- A checkpoint table of one tensor, held by a device without a copy of it. -/
def tab1 : CkTab := ⟨[⟨0, 0x100000, 4096, 7, 0⟩], 0x200000, 0x300000, 4096⟩
def kept (keep : Bool) : Roll := ⟨1#64, 0#64, 1, 3, keep⟩
def got0 : RestoreData := ⟨[], []⟩
def rolled (c : Clu) : Clu := { c with roll := some ⟨1#64, 0#64, 1, 3, false⟩ }
theorem test_rollback_hyp : ((mgr id).clu.roll = none) ∧ ((clu rolled).stopOver = true) ∧ ((clu rolled).restoreEntries (kept false) got0).1 = true ∧
    ((clu rolled).restoreEntries (kept true) got0).1 = true ∧
    (clu rolled).clu.former = none ∧ ((clu (fun c => { rolled c with former := some 9 })).restoreEntries (kept false) got0).1 = true ∧
    ((clu (fun c => { rolled c with former := some 9 })).restoreEntries (kept false) got0).2.clu.former = some 9 := by decide +kernel
/-- The restore of a tensor that another device must send, of which nothing came. -/
def ck5e : CkRec := ⟨5#64, 0, [], 0, [], [(up.devId, [⟨7, List.replicate 32 0#8, true, none⟩])]⟩
theorem test_bad_restore_hyp : ((clu (fun c => { rolled c with table := some { tab1 with ents := [⟨0, 0x100000, 4, 7, 0⟩] }, saved := [ck5e] }) : State).restoreEntries
    ⟨1#64, 5#64, 1, 3, false⟩ got0).1 = false := by decide +kernel
/-- The rollback's CRDONE leaves, and the restored device has no rollback in progress (R365). -/
theorem test_restore_done : (after (.rollbackRestoreDone got0) (clu rolled)).clu.roll = none ∧ (after (.rollbackRestoreDone got0) (clu rolled)).clu.rolls = 1#16 := by
  decide +kernel
theorem test_crdone_hyp :
    (mgr id).clu.rolling = none ∧
    (let s := mgr (fun c => { c with known := [4, 5], failed := [3], rolling := some (roll .survivors [3] []) })
     s.clu.rolling = some (roll .survivors [3] []) ∧ (∃ d ∈ s.devId :: s.clu.live, d ∉ addDev [] 4) ∧ s.clu.failed.contains 4 = false) ∧
    (let s := mgr (fun c => { c with known := [4], rolling := some (roll .survivors [] [0]) })
     (∀ d ∈ s.devId :: s.clu.live, d ∈ addDev [0] 4) ∧ s.clu.toReplace s.devId = []) ∧
    (let s := mgr (fun c => { c with known := [4], failed := [3], lost := [3], spares := [9], rolling := some (roll .survivors [3] [0]) })
     (∀ d ∈ s.devId :: s.clu.live, d ∈ addDev [0] 4) ∧ s.clu.toReplace s.devId ≠ [] ∧ s.clu.stuck = false ∧ (roll .survivors [3] [0]).failed ≠ []) ∧
    (∀ p ∈ (roll .spares [3] []).subs, p.1 ∈ addDev (roll .spares [3] []).dones 9) ∧
    (let s := mgr (fun c => { c with decided := some (1#64, 0#8) })
     s.clu.decided.isSome = true) := by decide +kernel
/-- One report of two leaves the rollback open; an ABANDON's FAILRPT for the next epoch begins one (R365). -/
theorem test_crdone : (after (.crdone ⟨⟨4, none, 0⟩, true⟩) (mgr (fun c => { c with known := [4, 5], rolling := some (roll .survivors [3] []) }))).clu.rolling =
      some (roll .survivors [3] [4]) ∧
    ((after (.failrpt ⟨4, none, 0⟩ ⟨1#64, true⟩) (mgr (fun c => { c with known := [4] }))).clu.rolling.map (fun r => (r.cause, r.restore))) = some (2, 0#64) := by
  decide +kernel

/-- Bytes shared under one address, and under two addresses that lead to one place (R217, R238, R272): page 1 of context 0 is tile 0's
own scratchpad. -/
theorem test_region_meets : (⟨selfBase, 64, 4, 32⟩ : Region).meets ⟨selfBase + 65, 64, 1, 4⟩ = true ∧
    (⟨selfBase, 64, 4, 32⟩ : Region).meets ⟨selfBase + 32, 64, 4, 32⟩ = false := by decide +kernel
theorem test_aliased :
    let s := State.reset.modTile 0 (fun v => { v with dma := { v.dma with cache := [⟨0, 1, BitVec.ofNat 64 (tileBase + 7)⟩] } })
    s.aliased ⟨0, 0, 0, 5, 0, true⟩ ⟨0x200000, 64, 2, 64⟩ ⟨selfBase + 64, 64, 1, 64⟩ = true ∧
    s.aliased ⟨0, 0, 0, 5, 0, true⟩ ⟨0x200000, 64, 2, 64⟩ ⟨selfBase + 128, 64, 1, 64⟩ = false := by decide +kernel
theorem test_heartbeats_hyp :
    (mgr (fun c => { c with failed := [3] })).clu.failed.contains 3 = true ∧ up.clu.mgrId = 0 ∧ 2 ≤ up.clu.role ∧ up.clu.tabOwed = false ∧ up.clu.drive = false ∧
    up.holds.fatal = false ∧ up.lnk.idV = false ∧ ({ sby id with lnk := { up.lnk with idV := true } } : State).lnk.idV = true ∧
    3 ∈ (mgr (fun c => { c with known := [3], missed := [(3, 4)] })).clu.known ∧ 3 ∉ (mgr id).clu.failed ∧
    up.clu.miss ≤ smGet 0 (mgr (fun c => { c with missed := [(3, 4)] })).clu.missed 3 ∧
    smGet 0 (mgr (fun c => { c with missed := [(3, 3)] })).clu.missed 3 < up.clu.miss ∧
    (sby (fun c => { c with mgrOnly := true, missed := [(0, 4)] })).clu.mirror = none ∧
    up.clu.miss ≤ smGet 0 (sby (fun c => { c with missed := [(0, 4)] })).clu.missed (sby id).clu.mgrId := by decide +kernel
theorem test_checkpoints_hyp :
    (clu (fun c => { c with drain := some 1#64 })).clu.drain = some 1#64 ∧ up.clu.drain = none ∧ up.clu.ckRun ≠ some 1#64 ∧ up.clu.cand = none ∧
    (clu (fun c => { c with cand := some ck5 })).clu.cand = some ck5 ∧ (clu (fun c => { c with drive := true })).clu.drive = true ∧
    ((clu (fun c => { c with drive := true })).detect (mkRec clsCorrected cNvmeFail uMgmt)).clu.drain = none := by decide +kernel
/-- A drain whose only tensor is poisoned, and one whose tensor is clean. -/
def drains (tab : CkTab) (poison : Bool) : State :=
  { clu (fun c => { c with drain := some 1#64, table := some tab }) with
    dram := (up.dram.put32 0 1#32 poison).put32 0x100000 1#32 poison }
theorem test_drain_hyp :
    let tab : CkTab := { tab1 with ents := [⟨0, 0x100000, 64, 7, 0⟩] }
    (drains tab true).clu.table = some tab ∧ ((drains tab true).drainAll tab 1#64 0 tab.ents).1.2.isSome = true ∧
    ((drains tab false).drainAll tab 1#64 0 tab.ents).1.2 = none := by decide +kernel
theorem test_routes_hyp : smWf 0#16 up.lnk.route ∧ (4095 : Nat) < 4096 ∧ (31 : Nat) < 32 ∧ (up.takeClu 0x36).lnk.route = [] ∧
    (clu (fun c => { c with role := 3 })).clu.role = 3 ∧
    (let s := mgr (fun c => { c with known := [4], spares := [9], rolling := some (roll .routes [3] []) })
     s.clu.rolling = some (roll .routes [3] []) ∧ (∃ d ∈ s.devId :: s.clu.live ++ s.clu.spares, d ∉ addDev [] 4) ∧
     (∀ d ∈ s.devId :: s.clu.live ++ s.clu.spares, d ∈ addDev [0, 9] 4)) ∧
    (TreeCfg.mk (some 0) [] [] 0 [] 0 0 0 none none [] none [] 0 1).table = none ∧ up.clu.gen ≠ 1 ∧ up.clu.rollDue = none := by decide +kernel
theorem test_routeupd : smGet 0#16 (after (.routeupd [⟨4095, 30, true⟩]) up).lnk.route 4095 = 0x801E#16 := by decide +kernel

/-! ### One step of each command whose completion the sections above name no state for -/

theorem test_register_writes_hyp : up.rails.core = true ∧ up.rails.io = true ∧ up.sec.gecko = false ∧ up.wbusy domXl = false ∧ (15 : Nat) < 16 ∧
    0xFFF8 % 8 = 0 ∧ (0xFF : Nat) < 0x100 ∧ up.csrLive 0x10000700300 = true ∧ State.reset.csrLive 0x10000700300 = false ∧ up.mpRuns = true := by decide +kernel
/-- A write of a tile's seed, of the last tile's alarms, and of half a register (R469). -/
theorem test_register_write : ((after (.registerWrite 0x10000700300 8 7#64 0x912) up).tile 0).seed = 7#64 ∧
    ((after (.registerWrite (0x10000700288 + 1023 * 0x800000) 8 0x3FF#64 0x912) up).tile 1023).num ≠ (up.tile 1023).num ∧
    (after (.registerWrite 0x10000700300 4 7#64 0x912) up).err.det.map (fun r => r.cause) = [0x20] := by decide +kernel
theorem test_bar_parts_hyp : up.rails.io = true ∧ 0x3FF8 + 8 ≤ 0x4000 ∧ 0x9FF8 + 8 ≤ 0xA000 ∧ 0xC1F8 + 8 ≤ 0xC200 ∧ 0xD000 + 8 ≤ 0xD008 ∧
    ({ up with host := { up.host with aper := 16 } } : State).host.aper = 16 ∧
    ({ up with host := { up.host with aper := 16 } } : State).applied = true ∧ State.reset.applied = false ∧
    ({ up with sec := { up.sec with gecko := true } } : State).applied = true ∧ 0xFFFFF8 + 8 ≤ 0x1000000 := by decide +kernel
/-- A write through BAR2 reaches DRAM, one through BAR4 an edge register once the module is locked (R334). -/
theorem test_bars : (after (.hostBarAccess 2 0x40 4 true 0x01020304#64) up).dram.byte 0x40 = 4#8 ∧
    smGet none (after (.hostBarAccess 4 0x1100 8 true 0x1000#64) { up with sec := { up.sec with gecko := true } }).posted domXl =
      some (0x20000001100, 0x1000#64, 0x912) ∧
    (after (.hostBarAccess 1 0 8 true 0#64) up).err.det.map (fun r => r.cause) = [0x20] := by decide +kernel
/-- A sensor snapshot starts with the time of its scan (R452); the watchdog holds every tile (R447). -/
theorem test_management_events : ((after .sensorSnapshot { up with time := 5#64 }).eft.snap)[0]? = some 5 ∧
    (after .mpWatchdogSignal { up with time := 9#64 }).eft.signalAt = 9#64 ∧ (after .mpWatchdogExpire up).held 1023 = true ∧
    (after .timekeeperTick up).time = 1#64 ∧ (after (.regulatorRead [1, 2]) up).mp.regs = [1, 2] ∧
    (after (.smartLogRead [7#8]) (clu (fun c => { c with drive := true }))).err.sum.smart = [7#8] := by decide +kernel
/-- A save is not in progress (R280), a registered table keeps apart (R374), and a request in flight uses another page than an invalidation names (R270). -/
theorem test_further_hyp : State.reset.saving = false ∧ (copyRuns.saving && (running (entryOf dCopyAway)).halt) = false ∧
    refusedAt (ckTabChk ⟨[ckEnt (leBytes 32 0) 0], 0, 0, 0⟩) = none ∧ refusedAt (ckTabChk tab1) = none ∧
    (∀ r ∈ [({ asking 1 with ctx := 2, page := 7 } : Remote)], xlinvHits 3#64 ⟨r.ctx, r.page, 0#64⟩ = false) := by decide +kernel

/-! ### Witnesses of the further clauses -/

/-- Every other illegal form, at the first value outside its range (R49, R51). -/
theorem test_more_illegal_forms_hyp :
    (at0 (.shri 0 0 ⟨1, 1, 64⟩) []).issues 0 0 (.shri 0 0 ⟨1, 1, 64⟩) ∧ (at0 (.srai 0 0 ⟨1, 1, 64⟩) []).issues 0 0 (.srai 0 0 ⟨1, 1, 64⟩) ∧
    (at0 (.sig 0 0 ⟨1, 0, 0, 60⟩) []).issues 0 0 (.sig 0 0 ⟨1, 0, 0, 60⟩) ∧ (at0 (.sig 0 0 ⟨1, 0, 1, 0⟩) []).issues 0 0 (.sig 0 0 ⟨1, 0, 1, 0⟩) ∧
    (at0 (.wait 0 0 ⟨1, 0, 0, 64⟩) []).issues 0 0 (.wait 0 0 ⟨1, 0, 0, 64⟩) ∧ (at0 (.wait 0 0 ⟨1, 0, 0, 60⟩) []).issues 0 0 (.wait 0 0 ⟨1, 0, 0, 60⟩) ∧
    (at0 (.rdc 0 0 ⟨1, 0, 0, 64⟩) []).issues 0 0 (.rdc 0 0 ⟨1, 0, 0, 64⟩) ∧ ctrId Strand.none ⟨1, 0, 0, 64⟩ = 64 ∧
    (at0 (.ld 0 0 ⟨1, 0, 4⟩) []).issues 0 0 (.ld 0 0 ⟨1, 0, 4⟩) ∧ (at0 (.ld 0 0 ⟨1, 2, 0⟩) [0, 0x300000]).issues 0 0 (.ld 0 0 ⟨1, 2, 0⟩) ∧
    (at0 (.st 0 0 ⟨1, 2, 0⟩) [0, 0x300000]).issues 0 0 (.st 0 0 ⟨1, 2, 0⟩) ∧ (0x300000 : Nat) < 0x300000 + 8 ∧
    (at0 (.issue 0 0 ⟨1, 0, 5, 0, 0⟩) [32]).issues 0 0 (.issue 0 0 ⟨1, 0, 5, 0, 0⟩) ∧
    (at0 (.issue 0 0 ⟨1, 0, 5, 0, 0⟩) [0x300000]).issues 0 0 (.issue 0 0 ⟨1, 0, 5, 0, 0⟩) ∧
    headerOk 0 (descOf (0x31#8 :: 0#8 :: 0#8 :: 1#8 :: List.replicate 60 0#8)) = false ∧ (at0 (.yield 0 0 ⟨1⟩) []).issues 0 0 (.yield 0 0 ⟨1⟩) := by
  decide +kernel
theorem test_bad_header_stops :
    let s : State := (at0 (.issue 0 0 ⟨1, 0, 5, 0, 0⟩) [0x2FFFC0]).modTile 0 (fun v => { v with spad := v.spad.put 0x2FFFC0 [0x31#8, 0#8, 0#8, 1#8] })
    s.issues 0 0 (.issue 0 0 ⟨1, 0, 5, 0, 0⟩) ∧ ((after (.issue 0 0 ⟨1, 0, 5, 0, 0⟩) s).strand 0 0).st = .free ∧
    ((after (.issue 0 0 ⟨1, 0, 5, 0, 0⟩) s).tile 0).queue 5 = [] := by decide +kernel

/-- A queue entry with a word of a single wrong bit, and one with a poisoned word (R259). -/
def flawed (v : BitVec 7) : QEntry := { entryOf dCopy with syn := [(0, v)] }
theorem test_flawed_entry_hyp : (∀ v ∈ [poisonSyn, 0x7F#7], ((queued 5 (flawed v)).startable 0 5).isSome ∧ (flawed v).syn ≠ []) ∧
    ((queued 5 (flawed poisonSyn)).readHead 0 5 (flawed poisonSyn)).1 = true ∧ dOp dCopy = 0x31 ∧ refusedAt (mvChk dCopy) = none ∧
    (entryOf dCopy).syn = [] := by decide +kernel

/-- The pairs of a full connection in order and in the opposite order, of the two halves, and of none (R492). -/
def lanesFrom (l : List Nat) : List (Option (Nat × Bool)) := l.map (fun i => some (i, i == 3))
theorem test_lanes_hyp : seenLanes (lanesFrom [0, 1, 2, 3, 4, 5, 6, 7]) = 0xFF#8 ∧ seenLanes (lanesFrom [7, 6, 5, 4, 3, 2, 1, 0]) = 0xFF#8 ∧
    seenLanes (lanesFrom [0, 1, 2, 3]) = 0x0F#8 ∧ seenLanes (lanesFrom [7, 5, 4, 6]) = 0xF0#8 ∧ seenLanes [none] = 0#8 := by decide +kernel

/-- A HEART of a device that the manager knows, of one declared failed, of one just started, and of a module whose id another has taken (R371). -/
def report (former : Option Nat) (first : Bool) : DevReport := ⟨0#64, true, none, none, none, former, first⟩
theorem test_hearts_hyp :
    getDev (mgr id).clu.holders 3 = (report none true).former ∧ getDev (mgr (fun c => { c with holders := [(3, 9)] })).clu.holders 3 ≠ (report none true).former ∧
    getDev (mgr (fun c => { c with holders := [(3, 9)] })).clu.holders 3 = (report (some 9) false).former ∧
    (report none false).first = false ∧ (report none true).first = true ∧ up.clu.origin = none ∧ up.clu.hbFirst = true ∧ 2 ∉ (mgr id).clu.stops ∧
    (mgr (fun c => { c with decided := some (1#64, 0#8), failed := [3] })).clu.decided = some (1#64, 0#8) := by decide +kernel
/-- What a failed device says brings it a CROLL, not a place among the living. -/
theorem test_failed_heart :
    let s : State := { mgr (fun c => { c with failed := [3] }) with lnk := { up.lnk with route := [(3, 0x8001#16)] } }
    (after (.heart 3 (report none false)) s).clu.known = [] ∧ (after (.heart 3 (report none false)) s).out.map (fun k => (k.opc, k.dst)) = [(0x33, 3)] ∧
    (after (.heart 3 (report none true)) s).clu.known = [3] ∧ (after (.heart 3 (report none true)) s).clu.failed = [] := by decide +kernel

/-- The setpoint moves in RUN only (R411, R453); a BAR2 access may cross from a tile's registers into memory (R469). -/
theorem test_run_only_hyp : up.eft.pstate = 3 ∧ island.eft.pstate ≠ 3 ∧ ({ up with sec := { up.sec with gecko := true } } : State).sec.gecko = true ∧
    isTileCsr (0x10000000000 + 0x7FFFFC) = true ∧ isTileCsr (0x10000000000 + 0x7FFFFC + 8 - 1) = false ∧
    (∀ l ∈ [locOf (0x10000000000 + 0x7FFFFC + 8 - 1)], ∀ p ∈ List.range 1, l ≠ .csr p) := by decide +kernel
/-- The sensor snapshot's readings of the trip sensors, whatever they are. -/
theorem test_trip_readings_hyp : ∃ trips u, freeReadings 64 up = (trips, u) := ⟨_, _, rfl⟩

/-! ### Witnesses of the widened clauses -/

/-- A fetch from the first byte beyond the scratchpad, and one of a poisoned word (R41, R427). -/
theorem test_fetch_edges :
    (let s := (strandAt 0#32 []).setStrand 0 0 { (strandAt 0#32 []).strand 0 0 with pc := 0x300000#32 }
     s.mayIssue 0 0 = true ∧ 0x300000 < (s.strand 0 0).pc.toNat + 4 ∧ ((after (.instructionFetchStop 0 0) s).strand 0 0).st = .free) ∧
    (let s := (strandAt 0#32 []).modTile 0 (fun v => { v with spad := v.spad.setSyn 0 poisonSyn })
     s.mayIssue 0 0 = true ∧ (s.readLoc (.spad 0 0) (s.ctxOfGrid 0)).1.2 = true ∧
     (after (.instructionFetchStop 0 0) s).err.det.map (fun r => r.cause) = [cPoisonCtl]) := by decide +kernel

/-- A QUERY with a live mask and offsets (R390, R391): both are read, clean. -/
def dMasked : W512 := desc [(0, 2, 0x12), (16, 8, 0x10200001000), (24, 8, 0x10200002000), (32, 8, 0x10200003000), (40, 8, 0x10200004000), (48, 2, 1), (50, 1, 1),
  (52, 4, 0x5000)]
theorem test_query_mask_hyp :
    let s := pressedBank (queued 1 (entryOf dMasked)) 0 true
    qyOfsEn dMasked = true ∧ dField dMasked 40 8 ≠ 0 ∧ refusedAt (queryChk true ((s.tile 0).bank 0) dMasked) = none ∧ ((s.tile 0).bank 0).w8 = true ∧
    (match runUnit 0 (xReadWords (tileAgent 0 1 (entryOf dMasked)) (dField dMasked 40 8) 32) s with
     | (.ok ws, v) => !ws.any (·.2) && lField ((ws.map (fun x => leBytes 4 x.1.toNat)).flatten) 64 64 == 0 &&
         !(v.readRecord 0 (dField dMasked 52 4) 0 ((s.tile 0).bank 0).cols).1.2 &&
         goes (armRun 0 0 (entryOf dMasked) [] [(ws.map (fun x => leBytes 4 x.1.toNat)).flatten, (v.readRecord 0 (dField dMasked 52 4) 0 512).1.1]
           (qyInput true dMasked) (qyNvec dMasked) v)
     | _ => false) = true := by decide +kernel

/-- A full finished-block sub-queue of the matrix engine (R249), and eight vectors that wait. -/
theorem test_full_queues_hyp :
    (let v : Tile := { vatzeroRuns.tile 0 with vec := { Vec.reset with fbq := [List.replicate 16 ⟨0#64, 0, 1, 32, 128, 0, 0, true⟩, [], []] } }
     v.fbqFull = true ∧ mmFbq (desc [(0, 2, 0x20), (50, 1, 8)]) = true) ∧
    8 ≤ (((readRuns { ARun.none with pend := List.replicate 8 zeroPend, vec := 8 }).tile 0).bank 0).run.pend.length ∧
    ((after (.arrayVectorDone 0 0 []) (readRuns { ARun.none with pend := List.replicate 8 zeroPend, vec := 0 })).tile 0).bank 0 =
      ((readRuns { ARun.none with pend := List.replicate 8 zeroPend, vec := 0 }).tile 0).bank 0 := by decide +kernel

/-- ACTQ and WQUANT in both rounding modes (R74, R245, R246). -/
theorem test_roundings_hyp :
    (∀ m ∈ [0, 1], refusedAt (aqChk (desc [(0, 2, 0x44), (16, 8, 0x10200001000), (24, 8, 0x10200002000), (32, 8, 0x10200003000), (44, 2, 1), (47, 1, 0x10), (48, 1, m)])) = none ∧
      aqMode (desc [(48, 1, m)]) = m) ∧
    (∀ m ∈ [0, 1], refusedAt (wqChk (desc [(0, 2, 0x45), (16, 8, 0x4000000), (24, 8, 0x8000000), (32, 8, 0xC000000), (40, 4, 1024), (44, 1, 0x14), (45, 1, m)])) = none) := by
  decide +kernel

/-- A READ that is done, and a vector of it that a translation fault takes back (R55, R190). -/
theorem test_read_ends_hyp : readDone ((readRuns { ARun.none with vec := 1 }).tile 0) 0 (entryOf dRead) = true ∧
    (((readRuns { ARun.none with pend := [zeroPend], vec := 1 }).rewindBank 0 1).tile 0).bank 0 ≠ ((readRuns { ARun.none with pend := [zeroPend], vec := 1 }).tile 0).bank 0 := by
  decide +kernel
/-- Unit bounds of queue 6 (R55): an edge descriptor with work, and one that has none. -/
theorem test_edge_work_hyp : (edgeWork 0 (entryOf (dDisp 0x80))).isSome = true ∧ (edgeWork 0 (entryOf (dClu 0x92))).isSome = false := by decide +kernel

/-- Both banks' folds are due at one commit (R201): bank 0's begins. -/
theorem test_both_folds_due :
    let f : Fold := { Fold.reset with armed := true, k := 1#16 }
    f.dueAt 1#64 = true := by decide +kernel

/-- Flits ahead and in order, DATA and IDLE (R315). -/
theorem test_flit_order_hyp : lField (soundFlit 4101) 0 2 / 4096 = 1 ∧ lField (soundFlit 4101) 0 2 % 4096 ≠ (up.port 1).rxSeq ∧
    lField (soundFlit 5) 0 2 / 4096 = 0 ∧ lField (soundFlit 5) 0 2 % 4096 ≠ (up.port 1).rxSeq ∧ lField (soundFlit 0) 0 2 % 4096 = (up.port 1).rxSeq := by
  decide +kernel

/-- Counts of the generation in force, of an older and of a newer one (R367, R372). -/
theorem test_generations :
    let s := mgr (fun c => { c with gen := 2, nmem := 9, known := [3] })
    (after (.cready ⟨3, none, 2⟩ 1#64 1) s).clu.creadys = [(3, 1)] ∧ (after (.cready ⟨3, none, 1⟩ 1#64 1) s).clu.creadys = [] ∧
    (after (.cready ⟨3, none, 3⟩ 1#64 1) s).clu.early = [⟨false, 3, 1#64, 3, 1⟩] ∧ (after (.cready ⟨3, some 9, 2⟩ 1#64 1) s).clu.creadys = [] ∧
    (after (.ccack ⟨3, none, 2⟩ 0#64 1) s).clu.ccacks = [(3, 1)] := by decide +kernel
/-- A survivor whose routes change posts STATE 1 after them (R382). -/
theorem test_routes_then_state1 :
    let s := clu (fun c => { c with rollDue := some (kept false) })
    (after (.routeupd [⟨9, 1, true⟩]) s).clu.rollDue = none ∧ (after (.routeupd [⟨9, 1, true⟩]) s).frames.map (fun f => f.typ) = [0x11] := by
  decide +kernel
/-- An ABANDON that comes while a commit stands waits for it (R365). -/
theorem test_abandon_waits :
    (after (.failrpt ⟨4, none, 0⟩ ⟨1#64, true⟩) (mgr (fun c => { c with known := [4], decided := some (1#64, 0#8) }))).clu.abandonDue = some 1#64 := by
  decide +kernel

end Sys2Proof.Tests
end

section
/-! Posted writes, the other register writes, and the save and restore of a context: what each command does, case by case, and the two
statements of the scope chapter. -/

namespace Sys2Proof.Machine

/-! ### What the commands run -/

theorem exec_memXlrootWrite (n : Nat) (v : W64) (w : Nat) (s : State) : exec (.memXlrootWrite n v w) s = .next (doMemXlrootWrite n v w s) := rfl
theorem exec_memXlinv (v : W64) (w : Nat) (s : State) : exec (.memXlinv v w) s = .next (s.postWrite domXl w (memReg 0x1080) v) := rfl
theorem exec_xlinvComplete (s : State) : exec .xlinvComplete s = .next (doXlinvComplete s) := rfl
theorem exec_wbusyClear (d : Dom) (s : State) : exec (.wbusyClear d) s = .next (doWbusyClear d s) := rfl
theorem exec_pwrCapWrite (v : W64) (w : Nat) (s : State) : exec (.pwrCapWrite v w) s = .next (s.pwrWrite w 0x08 v) := rfl
theorem exec_pwrLearnClr (v : W64) (w : Nat) (s : State) : exec (.pwrLearnClr v w) s = .next (s.pwrWrite w 0x20 v) := rfl
theorem exec_registerWrite (a size : Nat) (v : W64) (w : Nat) (s : State) :
    exec (.registerWrite a size v w) s = .next (s.csrStore w a size v) := rfl
theorem exec_preemptSave (v : W64) (w : Nat) (s : State) : exec (.preemptSave v w) s = .next (doPreemptSave v w s) := rfl
theorem exec_preemptSaveWrite (s : State) : exec .preemptSaveWrite s = .next (doPreemptSaveWrite s) := rfl
theorem exec_preemptSaveDone (s : State) : exec .preemptSaveDone s = .next (doPreemptSaveDone s) := rfl
theorem exec_preemptRestore (v : W64) (w : Nat) (s : State) : exec (.preemptRestore v w) s = .next (doPreemptRestore v w s) := rfl
theorem exec_preemptRestoreDone (s : State) : exec .preemptRestoreDone s = .next (doPreemptRestoreDone s) := rfl

/-! ### Places in the register families -/

theorem idx8_elem (base count n : Nat) (h : n < count) : idx8 (base + 8 * n) base count = some n := by
  unfold idx8
  rw [if_pos ⟨by omega, by omega⟩]
  congr 1
  omega

theorem idx8_above (off base count : Nat) (h : base + 8 * count ≤ off) : idx8 off base count = none :=
  if_neg fun hin => by omega

theorem memReg_sub (off : Nat) : memReg off - memReg 0 = off := by
  unfold memReg
  exact Nat.add_sub_cancel_left edgeBase off

/-- The MEM_XLROOT family lies below the other registers of the translation domain. -/
theorem memReg_root_ne_preempt (n : Nat) (h : n < 16) : memReg (0x1000 + 8 * n) ≠ memReg 0x1180 := by
  unfold memReg edgeBase
  omega

/-! ### The write that waits in the translation domain takes effect (R461) -/

theorem doMemXlrootWrite_lt (n : Nat) (v : W64) (w : Nat) (s : State) (h : n < 16) :
    doMemXlrootWrite n v w s = s.postWrite domXl w (memReg (0x1000 + 8 * n)) v := if_pos h

theorem doWbusyClear_preempt (s : State) (a : Nat) (v : W64) (w : Nat) (h : smGet none s.posted domXl = some (a, v, w))
    (ha : a = memReg 0x1180) : doWbusyClear .xlate s = (s.applyPreempt v).clearPost domXl := by
  simp only [doWbusyClear, h, ha, if_true]

theorem doWbusyClear_root (s : State) (a n : Nat) (v : W64) (w : Nat) (h : smGet none s.posted domXl = some (a, v, w))
    (ha : a ≠ memReg 0x1180) (hroot : idx8 (a - memReg 0) 0x1000 16 = some n) :
    doWbusyClear .xlate s = (s.setRoot n v).clearPost domXl := by
  simp only [doWbusyClear, h, if_neg ha, hroot]

theorem doWbusyClear_upd (s : State) (n off : Nat) (v : W64) (w : Nat)
    (h : smGet none s.posted (domUpd n) = some (edgeAt (0x08 + n) off, v, w)) :
    doWbusyClear (.upd n) s = (s.applyUpd n off v).clearPost (domUpd n) := by
  have hoff : edgeAt (0x08 + n) off - edgeAt (0x08 + n) 0 = off := by
    unfold edgeAt
    omega
  simp only [doWbusyClear, h, hoff]

/-- An invalidation ends once no request to another device used a translation that it drops (R270). -/
theorem doXlinvComplete_quiet (s : State) (v : W64) (w : Nat) (h : smGet none s.posted domXl = some (memReg 0x1080, v, w))
    (hr : ∀ r ∈ s.remotes, r.page ≠ noPage → xlinvHits v ⟨r.ctx, r.page, 0#64⟩ = false) :
    doXlinvComplete s =
      { (s.dropCached (xlinvHits v)).clearPost domXl with
        xl := { ((s.dropCached (xlinvHits v)).clearPost domXl).xl with inv := v &&& 0xFFFFFFE0003F#64 } } := by
  have hquiet : s.remotes.any (fun r => r.page != noPage && xlinvHits v ⟨r.ctx, r.page, 0#64⟩) = false := by
    rw [List.any_eq_false]
    intro r hm
    by_cases hp : r.page = noPage
    · simp [hp]
    · simp [hr r hm hp]
  unfold doXlinvComplete
  rw [h]
  exact if_pos ⟨rfl, hquiet⟩

/-! ### The power domain -/

theorem State.pwrWrite_busy (s : State) (w off : Nat) (v : W64) (h : s.wbusy domPwr = true) :
    s.pwrWrite w off v = s.csrAcc w (pwrReg off) := if_pos h

theorem State.pwrWrite_free (s : State) (w off : Nat) (v : W64) (h : s.wbusy domPwr = false)
    (hr : s.pwr.refuses (s.locks w) off v = false) :
    s.pwrWrite w off v = { s with posted := smSet none s.posted domPwr (some (pwrReg off, v, w)) } := by
  unfold State.pwrWrite
  dsimp only
  rw [h, if_neg Bool.false_ne_true, s.postWrite_free _ _ _ _ h]
  exact if_neg (Bool.eq_false_iff.1 hr)

/-- BIN of PWR_LEARN refuses 0 alone. -/
theorem Pwr.learn_accepts (p : Pwr) (locked : Bool) (v : W64) (h : bitsOf v.toNat 8 8 ≠ 0) : p.refuses locked 0x20 v = false := by
  simp [Pwr.refuses, Pwr.write, h]

/-! ### Where a register write goes (R469) -/

theorem eftDark_iff (s : State) (a : Nat) : s.eftDark a = true ↔ (0x200004D0000 ≤ a ∧ a < 0x200004E0000) ∧ s.mpRuns = false := by
  simp [State.eftDark]

/-- The EFT block is block 0x4D, and it answers while the MP runs (R476). -/
theorem eftDark_edgeAt (s : State) (k off : Nat) (ho : off < 0x10000) (h : k = 0x4D → s.mpRuns = true) :
    s.eftDark (edgeAt k off) = false := by
  rw [Bool.eq_false_iff, ne_eq, eftDark_iff]
  rintro ⟨⟨hlo, hhi⟩, hmp⟩
  unfold edgeAt edgeBase at hlo hhi
  rw [h (by omega)] at hmp
  exact Bool.noConfusion hmp

theorem State.lockedWrite_open (s : State) (w a : Nat) (v mask : W64) (f : State → State) (h : s.locks w = false) :
    s.lockedWrite w a v mask true f = f s := by
  unfold State.lockedWrite
  rw [h]
  rfl

theorem State.lockedWrite_locked (s : State) (w a : Nat) (v mask : W64) (ok : Bool) (f : State → State) (h : s.locks w = true)
    (hv : (v ^^^ csrRead s a) &&& mask ≠ 0#64) : s.lockedWrite w a v mask ok f = s.csrAcc w a := by
  unfold State.lockedWrite
  rw [if_pos h, bne_iff_ne.2 hv]
  rfl

theorem State.locks_mp (s : State) (h : s.sec.gecko = false) : s.locks uMgmt = false := by
  simp [State.locks, h]

theorem State.locks_of_gecko_or_other (s : State) (w : Nat) (h : s.sec.gecko = true ∨ w ≠ uMgmt) : s.locks w = true := by
  simpa [State.locks] using h

/-- PRS_WEARLIM: every bit of the field is a limit. -/
theorem State.writeTile_wearLim (s : State) (w t : Nat) (v : W64) :
    s.writeTile w t 3 0xA0 v = s.lockedWrite w (tileAt t 3 0xA0) v 0xFFFFFFFFFF#64 true
      (fun s => { s with lim := { s.lim with wearLim := v.setWidth 40 } }) := rfl

/-- MEM_SAVEBASE_n is posted in the translation domain. -/
theorem State.writeMem0_savebase (s : State) (w n : Nat) (v : W64) (h : n < 16) :
    s.writeMem0 w (0x1100 + 8 * n) v = s.postWrite domXl w (memReg (0x1100 + 8 * n)) v := by
  have hroot : idx8 (0x1100 + 8 * n) 0x1000 16 = none := idx8_above _ _ _ (by omega)
  unfold State.writeMem0
  dsimp only
  split
  · omega
  · omega
  · omega
  · rw [hroot, idx8_elem _ _ _ h]

theorem State.writeEdge_mem0 (s : State) (w off : Nat) (v : W64) : s.writeEdge w 0 off v = s.writeMem0 w off v := rfl

/-! ### What the commands of the registers do -/

/-- MEM_XLROOT_n and MEM_XLINV: the posted write, the one that comes while another waits, and the end of an invalidation. -/
theorem translationWrites (s : State) (v : W64) (w n : Nat) (hn : n < 16) :
    (s.wbusy domXl = false →
      exec (.memXlrootWrite n v w) s =
        .next { s with posted := smSet none s.posted domXl (some (0x20000001000 + 8 * n, v, w)) } ∧
      exec (.memXlinv v w) s = .next { s with posted := smSet none s.posted domXl (some (0x20000001080, v, w)) }) ∧
    (s.wbusy domXl = true →
      exec (.memXlrootWrite n v w) s = .next (s.csrAcc w (0x20000001000 + 8 * n)) ∧
      exec (.memXlinv v w) s = .next (s.csrAcc w 0x20000001080)) := by
  have ha : memReg (0x1000 + 8 * n) = 0x20000001000 + 8 * n := by
    unfold memReg edgeBase
    omega
  rw [exec_memXlrootWrite, exec_memXlinv, doMemXlrootWrite_lt n v w s hn, ha]
  constructor
  · intro h
    rw [s.postWrite_free _ _ _ _ h, s.postWrite_free _ _ _ _ h]
    exact ⟨rfl, rfl⟩
  · intro h
    rw [s.postWrite_busy _ _ _ _ h, s.postWrite_busy _ _ _ _ h]
    exact ⟨rfl, rfl⟩

/-- The posted writes of the update units and of MEM_XLROOT_n take effect. -/
theorem postedWritesApply (s : State) (v : W64) (w n : Nat) (hn : n < 8) :
    (smGet none s.posted (domUpd n) = some (0x20000080280 + n * 0x10000, v, w) →
      exec (.wbusyClear (.upd n)) s = .next ((s.modUpd n (fun u => { u with num := u.num.clear v.toNat })).clearPost (domUpd n))) ∧
    (smGet none s.posted (domUpd n) = some (0x20000080300 + n * 0x10000, v, w) →
      exec (.wbusyClear (.upd n)) s =
        .next ((s.modUpd n (fun u => { u with seed := v, seqs := List.replicate 32 0#24 })).clearPost (domUpd n))) ∧
    (smGet none s.posted domXl = some (0x20000001000 + 8 * n, v, w) →
      exec (.wbusyClear .xlate) s = .next ((s.setRoot n v).clearPost domXl)) := by
  have hclr : edgeAt (0x08 + n) 0x280 = 0x20000080280 + n * 0x10000 := by unfold edgeAt edgeBase; omega
  have hseed : edgeAt (0x08 + n) 0x300 = 0x20000080300 + n * 0x10000 := by unfold edgeAt edgeBase; omega
  have hroot : memReg (0x1000 + 8 * n) = 0x20000001000 + 8 * n := by unfold memReg edgeBase; omega
  rw [exec_wbusyClear, exec_wbusyClear, ← hclr, ← hseed, ← hroot]
  refine ⟨fun h => ?_, fun h => ?_, fun h => ?_⟩
  · rw [doWbusyClear_upd s n 0x280 v w h]
    rfl
  · rw [doWbusyClear_upd s n 0x300 v w h]
    rfl
  · rw [doWbusyClear_root s _ n v w h (memReg_root_ne_preempt n (by omega)) (by rw [memReg_sub, idx8_elem _ _ _ (by omega)])]

/-- PWR_CAP and PWR_LEARN are posted where no field refuses, and logged while a write waits. -/
theorem powerWrites (s : State) (v : W64) (w : Nat) :
    (s.wbusy domPwr = false → s.pwr.refuses (s.locks w) 0x08 v = false → exec (.pwrCapWrite v w) s =
      .next { s with posted := smSet none s.posted domPwr (some (0x20000490008, v, w)) }) ∧
    (s.wbusy domPwr = false → bitsOf v.toNat 8 8 ≠ 0 → exec (.pwrLearnClr v w) s =
      .next { s with posted := smSet none s.posted domPwr (some (0x20000490020, v, w)) }) ∧
    (s.wbusy domPwr = true → exec (.pwrCapWrite v w) s = .next (s.csrAcc w 0x20000490008) ∧
      exec (.pwrLearnClr v w) s = .next (s.csrAcc w 0x20000490020)) := by
  rw [exec_pwrCapWrite, exec_pwrLearnClr]
  refine ⟨fun h hr => ?_, fun h hb => ?_, fun h => ?_⟩
  · rw [s.pwrWrite_free w _ v h hr]
    rfl
  · rw [s.pwrWrite_free w _ v h (s.pwr.learn_accepts _ v hb)]
    rfl
  · rw [s.pwrWrite_busy w _ v h, s.pwrWrite_busy w _ v h]
    exact ⟨rfl, rfl⟩

/-- Register writes of the tile blocks. -/
theorem tileRegisterWrites (s : State) (v : W64) (w t : Nat) (hp : s.rails.core = true) (ht : t < 1024) :
    (∀ blk off, blk < 16 → off < 0x10000 → off % 8 = 0 →
      exec (.registerWrite (0x10000700000 + t * 0x800000 + blk * 0x10000 + off) 8 v w) s = .next (s.writeTile w t blk off v)) ∧
    exec (.registerWrite (0x10000700288 + t * 0x800000) 8 v w) s =
      .next (s.modTile t (fun x => { x with num := x.num.writeAlm 10 v.toNat (bitsOf v.toNat 16 10) })) ∧
    exec (.registerWrite (0x10000700300 + t * 0x800000) 8 v w) s =
      .next (s.modTile t (fun x => { x with seed := v, mxSeq := 0#24, vcSeq := 0#24 })) ∧
    (s.sec.gecko = false → exec (.registerWrite (0x100007300A0 + t * 0x800000) 8 v 0xB00) s =
      .next { s with lim := { s.lim with wearLim := v.setWidth 40 } }) ∧
    (s.sec.gecko = true ∨ w ≠ 0xB00 → (v ^^^ csrRead s (0x100007300A0 + t * 0x800000)) &&& 0xFFFFFFFFFF#64 ≠ 0#64 →
      exec (.registerWrite (0x100007300A0 + t * 0x800000) 8 v w) s = .next (s.csrAcc w (0x100007300A0 + t * 0x800000))) := by
  have hwrite (w blk off : Nat) (hb : blk < 16) (ho : off < 0x10000) (h8 : off % 8 = 0) :
      exec (.registerWrite (tileAt t blk off) 8 v w) s = .next (s.writeTile w t blk off v) := by
    rw [exec_registerWrite, s.csrStore_tile w t blk off v hp ht hb ho h8]
  have haddr (blk off : Nat) : tileAt t blk off = 0x10000700000 + t * 0x800000 + blk * 0x10000 + off := by
    unfold tileAt tileBase
    omega
  have halm : tileAt t 0 0x288 = 0x10000700288 + t * 0x800000 := by rw [haddr]; omega
  have hseed : tileAt t 0 0x300 = 0x10000700300 + t * 0x800000 := by rw [haddr]; omega
  have hwear : tileAt t 3 0xA0 = 0x100007300A0 + t * 0x800000 := by rw [haddr]; omega
  rw [← halm, ← hseed, ← hwear]
  refine ⟨fun blk off hb ho h8 => ?_, ?_, ?_, fun hg => ?_, fun hl hv => ?_⟩
  · rw [← haddr, hwrite w blk off hb ho h8]
  · rw [hwrite w 0 0x288 (by decide) (by decide) rfl]
    rfl
  · rw [hwrite w 0 0x300 (by decide) (by decide) rfl]
    rfl
  · have hmp : s.locks 0xB00 = false := s.locks_mp hg
    rw [hwrite 0xB00 3 0xA0 (by decide) (by decide) rfl, s.writeTile_wearLim, s.lockedWrite_open _ _ _ _ _ hmp]
  · rw [hwrite w 3 0xA0 (by decide) (by decide) rfl, s.writeTile_wearLim,
      s.lockedWrite_locked _ _ _ _ _ _ (s.locks_of_gecko_or_other w hl) hv]

/-- Register writes of the edge units' blocks. -/
theorem edgeRegisterWrite (s : State) (v : W64) (w k off : Nat) (hp : s.rails.io = true) (hk : k < 0x100)
    (he : k = 0x4D → s.mpRuns = true) (ho : off < 0x10000) (h8 : off % 8 = 0) :
    exec (.registerWrite (0x20000000000 + k * 0x10000 + off) 8 v w) s = .next (s.writeEdge w k off v) :=
  congrArg Host.Outcome.next (s.csrStore_edge w k off v hp hk ho h8 (eftDark_edgeAt s k off ho he))

/-- A save base is posted. -/
theorem savebaseWrite (s : State) (v : W64) (w n : Nat) (hp : s.rails.io = true) (hn : n < 16) (hw : s.wbusy domXl = false) :
    exec (.registerWrite (0x20000001100 + 8 * n) 8 v w) s =
      .next { s with posted := smSet none s.posted domXl (some (0x20000001100 + 8 * n, v, w)) } := by
  have haddr : 0x20000001100 + 8 * n = 0x20000000000 + 0 * 0x10000 + (0x1100 + 8 * n) := by omega
  have hmem : memReg (0x1100 + 8 * n) = 0x20000000000 + 0 * 0x10000 + (0x1100 + 8 * n) := by unfold memReg edgeBase; omega
  rw [haddr, edgeRegisterWrite s v w 0 (0x1100 + 8 * n) hp (by decide) nofun (by omega) (by omega), s.writeEdge_mem0,
    s.writeMem0_savebase w n v hn, s.postWrite_free _ _ _ _ hw, hmem]

/-- Settles O39: each command goes through one rule of its domain or of its block; the addresses of the statement are the
places that the rules name. -/
theorem writesArePostedOrRefused : Obligations.WritesArePostedOrRefused := by
  refine ⟨fun s v w n hn => ?_, fun s v w n hn => ?_, fun s v w a size t blk k off => ?_⟩
  · obtain ⟨hfree, hbusy⟩ := translationWrites s v w n hn
    refine ⟨hfree, hbusy, fun u hpost hquiet hu => ?_⟩
    rw [exec_xlinvComplete, doXlinvComplete_quiet s v w hpost hquiet, hu]
  · obtain ⟨hclr, hseed, hroot⟩ := postedWritesApply s v w n hn
    exact ⟨hclr, hseed, hroot, powerWrites s v w⟩
  · refine ⟨fun hp ht => ?_, fun hp hk he ho h8 => edgeRegisterWrite s v w k off hp hk he ho h8,
      fun n hp hn hw => savebaseWrite s v w n hp hn hw, fun hlo hhi hmp => ?_, fun hl hd h => ?_, fun hl => ?_⟩
    · obtain ⟨hany, hrest⟩ := tileRegisterWrites s v w t hp ht
      exact ⟨hany blk off, hrest⟩
    · rw [exec_registerWrite, s.csrStore_dark w a size v ((eftDark_iff s a).2 ⟨⟨hlo, hhi⟩, hmp⟩)]
    · rw [exec_registerWrite, s.csrStore_narrow w a size v hd hl h]
      rfl
    · rw [exec_registerWrite, s.csrStore_dead w a size v hl]

/-! ### Requests of a save or restore (R15, R282) -/

theorem State.postPreempt_idle (s : State) (w : Nat) (v : W64) (h : s.xl.state ≠ 1) :
    s.postPreempt w v = s.postWrite domXl w (memReg 0x1180) v := if_neg fun hs => h hs.1

theorem State.postPreempt_busy (s : State) (w : Nat) (v : W64) (h : s.xl.state = 1) (hop : preOp v = 1 ∨ preOp v = 2) :
    s.postPreempt w v = s.csrAcc w (memReg 0x1180) := if_pos ⟨h, hop⟩

theorem doPreemptSave_op (v : W64) (w : Nat) (s : State) (h : preOp v = 1) : doPreemptSave v w s = s.postPreempt w v := if_pos h
theorem doPreemptRestore_op (v : W64) (w : Nat) (s : State) (h : preOp v = 2) : doPreemptRestore v w s = s.postPreempt w v := if_pos h

theorem State.preRequest_accepted (s : State) (c : Nat) (p : PrePhase) :
    s.preRequest c true p = { s with xl := { s.xl with ctx := c, cur := c, op := 0, state := 1, phase := p } } := rfl

theorem State.preRequest_failed (s : State) (c : Nat) (p : PrePhase) :
    s.preRequest c false p = { s with xl := { s.xl with ctx := c, op := 0, state := 3 } } := rfl

theorem State.applyPreempt_save (s : State) (v : W64) (h : preOp v = 1) :
    s.applyPreempt v = s.preRequest (bitsOf v.toNat 0 4)
      (s.xl.runCtx == some (bitsOf v.toNat 0 4) && areaOk (saveBase s (bitsOf v.toNat 0 4))) .stopping := if_pos h

theorem State.applyPreempt_restore (s : State) (v : W64) (h : preOp v = 2) :
    s.applyPreempt v = s.preRequest (bitsOf v.toNat 0 4)
      (s.xl.runCtx.isNone && (smGet none s.xl.saved (bitsOf v.toNat 0 4)).isSome && areaOk (saveBase s (bitsOf v.toNat 0 4)))
      .loading := by
  unfold State.applyPreempt
  dsimp only
  rw [if_neg (by omega), if_pos h]

/-- A request is posted, or logged while an operation is in progress. -/
theorem preemptRequestPosted (s : State) (v : W64) (w : Nat) :
    (bitsOf v.toNat 4 2 = 1 → s.xl.state ≠ 1 → s.wbusy domXl = false → exec (.preemptSave v w) s =
      .next { s with posted := smSet none s.posted domXl (some (0x20000001180, v, w)) }) ∧
    (bitsOf v.toNat 4 2 = 2 → s.xl.state ≠ 1 → s.wbusy domXl = false → exec (.preemptRestore v w) s =
      .next { s with posted := smSet none s.posted domXl (some (0x20000001180, v, w)) }) ∧
    (bitsOf v.toNat 4 2 = 1 → s.xl.state = 1 → exec (.preemptSave v w) s = .next (s.csrAcc w 0x20000001180)) ∧
    (bitsOf v.toNat 4 2 = 2 → s.xl.state = 1 → exec (.preemptRestore v w) s = .next (s.csrAcc w 0x20000001180)) := by
  rw [exec_preemptSave, exec_preemptRestore]
  refine ⟨fun hop hs hw => ?_, fun hop hs hw => ?_, fun hop hs => ?_, fun hop hs => ?_⟩
  · rw [doPreemptSave_op v w s hop, s.postPreempt_idle w v hs, s.postWrite_free _ _ _ _ hw]
    rfl
  · rw [doPreemptRestore_op v w s hop, s.postPreempt_idle w v hs, s.postWrite_free _ _ _ _ hw]
    rfl
  · rw [doPreemptSave_op v w s hop, s.postPreempt_busy w v hs (.inl hop)]
    rfl
  · rw [doPreemptRestore_op v w s hop, s.postPreempt_busy w v hs (.inr hop)]
    rfl

/-- A request takes effect: it begins its operation, or breaks a condition and fails. -/
theorem preemptRequestApplies (s : State) (v : W64) (c w : Nat) (hc : c = bitsOf v.toNat 0 4)
    (hpost : smGet none s.posted domXl = some (0x20000001180, v, w)) :
    (bitsOf v.toNat 4 2 = 1 → s.xl.runCtx = some c → areaOk (saveBase s c) = true → exec (.wbusyClear .xlate) s =
      .next (State.clearPost { s with xl := { s.xl with ctx := c, cur := c, op := 0, state := 1, phase := .stopping } } domXl)) ∧
    (bitsOf v.toNat 4 2 = 1 → s.xl.runCtx ≠ some c → exec (.wbusyClear .xlate) s =
      .next (State.clearPost { s with xl := { s.xl with ctx := c, op := 0, state := 3 } } domXl)) ∧
    (∀ k, bitsOf v.toNat 4 2 = 2 → smGet none s.xl.saved c = some k → s.xl.runCtx = none → areaOk (saveBase s c) = true →
      exec (.wbusyClear .xlate) s =
        .next (State.clearPost { s with xl := { s.xl with ctx := c, cur := c, op := 0, state := 1, phase := .loading } } domXl)) ∧
    (bitsOf v.toNat 4 2 = 2 → smGet none s.xl.saved c = none → exec (.wbusyClear .xlate) s =
      .next (State.clearPost { s with xl := { s.xl with ctx := c, op := 0, state := 3 } } domXl)) := by
  rw [exec_wbusyClear, doWbusyClear_preempt s _ v w hpost rfl]
  subst hc
  refine ⟨fun hop hrun ha => ?_, fun hop hrun => ?_, fun k hop hk hrun ha => ?_, fun hop hk => ?_⟩
  · rw [s.applyPreempt_save v hop, hrun, ha, beq_self_eq_true, Bool.and_self, s.preRequest_accepted]
  · rw [s.applyPreempt_save v hop, beq_eq_false_iff_ne.2 hrun, Bool.false_and, s.preRequest_failed]
  · rw [s.applyPreempt_restore v hop, hrun, hk, ha, Option.isNone_none, Option.isSome_some, Bool.and_self, Bool.and_self,
      s.preRequest_accepted]
  · rw [s.applyPreempt_restore v hop, hk, Option.isSome_none, Bool.and_false, Bool.false_and, s.preRequest_failed]

/-! ### The steps of a save and of a restore (R280, R281, R283, R284) -/

/-- Once nothing moves any more, the movers write the areas. -/
theorem doPreemptSaveWrite_ready (s : State) (hphase : s.xl.phase = .stopping) (hstop : ∀ p ∈ s.tiles, p.2.stopped = true)
    (hready : s.clu.readies = []) (haband : s.clu.abandons = []) (hrem : s.remotes = []) (hevt : s.evts = [])
    (hheld : s.transfersHeld = false) (u : State)
    (hu : u = (List.range 1024).foldl (fun x t => x.saveTile (saveBase s s.xl.cur) t) s) :
    doPreemptSaveWrite s = { u with
      tiles := u.tiles.foldl (fun m p => smSet Tile.reset m p.1 p.2.vacate) u.tiles
      xl := { u.xl with phase := .writing, saved := smSet none u.xl.saved u.xl.cur (some ⟨u.tiles.map (fun p => (p.1, p.2.save)),
        u.mode.mepoch, [], (u.grids.filter (fun g => g.stopping && g.ctx == u.xl.cur)).map (·.num), s.freeCtr⟩) } } := by
  unfold doPreemptSaveWrite
  rw [if_pos ⟨hphase, List.all_eq_true.2 hstop, hready, haband, hrem, hevt, hheld⟩]
  generalize List.range 1024 = tiles at hu ⊢
  subst hu
  rfl

theorem doPreemptSaveDone_writing (s : State) (hphase : s.xl.phase = .writing) (hheld : s.transfersHeld = false) :
    doPreemptSaveDone s = State.preFrame { s with xl := { s.xl with state := 2, phase := .idle, runCtx := none } } 1 :=
  if_pos ⟨hphase, hheld⟩

theorem doPreemptRestoreDone_loading (s : State) (hheld : s.transfersHeld = false) (hphase : s.xl.phase = .loading) :
    doPreemptRestoreDone s =
      if s.loadAll.xl.phase = .restoring ∧ s.loadAll.foldsDone = true then s.loadAll.finishRestore else s.loadAll := by
  unfold doPreemptRestoreDone
  rw [hheld, if_neg Bool.false_ne_true, if_pos hphase]

theorem doPreemptRestoreDone_restoring (s : State) (hheld : s.transfersHeld = false) (hphase : s.xl.phase = .restoring)
    (hfolds : s.foldsDone = true) : doPreemptRestoreDone s = s.finishRestore := by
  have hnl : s.xl.phase ≠ .loading := by
    rw [hphase]
    exact nofun
  unfold doPreemptRestoreDone
  rw [hheld, if_neg Bool.false_ne_true, if_neg hnl]
  exact if_pos ⟨hphase, hfolds⟩

theorem State.foldsDone_of_tiles (s : State) (h : ∀ p ∈ s.tiles, (p.2.bank 0).fold.run = false ∧ (p.2.bank 1).fold.run = false) :
    s.foldsDone = true := by
  refine List.all_eq_true.2 fun p hp => ?_
  obtain ⟨h0, h1⟩ := h p hp
  rw [h0, h1]
  rfl

/-- The part of `finishRestore` that follows the re-entry of the tiles. Its lemmas speak of any state in the place of the fold over all
tiles, which the kernel would otherwise run. -/
def State.endRestore (s : State) (c : Nat) : State :=
  let s : State := { s with xl := { s.xl with
    state := 2, phase := .idle, runCtx := some c, saved := smSet none s.xl.saved c none } }
  let mine := s.lnk.discards.filter (fun d => d.ctx == c)
  let s : State := { s with lnk := { s.lnk with discards := s.lnk.discards.filter (fun d => d.ctx != c) } }
  let s := mine.foldl (fun (s : State) (d : Discard) =>
    s.detect { mkRec clsContained cDiscard uMgmt with ctx := some c, addr := BitVec.ofNat 64 d.src }) s
  s.preFrame 2

theorem State.finishRestore_eq (s : State) :
    s.finishRestore = ((List.range 1024).foldl (fun x t => x.reenterTile s.xl.cur t) s).endRestore s.xl.cur := rfl

/-- With no request of the context discarded meanwhile, a restore ends with its frame alone (R285). -/
theorem State.endRestore_no_discards (s : State) (c : Nat) (hd : ∀ d ∈ s.lnk.discards, d.ctx ≠ c) :
    s.endRestore c = State.preFrame { s with xl := { s.xl with
      state := 2, phase := .idle, runCtx := some c, saved := smSet none s.xl.saved c none } } 2 := by
  have hmine : s.lnk.discards.filter (fun d => d.ctx == c) = [] :=
    List.filter_eq_nil_iff.2 fun d hm => by simpa using hd d hm
  have hrest : s.lnk.discards.filter (fun d => d.ctx != c) = s.lnk.discards :=
    List.filter_eq_self.2 fun d hm => by simpa using hd d hm
  simp only [State.endRestore, hmine, hrest, List.foldl_nil]

/-- Settles O26: a request is posted and applied by the rules above, and each later step of the operation is the case of its
command whose condition the statement names. -/
theorem contextsAreSavedAndRestored : Obligations.ContextsAreSavedAndRestored := by
  intro s u v w c w' hc
  obtain ⟨hsave, hrestore, hsaveBusy, hrestoreBusy⟩ := preemptRequestPosted s v w
  refine ⟨hsave, hrestore, hsaveBusy, hrestoreBusy, preemptRequestApplies s v c w' hc, ?_, ?_, ?_, ?_⟩
  · intro hphase hstop hready haband hrem hevt hheld hu
    rw [exec_preemptSaveWrite, doPreemptSaveWrite_ready s hphase hstop hready haband hrem hevt hheld u hu]
  · intro hphase hheld
    rw [exec_preemptSaveDone, doPreemptSaveDone_writing s hphase hheld]
  · intro hheld hphase hu
    have hload : u = s.loadAll := hu
    rw [exec_preemptRestoreDone, doPreemptRestoreDone_loading s hheld hphase, hload]
  · intro hheld hphase hfolds hu hd
    rw [exec_preemptRestoreDone, doPreemptRestoreDone_restoring s hheld hphase (s.foldsDone_of_tiles hfolds),
      s.finishRestore_eq, ← hu, u.endRestore_no_discards _ hd]

end Sys2Proof.Machine
end

section
/-! Where descriptors of the matrix, array, vector and mover queues start, the blocks of an FBQRUN, and the droop regions: what each command
does with the entry whose turn has come, and the three statements of the architecture chapter. -/

namespace Sys2Proof.Machine

/-! ### What the commands run -/

theorem exec_mm (t : Nat) (s : State) : exec (.mm t) s = .next (doMm t s) := rfl
theorem exec_mmacc (t : Nat) (s : State) : exec (.mmacc t) s = .next (doMmacc t s) := rfl
theorem exec_mmvat (t : Nat) (s : State) : exec (.mmvat t) s = .next (doMmvat t s) := rfl
theorem exec_vatzero (t : Nat) (s : State) : exec (.vatzero t) s = .next (doVatzero t s) := rfl
theorem exec_rescore (t : Nat) (s : State) : exec (.rescore t) s = .next (doRescore t s) := rfl
theorem exec_read (t b : Nat) (cal : List AdcDev) (s : State) : exec (.read t b cal) s = .next (doRead t b cal s) := rfl
theorem exec_setcorr (t b : Nat) (s : State) : exec (.setcorr t b) s = .next (doSetcorr t b s) := rfl
theorem exec_query (t b : Nat) (cal : List AdcDev) (s : State) : exec (.query t b cal) s = .next (doQuery t b cal s) := rfl
theorem exec_run (t : Nat) (s : State) : exec (.run t) s = .next (doRun t s) := rfl
theorem exec_fbqrun (t : Nat) (s : State) : exec (.fbqrun t) s = .next (doFbqrun t s) := rfl
theorem exec_fbqBlockDone (t : Nat) (s : State) : exec (.fbqBlockDone t) s = .next (doFbqBlockDone t s) := rfl
theorem exec_rgather (t : Nat) (s : State) : exec (.rgather t) s = .next (doRgather t s) := rfl
theorem exec_rset (t : Nat) (s : State) : exec (.rset t) s = .next (doRset t s) := rfl
theorem exec_actq (t : Nat) (s : State) : exec (.actq t) s = .next (doActq t s) := rfl
theorem exec_wquant (t : Nat) (s : State) : exec (.wquant t) s = .next (doWquant t s) := rfl
theorem exec_topmerge (t : Nat) (s : State) : exec (.topmerge t) s = .next (doTopmerge t s) := rfl
theorem exec_vdrain (t : Nat) (s : State) : exec (.vdrain t) s = .next (doVdrain t s) := rfl
theorem exec_copy (t : Nat) (s : State) : exec (.copy t) s = .next (doCopy t s) := rfl
theorem exec_xpose (t : Nat) (s : State) : exec (.xpose t) s = .next (doXpose t s) := rfl
theorem exec_fill (t : Nat) (s : State) : exec (.fill t) s = .next (doFill t s) := rfl

/-! ### Descriptors that start -/

/-- A descriptor whose turn has come, that no coupling rule holds and whose checks pass runs. -/
theorem State.startDesc_go {s u : State} {t q op : Nat} {free : State → QEntry → Bool} {check : QEntry → State → StartRes}
    {e : QEntry} {r : Run} (hturn : s.turn t q e) (hop : dOp e.d = op) (hfree : free s e = true) (hgo : check e s = .go r u) :
    s.startDesc t q op free check = u.started t q e r := by
  obtain ⟨hstart, hclean⟩ := hturn
  rw [s.startDesc_some t q op free check e hstart hclean hop hfree, hgo]
  rfl

theorem startChk_ok {c : Chk Unit} (r : Run) (s : State) (h : c = .ok ()) : startChk (do c; pure r) s = .go r s := by
  rw [h]
  rfl

theorem vecGo_eq (t : Nat) (sr : Bool) (s : State) :
    vecGo t sr [] s = .go { Run.start with seed := (s.tile t).seed, seq := (s.tile t).vcSeq.toNat }
      (if sr then s.modTile t (fun v => { v with vcSeq := v.vcSeq + 1 }) else s) := rfl

/-! ### The entry at the head of a queue -/

theorem QEntry.read_syn (e : QEntry) : e.read.syn = e.syn := by
  unfold QEntry.read
  split <;> rfl

theorem QEntry.read_clean (e : QEntry) (h : e.syn = []) : e.read = e := if_pos h

/-- The entry of a tile engine's queue whose turn has come is the head of that queue. -/
theorem State.turn_head {s : State} {t q : Nat} {e : QEntry} (h : s.turn t q e) (hq : q ≠ 6) :
    ∃ l, (s.tile t).queue q = e :: l := by
  obtain ⟨hstart, hclean⟩ := h
  have hnext : ∃ i, (s.tile t).next q = some (i, e) := by
    unfold State.startable at hstart
    dsimp only at hstart
    split at hstart
    · split at hstart
      · next i e' hn =>
        split at hstart
        · exact ⟨i, hn.trans (by rw [Option.some.inj hstart])⟩
        · cases hstart
      · cases hstart
    · cases hstart
  obtain ⟨i, hnext⟩ := hnext
  unfold Tile.next at hnext
  rw [if_neg hq] at hnext
  split at hnext
  · next e' l hl =>
    split at hnext
    · have he : e'.read = e := congrArg Prod.snd (Option.some.inj hnext)
      rw [e'.read_clean (by rw [← e'.read_syn, he, hclean])] at he
      exact ⟨l, he ▸ hl⟩
    · cases hnext
  · cases hnext

theorem Tile.queue_modBank (v : Tile) (b q : Nat) (f : Bank → Bank) : (v.modBank b f).queue q = v.queue q := rfl

theorem Tile.queue_reset (q : Nat) : Tile.reset.queue q = [] := by
  show ((List.replicate 7 ([] : List QEntry))[q]?).getD [] = []
  rw [List.getElem?_replicate]
  split <;> rfl

theorem Tile.ne_reset_of_queue {v : Tile} {q : Nat} {e : QEntry} {l : List QEntry} (h : v.queue q = e :: l) : v ≠ Tile.reset := by
  rintro rfl
  rw [Tile.queue_reset] at h
  cases h

theorem Tile.queue_setQueue {v : Tile} {q : Nat} (l : List QEntry) (h : v.queue q ≠ []) : (v.setQueue q l).queue q = l := by
  have hlt : q < v.queues.length := by
    refine Nat.lt_of_not_le fun hge => h ?_
    unfold Tile.queue
    rw [List.getElem?_eq_none hge]
    rfl
  unfold Tile.setQueue Tile.queue
  dsimp only
  rw [List.getElem?_set_self hlt]
  rfl

/-- A change of the banks alone leaves the queues of the tile. -/
theorem State.queue_modTile_modBank {s : State} {t b q : Nat} {e : QEntry} {l : List QEntry} (f : Bank → Bank)
    (h : (s.tile t).queue q = e :: l) : ((s.modTile t (fun v => v.modBank b f)).tile t).queue q = e :: l := by
  have hnew := ((s.tile t).queue_modBank b q f).trans h
  rw [s.tile_modTile_ne t _ (Tile.ne_reset_of_queue hnew), hnew]

/-- A change of the entries of a queue that holds some. -/
theorem State.queue_modEntry {s : State} {t q : Nat} (seq : Nat) (f : QEntry → QEntry) (hq : q ≠ 7)
    (h : (s.tile t).queue q ≠ []) :
    ((s.modEntry t q seq f).tile t).queue q = ((s.tile t).queue q).map (fun e => if e.seq = seq then f e else e) := by
  have hnew := Tile.queue_setQueue (((s.tile t).queue q).map (fun e => if e.seq = seq then f e else e)) h
  obtain ⟨x, l, hx⟩ := List.exists_cons_of_ne_nil fun hnil => h (List.map_eq_nil_iff.1 hnil)
  unfold State.modEntry
  rw [if_neg hq, s.tile_modTile_ne t _ (Tile.ne_reset_of_queue (hnew.trans hx)), hnew]

/-- The head of a queue that starts is its queue's running entry. -/
theorem State.running_started {s : State} {t q : Nat} {e : QEntry} {l : List QEntry} (r : Run) (hq : q ≠ 7)
    (h : (s.tile t).queue q = e :: l) :
    ((s.started t q e r).tile t).running q = some { e with ph := .running, run := r } := by
  unfold State.started Tile.running
  rw [State.queue_modEntry _ _ hq (by rw [h]; exact nofun), h, List.map_cons, if_pos rfl]
  rfl

/-- What a completed entry leaves does not depend on its phase and its run record. -/
theorem State.completeEntry_run (s : State) (t q : Nat) (e : QEntry) (p : Phase) (r : Run) :
    s.completeEntry t q { e with ph := p, run := r } = s.completeEntry t q e := rfl

/-! ### Matrix and array descriptors -/

theorem doRead_go {s u : State} {t b : Nat} {cal : List AdcDev} {e : QEntry} {r : Run} (hb : b < 2) (hturn : s.turn t (b + 1) e)
    (hop : dOp e.d = 0x10) (hfree : bankFree t b s e = true) (hgo : readStart t b cal e s = .go r u) :
    doRead t b cal s = u.started t (b + 1) e r :=
  (if_pos hb).trans (State.startDesc_go hturn hop hfree hgo)

/-- The slot that a SETCORR arms (R191). -/
def State.armCorr (s : State) (t b : Nat) (e : QEntry) : State :=
  s.modTile t (fun v => v.modBank b (fun k => { k with corr :=
    ⟨BitVec.ofNat 64 (dField e.d 16 8), BitVec.ofNat 64 (dField e.d 24 8), dField e.d 32 1, e.ctx⟩ }))

/-- A SETCORR sets the slot and, running for no longer than this, completes. -/
theorem doSetcorr_ok {s : State} {t b : Nat} {e : QEntry} (hb : b < 2) (hturn : s.turn t (b + 1) e) (hop : dOp e.d = 0x11)
    (hchk : setcorrChk ((s.tile t).bank b).cols e.d = .ok ()) :
    doSetcorr t b s = ((s.armCorr t b e).started t (b + 1) e Run.start).completeEntry t (b + 1) e := by
  obtain ⟨l, hhead⟩ := State.turn_head hturn (by omega)
  have hhead' : ((s.armCorr t b e).tile t).queue (b + 1) = e :: l := State.queue_modTile_modBank _ hhead
  unfold doSetcorr
  rw [if_pos hb, State.startDesc_go (u := s.armCorr t b e) (r := Run.start) hturn hop rfl (by rw [hchk]; rfl)]
  dsimp only
  rw [State.running_started Run.start (by omega) hhead']
  exact (if_pos hop).trans (State.completeEntry_run _ t (b + 1) e .running Run.start)

/-- A QUERY whose checks pass reads its live mask and its offsets, and runs where neither is poisoned and, for a bank of 8-bit weights, the
mask has no bit beyond the bank's 512 columns (R390). -/
theorem doQuery_go {s v w u : State} {t b : Nat} {cal : List AdcDev} {e : QEntry} {r : Run} {ws : List (W32 × Bool)}
    {mask ofs : List Byte} (hb : b < 2) (hturn : s.turn t (b + 1) e) (hop : dOp e.d = 0x12) (hfree : bankFree t b s e = true)
    (hchk : queryChk (s.useOf e.mepoch) ((s.tile t).bank b) e.d = .ok ())
    (hmaskRead : runUnit t (if dField e.d 40 8 = 0 then pure [] else xReadWords (tileAgent t (b + 1) e) (dField e.d 40 8) 32) s =
      (.ok ws, v))
    (hclean : ws.any (·.2) = false) (hmask : mask = (ws.map (fun x => leBytes 4 x.1.toNat)).flatten)
    (hofs : (if qyOfsEn e.d then v.readRecord t (dField e.d 52 4) e.ctx ((s.tile t).bank b).cols else (([], false), v)) =
      ((ofs, false), w))
    (hbeyond : ((s.tile t).bank b).w8 = false ∨ dField e.d 40 8 = 0 ∨ lField mask 64 64 = 0)
    (hgo : armRun t b e cal [mask, ofs] (qyInput ((s.tile t).bank b).w8 e.d) (qyNvec e.d) w = .go r u) :
    doQuery t b cal s = u.started t (b + 1) e r := by
  obtain ⟨hstart, hsyn⟩ := hturn
  have hnot : ¬ (((s.tile t).bank b).w8 = true ∧ dField e.d 40 8 ≠ 0 ∧ lField mask 64 64 ≠ 0) := by
    rintro ⟨hw8, hm, hl⟩
    rcases hbeyond with h | h | h
    · exact Bool.noConfusion (h.symm.trans hw8)
    · exact hm h
    · exact hl h
  subst hmask
  unfold doQuery
  rw [if_pos hb, hstart]
  dsimp only
  rw [if_pos ⟨hop, hfree⟩, s.withHead_clean _ _ _ _ hsyn]
  rw [hchk]
  dsimp only
  rw [hmaskRead]
  dsimp only
  rw [hofs]
  dsimp only
  rw [hclean, if_neg Bool.false_ne_true, if_neg Bool.false_ne_true, if_neg hnot, hgo]
  rfl

/-- Settles O16: every matrix descriptor and READ is a start by `State.startDesc_go`; a SETCORR also completes, and a QUERY reads its mask and
its offsets on the way. -/
theorem matrixAndArrayDescriptorsStart : Obligations.MatrixAndArrayDescriptorsStart := by
  constructor
  · intro s u t e r hturn
    refine ⟨fun hop hgo => ?_, fun hop hgo => ?_, fun hop hfree hgo => ?_, fun hop hfree hgo => ?_, fun hop hgo => ?_⟩
    · rw [exec_mm, doMm, State.startDesc_go hturn hop rfl hgo]
    · rw [exec_mmacc, doMmacc, State.startDesc_go hturn hop rfl hgo]
    · rw [exec_mmvat, doMmvat, State.startDesc_go hturn hop hfree hgo]
    · rw [exec_vatzero, doVatzero, State.startDesc_go hturn hop hfree hgo]
    · rw [exec_rescore, doRescore, State.startDesc_go hturn hop rfl hgo]
  · intro s u v w t b e r cal ws mask ofs hb hturn
    refine ⟨fun hop hfree hgo => ?_, fun hop hchk hu => ?_,
      fun hop hfree hchk hmaskRead hclean hmask hofs hbeyond hgo => ?_⟩
    · rw [exec_read, doRead_go hb hturn hop hfree hgo]
    · have harm : u = s.armCorr t b e := hu
      rw [exec_setcorr, doSetcorr_ok hb hturn hop hchk, harm]
    · rw [exec_query, doQuery_go hb hturn hop hfree hchk hmaskRead hclean hmask hofs hbeyond hgo]

/-! ### Vector and mover descriptors -/

/-- A vector descriptor whose fields pass and that does not round stochastically. -/
theorem State.startDesc_vec {s : State} {t op : Nat} {check : QEntry → State → StartRes} {e : QEntry} (hturn : s.turn t 4 e)
    (hop : dOp e.d = op) (hgo : check e s = vecGo t false [] s) :
    s.startDesc t 4 op (fun _ _ => true) check =
      s.started t 4 e { Run.start with seed := (s.tile t).seed, seq := (s.tile t).vcSeq.toNat } :=
  State.startDesc_go hturn hop rfl (hgo.trans (vecGo_eq t false s))

/-- A vector descriptor whose fields pass and that rounds stochastically: the engine's seq advances (R115). -/
theorem State.startDesc_vecSr {s : State} {t op : Nat} {check : QEntry → State → StartRes} {e : QEntry} (hturn : s.turn t 4 e)
    (hop : dOp e.d = op) (hgo : check e s = vecGo t true [] s) :
    s.startDesc t 4 op (fun _ _ => true) check =
      (s.modTile t (fun v => { v with vcSeq := v.vcSeq + 1 })).started t 4 e
        { Run.start with seed := (s.tile t).seed, seq := (s.tile t).vcSeq.toNat } :=
  State.startDesc_go hturn hop rfl (hgo.trans (vecGo_eq t true s))

/-- A mover descriptor whose fields pass and that no coupling rule holds. -/
theorem State.startDesc_mover {s : State} {t op : Nat} {free : State → QEntry → Bool} {c : QEntry → Chk Unit} {e : QEntry}
    (hturn : s.turn t 5 e) (hop : dOp e.d = op) (hfree : free s e = true) (hchk : c e = .ok ()) :
    s.startDesc t 5 op free (fun e s => startChk (do c e; pure Run.start) s) = s.started t 5 e Run.start :=
  State.startDesc_go hturn hop hfree (startChk_ok Run.start s hchk)

/-- The running FBQRUN works on the block at the front of its sub-queue: through the whole program, or, where it has to stop, through a free
number of slices (R253). -/
theorem doFbqBlockDone_ok {s u v : State} {t n all : Nat} {e : QEntry} {b : FbEnt} {l : List FbEnt} {done stop : Bool}
    (hrun : s.vecRunning t = some e) (hop : dOp e.d = 0x41) (hblk : e.run.blk < vBlocks e.d)
    (hfront : (s.tile t).vec.fbq[vSrc e.d]? = some (b :: l)) (hstop : stop = (s.saving || s.stopping e))
    (hhalt : (stop && e.halt) = false) (hall : all = vNinstr e.d * (b.rows * b.cols / 128 + 1) + 1)
    (hn : (n, v) = (if stop then s.drawUpTo all else (all, s)))
    (hunits : runUnits t (fbqUnitOf (tileAgent t 4 e)) n v = (.ok done, u)) :
    doFbqBlockDone t s = if stop then u.haltEntry t 4 e.seq else u := by
  subst hstop hall
  unfold doFbqBlockDone
  rw [hrun]
  dsimp only
  rw [if_pos ⟨hop, hblk, hhalt⟩, hfront]
  dsimp only
  rw [← hn]
  dsimp only
  rw [hunits]

/-- Settles O20: each start is `State.startDesc_go` with the rule of its engine, and a block is taken by `doFbqBlockDone_ok`. -/
theorem vectorAndMoverDescriptorsStart : Obligations.VectorAndMoverDescriptorsStart := by
  refine ⟨fun s u t e r r0 hturn hr0 => ?_, fun s u v t n all e b l done stop hrun hop hblk hfront hstop hhalt hall hn hunits => ?_,
    fun s t e hturn => ?_⟩
  · subst hr0
    refine ⟨fun hop hgo => ?_, fun hop hgo => ?_, fun hop hchk => ?_, fun hop hchk => ?_,
      fun hop hchk => ⟨fun hsr => ?_, fun hsr => ?_⟩, fun hop hchk => ⟨fun hsr => ?_, fun hsr => ?_⟩, fun hop hchk => ?_⟩
    · rw [exec_run, doRun, State.startDesc_go hturn hop rfl hgo]
    · rw [exec_fbqrun, doFbqrun, State.startDesc_go hturn hop rfl hgo]
    · rw [exec_rgather, doRgather, State.startDesc_vec hturn hop (by rw [hchk])]
    · rw [exec_rset, doRset, State.startDesc_vec hturn hop (by rw [hchk])]
    · rw [exec_actq, doActq, State.startDesc_vecSr hturn hop (by rw [hchk, hsr]; rfl)]
    · rw [exec_actq, doActq, State.startDesc_vec hturn hop (by rw [hchk, beq_false_of_ne hsr])]
    · rw [exec_wquant, doWquant, State.startDesc_vecSr hturn hop (by rw [hchk, hsr]; rfl)]
    · rw [exec_wquant, doWquant, State.startDesc_vec hturn hop (by rw [hchk, beq_false_of_ne hsr])]
    · rw [exec_topmerge, doTopmerge, State.startDesc_vec hturn hop (by rw [hchk])]
  · rw [exec_fbqBlockDone, doFbqBlockDone_ok hrun hop hblk hfront hstop hhalt hall hn hunits]
  · refine ⟨fun hop hfree hchk => ?_, fun hop hchk => ?_, fun hop hchk => ?_, fun hop hchk => ?_⟩
    · rw [exec_vdrain, doVdrain, State.startDesc_mover hturn hop hfree hchk]
    · rw [exec_copy, doCopy, State.startDesc_mover hturn hop rfl hchk]
    · rw [exec_xpose, doXpose, State.startDesc_mover hturn hop rfl hchk]
    · rw [exec_fill, doFill, State.startDesc_mover hturn hop rfl hchk]

/-! ### The regions of the droop detectors -/

/-- The column's band is its place in units of eight columns, column 32 being in the last band with 24 to 31 (R30). -/
theorem droopIdx_eq {k b row col : Nat} (hrow : row = 2 * k ∨ row = 2 * k + 1) (hb : b < 4)
    (hcol : if b = 3 then 24 ≤ col ∧ col ≤ 32 else 8 * b ≤ col ∧ col ≤ 8 * b + 7) : droopIdx row col = 4 * k + b := by
  have hpair : row / 2 = k := by omega
  have hband : min (col / 8) 3 = b := by
    split at hcol
    · omega
    · omega
  rw [droopIdx, hpair, hband]

/-- A tripped detector is the first of the sources that hold a tile of its region (R39, R408). -/
theorem State.held_of_droop {s : State} {t : Nat} (h : s.holds.droop.getLsbD (droopIdx (t / 32) (s.physCol t)) = true) :
    s.held t = true :=
  List.any_eq_true.2 ⟨_, List.mem_cons_self, h⟩

/-- Settles O41, by the arithmetic of the detectors' numbers and by the first of a tile's holds. -/
theorem droopRegions : Obligations.DroopRegions :=
  ⟨fun _ _ _ _ _ hb hrow hcol => droopIdx_eq hrow hb hcol, fun _ _ h => State.held_of_droop h⟩

end Sys2Proof.Machine
end

section
/-! The words of the control instructions (R47, R48): a word is made of its opcode and the fields that a format reads from it, so both
come back from the word that they make. -/

namespace Sys2Proof

/-! ### The opcode and the fields of a word -/

/-- The two parts of an appended word. -/
theorem append_inj {v w : Nat} {x x' : BitVec v} {y y' : BitVec w} (h : x ++ y = x' ++ y') : x = x' ∧ y = y' := by
  have hx := congrArg (BitVec.extractLsb' w v) h
  have hy := congrArg (BitVec.extractLsb' 0 w) h
  simp only [BitVec.extractLsb'_append_eq_left, BitVec.extractLsb'_append_eq_right] at hx hy
  exact ⟨hx, hy⟩

theorem RFmt.word_of (w : BitVec 32) : (RFmt.of w).word (ctlOp w) = w := by
  simp only [RFmt.of, RFmt.word, ctlOp, BitVec.extractLsb'_append_extractLsb'_eq_extractLsb']
  exact BitVec.extractLsb'_eq_self

theorem RFmt.word_inj {op op' : BitVec 6} {f g : RFmt} (h : f.word op = g.word op') : op = op' ∧ f = g := by
  obtain ⟨h, hfn⟩ := append_inj (v := 26) (w := 6) h
  obtain ⟨h, hrsv⟩ := append_inj h
  obtain ⟨h, hrb⟩ := append_inj h
  obtain ⟨h, hra⟩ := append_inj h
  obtain ⟨hop, hrd⟩ := append_inj h
  cases f
  cases g
  exact ⟨hop, RFmt.mk.injEq .. ▸ ⟨hrd, hra, hrb, hrsv, hfn⟩⟩

@[simp] theorem RFmt.ctlOp_word (op : BitVec 6) (f : RFmt) : ctlOp (f.word op) = op := (word_inj (word_of _)).1
@[simp] theorem RFmt.of_word (op : BitVec 6) (f : RFmt) : RFmt.of (f.word op) = f := (word_inj (word_of _)).2
@[simp] theorem RFmt.word_of_op {w : BitVec 32} {op : BitVec 6} (h : (ctlOp w).toNat = op.toNat) : (RFmt.of w).word op = w := by
  rw [← BitVec.eq_of_toNat_eq h, word_of]

theorem IFmt.word_of (w : BitVec 32) : (IFmt.of w).word (ctlOp w) = w := by
  simp only [IFmt.of, IFmt.word, ctlOp, BitVec.extractLsb'_append_extractLsb'_eq_extractLsb']
  exact BitVec.extractLsb'_eq_self

theorem IFmt.word_inj {op op' : BitVec 6} {f g : IFmt} (h : f.word op = g.word op') : op = op' ∧ f = g := by
  obtain ⟨h, himm⟩ := append_inj (v := 14) (w := 18) h
  obtain ⟨h, hra⟩ := append_inj h
  obtain ⟨hop, hrd⟩ := append_inj h
  cases f
  cases g
  exact ⟨hop, IFmt.mk.injEq .. ▸ ⟨hrd, hra, himm⟩⟩

@[simp] theorem IFmt.ctlOp_word (op : BitVec 6) (f : IFmt) : ctlOp (f.word op) = op := (word_inj (word_of _)).1
@[simp] theorem IFmt.of_word (op : BitVec 6) (f : IFmt) : IFmt.of (f.word op) = f := (word_inj (word_of _)).2
@[simp] theorem IFmt.word_of_op {w : BitVec 32} {op : BitVec 6} (h : (ctlOp w).toNat = op.toNat) : (IFmt.of w).word op = w := by
  rw [← BitVec.eq_of_toNat_eq h, word_of]

theorem LFmt.word_of (w : BitVec 32) : (LFmt.of w).word (ctlOp w) = w := by
  simp only [LFmt.of, LFmt.word, ctlOp, BitVec.extractLsb'_append_extractLsb'_eq_extractLsb']
  exact BitVec.extractLsb'_eq_self

theorem LFmt.word_inj {op op' : BitVec 6} {f g : LFmt} (h : f.word op = g.word op') : op = op' ∧ f = g := by
  obtain ⟨h, himm⟩ := append_inj (v := 10) (w := 22) h
  obtain ⟨hop, hrd⟩ := append_inj h
  cases f
  cases g
  exact ⟨hop, LFmt.mk.injEq .. ▸ ⟨hrd, himm⟩⟩

@[simp] theorem LFmt.ctlOp_word (op : BitVec 6) (f : LFmt) : ctlOp (f.word op) = op := (word_inj (word_of _)).1
@[simp] theorem LFmt.of_word (op : BitVec 6) (f : LFmt) : LFmt.of (f.word op) = f := (word_inj (word_of _)).2
@[simp] theorem LFmt.word_of_op {w : BitVec 32} {op : BitVec 6} (h : (ctlOp w).toNat = op.toNat) : (LFmt.of w).word op = w := by
  rw [← BitVec.eq_of_toNat_eq h, word_of]

theorem BFmt.word_of (w : BitVec 32) : (BFmt.of w).word (ctlOp w) = w := by
  simp only [BFmt.of, BFmt.word, ctlOp, BitVec.extractLsb'_append_extractLsb'_eq_extractLsb']
  exact BitVec.extractLsb'_eq_self

theorem BFmt.word_inj {op op' : BitVec 6} {f g : BFmt} (h : f.word op = g.word op') : op = op' ∧ f = g := by
  obtain ⟨h, hoff⟩ := append_inj (v := 14) (w := 18) h
  obtain ⟨h, hrb⟩ := append_inj h
  obtain ⟨hop, hra⟩ := append_inj h
  cases f
  cases g
  exact ⟨hop, BFmt.mk.injEq .. ▸ ⟨hra, hrb, hoff⟩⟩

@[simp] theorem BFmt.ctlOp_word (op : BitVec 6) (f : BFmt) : ctlOp (f.word op) = op := (word_inj (word_of _)).1
@[simp] theorem BFmt.of_word (op : BitVec 6) (f : BFmt) : BFmt.of (f.word op) = f := (word_inj (word_of _)).2
@[simp] theorem BFmt.word_of_op {w : BitVec 32} {op : BitVec 6} (h : (ctlOp w).toNat = op.toNat) : (BFmt.of w).word op = w := by
  rw [← BitVec.eq_of_toNat_eq h, word_of]

theorem QFmt.word_of (w : BitVec 32) : (QFmt.of w).word (ctlOp w) = w := by
  simp only [QFmt.of, QFmt.word, ctlOp, BitVec.extractLsb'_append_extractLsb'_eq_extractLsb']
  exact BitVec.extractLsb'_eq_self

theorem QFmt.word_inj {op op' : BitVec 6} {f g : QFmt} (h : f.word op = g.word op') : op = op' ∧ f = g := by
  obtain ⟨h, hrsv⟩ := append_inj (v := 19) (w := 13) h
  obtain ⟨h, hpe⟩ := append_inj h
  obtain ⟨h, hqueue⟩ := append_inj h
  obtain ⟨h, hrb⟩ := append_inj h
  obtain ⟨hop, hra⟩ := append_inj h
  cases f
  cases g
  exact ⟨hop, QFmt.mk.injEq .. ▸ ⟨hra, hrb, hqueue, hpe, hrsv⟩⟩

@[simp] theorem QFmt.ctlOp_word (op : BitVec 6) (f : QFmt) : ctlOp (f.word op) = op := (word_inj (word_of _)).1
@[simp] theorem QFmt.of_word (op : BitVec 6) (f : QFmt) : QFmt.of (f.word op) = f := (word_inj (word_of _)).2
@[simp] theorem QFmt.word_of_op {w : BitVec 32} {op : BitVec 6} (h : (ctlOp w).toNat = op.toNat) : (QFmt.of w).word op = w := by
  rw [← BitVec.eq_of_toNat_eq h, word_of]

theorem CFmt.word_of (w : BitVec 32) : (CFmt.of w).word (ctlOp w) = w := by
  simp only [CFmt.of, CFmt.word, ctlOp, BitVec.extractLsb'_append_extractLsb'_eq_extractLsb']
  exact BitVec.extractLsb'_eq_self

theorem CFmt.word_inj {op op' : BitVec 6} {f g : CFmt} (h : f.word op = g.word op') : op = op' ∧ f = g := by
  obtain ⟨h, himm⟩ := append_inj (v := 16) (w := 16) h
  obtain ⟨h, hrsv⟩ := append_inj h
  obtain ⟨h, hra⟩ := append_inj h
  obtain ⟨hop, hrv⟩ := append_inj h
  cases f
  cases g
  exact ⟨hop, CFmt.mk.injEq .. ▸ ⟨hrv, hra, hrsv, himm⟩⟩

@[simp] theorem CFmt.ctlOp_word (op : BitVec 6) (f : CFmt) : ctlOp (f.word op) = op := (word_inj (word_of _)).1
@[simp] theorem CFmt.of_word (op : BitVec 6) (f : CFmt) : CFmt.of (f.word op) = f := (word_inj (word_of _)).2
@[simp] theorem CFmt.word_of_op {w : BitVec 32} {op : BitVec 6} (h : (ctlOp w).toNat = op.toNat) : (CFmt.of w).word op = w := by
  rw [← BitVec.eq_of_toNat_eq h, word_of]

theorem NFmt.word_of (w : BitVec 32) : (NFmt.of w).word (ctlOp w) = w := by
  simp only [NFmt.of, NFmt.word, ctlOp, BitVec.extractLsb'_append_extractLsb'_eq_extractLsb']
  exact BitVec.extractLsb'_eq_self

theorem NFmt.word_inj {op op' : BitVec 6} {f g : NFmt} (h : f.word op = g.word op') : op = op' ∧ f = g := by
  obtain ⟨hop, hrsv⟩ := append_inj (v := 6) (w := 26) h
  exact ⟨hop, congrArg NFmt.mk hrsv⟩

@[simp] theorem NFmt.ctlOp_word (op : BitVec 6) (f : NFmt) : ctlOp (f.word op) = op := (word_inj (word_of _)).1
@[simp] theorem NFmt.of_word (op : BitVec 6) (f : NFmt) : NFmt.of (f.word op) = f := (word_inj (word_of _)).2
@[simp] theorem NFmt.word_of_op {w : BitVec 32} {op : BitVec 6} (h : (ctlOp w).toNat = op.toNat) : (NFmt.of w).word op = w := by
  rw [← BitVec.eq_of_toNat_eq h, word_of]

/-! ### The strand of an instruction -/

/-- The tile and the slot of the strand that a control instruction names. -/
def Instr.slot (i : Instr) : Nat × Nat :=
  match i with
  | .alu t k _ | .addi t k _ | .andi t k _ | .ori t k _ | .xori t k _ | .shli t k _ | .shri t k _ | .srai t k _ => (t, k)
  | .slti t k _ | .li t k _ | .shin t k _ | .ld t k _ | .st t k _ | .beq t k _ | .bne t k _ | .blt t k _ => (t, k)
  | .bge t k _ | .bltu t k _ | .bgeu t k _ | .jal t k _ | .jalr t k _ | .issue t k _ | .sig t k _ | .setc t k _ => (t, k)
  | .rdc t k _ | .wait t k _ | .getid t k _ | .yield t k _ | .exit t k _ => (t, k)
  | _ => (0, 0)

/-- The decoder names the strand that reads the word. -/
theorem slot_of_decodeCtl {t k : Nat} {w : BitVec 32} {i : Instr} (h : decodeCtl t k w = some i) : i.slot = (t, k) := by
  unfold decodeCtl at h
  split at h <;> cases h <;> rfl

/-! ### Both directions -/

/-- The decoder tests the opcode that the encoder wrote, and reads the fields back by `of_word`. -/
theorem decodeCtl_of_encode {i : Instr} {w : BitVec 32} (h : encode i = some w) : decodeCtl i.slot.1 i.slot.2 w = some i := by
  unfold encode at h
  split at h <;> cases h <;> simp [decodeCtl, Instr.slot]

/-- In each case of the decoder the opcode is the one that the encoder writes, and `word_of_op` makes the word again. -/
theorem encode_of_decodeCtl {t k : Nat} {i : Instr} {w : BitVec 32} (h : decodeCtl t k w = some i) : encode i = some w := by
  unfold decodeCtl at h
  split at h <;> cases h <;> simp [encode, *]

/-- Settles O6, by the two directions above. -/
theorem decodeAndEncodeAgree : Obligations.DecodeAndEncodeAgree :=
  ⟨fun _ _ h => ⟨_, _, decodeCtl_of_encode h⟩, fun _ _ _ _ h => encode_of_decodeCtl h⟩

end Sys2Proof
end

section
/-! Strands: what the commands of the strand control units run, what an issue does and leaves (R43), and the instructions that write a
register (R48). -/

namespace Sys2Proof.Machine

/-! ### What the commands run -/

theorem exec_alu (t k : Nat) (f : RFmt) (s : State) : exec (.alu t k f) s = .next (doAlu t k f s) := rfl
theorem exec_addi (t k : Nat) (f : IFmt) (s : State) : exec (.addi t k f) s = .next (doImm t k (.addi t k f) f (· + ·) s) := rfl
theorem exec_andi (t k : Nat) (f : IFmt) (s : State) : exec (.andi t k f) s = .next (doImm t k (.andi t k f) f (· &&& ·) s) := rfl
theorem exec_ori (t k : Nat) (f : IFmt) (s : State) : exec (.ori t k f) s = .next (doImm t k (.ori t k f) f (· ||| ·) s) := rfl
theorem exec_xori (t k : Nat) (f : IFmt) (s : State) : exec (.xori t k f) s = .next (doImm t k (.xori t k f) f (· ^^^ ·) s) := rfl
theorem exec_shli (t k : Nat) (f : IFmt) (s : State) :
    exec (.shli t k f) s = .next (doShift t k (.shli t k f) f (fun a n => a <<< n) s) := rfl
theorem exec_shri (t k : Nat) (f : IFmt) (s : State) :
    exec (.shri t k f) s = .next (doShift t k (.shri t k f) f (fun a n => a >>> n) s) := rfl
theorem exec_srai (t k : Nat) (f : IFmt) (s : State) :
    exec (.srai t k f) s = .next (doShift t k (.srai t k f) f (fun a n => a.sshiftRight n) s) := rfl
theorem exec_slti (t k : Nat) (f : IFmt) (s : State) :
    exec (.slti t k f) s = .next (doImm t k (.slti t k f) f (fun a b => boolW (a.slt b)) s) := rfl
theorem exec_li (t k : Nat) (f : LFmt) (s : State) : exec (.li t k f) s = .next (doLi t k f s) := rfl
theorem exec_shin (t k : Nat) (f : LFmt) (s : State) : exec (.shin t k f) s = .next (doShin t k f s) := rfl
theorem exec_ld (t k : Nat) (f : IFmt) (s : State) : exec (.ld t k f) s = .next (doLd t k f s) := rfl
theorem exec_ldDataArrival (t k : Nat) (s : State) : exec (.ldDataArrival t k) s = .next (doLdDataArrival t k s) := rfl
theorem exec_st (t k : Nat) (f : IFmt) (s : State) : exec (.st t k f) s = .next (doSt t k f s) := rfl
theorem exec_beq (t k : Nat) (f : BFmt) (s : State) : exec (.beq t k f) s = .next (doBranch t k (.beq t k f) f condEq s) := rfl
theorem exec_bne (t k : Nat) (f : BFmt) (s : State) : exec (.bne t k f) s = .next (doBranch t k (.bne t k f) f condNe s) := rfl
theorem exec_blt (t k : Nat) (f : BFmt) (s : State) : exec (.blt t k f) s = .next (doBranch t k (.blt t k f) f condLt s) := rfl
theorem exec_bge (t k : Nat) (f : BFmt) (s : State) : exec (.bge t k f) s = .next (doBranch t k (.bge t k f) f condGe s) := rfl
theorem exec_bltu (t k : Nat) (f : BFmt) (s : State) : exec (.bltu t k f) s = .next (doBranch t k (.bltu t k f) f condLtu s) := rfl
theorem exec_bgeu (t k : Nat) (f : BFmt) (s : State) : exec (.bgeu t k f) s = .next (doBranch t k (.bgeu t k f) f condGeu s) := rfl
theorem exec_jal (t k : Nat) (f : LFmt) (s : State) : exec (.jal t k f) s = .next (doJal t k f s) := rfl
theorem exec_jalr (t k : Nat) (f : IFmt) (s : State) : exec (.jalr t k f) s = .next (doJalr t k f s) := rfl
theorem exec_issue (t k : Nat) (f : QFmt) (s : State) : exec (.issue t k f) s = .next (doIssue t k f s) := rfl
theorem exec_queueSlotFreed (t q k : Nat) (s : State) : exec (.queueSlotFreed t q k) s = .next (doQueueSlotFreed t q k s) := rfl
theorem exec_sig (t k : Nat) (f : CFmt) (s : State) : exec (.sig t k f) s = .next (doSig t k f s) := rfl
theorem exec_setc (t k : Nat) (f : CFmt) (s : State) : exec (.setc t k f) s = .next (doSetc t k f s) := rfl
theorem exec_rdc (t k : Nat) (f : CFmt) (s : State) : exec (.rdc t k f) s = .next (doRdc t k f s) := rfl
theorem exec_wait (t k : Nat) (f : CFmt) (s : State) : exec (.wait t k f) s = .next (doWait t k f s) := rfl
theorem exec_getid (t k : Nat) (f : IFmt) (s : State) : exec (.getid t k f) s = .next (doGetid t k f s) := rfl
theorem exec_yield (t k : Nat) (f : NFmt) (s : State) : exec (.yield t k f) s = .next (doYield t k f s) := rfl
theorem exec_exit (t k : Nat) (f : NFmt) (s : State) : exec (.exit t k f) s = .next (doExit t k f s) := rfl
theorem exec_counterUpdate (n : Nat) (s : State) : exec (.counterUpdate n) s = .next (doCounterUpdate n s) := rfl
theorem exec_strandWake (t k : Nat) (s : State) : exec (.strandWake t k) s = .next (doStrandWake t k s) := rfl
theorem exec_instructionFetchStop (t k : Nat) (s : State) :
    exec (.instructionFetchStop t k) s = .next (doInstructionFetchStop t k s) := rfl

/-! ### Registers of a strand (R41) -/

@[simp] theorem Strand.reg_zero (x : Strand) : x.reg 0 = 0#64 := if_pos rfl

@[simp] theorem Strand.setReg_zero (x : Strand) (v : W64) : x.setReg 0 v = x := if_pos rfl

theorem Strand.setReg_regs (x : Strand) (r : Nat) (v : W64) : x.setReg r v = { x with regs := (x.setReg r v).regs } := by
  unfold Strand.setReg
  split <;> rfl

theorem Strand.reg_of_ne_zero (x : Strand) {r : Nat} (h : r ≠ 0) : x.reg r = (x.regs[r - 1]?).getD 0#64 := if_neg h

theorem Strand.setReg_of_ne_zero (x : Strand) {r : Nat} (v : W64) (h : r ≠ 0) :
    x.setReg r v = { x with regs := x.regs.set (r - 1) v } := if_neg h

/-- A written register reads as written. -/
theorem Strand.reg_setReg_same (x : Strand) {r : Nat} (v : W64) (hr : r ≠ 0) (hlen : r - 1 < x.regs.length) :
    (x.setReg r v).reg r = v := by
  rw [x.setReg_of_ne_zero v hr, Strand.reg_of_ne_zero _ hr, List.getElem?_set_self hlen, Option.getD_some]

/-- A write leaves the other registers. -/
theorem Strand.reg_setReg_other (x : Strand) {r j : Nat} (v : W64) (h : j ≠ r) : (x.setReg r v).reg j = x.reg j := by
  by_cases hr : r = 0
  · rw [hr, x.setReg_zero]
  · by_cases hj : j = 0
    · rw [hj, Strand.reg_zero, Strand.reg_zero]
    · rw [x.setReg_of_ne_zero v hr, Strand.reg_of_ne_zero _ hj, x.reg_of_ne_zero hj, List.getElem?_set_ne (by omega)]

/-! ### The issue (R43) -/

theorem State.scu_issued {s : State} {t k : Nat} {i : Instr} (f : State → State) (h : s.issues t k i) :
    s.scu t k i f = f (s.issued t k) := if_pos h

section
variable {s : State} {t k : Nat} {i : Instr} (h : s.issues t k i)
include h

/-- An issue changes the tiles and the error unit alone. -/
theorem State.issued_eq : s.issued t k = { s with tiles := (s.issued t k).tiles, err := (s.issued t k).err } := by
  obtain ⟨e, T, hs, -, -⟩ := s.issued_spec t k i h
  rw [hs]

/-- The tile of the issue: SCU_ISSUED, the clock and the strand's stamp. -/
theorem State.issued_tile : (s.issued t k).tile t = { s.tile t with scu := { (s.tile t).scu with
    issued := (s.tile t).scu.issued + 1, clock := (s.tile t).scu.clock + 1
    strands := smSet Strand.none (s.tile t).scu.strands k { s.strand t k with stamp := (s.tile t).scu.clock + 1 } } } := by
  obtain ⟨e, T, hs, htile, -⟩ := s.issued_spec t k i h
  rw [hs]
  exact htile

theorem State.issued_tile_other {j : Nat} (hj : j ≠ t) : (s.issued t k).tile j = s.tile j := by
  obtain ⟨e, T, hs, -, hother⟩ := s.issued_spec t k i h
  rw [hs]
  exact hother j hj

theorem State.issued_grids : (s.issued t k).grids = s.grids := by rw [s.issued_eq h]
theorem State.issued_mode : (s.issued t k).mode = s.mode := by rw [s.issued_eq h]

theorem State.issued_ctxOfGrid (n : Nat) : (s.issued t k).ctxOfGrid n = s.ctxOfGrid n := by
  unfold State.ctxOfGrid State.gridOf
  rw [State.issued_grids h]

theorem State.issued_reg (r : Nat) : ((s.issued t k).strand t k).reg r = (s.strand t k).reg r := by
  rw [s.issued_strand t k i h, Strand.reg_stamp]

theorem State.issued_ctrId (f : CFmt) : ctrId ((s.issued t k).strand t k) f = ctrId (s.strand t k) f := by
  unfold ctrId
  rw [State.issued_reg h]

theorem State.issued_identity (n : Nat) : (s.issued t k).identity t ((s.issued t k).strand t k) n = s.identity t (s.strand t k) n := by
  unfold State.identity State.gridOf
  rw [State.issued_grids h, State.issued_mode h, s.issued_strand t k i h]

theorem State.issued_ctr (c : Nat) : (s.issued t k).ctr c = s.ctr c := by
  unfold State.ctr Tile.ctr
  by_cases hc : c / 64 = t
  · rw [hc, State.issued_tile h]
  · rw [State.issued_tile_other h hc]

/-- Outside its strand, SCU_ISSUED and the error unit an issue changes nothing. -/
theorem State.strandFrame_issued : strandFrame s (s.issued t k) t k := by
  refine ⟨State.issued_eq h, fun j hj => State.issued_tile_other h hj, ?_, ?_, fun j hj => ?_⟩
  · rw [State.issued_tile h]
  · rw [State.issued_tile h]
  · rw [State.issued_tile h]
    exact smGet_smSet_other _ _ _ _ _ hj

end

/-- Settles O7: the issue by `State.issued_strand` and its frame, the registers by the rules of reading after a write. -/
theorem strandsIssueAndHoldRegisters : Obligations.StrandsIssueAndHoldRegisters := by
  refine ⟨fun s t k i h => ⟨s.issued_strand t k i h, ?_, State.strandFrame_issued h⟩, fun x r j v => ⟨x.reg_zero, x.setReg_zero v,
    fun hlen hpos hlt => ?_, fun hj => x.reg_setReg_other v hj, x.setReg_regs r v⟩⟩
  · rw [State.issued_tile h]
  · exact x.reg_setReg_same v (by omega) (by omega)

/-! ### Register instructions after their issue (R48, R49, R65) -/

section
variable {s : State} {t k : Nat} {x : Strand} (hx : (s.issued t k).strand t k = x)
include hx

theorem doAlu_result {f : RFmt} {v : W64} (h : s.issues t k (.alu t k f)) (hrsv : f.rsv = 0#8)
    (hv : aluOp f.fn.toNat (x.reg f.ra.toNat) (x.reg f.rb.toNat) = some v) :
    doAlu t k f s = (s.issued t k).result t k f.rd.toNat v := by
  unfold doAlu
  rw [State.scu_issued _ h]
  dsimp only
  rw [hx, if_pos hrsv, hv]

theorem doImm_result {i : Instr} {f : IFmt} {op : W64 → W64 → W64} (h : s.issues t k i) :
    doImm t k i f op s = (s.issued t k).result t k f.rd.toNat (op (x.reg f.ra.toNat) (imm18 f)) := by
  unfold doImm
  rw [State.scu_issued _ h, hx]

theorem doShift_result {i : Instr} {f : IFmt} {op : W64 → Nat → W64} (h : s.issues t k i) (hlt : f.imm.toNat < 64) :
    doShift t k i f op s = (s.issued t k).result t k f.rd.toNat (op (x.reg f.ra.toNat) f.imm.toNat) := by
  unfold doShift
  rw [State.scu_issued _ h, if_pos hlt, hx]

theorem doShin_result {f : LFmt} (h : s.issues t k (.shin t k f)) :
    doShin t k f s = (s.issued t k).result t k f.rd.toNat ((x.reg f.rd.toNat <<< 22) ||| f.imm.setWidth 64) := by
  unfold doShin
  rw [State.scu_issued _ h, hx]

theorem doGetid_result {f : IFmt} {v : W64} (h : s.issues t k (.getid t k f))
    (hv : (s.issued t k).identity t x f.imm.toNat = some v) :
    doGetid t k f s = (s.issued t k).result t k f.rd.toNat v := by
  unfold doGetid
  rw [State.scu_issued _ h, hx, hv]

theorem doRdc_result {f : CFmt} (h : s.issues t k (.rdc t k f)) (hok : ctrOk t (ctrId x f) f true true = true) :
    doRdc t k f s = (s.issued t k).result t k f.rv.toNat (((s.issued t k).ctr (ctrId x f)).setWidth 64) := by
  unfold doRdc
  rw [State.scu_issued _ h, hx]
  exact if_pos hok

end

theorem doLi_result {s : State} {t k : Nat} {f : LFmt} (h : s.issues t k (.li t k f)) :
    doLi t k f s = (s.issued t k).result t k f.rd.toNat (imm22 f) := State.scu_issued _ h

/-- The counters that an instruction may name: an own one where it asks for that, and no device-owned one but for a read (R57, R58). -/
theorem ctrOk_iff {t c : Nat} {f : CFmt} {own dev : Bool} :
    ctrOk t c f own dev = true ↔ f.rsv = 0#2 ∧ (own = true → c / 64 = t) ∧ (dev = false → c % 64 < 60) := by
  cases own <;> cases dev <;> simp [ctrOk, deviceCtr, and_assoc]

theorem boolW_slt (a b : W64) : boolW (a.slt b) = if a.toInt < b.toInt then 1#64 else 0#64 := by
  simp [boolW, BitVec.slt]

/-- Settles O8: each instruction issues and writes its result, and the issue leaves the registers, counters and grids that it reads. -/
theorem registerInstructionsWriteTheirResult : Obligations.RegisterInstructionsWriteTheirResult := by
  intro s t k x hx
  subst hx
  refine ⟨fun f v h hrsv hv => ?_, fun f h => ?_, fun f h => ?_, fun f h => ?_, fun f h => ?_, fun f h hlt => ?_, fun f h hlt => ?_,
    fun f h hlt => ?_, fun f h => ?_, fun f h => ?_, fun f h => ?_, fun f v h hv => ?_, fun f h hrsv hown => ?_⟩
  · rw [exec_alu, doAlu_result rfl h hrsv (by rw [State.issued_reg h, State.issued_reg h, hv])]
  · rw [exec_addi, doImm_result rfl h, State.issued_reg h, imm18]
  · rw [exec_andi, doImm_result rfl h, State.issued_reg h, imm18]
  · rw [exec_ori, doImm_result rfl h, State.issued_reg h, imm18]
  · rw [exec_xori, doImm_result rfl h, State.issued_reg h, imm18]
  · rw [exec_shli, doShift_result rfl h hlt, State.issued_reg h]
  · rw [exec_shri, doShift_result rfl h hlt, State.issued_reg h]
  · rw [exec_srai, doShift_result rfl h hlt, State.issued_reg h]
  · rw [exec_slti, doImm_result rfl h, State.issued_reg h, boolW_slt, imm18, BitVec.toInt_signExtend_of_le (by decide)]
  · rw [exec_li, doLi_result h, imm22]
  · rw [exec_shin, doShin_result rfl h, State.issued_reg h]
  · rw [exec_getid, doGetid_result rfl h (by rw [State.issued_identity h, hv])]
  · have hok : ctrOk t (ctrId ((s.issued t k).strand t k) f) f true true = true :=
      ctrOk_iff.2 ⟨hrsv, fun _ => by rw [State.issued_ctrId h, hown], nofun⟩
    rw [exec_rdc, doRdc_result rfl h hok, State.issued_ctr h, State.issued_ctrId h]

end Sys2Proof.Machine
end

section
/-! Branches, jumps, loads, stores and ISSUE after their issue (R41, R42, R48–R53). -/

namespace Sys2Proof.Machine

/-! ### Branches and jumps after their issue (R41, R48) -/

section
variable {s : State} {t k : Nat} {x : Strand} (hx : (s.issued t k).strand t k = x)
include hx

theorem doBranch_goes {i : Instr} {f : BFmt} {c : W64 → W64 → Bool} {p : Prop} [Decidable p] (h : s.issues t k i)
    (hc : c (x.reg f.ra.toNat) (x.reg f.rb.toNat) = true ↔ p) :
    doBranch t k i f c s =
      (s.issued t k).setStrand t k (if p then x.goto (x.pc.toNat + 4 * f.off.toInt) else x.advance) := by
  unfold doBranch
  rw [State.scu_issued _ h, hx]
  dsimp only
  by_cases hp : p
  · rw [if_pos (hc.2 hp), if_pos hp]
  · rw [if_neg (fun hh => hp (hc.1 hh)), if_neg hp]

theorem doJal_goes {f : LFmt} (h : s.issues t k (.jal t k f)) :
    doJal t k f s = (s.issued t k).setStrand t k
      ((x.setReg f.rd.toNat (x.pc.setWidth 64 + 4#64)).goto (x.pc.toNat + 4 * f.imm.toInt)) := by
  unfold doJal
  rw [State.scu_issued _ h, hx]

theorem doJalr_goes {f : IFmt} (h : s.issues t k (.jalr t k f)) :
    doJalr t k f s = (s.issued t k).setStrand t k
      ((x.setReg f.rd.toNat (x.pc.setWidth 64 + 4#64)).goto ((x.reg f.ra.toNat + imm18 f) &&& ~~~3#64).toInt) := by
  unfold doJalr
  rw [State.scu_issued _ h, hx]

end

theorem condEq_iff (a b : W64) : condEq a b = true ↔ a = b := beq_iff_eq
theorem condNe_iff (a b : W64) : condNe a b = true ↔ a ≠ b := bne_iff_ne
theorem condLt_iff (a b : W64) : condLt a b = true ↔ a.toInt < b.toInt := decide_eq_true_iff
theorem condGe_iff (a b : W64) : condGe a b = true ↔ b.toInt ≤ a.toInt := by simp [condGe, BitVec.slt]
theorem condLtu_iff (a b : W64) : condLtu a b = true ↔ a.toNat < b.toNat := decide_eq_true_iff
theorem condGeu_iff (a b : W64) : condGeu a b = true ↔ b.toNat ≤ a.toNat := by simp [condGeu, BitVec.ult]

/-- Settles O9: a branch goes by its condition, JAL and JALR always. -/
theorem branchesAndJumpsGoToTheirTarget : Obligations.BranchesAndJumpsGoToTheirTarget := by
  intro s t k x hx
  refine ⟨fun f h => ?_, fun f h => ?_, fun f h => ?_, fun f h => ?_, fun f h => ?_, fun f h => ?_, fun f h => ?_, fun f h => ?_⟩
  · rw [exec_beq, doBranch_goes hx h (condEq_iff _ _)]
  · rw [exec_bne, doBranch_goes hx h (condNe_iff _ _)]
  · rw [exec_blt, doBranch_goes hx h (condLt_iff _ _)]
  · rw [exec_bge, doBranch_goes hx h (condGe_iff _ _)]
  · rw [exec_bltu, doBranch_goes hx h (condLtu_iff _ _)]
  · rw [exec_bgeu, doBranch_goes hx h (condGeu_iff _ _)]
  · rw [exec_jal, doJal_goes hx h]
  · rw [exec_jalr, doJalr_goes hx h, imm18]
    rfl

/-! ### Loads and stores (R42, R48, R49) -/

/-- The two words of a register. -/
theorem lowWord_eq (v : W64) : BitVec.ofNat 32 v.toNat = v.extractLsb' 0 32 := rfl

theorem highWord_eq (v : W64) : BitVec.ofNat 32 (v.toNat / 2 ^ 32) = v.extractLsb' 32 32 :=
  congrArg (BitVec.ofNat 32) (Nat.shiftRight_eq_div_pow _ _).symm

theorem append_words (hi lo : W32) : BitVec.ofNat 64 (lo.toNat + hi.toNat * 2 ^ 32) = hi ++ lo := by
  refine BitVec.eq_of_toNat_eq ?_
  rw [BitVec.toNat_append, ← Nat.shiftLeft_add_eq_or_of_lt lo.isLt, Nat.shiftLeft_eq, BitVec.toNat_ofNat]
  omega

/-- The address that an LD or ST forms (log 17). -/
theorem ldAddr_ok {x : Strand} {f : IFmt} {a : Nat} (ha : (x.reg f.ra.toNat + f.imm.signExtend 64).toNat = a) (h8 : a % 8 = 0)
    (hle : a + 8 ≤ 0x300000) : ldAddr x f = some a := by
  subst ha
  exact if_pos ⟨h8, hle⟩

theorem ldAddr_bad {x : Strand} {f : IFmt} (h : (x.reg f.ra.toNat + f.imm.signExtend 64).toNat % 8 ≠ 0 ∨
    0x300000 < (x.reg f.ra.toNat + f.imm.signExtend 64).toNat + 8) : ldAddr x f = none :=
  if_neg fun ⟨h8, hle⟩ => h.elim (fun hn => hn h8) (fun hlt => Nat.lt_irrefl _ (Nat.lt_of_lt_of_le hlt hle))

section
variable {s : State} {t k : Nat} {x : Strand} {f : IFmt} (hx : (s.issued t k).strand t k = x)
include hx

theorem doLd_stalls {a : Nat} (h : s.issues t k (.ld t k f)) (ha : ldAddr x f = some a) :
    doLd t k f s = (s.issued t k).setStrand t k { x with st := .stalled, stall := .load f.rd.toNat a } := by
  unfold doLd
  rw [State.scu_issued _ h, hx]
  dsimp only
  rw [ha]

theorem doLd_stops (h : s.issues t k (.ld t k f)) (ha : ldAddr x f = none) :
    doLd t k f s = (s.issued t k).stopStrand t k cStrand (x.reg f.ra.toNat + imm18 f) := by
  unfold doLd
  rw [State.scu_issued _ h, hx]
  dsimp only
  rw [ha]

theorem doSt_stores {a : Nat} {u : State} (h : s.issues t k (.st t k f)) (ha : ldAddr x f = some a)
    (hu : ((s.issued t k).putWord t (.spad t a) ((x.reg f.rd.toNat).extractLsb' 0 32) false).putWord t (.spad t (a + 4))
      ((x.reg f.rd.toNat).extractLsb' 32 32) false = u) :
    doSt t k f s = u.setStrand t k (u.strand t k).advance := by
  subst hu
  unfold doSt
  rw [State.scu_issued _ h, hx]
  dsimp only
  rw [ha]
  dsimp only
  rw [lowWord_eq, highWord_eq]

theorem doSt_stops (h : s.issues t k (.st t k f)) (ha : ldAddr x f = none) :
    doSt t k f s = (s.issued t k).stopStrand t k cStrand (x.reg f.ra.toNat + imm18 f) := by
  unfold doSt
  rw [State.scu_issued _ h, hx]
  dsimp only
  rw [ha]

end

/-- The data of an LD. -/
theorem doLdDataArrival_clean {s : State} {t k rd a : Nat} {x : Strand} {lo hi : W32} (hx : s.strand t k = x) (hst : x.st = .stalled)
    (hstall : x.stall = .load rd a) (hlo : s.readLoc (.spad t a) (s.ctxOfGrid x.grid) = ((lo, false), s))
    (hhi : s.readLoc (.spad t (a + 4)) (s.ctxOfGrid x.grid) = ((hi, false), s)) :
    doLdDataArrival t k s = s.setStrand t k (x.setReg rd (hi ++ lo)).advance.unstall := by
  unfold doLdDataArrival
  dsimp only
  rw [hx, hstall]
  dsimp only
  rw [if_pos hst, hlo]
  dsimp only
  rw [hhi, append_words]
  rfl

/-- Settles O10: LD stalls its strand and its data arrives later; ST writes two words. -/
theorem loadsAndStores : Obligations.LoadsAndStores := by
  refine fun s t k => ⟨fun f x a h hx ha h8 hle => ?_, fun x rd a lo hi hx hst hstall hlo hhi => ?_,
    fun f x a u h hx ha h8 hle hu => ?_⟩
  · rw [exec_ld, doLd_stalls hx h (ldAddr_ok ha h8 hle)]
  · rw [exec_ldDataArrival, doLdDataArrival_clean hx hst hstall hlo hhi]
  · rw [exec_st, doSt_stores hx h (ldAddr_ok ha h8 hle) hu]

/-! ### ISSUE (R46, R49–R53) -/

section
variable {s : State} {t k : Nat} {x : Strand} {f : QFmt} (hx : (s.issued t k).strand t k = x) (h : s.issues t k (.issue t k f))
include hx h

/-- A form that R49 forbids stops the strand before it reads its descriptor. -/
theorem doIssue_badForm (hbad : f.rsv ≠ 0#13 ∨ 6 < f.queue.toNat ∨ (x.reg f.ra.toNat).toNat % 64 ≠ 0 ∨
    0x300000 < (x.reg f.ra.toNat).toNat + 64) :
    doIssue t k f s = (s.issued t k).stopStrand t k cStrand (x.reg f.ra.toNat) := by
  unfold doIssue
  rw [State.scu_issued _ h, hx]
  dsimp only
  rw [if_pos hbad, BitVec.ofNat_toNat, BitVec.setWidth_eq]

section
variable {l : List Byte} {bad : Bool} {u : State} (hrsv : f.rsv = 0#13) (hq : f.queue.toNat ≤ 6)
  (h64 : (x.reg f.ra.toNat).toNat % 64 = 0) (hle : (x.reg f.ra.toNat).toNat + 64 ≤ 0x300000)
  (hread : (s.issued t k).readRecord t (x.reg f.ra.toNat).toNat ((s.ctxOfGrid x.grid).getD 0) 16 = ((l, bad), u))
include hrsv hq h64 hle hread

/-- An allowed form reads its descriptor. -/
theorem doIssue_reads : doIssue t k f s =
    if bad then u.stopStrand t k cPoisonCtl (x.reg f.ra.toNat)
    else
      let d := if f.pe = 1#1 then withPatch (descOf l) (x.reg f.rb.toNat) else descOf l
      if headerOk t d = false then u.stopStrand t k cStrand (x.reg f.ra.toNat)
      else if (u.tile t).full f.queue.toNat then u.setStrand t k { x with st := .stalled, stall := .queue f.queue.toNat d }
      else (u.enqueue t f.queue.toNat d (.strand k) ((s.ctxOfGrid x.grid).getD 0) x.grid).setStrand t k x.advance := by
  have hform : ¬ (f.rsv ≠ 0#13 ∨ 6 < f.queue.toNat ∨ (x.reg f.ra.toNat).toNat % 64 ≠ 0 ∨
      0x300000 < (x.reg f.ra.toNat).toNat + 64) := by
    rintro (hn | hn | hn | hn)
    · exact hn hrsv
    · omega
    · exact hn h64
    · omega
  unfold doIssue
  rw [State.scu_issued _ h, hx]
  dsimp only
  rw [if_neg hform, State.issued_ctxOfGrid h, hread, BitVec.ofNat_toNat, BitVec.setWidth_eq]

end
end

/-- A strand stalled on a queue whose slot is free and whose tile nothing holds. -/
theorem doQueueSlotFreed_enters {s : State} {t q k : Nat} {x : Strand} {d : W512} (hx : s.strand t k = x) (hst : x.st = .stalled)
    (hstall : x.stall = .queue q d) (hfull : (s.tile t).full q = false) (hheld : s.held t = false) :
    doQueueSlotFreed t q k s =
      (s.enqueue t q d (.strand k) ((s.ctxOfGrid x.grid).getD 0) x.grid).setStrand t k x.advance.unstall := by
  unfold doQueueSlotFreed
  dsimp only
  rw [hx, hstall]
  exact if_pos ⟨rfl, hfull, hheld, hst⟩

/-- A hold of the tile keeps the slot from it (R46). -/
theorem doQueueSlotFreed_held {s : State} {t q k : Nat} (hheld : s.held t = true) : doQueueSlotFreed t q k s = s := by
  unfold doQueueSlotFreed
  dsimp only
  split
  · exact if_neg fun ⟨_, _, hfree, _⟩ => Bool.noConfusion (hfree.symm.trans hheld)
  · rfl

/-- Settles O11: an allowed form reads its descriptor, whose header is allowed, and finds its queue free or full. -/
theorem issueFillsItsQueue : Obligations.IssueFillsItsQueue := by
  intro s u t k q ctx x d
  refine ⟨fun f l h hx hrsv hq hle6 h64 hle hctx hread hd hok => ?_, fun hx hst hstall hfull hheld hctx => ?_, fun hheld => ?_⟩
  · subst hq hctx hd
    rw [exec_issue, doIssue_reads hx h hrsv hle6 h64 hle hread, if_neg Bool.false_ne_true]
    dsimp only
    rw [hok, if_neg Bool.noConfusion]
  · rw [exec_queueSlotFreed, doQueueSlotFreed_enters hx hst hstall hfull hheld, hctx]
  · rw [exec_queueSlotFreed, doQueueSlotFreed_held hheld]

end Sys2Proof.Machine
end

section
/-! Counters, waits, wakes and ends of strands (R42, R57–R61), and the forms that stop a strand (R41, R49, R51, R427). -/

namespace Sys2Proof.Machine

/-! ### Counters, waits and ends (R42, R57–R61) -/

section
variable {s : State} {t k : Nat} {x : Strand} {f : CFmt} (hx : (s.issued t k).strand t k = x)
include hx

theorem doSig_sends (h : s.issues t k (.sig t k f)) (hok : ctrOk t (ctrId x f) f false false = true) :
    doSig t k f s = ((s.issued t k).setStrand t k x.advance).sendEvt (ctrId x f) ((x.reg f.rv.toNat).setWidth 32) (.strand t k) := by
  unfold doSig
  rw [State.scu_issued _ h, hx]
  exact if_pos hok

theorem doSig_stops (h : s.issues t k (.sig t k f)) (hok : ctrOk t (ctrId x f) f false false = false) :
    doSig t k f s = (s.issued t k).stopStrand t k cStrand 0#64 := by
  unfold doSig
  rw [State.scu_issued _ h, hx]
  exact if_neg (Bool.eq_false_iff.1 hok)

theorem doSetc_sets (h : s.issues t k (.setc t k f)) (hok : ctrOk t (ctrId x f) f true false = true) :
    doSetc t k f s = (((s.issued t k).landFrom (.strand t k) (ctrId x f)).modTile t
      (fun v => v.putCtr (ctrId x f % 64) ((x.reg f.rv.toNat).setWidth 32))).setStrand t k x.advance := by
  unfold doSetc
  rw [State.scu_issued _ h, hx]
  exact if_pos hok

theorem doSetc_stops (h : s.issues t k (.setc t k f)) (hok : ctrOk t (ctrId x f) f true false = false) :
    doSetc t k f s = (s.issued t k).stopStrand t k cStrand 0#64 := by
  unfold doSetc
  rw [State.scu_issued _ h, hx]
  exact if_neg (Bool.eq_false_iff.1 hok)

theorem doRdc_stops (h : s.issues t k (.rdc t k f)) (hok : ctrOk t (ctrId x f) f true true = false) :
    doRdc t k f s = (s.issued t k).stopStrand t k cStrand 0#64 := by
  unfold doRdc
  rw [State.scu_issued _ h, hx]
  exact if_neg (Bool.eq_false_iff.1 hok)

theorem doWait_waits (h : s.issues t k (.wait t k f)) (hok : ctrOk t (ctrId x f) f true false = true) :
    doWait t k f s = (s.issued t k).setStrand t k
      (if reached ((s.issued t k).ctr (ctrId x f)) ((x.reg f.rv.toNat).setWidth 32) then x.advance
       else { x.advance with
        st := .waiting, waitC := ctrId x f % 64, waitT := (x.reg f.rv.toNat).setWidth 32, rel := false }) := by
  unfold doWait
  rw [State.scu_issued _ h, hx]
  dsimp only
  rw [if_pos hok]
  split <;> rfl

theorem doWait_stops (h : s.issues t k (.wait t k f)) (hok : ctrOk t (ctrId x f) f true false = false) :
    doWait t k f s = (s.issued t k).stopStrand t k cStrand 0#64 := by
  unfold doWait
  rw [State.scu_issued _ h, hx]
  exact if_neg (Bool.eq_false_iff.1 hok)

end

/-- A counter of the own tile. -/
theorem ctrId_own {n t c : Nat} (hn : n = 64 * t + c) (hc : c < 60) : n / 64 = t ∧ n % 64 = c := by omega

theorem reached_iff (c t : W32) : reached c t = true ↔ (c - t).toNat < 2 ^ 31 := decide_eq_true_iff

/-- A waiting strand whose counter has come, or that an update has released. -/
theorem doStrandWake_ready {s : State} {t k : Nat} {x : Strand} (hx : s.strand t k = x) (hst : x.st = .waiting)
    (hgo : x.rel = true ∨ ((s.tile t).ctr x.waitC - x.waitT).toNat < 2 ^ 31) :
    doStrandWake t k s = s.setStrand t k { x with st := .ready } := by
  have hcond : (x.rel || reached ((s.tile t).ctr x.waitC) x.waitT) = true := by
    rw [Bool.or_eq_true, reached_iff]
    exact hgo
  unfold doStrandWake
  dsimp only
  rw [hx, if_pos hcond, if_pos hst]

/-- An update in flight that nothing precedes lands. -/
theorem doCounterUpdate_lands {s : State} {n : Nat} {e : Evt} (he : s.evts[n]? = some e)
    (hfirst : ∀ e' ∈ s.evts.take n, e'.before e = false) :
    doCounterUpdate n s = ({ s with evts := dropAt s.evts n }).addCtr e.ctr e.inc := by
  have hnone : (s.evts.take n).any (fun e' => e'.before e) = false := by
    rw [List.any_eq_false]
    exact fun e' hm => Bool.eq_false_iff.1 (hfirst e' hm)
  unfold doCounterUpdate
  rw [he]
  exact if_neg (Bool.eq_false_iff.1 hnone)

theorem doYield_goes {s : State} {t k : Nat} {f : NFmt} (h : s.issues t k (.yield t k f)) (hrsv : f.rsv = 0#26) :
    doYield t k f s = (s.issued t k).setStrand t k ((s.issued t k).strand t k).advance :=
  (State.scu_issued _ h).trans (if_pos hrsv)

theorem doYield_stops {s : State} {t k : Nat} {f : NFmt} (h : s.issues t k (.yield t k f)) (hrsv : f.rsv ≠ 0#26) :
    doYield t k f s = (s.issued t k).stopStrand t k cStrand 0#64 :=
  (State.scu_issued _ h).trans (if_neg hrsv)

theorem doExit_ends {s : State} {t k : Nat} {f : NFmt} (h : s.issues t k (.exit t k f)) (hrsv : f.rsv = 0#26) :
    doExit t k f s = ((s.issued t k).setStrand t k { (s.issued t k).strand t k with st := .done }).reap t k :=
  (State.scu_issued _ h).trans (if_pos hrsv)

theorem doExit_stops {s : State} {t k : Nat} {f : NFmt} (h : s.issues t k (.exit t k f)) (hrsv : f.rsv ≠ 0#26) :
    doExit t k f s = (s.issued t k).stopStrand t k cStrand 0#64 :=
  (State.scu_issued _ h).trans (if_neg hrsv)

/-- Settles O12: SIG, SETC and WAIT name a counter that they may, and each of the other commands has one rule. -/
theorem countersAndStrandStates : Obligations.CountersAndStrandStates := by
  intro s t k x
  refine ⟨fun f h hx hrsv hc => ?_, fun f c h hx hrsv hn hc => ?_, fun f c thr h hx hrsv hn hc hthr => ?_, fun hx hst hgo => ?_,
    fun n e he hfirst => ?_, fun h hx => ?_, fun h hx => ?_⟩
  · rw [exec_sig, doSig_sends hx h (ctrOk_iff.2 ⟨hrsv, nofun, fun _ => hc⟩)]
  · obtain ⟨hown, hidx⟩ := ctrId_own hn hc
    rw [exec_setc, doSetc_sets hx h (ctrOk_iff.2 ⟨hrsv, fun _ => hown, fun _ => hidx ▸ hc⟩), hidx, hn]
  · obtain ⟨hown, hidx⟩ := ctrId_own hn hc
    rw [exec_wait, doWait_waits hx h (ctrOk_iff.2 ⟨hrsv, fun _ => hown, fun _ => hidx ▸ hc⟩), State.issued_ctr h, hidx, hn, hthr]
    simp only [reached_iff]
  · rw [exec_strandWake, doStrandWake_ready hx hst hgo]
  · rw [exec_counterUpdate, doCounterUpdate_lands he hfirst]
    rfl
  · rw [exec_yield, doYield_goes h rfl, hx]
  · rw [exec_exit, doExit_ends h rfl, hx]

/-! ### Illegal forms (R41, R49, R51, R427) -/

theorem aluOp_undefined {n : Nat} (a b : W64) (h : 15 < n) : aluOp n a b = none := by
  unfold aluOp
  split
  case h_17 => rfl
  all_goals omega

theorem doAlu_stops {s : State} {t k : Nat} {f : RFmt} (h : s.issues t k (.alu t k f)) (hbad : f.rsv ≠ 0#8 ∨ 15 < f.fn.toNat) :
    doAlu t k f s = (s.issued t k).stopStrand t k cStrand 0#64 := by
  have hnone (a b : W64) : (if f.rsv = 0#8 then aluOp f.fn.toNat a b else none) = none := by
    split
    · next hrsv => exact aluOp_undefined a b (hbad.resolve_left fun hn => hn hrsv)
    · rfl
  unfold doAlu
  rw [State.scu_issued _ h]
  dsimp only
  rw [hnone]

theorem doShift_stops {s : State} {t k : Nat} {i : Instr} {f : IFmt} {op : W64 → Nat → W64} (h : s.issues t k i)
    (hbad : 64 ≤ f.imm.toNat) : doShift t k i f op s = (s.issued t k).stopStrand t k cStrand 0#64 :=
  (State.scu_issued _ h).trans (if_neg (Nat.not_lt.2 hbad))

theorem State.identity_undefined (s : State) (t : Nat) (x : Strand) {n : Nat} (h : 8 ≤ n) : s.identity t x n = none := by
  unfold State.identity
  dsimp only
  split
  case h_9 => rfl
  all_goals omega

theorem doGetid_stops {s : State} {t k : Nat} {f : IFmt} (h : s.issues t k (.getid t k f)) (hbad : 8 ≤ f.imm.toNat) :
    doGetid t k f s = (s.issued t k).stopStrand t k cStrand 0#64 := by
  unfold doGetid
  rw [State.scu_issued _ h, State.identity_undefined _ _ _ hbad]

/-- A counter that an instruction may not name. -/
theorem ctrOk_bad {t c : Nat} {f : CFmt} {own dev : Bool}
    (h : f.rsv ≠ 0#2 ∨ (own = true ∧ c / 64 ≠ t) ∨ (dev = false ∧ 60 ≤ c % 64)) : ctrOk t c f own dev = false := by
  rw [Bool.eq_false_iff, ne_eq, ctrOk_iff]
  rintro ⟨hrsv, hown, hdev⟩
  rcases h with hn | ⟨ho, hn⟩ | ⟨hd, hn⟩
  · exact hn hrsv
  · exact hn (hown ho)
  · exact Nat.not_lt.2 hn (hdev hd)

/-! ### Failed fetches (R41, R49, R427) -/

section
variable {s : State} {t k : Nat} (hmay : s.mayIssue t k = true)
include hmay

theorem doInstructionFetchStop_badPc
    (hbad : (s.strand t k).bad.isSome ∨ (s.strand t k).pc.toNat % 4 ≠ 0 ∨ 0x300000 < (s.strand t k).pc.toNat + 4) :
    doInstructionFetchStop t k s = s.stopStrand t k cStrand 0#64 := by
  unfold doInstructionFetchStop
  rw [if_pos hmay]
  refine if_pos ?_
  simpa [or_assoc] using hbad

theorem doInstructionFetchStop_reads {w : W32} {p : Bool} {u : State} (hnone : (s.strand t k).bad = none)
    (h4 : (s.strand t k).pc.toNat % 4 = 0) (hle : (s.strand t k).pc.toNat + 4 ≤ 0x300000)
    (hread : s.readLoc (.spad t (s.strand t k).pc.toNat) (s.ctxOfGrid (s.strand t k).grid) = ((w, p), u)) :
    doInstructionFetchStop t k s =
      if p then u.stopStrand t k cPoisonCtl (BitVec.ofNat 64 (s.strand t k).pc.toNat)
      else if (decodeCtl t k w).isNone then u.stopStrand t k cStrand 0#64
      else u := by
  have hfetch : ¬ ((s.strand t k).bad.isSome || (s.strand t k).pc.toNat % 4 ≠ 0 || (s.strand t k).pc.toNat + 4 > 0x300000) = true := by
    simp [hnone, h4, hle]
  unfold doInstructionFetchStop
  rw [if_pos hmay]
  dsimp only
  rw [if_neg hfetch, hread]

end

/-- Settles O13: the rule of each stop, with the counters by `ctrOk_bad` and the addresses by `ldAddr_bad`. -/
theorem illegalFormsStopTheStrand : Obligations.IllegalFormsStopTheStrand := by
  intro s t k x hx
  refine ⟨fun f h hbad => ?_, fun f h hbad => ?_, fun f h hbad => ?_, fun f h hbad => ?_, fun f h hbad => ?_, fun f h hbad => ?_,
    fun f h hbad => ?_, fun f h hbad => ?_, fun f h hbad => ?_, fun f h hbad => ?_, fun f h hbad => ?_, fun f h hbad => ?_,
    fun f l bad u h hrsv hq h64 hle hread hbad => ?_, fun f h hbad => ?_, fun f h hbad => ?_, fun hmay hbad => ?_,
    fun w p u hmay hnone h4 hle hread => ⟨fun hp => ?_, fun hp hdec => ?_⟩⟩
  · rw [exec_alu, doAlu_stops h hbad]
  · rw [exec_shli, doShift_stops h hbad]
  · rw [exec_shri, doShift_stops h hbad]
  · rw [exec_srai, doShift_stops h hbad]
  · rw [exec_getid, doGetid_stops h hbad]
  · rw [exec_setc, doSetc_stops hx h (ctrOk_bad (hbad.imp_right (Or.imp (⟨rfl, ·⟩) (⟨rfl, ·⟩))))]
  · rw [exec_sig, doSig_stops hx h (ctrOk_bad (hbad.imp_right fun hdev => .inr ⟨rfl, hdev⟩))]
  · rw [exec_wait, doWait_stops hx h (ctrOk_bad (hbad.imp_right (Or.imp (⟨rfl, ·⟩) (⟨rfl, ·⟩))))]
  · rw [exec_rdc, doRdc_stops hx h (ctrOk_bad (hbad.imp_right fun hown => .inl ⟨rfl, hown⟩))]
  · rw [exec_ld, doLd_stops hx h (ldAddr_bad hbad), imm18]
  · rw [exec_st, doSt_stops hx h (ldAddr_bad hbad), imm18]
  · rw [exec_issue, doIssue_badForm hx h hbad]
  · rw [exec_issue, doIssue_reads hx h hrsv hq h64 hle hread]
    cases bad
    · rw [if_neg Bool.false_ne_true, if_neg Bool.false_ne_true]
      dsimp only
      rw [hbad.resolve_left Bool.false_ne_true, if_pos rfl]
    · rw [if_pos rfl, if_pos rfl]
  · rw [exec_yield, doYield_stops h hbad]
  · rw [exec_exit, doExit_stops h hbad]
  · rw [exec_instructionFetchStop, doInstructionFetchStop_badPc hmay hbad]
  · rw [exec_instructionFetchStop, doInstructionFetchStop_reads hmay hnone h4 hle hread, if_pos hp, BitVec.ofNat_toNat]
  · rw [exec_instructionFetchStop, doInstructionFetchStop_reads hmay hnone h4 hle hread, hp, if_neg Bool.false_ne_true, hdec]
    rfl

end Sys2Proof.Machine
end

section
/-! What the control instructions leave alone: everything but their strand, for those that write only that, and the canonical form of the
memories, for every command of the strand control units. -/

namespace Sys2Proof.Machine

/-! ### The control instructions that write only their strand -/

/-- What an instruction that writes nothing but its strand does after its issue: the strand goes on, it stops with a record, or it ends and
its slot may return to FREE. -/
def State.onlyStrand (u : State) (t k : Nat) (v : State) : Prop :=
  (∃ x, v = u.setStrand t k x) ∨ (∃ cause addr, v = u.stopStrand t k cause addr) ∨ ∃ x, v = (u.setStrand t k x).reap t k

theorem State.onlyStrand_set (u : State) (t k : Nat) (x : Strand) : u.onlyStrand t k (u.setStrand t k x) := .inl ⟨x, rfl⟩
theorem State.onlyStrand_stop (u : State) (t k cause : Nat) (addr : W64) : u.onlyStrand t k (u.stopStrand t k cause addr) :=
  .inr (.inl ⟨cause, addr, rfl⟩)

theorem State.onlyStrand_end (u : State) (t k : Nat) (x : Strand) : u.onlyStrand t k ((u.setStrand t k x).reap t k) := .inr (.inr ⟨x, rfl⟩)

theorem State.onlyStrand_ite (u : State) {v w : State} {t k : Nat} {c : Prop} [Decidable c] (hv : u.onlyStrand t k v)
    (hw : u.onlyStrand t k w) : u.onlyStrand t k (if c then v else w) := by
  split
  · exact hv
  · exact hw

/-- Everything such an instruction can do: nothing, where its strand does not issue it, and after the issue one of the three. -/
theorem exec_onlyItsStrand {i : Instr} (h : onlyItsStrand i = true) :
    ∃ f : State → State, (∀ s, exec i s = .next (s.scu i.slot.1 i.slot.2 i f)) ∧ ∀ u : State, u.onlyStrand i.slot.1 i.slot.2 (f u) := by
  cases i
  case addi | andi | ori | xori | slti | li | shin | jal | jalr =>
    exact ⟨_, fun _ => rfl, fun u : State => u.onlyStrand_set _ _ _⟩
  case beq | bne | blt | bge | bltu | bgeu =>
    exact ⟨_, fun _ => rfl, fun u : State => u.onlyStrand_ite (u.onlyStrand_set _ _ _) (u.onlyStrand_set _ _ _)⟩
  case shli | shri | srai | rdc | yield =>
    exact ⟨_, fun _ => rfl, fun u : State => u.onlyStrand_ite (u.onlyStrand_set _ _ _) (u.onlyStrand_stop _ _ _ _)⟩
  case wait =>
    exact ⟨_, fun _ => rfl, fun u : State => u.onlyStrand_ite (u.onlyStrand_ite (u.onlyStrand_set _ _ _) (u.onlyStrand_set _ _ _))
      (u.onlyStrand_stop _ _ _ _)⟩
  case exit =>
    exact ⟨_, fun _ => rfl, fun u : State => u.onlyStrand_ite (u.onlyStrand_end _ _ _) (u.onlyStrand_stop _ _ _ _)⟩
  case alu =>
    refine ⟨_, fun _ => rfl, fun u : State => ?_⟩
    dsimp only
    split
    · exact u.onlyStrand_set _ _ _
    · exact u.onlyStrand_stop _ _ _ _
  case getid =>
    refine ⟨_, fun _ => rfl, fun u : State => ?_⟩
    split
    · exact u.onlyStrand_set _ _ _
    · exact u.onlyStrand_stop _ _ _ _
  case ld =>
    refine ⟨_, fun _ => rfl, fun u : State => ?_⟩
    dsimp only
    split
    · exact u.onlyStrand_stop _ _ _ _
    · exact u.onlyStrand_set _ _ _
  all_goals exact absurd h Bool.false_ne_true

/-! ### Their frame -/

/-- A change of a tile's strand `k` and of nothing else keeps the frame. The tile after the change must not be the empty one, since a state
that is not canonical may list a tile twice. -/
theorem strandFrame.modTile {s u : State} {t k : Nat} (h : strandFrame s u t k) (f : Tile → Tile) (hne : f (u.tile t) ≠ Tile.reset)
    (hscu : f (u.tile t) = { u.tile t with scu := (f (u.tile t)).scu }) (hctrs : (f (u.tile t)).scu.ctrs = (u.tile t).scu.ctrs)
    (hother : ∀ j, j ≠ k → (f (u.tile t)).strand j = (u.tile t).strand j) : strandFrame s (u.modTile t f) t k := by
  obtain ⟨hs, htiles, htile, hc, hstrands⟩ := h
  have hnew := u.tile_modTile_ne t f hne
  refine ⟨?_, fun j hj => ?_, ?_, ?_, fun j hj => ?_⟩
  · rw [hs]
    rfl
  · rw [u.tile_modTile_other t j f hj, htiles j hj]
  · rw [hnew, hscu, htile]
  · rw [hnew, hctrs, hc]
  · rw [hnew, hother j hj, hstrands j hj]

/-- The clock of an issue tells the tile from the empty one. -/
theorem Tile.ne_reset_of_clock {v : Tile} (h : 0 < v.scu.clock) : v ≠ Tile.reset := by
  rintro rfl
  exact Nat.lt_irrefl 0 h

theorem Tile.strand_setStrand_other (v : Tile) {k j : Nat} (x : Strand) (h : j ≠ k) : (v.setStrand k x).strand j = v.strand j :=
  smGet_smSet_other _ _ _ _ _ h

section
variable {s u : State} {t k : Nat} (h : strandFrame s u t k) (hclock : 0 < (u.tile t).scu.clock)
include h hclock

theorem strandFrame.setStrand (x : Strand) : strandFrame s (u.setStrand t k x) t k :=
  h.modTile _ (Tile.ne_reset_of_clock (v := (u.tile t).setStrand k x) hclock) rfl rfl fun _ hj => (u.tile t).strand_setStrand_other x hj

theorem strandFrame.reap : strandFrame s (u.reap t k) t k := by
  unfold State.reap
  by_cases hend : ((u.tile t).strand k).st = .done ∧ (u.tile t).hasWork k = false ∧ u.clu.heldFor t k = false
  · refine h.modTile _ ?_ ?_ ?_ fun j hj => ?_
    · rw [if_pos hend]
      exact Tile.ne_reset_of_clock (v := (u.tile t).setStrand k Strand.none) hclock
    · rw [if_pos hend]
      rfl
    · rw [if_pos hend]
      rfl
    · rw [if_pos hend]
      exact (u.tile t).strand_setStrand_other Strand.none hj
  · refine h.modTile _ ?_ ?_ ?_ fun j hj => ?_
    · rw [if_neg hend]
      exact Tile.ne_reset_of_clock hclock
    · rw [if_neg hend]
    · rw [if_neg hend]
    · rw [if_neg hend]

end

theorem strandFrame.detect {s u : State} {t k : Nat} (h : strandFrame s u t k) (r : Rec) : strandFrame s (u.detect r) t k := by
  obtain ⟨hs, hrest⟩ := h
  refine ⟨?_, hrest⟩
  rw [hs]
  rfl

/-- A strand update leaves the clock. -/
theorem State.clock_setStrand {u : State} {t : Nat} (k : Nat) (x : Strand) (hclock : 0 < (u.tile t).scu.clock) :
    0 < ((u.setStrand t k x).tile t).scu.clock := by
  have hnew := u.tile_modTile_ne t (fun v => v.setStrand k x) (Tile.ne_reset_of_clock (v := (u.tile t).setStrand k x) hclock)
  have hset : (u.setStrand t k x).tile t = (u.tile t).setStrand k x := hnew
  rw [hset]
  exact hclock

/-- What such an instruction does keeps the frame. -/
theorem strandFrame.onlyStrand {s u v : State} {t k : Nat} (h : strandFrame s u t k) (hclock : 0 < (u.tile t).scu.clock)
    (hv : u.onlyStrand t k v) : strandFrame s v t k := by
  rcases hv with ⟨x, rfl⟩ | ⟨cause, addr, rfl⟩ | ⟨x, rfl⟩
  · exact h.setStrand hclock x
  · exact ((h.setStrand hclock _).detect _).reap (State.clock_setStrand k _ hclock)
  · exact (h.setStrand hclock x).reap (State.clock_setStrand k x hclock)

/-- Settles O14: after the issue, whose frame `State.strandFrame_issued` gives, such an instruction sets, stops or ends its strand. -/
theorem controlInstructionsKeepTheRest : Obligations.ControlInstructionsKeepTheRest := by
  intro s u t k i honly hdec h hu
  obtain ⟨f, hexec, hf⟩ := exec_onlyItsStrand honly
  rw [slot_of_decodeCtl hdec] at hexec hf
  rw [hexec s, State.scu_issued f h] at hu
  obtain rfl := Host.Outcome.next.inj hu
  have hclock : 0 < ((s.issued t k).tile t).scu.clock := by
    rw [State.issued_tile h]
    exact Nat.succ_pos _
  exact (State.strandFrame_issued h).onlyStrand hclock (hf _)

/-! ### Canonical memories (R41, R57) -/

theorem State.canon_withPending (s : State) (l : List Instr) (h : s.canon) : (s.withPending l).canon := s.canon_of_eq _ h rfl rfl rfl

theorem State.canon_reap (s : State) (t k : Nat) (h : s.canon) : (s.reap t k).canon := by
  refine s.canon_modTile_same t _ h (fun v => ?_) (fun v => ?_)
  · split <;> rfl
  · split <;> rfl

theorem State.canon_stopStrand (s : State) (t k cause : Nat) (addr : W64) (h : s.canon) : (s.stopStrand t k cause addr).canon :=
  State.canon_reap _ t k (State.canon_detect _ _ (s.canon_setStrand t k _ h))

theorem State.canon_onlyStrand {u v : State} {t k : Nat} (h : u.canon) (hv : u.onlyStrand t k v) : v.canon := by
  rcases hv with ⟨x, rfl⟩ | ⟨cause, addr, rfl⟩ | ⟨x, rfl⟩
  · exact u.canon_setStrand t k x h
  · exact u.canon_stopStrand t k cause addr h
  · exact State.canon_reap _ t k (u.canon_setStrand t k x h)

theorem State.canon_issued (s : State) (t k : Nat) (h : s.canon) : (s.issued t k).canon := by
  have hread := s.canon_readLoc (.spad t (s.strand t k).pc.toNat) (s.ctxOfGrid (s.strand t k).grid) h
  unfold State.issued
  dsimp only
  generalize s.readLoc (.spad t (s.strand t k).pc.toNat) (s.ctxOfGrid (s.strand t k).grid) = r at hread ⊢
  exact State.canon_modTile_same _ t _ hread (fun _ => rfl) (fun _ => rfl)

/-- An instruction that keeps the memories canonical after its issue keeps them so, issued or not. -/
theorem State.canon_scu {s : State} {t k : Nat} {i : Instr} {f : State → State} (h : s.canon) (hf : ∀ u : State, u.canon → (f u).canon) :
    (s.scu t k i f).canon := by
  unfold State.scu
  split
  · exact hf _ (s.canon_issued t k h)
  · exact h

theorem State.canon_readRecord (n : Nat) : ∀ (s : State) (t o ctx : Nat), s.canon → (s.readRecord t o ctx n).2.canon := by
  induction n with
  | zero => exact fun _ _ _ _ h => h
  | succ n ih =>
    intro s t o ctx h
    have hread := s.canon_readLoc (.spad t o) (some ctx) h
    unfold State.readRecord
    generalize s.readLoc (.spad t o) (some ctx) = r at hread ⊢
    exact ih _ _ _ _ hread

theorem State.canon_enqueue (s : State) (t q : Nat) (d : W512) (org : Origin) (ctx grid : Nat) (h : s.canon) :
    (s.enqueue t q d org ctx grid).canon := s.canon_modTile_same t _ h (fun _ => rfl) (fun _ => rfl)

theorem State.canon_sendEvt (s : State) (c : Nat) (n : W32) (src : EvtSrc) (h : s.canon) : (s.sendEvt c n src).canon :=
  s.canon_of_eq _ h rfl rfl rfl

/-- Changes of a tile, one after another, that leave a part of it alone. -/
theorem Tile.foldl_same {α β : Type} (p : Tile → β) (f : Tile → α → Tile) (hf : ∀ v x, p (f v x) = p v) (l : List α) (v : Tile) :
    p (l.foldl f v) = p v := by
  induction l generalizing v with
  | nil => rfl
  | cons x l ih => exact (ih _).trans (hf v x)

/-- A counter's new value and the releases that go with it touch the strand control unit and the queues alone. -/
theorem Tile.putCtr_same {β : Type} (p : Tile → β) (hscu : ∀ (v : Tile) (u : Scu), p { v with scu := u } = p v)
    (hqueues : ∀ (v : Tile) (l : List (List QEntry)), p { v with queues := l } = p v) (v : Tile) (i : Nat) (c : W32) :
    p (v.putCtr i c) = p v := by
  unfold Tile.putCtr
  refine (Tile.foldl_same p _ (fun v q => ?_) _ _).trans ((Tile.foldl_same p _ (fun v x => ?_) _ _).trans (hscu v _))
  · split
    · split
      · exact hqueues v _
      · rfl
    · rfl
  · dsimp only
    split
    · exact hscu v _
    · rfl

theorem Tile.putCtr_spad (v : Tile) (i : Nat) (c : W32) : (v.putCtr i c).spad = v.spad :=
  Tile.putCtr_same (·.spad) (fun _ _ => rfl) (fun _ _ => rfl) v i c

theorem Tile.putCtr_vat (v : Tile) (i : Nat) (c : W32) : (v.putCtr i c).vat = v.vat :=
  Tile.putCtr_same (·.vat) (fun _ _ => rfl) (fun _ _ => rfl) v i c

theorem State.canon_putCtr (s : State) (t i : Nat) (c : Tile → W32) (h : s.canon) : (s.modTile t (fun v => v.putCtr i (c v))).canon :=
  s.canon_modTile_same t _ h (fun v => v.putCtr_spad i (c v)) (fun v => v.putCtr_vat i (c v))

theorem State.canon_addCtr (s : State) (c : Nat) (n : W32) (h : s.canon) : (s.addCtr c n).canon := s.canon_putCtr _ _ _ h

theorem State.canon_landFrom (s : State) (src : EvtSrc) (c : Nat) (h : s.canon) : (s.landFrom src c).canon :=
  State.canon_of_eq _ _ (State.canon_foldl (fun (s : State) (e : Evt) => s.addCtr e.ctr e.inc) (fun u e hu => u.canon_addCtr e.ctr e.inc hu)
    (s.evts.filter (fun e => decide (e.src = src) && e.ctr == c)) s h) rfl rfl rfl

theorem State.canon_doSt (t k : Nat) (f : IFmt) (s : State) (h : s.canon) : (doSt t k f s).canon := by
  refine State.canon_scu h fun u hu => ?_
  dsimp only
  split
  · exact u.canon_stopStrand _ _ _ _ hu
  · exact State.canon_setStrand _ _ _ _ (State.canon_putWord _ _ _ _ _ (u.canon_putWord _ _ _ _ hu))

theorem State.canon_doIssue (t k : Nat) (f : QFmt) (s : State) (h : s.canon) : (doIssue t k f s).canon := by
  refine State.canon_scu h fun u hu => ?_
  dsimp only
  split
  · exact u.canon_stopStrand _ _ _ _ hu
  · have hread := State.canon_readRecord 16 u t ((u.strand t k).reg f.ra.toNat).toNat ((u.ctxOfGrid (u.strand t k).grid).getD 0) hu
    generalize u.readRecord t ((u.strand t k).reg f.ra.toNat).toNat ((u.ctxOfGrid (u.strand t k).grid).getD 0) 16 = r at hread ⊢
    generalize (if f.pe = 1#1 then withPatch (descOf r.1.1) ((u.strand t k).reg f.rb.toNat) else descOf r.1.1) = d
    split
    · exact State.canon_stopStrand _ _ _ _ _ hread
    · split
      · exact State.canon_stopStrand _ _ _ _ _ hread
      · split
        · exact State.canon_setStrand _ _ _ _ hread
        · exact State.canon_setStrand _ _ _ _ (State.canon_enqueue _ _ _ _ _ _ _ hread)

theorem State.canon_doSig (t k : Nat) (f : CFmt) (s : State) (h : s.canon) : (doSig t k f s).canon := by
  refine State.canon_scu h fun u hu => ?_
  dsimp only
  split
  · exact State.canon_sendEvt _ _ _ _ (u.canon_setStrand _ _ _ hu)
  · exact u.canon_stopStrand _ _ _ _ hu

theorem State.canon_doSetc (t k : Nat) (f : CFmt) (s : State) (h : s.canon) : (doSetc t k f s).canon := by
  refine State.canon_scu h fun u hu => ?_
  dsimp only
  split
  · exact State.canon_setStrand _ _ _ _ (State.canon_putCtr _ _ _ _ (u.canon_landFrom _ _ hu))
  · exact u.canon_stopStrand _ _ _ _ hu

theorem State.canon_doLdDataArrival (t k : Nat) (s : State) (h : s.canon) : (doLdDataArrival t k s).canon := by
  unfold doLdDataArrival
  dsimp only
  split
  · split
    · next rd a _ _ =>
      have hlo := s.canon_readLoc (.spad t a) (s.ctxOfGrid (s.strand t k).grid) h
      generalize s.readLoc (.spad t a) (s.ctxOfGrid (s.strand t k).grid) = lo at hlo ⊢
      have hhi := lo.2.canon_readLoc (.spad t (a + 4)) (s.ctxOfGrid (s.strand t k).grid) hlo
      generalize lo.2.readLoc (.spad t (a + 4)) (s.ctxOfGrid (s.strand t k).grid) = hi at hhi ⊢
      split
      · exact State.canon_stopStrand _ _ _ _ _ hhi
      · exact State.canon_setStrand _ _ _ _ hhi
    · exact h
  · exact h

theorem State.canon_doQueueSlotFreed (t q k : Nat) (s : State) (h : s.canon) : (doQueueSlotFreed t q k s).canon := by
  unfold doQueueSlotFreed
  dsimp only
  split
  · split
    · exact State.canon_setStrand _ _ _ _ (s.canon_enqueue _ _ _ _ _ _ h)
    · exact h
  · exact h

theorem State.canon_doCounterUpdate (n : Nat) (s : State) (h : s.canon) : (doCounterUpdate n s).canon := by
  unfold doCounterUpdate
  split
  · exact h
  · split
    · exact h
    · exact State.canon_addCtr _ _ _ (s.canon_of_eq _ h rfl rfl rfl)

theorem State.canon_doStrandWake (t k : Nat) (s : State) (h : s.canon) : (doStrandWake t k s).canon := by
  unfold doStrandWake
  dsimp only
  split
  · split
    · exact s.canon_setStrand _ _ _ h
    · split
      · exact s.canon_setStrand _ _ _ h
      · exact h
  · exact h

theorem State.canon_doInstructionFetchStop (t k : Nat) (s : State) (h : s.canon) : (doInstructionFetchStop t k s).canon := by
  unfold doInstructionFetchStop
  dsimp only
  split
  · split
    · exact s.canon_stopStrand _ _ _ _ h
    · have hread := s.canon_readLoc (.spad t (s.strand t k).pc.toNat) (s.ctxOfGrid (s.strand t k).grid) h
      generalize s.readLoc (.spad t (s.strand t k).pc.toNat) (s.ctxOfGrid (s.strand t k).grid) = r at hread ⊢
      split
      · exact State.canon_stopStrand _ _ _ _ _ hread
      · split
        · exact State.canon_stopStrand _ _ _ _ _ hread
        · exact hread
  · exact h

/-- Every command of the strand control units answers a canonical state. -/
theorem exec_ofStrands_canon {c : Instr} {s : State} (hc : ofStrands c = true) (h : s.canon) : ∃ u, exec c s = .next u ∧ u.canon := by
  rcases Bool.or_eq_true_iff.1 hc with honly | hc
  · obtain ⟨f, hexec, hf⟩ := exec_onlyItsStrand honly
    exact ⟨_, hexec s, State.canon_scu h fun u hu => State.canon_onlyStrand hu (hf u)⟩
  · split at hc
    · exact ⟨_, exec_ldDataArrival _ _ s, State.canon_doLdDataArrival _ _ s h⟩
    · exact ⟨_, exec_st _ _ _ s, State.canon_doSt _ _ _ s h⟩
    · exact ⟨_, exec_issue _ _ _ s, State.canon_doIssue _ _ _ s h⟩
    · exact ⟨_, exec_queueSlotFreed _ _ _ s, State.canon_doQueueSlotFreed _ _ _ s h⟩
    · exact ⟨_, exec_sig _ _ _ s, State.canon_doSig _ _ _ s h⟩
    · exact ⟨_, exec_setc _ _ _ s, State.canon_doSetc _ _ _ s h⟩
    · exact ⟨_, exec_counterUpdate _ s, State.canon_doCounterUpdate _ s h⟩
    · exact ⟨_, exec_strandWake _ _ s, State.canon_doStrandWake _ _ s h⟩
    · exact ⟨_, exec_instructionFetchStop _ _ s, State.canon_doInstructionFetchStop _ _ s h⟩
    · exact absurd hc Bool.false_ne_true

/-- Settles O4: the step takes the command off the queue and runs it. -/
theorem strandCommandsKeepTheMemoriesCanonical : Obligations.StrandCommandsKeepTheMemoriesCanonical := by
  intro s s' c rest h hp hc hstep
  obtain ⟨u, hexec, hu⟩ := exec_ofStrands_canon hc (s.canon_withPending rest h)
  unfold step at hstep
  rw [hp] at hstep
  obtain rfl := Host.Outcome.next.inj (hexec.symm.trans hstep)
  exact hu

end Sys2Proof.Machine
end

section
/-! Descriptors that are refused as they would start (R70), or read as poisoned there (R259, R427), and the ends of the others (R55). -/

namespace Sys2Proof.Machine

/-! ### What the commands run -/

theorem exec_hevent (t : Nat) (s : State) : exec (.hevent t) s = .next (doHevent t s) := rfl
theorem exec_undefinedEngOp (t q : Nat) (s : State) : exec (.undefinedEngOp t q) s = .next (doUndefinedEngOp t q s) := rfl
theorem exec_descriptorComplete (t q i : Nat) (s : State) :
    exec (.descriptorComplete t q i) s = .next (doDescriptorComplete t q i s) := rfl

/-! ### Refusals (R54, R70) -/

theorem startChk_error {c : Chk Unit} {off val : Nat} (r : Run) (s : State) (h : c = .error (off, val)) :
    startChk (do c; pure r) s = .refuse off val s := by
  rw [h]
  rfl

/-- A descriptor whose turn has come, that no coupling rule holds and that fails a check. -/
theorem State.startDesc_refuse {s u : State} {t q op off val : Nat} {free : State → QEntry → Bool} {check : QEntry → State → StartRes}
    {e : QEntry} (hturn : s.turn t q e) (hop : dOp e.d = op) (hfree : free s e = true) (hchk : check e s = .refuse off val u) :
    s.startDesc t q op free check = u.refuse t q e off val := by
  obtain ⟨hstart, hclean⟩ := hturn
  rw [s.startDesc_some t q op free check e hstart hclean hop hfree, hchk]
  rfl

theorem doHevent_refuse {s : State} {t off val : Nat} {e : QEntry} (hturn : s.turn t 6 e) (hop : dOp e.d = 0x71)
    (hedge : dField e.d 16 2 = 0x0280) (hchk : heventChk e.d = .error (off, val)) : doHevent t s = s.refuse t 6 e off val := by
  obtain ⟨hstart, hclean⟩ := hturn
  unfold doHevent
  rw [hstart]
  dsimp only
  rw [if_pos ⟨hop, hedge⟩, s.withHead_clean _ _ _ _ hclean, hchk]

/-- A code that a tile engine does not define. -/
theorem doUndefinedEngOp_tile {s : State} {t q : Nat} {e : QEntry} (hq : q ≤ 5) (hturn : s.turn t q e) (hop : dOp e.d ∉ definedOps q)
    (hprs : q ≠ 3 ∨ (s.tile t).prsIdle = true) : doUndefinedEngOp t q s = s.refuse t q e 0 (dOp e.d) := by
  obtain ⟨hstart, hclean⟩ := hturn
  have h6 : q ≠ 6 := by omega
  have hnot : (definedOps q).contains (dOp e.d) = false := by simpa using hop
  unfold doUndefinedEngOp
  rw [hstart]
  dsimp only
  rw [if_neg h6, if_pos ⟨Nat.le_succ_of_le hq, hnot, hprs⟩, s.withHead_clean _ _ _ _ hclean]
  exact if_neg fun hh => h6 hh.1

/-- An edge unit that does not exist. -/
theorem doUndefinedEngOp_edge {s : State} {t : Nat} {e : QEntry} (hturn : s.turn t 6 e) (hops : edgeOps (dField e.d 16 2) = []) :
    doUndefinedEngOp t 6 s = s.refuse t 6 e 16 (dField e.d 16 2) := by
  obtain ⟨hstart, hclean⟩ := hturn
  unfold doUndefinedEngOp
  rw [hstart]
  dsimp only
  rw [if_pos rfl, hops, if_pos ⟨Nat.le_refl 6, rfl, .inl (by decide)⟩, s.withHead_clean _ _ _ _ hclean]
  exact if_pos ⟨rfl, rfl⟩

/-! ### Entries with flawed words (R259, R427) -/

/-- Of the cases of `State.withHead_cases`, the one of an entry that reads as poisoned. -/
theorem State.withHead_poisoned {s : State} {t q : Nat} {e : QEntry} (k : QEntry → State → State) (hsyn : e.syn ≠ [])
    (hbad : (s.readHead t q e).1 = true) : s.withHead t q e k = (s.readHead t q e).2.poisonStart t q e 0 := by
  rcases s.withHead_cases t q e k with ⟨hclean, -⟩ | ⟨-, -, h⟩ | ⟨-, hgood, -⟩
  · exact absurd hclean hsyn
  · exact h
  · exact Bool.noConfusion (hbad.symm.trans hgood)

/-- The one of an entry whose errors are corrected. -/
theorem State.withHead_corrected {s : State} {t q : Nat} {e : QEntry} (k : QEntry → State → State) (hsyn : e.syn ≠ [])
    (hgood : (s.readHead t q e).1 = false) : s.withHead t q e k = k { e with syn := [] } (s.readHead t q e).2 := by
  rcases s.withHead_cases t q e k with ⟨hclean, -⟩ | ⟨-, hbad, -⟩ | ⟨-, -, h⟩
  · exact absurd hclean hsyn
  · exact Bool.noConfusion (hbad.symm.trans hgood)
  · exact h

/-- The start of a COPY takes its entry. -/
theorem doCopy_withHead {s : State} {t : Nat} {e : QEntry} (hstart : s.startable t 5 = some e) (hop : dOp e.d = 0x31) :
    doCopy t s = s.withHead t 5 e (fun e s => State.settleStart t 5 e (startChk (do mvChk e.d; pure Run.start) s)) := by
  unfold doCopy State.startDesc
  rw [hstart]
  dsimp only
  rw [if_pos ⟨hop, rfl⟩]
  rfl

/-- Settles O15: a failed check refuses the entry whose turn has come, and an entry with flawed words is read first. -/
theorem refusedDescriptorsAreDropped : Obligations.RefusedDescriptorsAreDropped := by
  intro s t off val e
  refine ⟨fun hturn hop hchk => ?_, fun hturn hop hchk => ?_, fun hturn hop hedge hchk => ?_, fun q hq hturn hop hprs => ?_,
    fun hturn hops => ?_, fun hstart hop hsyn => ⟨fun hbad => ?_, fun hgood hchk => ?_⟩, fun q k horg => s.refuse_strand t q k off val e horg⟩
  · rw [exec_copy, doCopy, State.startDesc_refuse hturn hop rfl (startChk_error Run.start s hchk)]
  · rw [exec_fill, doFill, State.startDesc_refuse hturn hop rfl (startChk_error Run.start s hchk)]
  · rw [exec_hevent, doHevent_refuse hturn hop hedge hchk]
  · rw [exec_undefinedEngOp, doUndefinedEngOp_tile hq hturn hop hprs]
  · rw [exec_undefinedEngOp, doUndefinedEngOp_edge hturn hops]
  · rw [exec_copy, doCopy_withHead hstart hop, State.withHead_poisoned _ hsyn hbad]
  · rw [exec_copy, doCopy_withHead hstart hop, State.withHead_corrected _ hsyn hgood, startChk_ok Run.start _ hchk]
    rfl

/-! ### What DESCRIPTOR_COMPLETE looks at (R55, R365) -/

section
variable {s : State} {t q i : Nat} {e : QEntry} (he : ((s.tile t).queue q)[i]? = some e) (hfault : (s.tile t).faulted q e = false)
include he hfault

theorem doDescriptorComplete_waiting (hph : e.ph = .waiting) :
    doDescriptorComplete t q i s = if s.stopping e then s.abandonEntry t q e else s := by
  unfold doDescriptorComplete
  rw [he]
  dsimp only
  rw [hfault, hph]
  rfl

theorem doDescriptorComplete_running (hph : e.ph = .running) : doDescriptorComplete t q i s = s.endRunning t q e := by
  unfold doDescriptorComplete
  rw [he]
  dsimp only
  rw [hfault, hph]
  rfl

theorem doDescriptorComplete_finished (hph : e.ph = .finished) : doDescriptorComplete t q i s =
    if q = 6 then s.drainEdge t 33 else if s.owes t q e.seq then s else s.leaveEntry t q e := by
  unfold doDescriptorComplete
  rw [he]
  dsimp only
  rw [hfault, hph]
  rfl

end

/-! ### The ends of running descriptors, by their queue -/

section
variable {s u : State} {t : Nat} {e : QEntry}

theorem State.endRunning_matrix (hdone : matrixUnits e.d ≤ e.run.unit) (hsample : (s.tile t).sampleOf 0 e.seq true = false) :
    s.endRunning t 0 e = if s.stopping e then s.abandonEntry t 0 e else s.atEnd t 0 e := by
  simp [State.endRunning, hsample, hdone]

/-- Units of the vector engine or the mover that do all the work. -/
theorem State.runEngine_done {q : Nat} {w : X Bool × Nat} (after : State → State) (hstop : s.stopping e = false)
    (hsave : s.saving = false) (hrun : runUnits t w.1 w.2 s = (.ok true, u)) : s.runEngine t q e w after = (after u).atEnd t q e := by
  unfold State.runEngine
  rw [hstop, hsave, if_neg Bool.false_ne_true, if_neg Bool.false_ne_true, hrun]

theorem State.endRunning_mover {w : X Bool × Nat} (hpause : s.paused t = false) (hw : s.workOf t 5 e = some w) :
    s.endRunning t 5 e = s.runEngine t 5 e w id := by
  unfold State.endRunning
  dsimp only
  rw [hpause, if_neg Bool.false_ne_true, hw]
  rfl

theorem State.endRunning_vector {w : X Bool × Nat} (hop : dOp e.d ≠ 0x41) (hpause : s.paused t = false)
    (hw : s.workOf t 4 e = some w) : s.endRunning t 4 e = s.runEngine t 4 e w (fun s => s.vecAlarms t e.d) := by
  unfold State.endRunning
  dsimp only
  rw [hpause, if_neg Bool.false_ne_true, if_neg hop, hw]
  rfl

theorem State.endRunning_fbqrun (hop : dOp e.d = 0x41) (hpause : s.paused t = false) (hstop : s.stopping e = false)
    (hblk : e.run.blk = vBlocks e.d) : s.endRunning t 4 e = (s.vecAlarms t e.d).atEnd t 4 e := by
  simp [State.endRunning, hop, hpause, hstop, hblk]

theorem State.endRunning_read {b : Nat} (hb : b < 2) (hdone : readDone (s.tile t) b e = true) :
    s.endRunning t (b + 1) e = (s.endRead t (b + 1)).atEnd t (b + 1) e := by
  have h01 : b = 0 ∨ b = 1 := by omega
  rcases h01 with rfl | rfl
  · exact if_pos hdone
  · exact if_pos hdone

theorem State.endRunning_press : s.endRunning t 3 e = s := rfl

/-- Edge work that is done to the end: a collective ends with its last step, and all else at its unit. -/
theorem State.endRunning_edge {w : X Bool × Nat} (hop : dOp e.d ≠ 0x92) (hstop : s.stopping e = false)
    (hfirst : dField e.d 16 2 ≠ 0x0100 ∨ s.updFirst e = true) (hw : edgeWork t e = some w)
    (hrun : runUnits t w.1 w.2 s = (.ok true, u)) : s.endRunning t 6 e =
      if u.dsp.colls.any (fun c => c.tile == t && c.seq == e.seq) then
        if u.collDone t e.seq ∧ u.owes t 6 e.seq = false then (u.finishColl t e.seq).finishEdge t e.seq else u
      else u.finishEdge t e.seq := by
  have hheld : ¬ (dField e.d 16 2 = 0x0100 ∧ s.updFirst e = false) := by
    rintro ⟨hedge, hn⟩
    rcases hfirst with h | h
    · exact h hedge
    · exact Bool.noConfusion (h.symm.trans hn)
  unfold State.endRunning
  dsimp only
  rw [if_neg hop, if_neg hheld, hw]
  dsimp only
  rw [hstop, if_neg Bool.false_ne_true, hrun]
  rfl

theorem State.endRunning_ckpttab (hop : dOp e.d = 0x92) : s.endRunning t 6 e = s.finishEdge t e.seq := if_pos hop

theorem State.atEnd_paid {q : Nat} (h : s.owes t q e.seq = false) : s.atEnd t q e = s.completeEntry t q e := by
  unfold State.atEnd
  rw [h]
  rfl

end

/-- Settles O24: each clause is the case of `doDescriptorComplete` of the entry's phase, and for a running entry the rule of its queue. -/
theorem descriptorsComplete : Obligations.DescriptorsComplete := by
  intro s u t q i e he hfault
  refine ⟨fun hph hq howes => ⟨fun hstop => ?_, fun hstop => ?_⟩, fun hph hstop => ?_,
    fun hph hq hdone hsample => ⟨fun hstop howes => ?_, fun hstop => ?_⟩, fun w hph hq hpause hstop hsave hw hrun => ?_,
    fun w hph hq hop hpause hstop hsave hw hrun => ?_, fun hph hq hop hpause hstop hblk => ?_, fun b hph hb hq hdone => ?_,
    fun hph hq => ?_, fun hph hq => ?_, fun w hph hq hop hstop hfirst hw hrun => ⟨fun hcoll => ?_, fun hcoll hdone howes => ?_⟩,
    fun hph hq hop => ?_, rfl, fun k horg hen => ?_⟩
  · rw [exec_descriptorComplete, doDescriptorComplete_finished he hfault hph, if_neg hq, howes, State.leaveEntry, hstop]
    rfl
  · rw [exec_descriptorComplete, doDescriptorComplete_finished he hfault hph, if_neg hq, howes, State.leaveEntry, hstop]
    rfl
  · rw [exec_descriptorComplete, doDescriptorComplete_waiting he hfault hph, if_pos hstop]
  · subst hq
    rw [exec_descriptorComplete, doDescriptorComplete_running he hfault hph, State.endRunning_matrix hdone hsample, hstop,
      if_neg Bool.false_ne_true, State.atEnd_paid howes]
  · subst hq
    rw [exec_descriptorComplete, doDescriptorComplete_running he hfault hph, State.endRunning_matrix hdone hsample, if_pos hstop]
  · subst hq
    rw [exec_descriptorComplete, doDescriptorComplete_running he hfault hph, State.endRunning_mover hpause hw,
      State.runEngine_done id hstop hsave hrun, id]
  · subst hq
    rw [exec_descriptorComplete, doDescriptorComplete_running he hfault hph, State.endRunning_vector hop hpause hw,
      State.runEngine_done _ hstop hsave hrun]
  · subst hq
    rw [exec_descriptorComplete, doDescriptorComplete_running he hfault hph, State.endRunning_fbqrun hop hpause hstop hblk]
  · subst hq
    rw [exec_descriptorComplete, doDescriptorComplete_running he hfault hph, State.endRunning_read hb hdone]
  · subst hq
    rw [exec_descriptorComplete, doDescriptorComplete_running he hfault hph, State.endRunning_press]
  · subst hq
    rw [exec_descriptorComplete, doDescriptorComplete_finished he hfault hph, if_pos rfl]
  · subst hq
    rw [exec_descriptorComplete, doDescriptorComplete_running he hfault hph, State.endRunning_edge hop hstop hfirst hw hrun, hcoll,
      if_neg Bool.false_ne_true]
  · subst hq
    rw [exec_descriptorComplete, doDescriptorComplete_running he hfault hph, State.endRunning_edge hop hstop hfirst hw hrun, hcoll,
      if_pos rfl, if_pos ⟨hdone, howes⟩]
  · subst hq
    rw [exec_descriptorComplete, doDescriptorComplete_running he hfault hph, State.endRunning_ckpttab hop]
  · rw [s.completeEntry_strand t q k e horg, if_pos hen]

end Sys2Proof.Machine
end

section
/-! Submission rings, launches and ends of grids (R64–R66, R337). -/

namespace Sys2Proof.Machine

/-! ### What the commands run -/

theorem exec_lnkSqtail (r : Nat) (v : W64) (w : Nat) (s : State) : exec (.lnkSqtail r v w) s = .next (doLnkSqtail r v w s) := rfl
theorem exec_gridLaunch (r : Nat) (s : State) : exec (.gridLaunch r) s = .next (doGridLaunch r s) := rfl
theorem exec_gridComplete (n : Nat) (s : State) : exec (.gridComplete n) s = .next (doGridComplete n s) := rfl
theorem exec_gridErrorCompletion (n : Nat) (s : State) : exec (.gridErrorCompletion n) s = .next (doGridErrorCompletion n s) := rfl

/-! ### The doorbell (R337) -/

theorem sqReg_eq (r : Nat) : sqReg r = 0x20000221008 + 16 * r := by
  unfold sqReg edgeBase
  omega

section
variable {s : State} {r : Nat} {x : SqRing} (hr : r < 16) (hx : s.ring r = x) (hu : x.usable = true) (v : W64) (w : Nat)
include hr hx hu

theorem doLnkSqtail_sets (h : (v.setWidth 16 - x.head).toNat ≤ 2 ^ x.log2n) :
    doLnkSqtail r v w s = (s.modRing r (fun x => { x with tail := v.setWidth 16 })).takeRecords r 4097 := by
  subst hx
  have hok : ¬ ((s.ring r).usable = false ∨ 2 ^ (s.ring r).log2n < (v.setWidth 16 - (s.ring r).head).toNat) := by
    rintro (hn | hn)
    · exact Bool.noConfusion (hn.symm.trans hu)
    · omega
  exact (if_pos hr).trans (if_neg hok)

theorem doLnkSqtail_ignores (h : 2 ^ x.log2n < (v.setWidth 16 - x.head).toNat) : doLnkSqtail r v w s = s.csrAcc w (sqReg r) := by
  subst hx
  exact (if_pos hr).trans (if_pos (.inr h))

end

/-! ### Launches (R64, R65) -/

/-- A held record that can launch and whose code has been read. -/
theorem doGridLaunch_launches {s u : State} {r i : Nat} {l : List Byte} {x : SqRing} {code : List (W32 × Bool)} (hx : s.ring r = x)
    (hheld : x.held = some (i, l)) (hcan : s.launchable x.ctx l = true) (hcopy : (s.copyStart r x.ctx).copyFailed r = false)
    (hread : runUnit 1024 (xReadWords ⟨uHost, uHost, x.ctx, 7, copyId r, false⟩ (gCode l) (gBytes l / 4)) (s.copyStart r x.ctx) =
      (.ok code, u)) :
    doGridLaunch r s = ((gTiles l).foldl (fun (y : State) t => y.launchTile l s.freeGrid code t)
      { u with grids := u.grids ++ [⟨s.freeGrid, r, x.ctx, i, l, false⟩], xl := { u.xl with runCtx := some x.ctx } }).leaveRecord r := by
  unfold doGridLaunch
  dsimp only
  rw [hx, hheld]
  dsimp only
  rw [if_pos hcan, hcopy, if_neg Bool.false_ne_true, hread]

/-- The registers of a strand at launch. -/
theorem startStrand_regs (l : List Byte) (num lin loc : Nat) : (startStrand l num lin loc).regs =
    [BitVec.ofNat 64 lin, BitVec.ofNat 64 (gArg l), BitVec.ofNat 64 loc] ++ List.replicate 12 0#64 := rfl

/-- Beyond s3 every register of a strand at launch is 0. -/
theorem startStrand_reg_other (l : List Byte) (num lin loc : Nat) {j : Nat} (h1 : j ≠ 1) (h2 : j ≠ 2) (h3 : j ≠ 3) :
    (startStrand l num lin loc).reg j = 0#64 := by
  by_cases h0 : j = 0
  · rw [h0, Strand.reg_zero]
  · obtain ⟨n, rfl⟩ : ∃ n, j = n + 4 := ⟨j - 4, by omega⟩
    rw [Strand.reg_of_ne_zero _ h0, startStrand_regs]
    show ((List.replicate 12 0#64)[n]?).getD 0#64 = 0#64
    rw [List.getElem?_replicate]
    split <;> rfl

/-- Settles O27: the doorbell's two cases, the launch, and the registers of a new strand. -/
theorem gridsLaunch : Obligations.GridsLaunch := by
  refine ⟨fun s r w v x hr hx hu => ⟨fun h => ?_, fun h => ?_⟩, fun s u r i l x code hx hheld hcan hcopy hread => ?_,
    fun l num lin loc j h1 h2 h3 => ⟨rfl, rfl, rfl, rfl, rfl, startStrand_reg_other l num lin loc h1 h2 h3⟩⟩
  · rw [exec_lnkSqtail, doLnkSqtail_sets hr hx hu v w h]
  · rw [exec_lnkSqtail, doLnkSqtail_ignores hr hx hu v w h, sqReg_eq]
  · rw [exec_gridLaunch, doGridLaunch_launches hx hheld hcan hcopy hread]

/-! ### Ends (R66) -/

section
variable {s : State} {n : Nat} {g : Grid} (hg : s.gridOf n = some g) (hdone : s.gridDone g = true)
include hg hdone

theorem doGridComplete_ends (hstop : g.stopping = false) (hdue : s.stopDue g.ctx = false) (hrun : s.xl.runCtx = some g.ctx) :
    doGridComplete n s = ((((gTiles g.record).foldl (fun u t => u.modTile t (fun v => v.setCtr 61 (v.ctr 61 + 1))) s).dropGrid g).gridFrame
      g.ring 0 g.idx g.num (gArg g.record) g.ctx) := by
  unfold doGridComplete
  rw [hg]
  exact if_pos ⟨hstop, hdue, hrun, hdone⟩

theorem doGridErrorCompletion_ends (hstop : g.stopping = true) :
    doGridErrorCompletion n s = (s.dropGrid g).gridFrame g.ring 3 g.idx g.num (gArg g.record) g.ctx := by
  unfold doGridErrorCompletion
  rw [hg]
  exact if_pos ⟨hstop, hdone⟩

end

/-- Settles O28: a grid ends in one of two ways, and its frame has the body of R339. -/
theorem gridsComplete : Obligations.GridsComplete := by
  intro s n g hg hdone
  refine ⟨fun hstop hdue hrun => ?_, fun hstop => ?_⟩
  · rw [exec_gridComplete, doGridComplete_ends hg hdone hstop hdue hrun, State.gridFrame, gArg]
  · rw [exec_gridErrorCompletion, doGridErrorCompletion_ends hg hdone hstop, State.gridFrame, gArg]

end Sys2Proof.Machine
end

section
/-! Requests of other devices that this one serves (R57, R318, R324, R328, R330). -/

namespace Sys2Proof.Machine

/-! ### What the commands run -/

theorem exec_wr (p i : Nat) (s : State) : exec (.wr p i) s = .next (doWr p i s) := rfl
theorem exec_rdreq (p i : Nat) (s : State) : exec (.rdreq p i) s = .next (doRdreq p i s) := rfl
theorem exec_sigPacket (p i : Nat) (s : State) : exec (.sigPacket p i) s = .next (doSigPacket p i s) := rfl

/-! ### Packets for this device -/

section
variable {s : State} {p i : Nat} {k : Packet} (hk : s.packetAt p i = some k) (hloc : k.hop = .loc)
include hk hloc

/-- A packet of an unknown opcode, whichever row takes it. -/
theorem State.onPacket_unknown (ops : List Nat) (f : Packet → State → State) (hopc : knownOpc k.opc = false) :
    s.onPacket p i ops f = (s.dropRcvd p i k).nakBack p k 19 := by
  unfold State.onPacket
  rw [hk]
  dsimp only
  rw [if_neg (not_not_intro hloc), hopc]
  rfl

/-- A packet of the row's own opcode. -/
theorem State.onPacket_own {op : Nat} (f : Packet → State → State) (hopc : k.opc = op) (hknown : knownOpc op = true) :
    s.onPacket p i [op] f = f k (s.dropRcvd p i k) := by
  subst hopc
  unfold State.onPacket
  rw [hk]
  dsimp only
  rw [if_neg (not_not_intro hloc), hknown, if_neg (by decide), if_pos (by simp)]

end

/-! ### The target path (R328) -/

section
variable {u v : State} {p acc : Nat} {k : Packet} (f : Loc → State → State)

theorem State.target_none (h : u.ctxFate k.ctx = .none) : u.target p k acc f = u.nakBack p k 17 := by
  unfold State.target
  rw [h]

theorem State.target_saved (h : u.ctxFate k.ctx = .saved) : u.target p k acc f = u.discard p k := by
  unfold State.target
  rw [h]

theorem State.target_error {r : Nat} (h : u.ctxFate k.ctx = .runs) (hx : u.portXlate p k.ctx k.addr acc = (.error r, v)) :
    u.target p k acc f = v.nakBack p k r := by
  unfold State.target
  rw [h]
  dsimp only
  rw [hx]

theorem State.target_ok {l : Loc} (h : u.ctxFate k.ctx = .runs) (hx : u.portXlate p k.ctx k.addr acc = (.ok l, v)) :
    u.target p k acc f = f l v := by
  unfold State.target
  rw [h]
  dsimp only
  rw [hx]

end

/-! ### WR, RDREQ and SIG -/

/-- Words that arrive without a mismatch are stored with the marks that they carry. -/
theorem map_mark_false (l : List (W32 × Bool)) : l.map (fun w => (w.1, w.2 || false)) = l := by simp

section
variable {s : State} {p i : Nat} {k : Packet} (hk : s.packetAt p i = some k) (hloc : k.hop = .loc)
include hk hloc

section
variable (hopc : k.opc = 0x01)
include hopc

theorem doWr_malformed (h : k.bad = true ∨ spanOk k.addr (4 * k.words.length) = false) :
    doWr p i s = (s.dropRcvd p i k).nakBack p k 19 := by
  unfold doWr
  rw [State.onPacket_own hk hloc _ hopc rfl]
  refine if_pos ?_
  rcases h with h | h
  · rw [h, Bool.true_or]
  · rw [h, Bool.not_false, Bool.or_true]

/-- A well-formed WR goes to its target; one that carries no tag writes its words there and is acknowledged. -/
theorem doWr_served (hgood : k.bad = false) (hspan : spanOk k.addr (4 * k.words.length) = true) :
    ∃ f, doWr p i s = (s.dropRcvd p i k).target p k 1 f ∧ ∀ (l : Loc) (v : State), k.rind = none →
      f l v = ((v.countPartial [l] (4 * k.words.length)).putWords (uPort p) l k.words).answer p k 0x04 id := by
  unfold doWr
  rw [State.onPacket_own hk hloc _ hopc rfl, hgood, hspan]
  refine ⟨_, rfl, fun l v hrind => ?_⟩
  dsimp only
  rw [hrind]
  dsimp only
  rw [Bool.and_false, map_mark_false]
  rfl

end

section
variable (hopc : k.opc = 0x02)
include hopc

theorem doRdreq_malformed (h : k.bad = true ∨ k.words ≠ [] ∨ spanOk k.addr k.value = false) :
    doRdreq p i s = (s.dropRcvd p i k).nakBack p k 19 := by
  unfold doRdreq
  rw [State.onPacket_own hk hloc _ hopc rfl]
  refine if_pos ?_
  rcases h with h | h | h
  · rw [h, Bool.true_or, Bool.true_or]
  · rw [List.isEmpty_eq_false_iff.2 h, Bool.not_false, Bool.or_true, Bool.true_or]
  · rw [h, Bool.not_false, Bool.or_true]

/-- A well-formed RDREQ goes to its target; of less than a block it is answered with the words there and no tag. -/
theorem doRdreq_served (hgood : k.bad = false) (hwords : k.words = []) (hspan : spanOk k.addr k.value = true) :
    ∃ f, doRdreq p i s = (s.dropRcvd p i k).target p k 0 f ∧ ∀ (l : Loc) (v w : State) (ws : List (W32 × Bool)), k.value ≠ 4096 →
      v.getWords l k.ctx (k.value / 4) = (ws, w) →
      f l v = w.answer p k 0x03 (fun a => { a with words := ws, rind := none, fmt := Config.rawFmt % 256 }) := by
  unfold doRdreq
  rw [State.onPacket_own hk hloc _ hopc rfl, hgood, hwords, hspan]
  refine ⟨_, rfl, fun l v w ws hpart hget => ?_⟩
  dsimp only
  rw [hget]
  dsimp only
  rw [beq_eq_false_iff_ne.2 hpart, Bool.false_and, map_mark_false]
  rfl

end

section
variable (hopc : k.opc = 0x06)
include hopc

theorem doSigPacket_malformed (h : k.bad = true ∨ k.words ≠ [] ∨ 65536 ≤ k.addr) :
    doSigPacket p i s = (s.dropRcvd p i k).nakBack p k 19 := by
  unfold doSigPacket
  rw [State.onPacket_own hk hloc _ hopc rfl]
  refine if_pos ?_
  rcases h with h | h | h
  · rw [h, Bool.true_or, Bool.true_or]
  · rw [List.isEmpty_eq_false_iff.2 h, Bool.not_false, Bool.or_true, Bool.true_or]
  · rw [decide_eq_true h, Bool.or_true]

/-- A well-formed SIG is refused for a device-owned counter, and else goes by its context. -/
theorem doSigPacket_served (hgood : k.bad = false) (hwords : k.words = []) (haddr : k.addr < 65536) : doSigPacket p i s =
    if deviceCtr k.addr then (s.dropRcvd p i k).nakBack p k 20
    else match (s.dropRcvd p i k).ctxFate k.ctx with
      | .saved => (s.dropRcvd p i k).discard p k
      | .none => (s.dropRcvd p i k).nakBack p k 17
      | .runs => ((s.dropRcvd p i k).addCtr k.addr (BitVec.ofNat 32 k.value)).answer p k 0x07 id := by
  unfold doSigPacket
  rw [State.onPacket_own hk hloc _ hopc rfl]
  exact if_neg (by simp [hgood, hwords, haddr])

end
end

/-- Settles O54: an unknown opcode is answered by whichever row takes it, a malformed packet by its own row, and any other by the target path
or, for a SIG, by its context. -/
theorem requestsAreServed : Obligations.RequestsAreServed := by
  rintro s _ v p i k l hk hloc rfl
  refine ⟨fun hopc => ?_, fun hopc => ⟨fun hbad => ?_, fun hgood hspan => ?_⟩,
    fun hopc => ⟨fun hbad => ?_, fun ws w hgood hwords hspan hpart hruns hx hget => ?_⟩,
    fun hopc => ⟨fun hbad => ?_, fun hgood hwords haddr => ?_⟩⟩
  · rw [exec_wr, exec_rdreq, exec_sigPacket, doWr, doRdreq, doSigPacket, State.onPacket_unknown hk hloc _ _ hopc,
      State.onPacket_unknown hk hloc _ _ hopc, State.onPacket_unknown hk hloc _ _ hopc]
    exact ⟨rfl, rfl, rfl⟩
  · rw [exec_wr, doWr_malformed hk hloc hopc hbad]
  · obtain ⟨f, hdo, hf⟩ := doWr_served hk hloc hopc hgood hspan
    rw [exec_wr, hdo]
    refine ⟨fun hfate => ?_, fun hfate => ?_, fun r hfate hx => ?_, fun hfate hx hrind => ?_⟩
    · rw [State.target_none f hfate]
    · rw [State.target_saved f hfate]
    · rw [State.target_error f hfate hx]
    · rw [State.target_ok f hfate hx, hf l v hrind]
  · rw [exec_rdreq, doRdreq_malformed hk hloc hopc hbad]
  · obtain ⟨f, hdo, hf⟩ := doRdreq_served hk hloc hopc hgood hwords hspan
    rw [exec_rdreq, hdo, State.target_ok f hruns hx, hf l v w ws hpart hget]
  · rw [exec_sigPacket, doSigPacket_malformed hk hloc hopc hbad]
  · rw [exec_sigPacket, doSigPacket_served hk hloc hopc hgood hwords haddr]
    refine ⟨fun hdev => ?_, fun hdev hfate => ?_, fun hdev hfate => ?_, fun hdev hfate => ?_⟩
    · rw [if_pos hdev]
    · rw [hdev, if_neg Bool.false_ne_true, hfate]
    · rw [hdev, if_neg Bool.false_ne_true, hfate]
    · rw [hdev, if_neg Bool.false_ne_true, hfate]

end Sys2Proof.Machine
end

section
/-! The clear registers (R123, R135, R198, R251, R345, R350) and the seed registers (R115): where their commands write, and what the write
does to the counters, the alarms and the sequences. -/

namespace Sys2Proof.Machine

/-! ### What the commands run -/

theorem exec_tileNumclr (t : Nat) (v : W64) (w : Nat) (s : State) :
    exec (.tileNumclr t v w) s = .next (s.csrStore w (tileAt (t % 1024) 0 0x280) 8 v) := rfl
theorem exec_arrEvtclr (t : Nat) (v : W64) (w : Nat) (s : State) :
    exec (.arrEvtclr t v w) s = .next (s.csrStore w (tileAt (t % 1024) 2 0x98) 8 v) := rfl
theorem exec_arrSpillclr (t : Nat) (v : W64) (w : Nat) (s : State) :
    exec (.arrSpillclr t v w) s = .next (s.csrStore w (tileAt (t % 1024) 2 0x130) 8 v) := rfl
theorem exec_vecHistclr (t : Nat) (v : W64) (w : Nat) (s : State) :
    exec (.vecHistclr t v w) s = .next (s.csrStore w (tileAt (t % 1024) 5 0x18) 8 v) := rfl
theorem exec_tileRngseed (t : Nat) (v : W64) (w : Nat) (s : State) :
    exec (.tileRngseed t v w) s = .next (s.csrStore w (tileAt (t % 1024) 0 0x300) 8 v) := rfl
theorem exec_updNumclr (n : Nat) (v : W64) (w : Nat) (s : State) :
    exec (.updNumclr n v w) s = .next (s.csrStore w (edgeAt (0x08 + n % 8) 0x280) 8 v) := rfl
theorem exec_updRngseed (n : Nat) (v : W64) (w : Nat) (s : State) :
    exec (.updRngseed n v w) s = .next (s.csrStore w (edgeAt (0x08 + n % 8) 0x300) 8 v) := rfl
theorem exec_dspTokclr (v : W64) (w : Nat) (s : State) :
    exec (.dspTokclr v w) s = .next (s.csrStore w (edgeAt 0x28 0x120) 8 v) := rfl
theorem exec_dspNumclr (v : W64) (w : Nat) (s : State) :
    exec (.dspNumclr v w) s = .next (s.csrStore w (edgeAt 0x28 0x280) 8 v) := rfl
theorem exec_lnkNumclr (p : Nat) (v : W64) (w : Nat) (s : State) :
    exec (.lnkNumclr p v w) s = .next (s.csrStore w (edgeAt (0x10 + p % 19) 0x280) 8 v) := rfl
theorem exec_lnkRngseed (p : Nat) (v : W64) (w : Nat) (s : State) :
    exec (.lnkRngseed p v w) s = .next (s.csrStore w (edgeAt (0x10 + p % 19) 0x300) 8 v) := rfl

/-! ### The registers of the tile blocks -/

theorem State.writeTile_numclr (s : State) (w t : Nat) (v : W64) : s.writeTile w t 0 0x280 v = s.clrTileNum t v := rfl
theorem State.writeTile_rngseed (s : State) (w t : Nat) (v : W64) : s.writeTile w t 0 0x300 v = s.seedTile t v := rfl
theorem State.writeTile_evtclr (s : State) (w t : Nat) (v : W64) : s.writeTile w t 2 0x98 v = s.clrArrEvt t v := rfl
theorem State.writeTile_spillclr (s : State) (w t : Nat) (v : W64) : s.writeTile w t 2 0x130 v = s.clrSpill t v := rfl
theorem State.writeTile_histclr (s : State) (w t : Nat) (v : W64) : s.writeTile w t 5 0x18 v = s.clrHist t v := rfl

/-- Bits 0 and 1 of ARR_EVTCLR together clear both counts (R135). -/
theorem State.clrArrEvt_both (s : State) (t : Nat) (v : W64) (hrange : v.getLsbD 0 = true) (hsat : v.getLsbD 1 = true) :
    s.clrArrEvt t v = s.modTile t (fun x => { x with arr := { x.arr with adcRange := 0#32, adcSat := 0#32 } }) := by
  unfold State.clrArrEvt
  rw [hrange, hsat]
  rfl

/-- A VEC_HISTCLR that names every set clears the FIRED bits of each (R439). -/
theorem State.clrHist_all (s : State) (t : Nat) (v : W64) (hall : ∀ i < 16, v.getLsbD i = true) :
    s.clrHist t v = s.modTile t (fun x => { x with vec := { x.vec with
      hist := x.vec.hist.filter (fun p => !(p.1 < 1024 && v.getLsbD (p.1 / 64)))
      halmFired := (List.range 16).foldl (fun f i => f &&& ~~~(7#48 <<< (3 * i))) x.vec.halmFired } }) := by
  have hfired (f : BitVec 48) : (List.range 16).foldl (fun f i => if v.getLsbD i then f &&& ~~~(7#48 <<< (3 * i)) else f) f =
      (List.range 16).foldl (fun f i => f &&& ~~~(7#48 <<< (3 * i))) f :=
    List.foldl_rel (r := Eq) rfl fun i hi acc acc' hacc => by
      rw [if_pos (hall i (List.mem_range.1 hi)), hacc]
  unfold State.clrHist
  dsimp only
  simp only [hfired]

/-! ### The registers of the edge units -/

/-- The clear, alarm and seed registers of an update unit are posted in its own domain. -/
theorem State.writeEdge_upd (s : State) (w n off : Nat) (v : W64) (hn : n < 8) (hoff : off = 0x280 ∨ off = 0x288 ∨ off = 0x300) :
    s.writeEdge w (0x08 + n) off v = s.postWrite (domUpd n) w (edgeAt (0x08 + n) off) v := by
  unfold State.writeEdge
  dsimp only
  rw [if_neg (by omega), if_neg (by omega), if_pos (by omega), if_pos hoff, Nat.add_sub_cancel_left]

theorem State.writeEdge_lnk (s : State) (w p off : Nat) (v : W64) (hp : p < 19) :
    s.writeEdge w (0x10 + p) off v = s.writeLnk w p off v := by
  unfold State.writeEdge
  dsimp only
  rw [if_neg (by omega), if_neg (by omega), if_neg (by omega), if_pos (by omega), Nat.add_sub_cancel_left]

theorem State.writeEdge_tokclr (s : State) (w : Nat) (v : W64) : s.writeEdge w 0x28 0x120 v = s.clrTok v := rfl
theorem State.writeEdge_dspNumclr (s : State) (w : Nat) (v : W64) : s.writeEdge w 0x28 0x280 v = s.clrDspNum v := rfl
theorem State.writeLnk_numclr (s : State) (w p : Nat) (v : W64) : s.writeLnk w p 0x280 v = s.clrLnkNum p v := rfl
theorem State.writeLnk_rngseed (s : State) (w p : Nat) (v : W64) : s.writeLnk w p 0x300 v = s.seedLnk p v := rfl

/-! ### The commands, by their block -/

/-- The clears and the seed of a tile. -/
theorem tileClearsAndSeed (s : State) (v : W64) (w t : Nat) (hpow : s.rails.core = true) (ht : t < 1024) :
    exec (.tileNumclr t v w) s = .next (s.clrTileNum t v) ∧ exec (.arrEvtclr t v w) s = .next (s.clrArrEvt t v) ∧
    exec (.arrSpillclr t v w) s = .next (s.clrSpill t v) ∧ exec (.vecHistclr t v w) s = .next (s.clrHist t v) ∧
    exec (.tileRngseed t v w) s = .next (s.seedTile t v) := by
  have hstore (blk off : Nat) (hblk : blk < 16) (hoff : off < 0x10000) (h8 : off % 8 = 0) :
      s.csrStore w (tileAt (t % 1024) blk off) 8 v = s.writeTile w t blk off v := by
    rw [Nat.mod_eq_of_lt ht, s.csrStore_tile w t blk off v hpow ht hblk hoff h8]
  refine ⟨?_, ?_, ?_, ?_, ?_⟩
  · rw [exec_tileNumclr, hstore 0 0x280 (by decide) (by decide) rfl, s.writeTile_numclr]
  · rw [exec_arrEvtclr, hstore 2 0x98 (by decide) (by decide) rfl, s.writeTile_evtclr]
  · rw [exec_arrSpillclr, hstore 2 0x130 (by decide) (by decide) rfl, s.writeTile_spillclr]
  · rw [exec_vecHistclr, hstore 5 0x18 (by decide) (by decide) rfl, s.writeTile_histclr]
  · rw [exec_tileRngseed, hstore 0 0x300 (by decide) (by decide) rfl, s.writeTile_rngseed]

/-- A write of an edge block below the EFT's reaches it whether the MP runs or not. -/
theorem State.csrStore_edge_below (s : State) (w k off : Nat) (v : W64) (hpow : s.rails.io = true) (hk : k < 0x4D) (hoff : off < 0x10000)
    (h8 : off % 8 = 0) : s.csrStore w (edgeAt k off) 8 v = s.writeEdge w k off v :=
  s.csrStore_edge w k off v hpow (by omega) hoff h8 (eftDark_edgeAt s k off hoff fun h => absurd h (by omega))

/-- The clear and the seed of an update unit, while no write waits in its domain. -/
theorem updClearAndSeed (s : State) (v : W64) (w n : Nat) (hpow : s.rails.io = true) (hn : n < 8) (hfree : s.wbusy (domUpd n) = false) :
    exec (.updNumclr n v w) s =
      .next { s with posted := smSet none s.posted (domUpd n) (some (0x20000080280 + n * 0x10000, v, w)) } ∧
    exec (.updRngseed n v w) s =
      .next { s with posted := smSet none s.posted (domUpd n) (some (0x20000080300 + n * 0x10000, v, w)) } := by
  have hstore (off : Nat) (hreg : off = 0x280 ∨ off = 0x288 ∨ off = 0x300) : s.csrStore w (edgeAt (0x08 + n % 8) off) 8 v =
      { s with posted := smSet none s.posted (domUpd n) (some (edgeAt (0x08 + n) off, v, w)) } := by
    rw [Nat.mod_eq_of_lt hn, s.csrStore_edge_below w _ off v hpow (by omega) (by omega) (by omega), s.writeEdge_upd w n off v hn hreg,
      s.postWrite_free _ _ _ _ hfree]
  have hclr : edgeAt (0x08 + n) 0x280 = 0x20000080280 + n * 0x10000 := by unfold edgeAt edgeBase; omega
  have hseed : edgeAt (0x08 + n) 0x300 = 0x20000080300 + n * 0x10000 := by unfold edgeAt edgeBase; omega
  rw [exec_updNumclr, exec_updRngseed, hstore 0x280 (.inl rfl), hstore 0x300 (.inr (.inr rfl)), hclr, hseed]
  exact ⟨rfl, rfl⟩

/-- The clears of the dispatch engines. -/
theorem dspClears (s : State) (v : W64) (w : Nat) (hpow : s.rails.io = true) :
    exec (.dspTokclr v w) s = .next (s.clrTok v) ∧ exec (.dspNumclr v w) s = .next (s.clrDspNum v) := by
  rw [exec_dspTokclr, exec_dspNumclr, s.csrStore_edge_below w 0x28 0x120 v hpow (by decide) (by decide) rfl,
    s.csrStore_edge_below w 0x28 0x280 v hpow (by decide) (by decide) rfl, s.writeEdge_tokclr, s.writeEdge_dspNumclr]
  exact ⟨rfl, rfl⟩

/-- The clear and the seed of a port, the host port included. -/
theorem lnkClearAndSeed (s : State) (v : W64) (w p : Nat) (hpow : s.rails.io = true) (hp : p < 19) :
    exec (.lnkNumclr p v w) s = .next (s.clrLnkNum p v) ∧ exec (.lnkRngseed p v w) s = .next (s.seedLnk p v) := by
  have hstore (off : Nat) (hoff : off < 0x10000) (h8 : off % 8 = 0) :
      s.csrStore w (edgeAt (0x10 + p % 19) off) 8 v = s.writeLnk w p off v := by
    rw [Nat.mod_eq_of_lt hp, s.csrStore_edge_below w _ off v hpow (by omega) hoff h8, s.writeEdge_lnk w p off v hp]
  rw [exec_lnkNumclr, exec_lnkRngseed, hstore 0x280 (by decide) rfl, hstore 0x300 (by decide) rfl, s.writeLnk_numclr, s.writeLnk_rngseed]
  exact ⟨rfl, rfl⟩

/-- Settles O38: each command is a register write of its block, whose action is the one stated; those of an update unit are posted. -/
theorem clearsAndSeeds : Obligations.ClearsAndSeeds := by
  intro s v w n hcore hio
  obtain ⟨htok, hdsp⟩ := dspClears s v w hio
  have htile := tileClearsAndSeed s v w n hcore
  have hupd := updClearAndSeed s v w n hio
  have hlnk := lnkClearAndSeed s v w n hio
  refine ⟨fun hn => ?_, fun hn hrange hsat => ?_, fun hn => ?_, fun hn hv => ?_, fun hn hfree => (hupd hn hfree).1, htok, hdsp,
    fun hn => (hlnk hn).1, fun hn => ?_, fun hn hfree => (hupd hn hfree).2, fun hn => (hlnk (by omega)).2⟩
  · obtain ⟨hnum, -⟩ := htile hn
    exact hnum
  · obtain ⟨-, hevt, -⟩ := htile hn
    rw [hevt, s.clrArrEvt_both n v hrange hsat]
  · obtain ⟨-, -, hspill, -⟩ := htile hn
    exact hspill
  · obtain ⟨-, -, -, hhist, -⟩ := htile hn
    have hall : ∀ i < 16, v.getLsbD i = true := by
      rw [hv]
      decide
    rw [hhist, s.clrHist_all n v hall]
  · obtain ⟨-, -, -, -, hseed⟩ := htile hn
    exact hseed

end Sys2Proof.Machine
end

section
/-! The vectors of a READ or QUERY (R132, R190, R197, R199, R200, R249, R280): what reads the next one, what writes the first that waits,
and the divert batch. -/

namespace Sys2Proof.Machine

/-! ### What the commands run -/

theorem exec_arrayVectorDone (t b : Nat) (devs : List AdcDev) (s : State) :
    exec (.arrayVectorDone t b devs) s = .next (doArrayVectorDone t b devs s) := rfl
theorem exec_companionWorkDone (t b : Nat) (s : State) :
    exec (.companionWorkDone t b) s = .next (doCompanionWorkDone t b s) := rfl
theorem exec_divertBatch (t b : Nat) (s : State) : exec (.divertBatch t b) s = .next (doDivertBatch t b s) := rfl

/-! ### The limits of reading ahead -/

/-- The bank reads no further vector: eight wait (R200), or the rows of a READ that queues them have no place left (R249). -/
def Tile.readAheadFull (v : Tile) (b : Nat) (e : QEntry) : Prop :=
  8 ≤ (v.bank b).run.pend.length ∨
    (dOp e.d ≠ 0x12 ∧ rdFbq e.d = true ∧ 16 ≤ v.fbHeld b + (v.bank b).run.pend.length)

/-- Neither limit is reached where fewer than eight vectors wait and the descriptor queues no rows or has a place for the next. -/
theorem Tile.not_readAheadFull {v : Tile} {b : Nat} {e : QEntry} (hpend : (v.bank b).run.pend.length < 8)
    (hplace : dOp e.d = 0x12 ∨ rdFbq e.d = false ∨ v.fbHeld b + (v.bank b).run.pend.length < 16) : ¬ v.readAheadFull b e := by
  rintro (hfull | ⟨hop, hfbq, hheld⟩)
  · omega
  · rcases hplace with hquery | hnofbq | hroom
    · exact hop hquery
    · exact Bool.noConfusion (hfbq.symm.trans hnofbq)
    · omega

/-! ### ARRAY_VECTOR_DONE -/

/-- What follows the read of a vector: where it is the only one that waits, and waits for neither companion work nor a sample, it is
written at once. -/
def State.writeUnlessWaiting (s : State) (t b : Nat) (e : QEntry) : State :=
  match ((s.tile t).bank b).run.pend with
  | [pv] =>
    if pv.work || (s.tile t).sampleOf (b + 1) e.seq true then s
    else match runUnit t (writePend t b e pv) s with
      | (.error x, s) => s.failRead t b e x
      | (.ok _, s) => s
  | _ => s

section
variable {s u : State} {t b : Nat} {e : QEntry} {devs : List AdcDev}

/-- The vectors that wait stay where they are when there is not exactly one of them. -/
theorem State.writeUnlessWaiting_several (h : ((s.tile t).bank b).run.pend.length ≠ 1) : s.writeUnlessWaiting t b e = s := by
  unfold State.writeUnlessWaiting
  split
  · next pv hpend => exact absurd (congrArg List.length hpend) h
  · rfl

/-- A vector with companion work waits for it. -/
theorem State.writeUnlessWaiting_work {pv : PendVec} (hpend : ((s.tile t).bank b).run.pend = [pv]) (hwork : pv.work = true) :
    s.writeUnlessWaiting t b e = s := by
  unfold State.writeUnlessWaiting
  rw [hpend]
  dsimp only
  rw [hwork, Bool.true_or, if_pos rfl]

/-- A vector that waits for nothing is written. -/
theorem State.writeUnlessWaiting_free {pv : PendVec} (hpend : ((s.tile t).bank b).run.pend = [pv]) (hwork : pv.work = false)
    (hsample : (s.tile t).sampleOf (b + 1) e.seq true = false) (hwrite : runUnit t (writePend t b e pv) s = (.ok (), u)) :
    s.writeUnlessWaiting t b e = u := by
  unfold State.writeUnlessWaiting
  rw [hpend]
  dsimp only
  rw [hwork, hsample, Bool.false_or, if_neg Bool.false_ne_true, hwrite]

/-- A bank at one of its limits pauses. -/
theorem doArrayVectorDone_full (hrun : s.bankRun t b = some e) (hfull : (s.tile t).readAheadFull b e) :
    doArrayVectorDone t b devs s = s := by
  unfold doArrayVectorDone
  rw [hrun]
  dsimp only
  refine if_pos ?_
  rcases hfull with hpend | ⟨hop, hfbq, hheld⟩
  · simp [hpend]
  · simp [hop, hfbq, hheld]

/-- The next vector is read, and the bank stops after it under pre-emption (R280). -/
theorem doArrayVectorDone_read (hrun : s.bankRun t b = some e)
    (hvec : ((s.tile t).bank b).run.vec < (if dOp e.d = 0x12 then qyNvec e.d else rdNvec e.d))
    (hfull : ¬ (s.tile t).readAheadFull b e) (hhalt : (s.saving && e.halt) = false)
    (hread : runUnit t (do
      if dOp e.d = 0x12 then queryVector t b e devs else readVector t b e devs
      flushRemote (tileAgent t (b + 1) e)) s = (.ok (), u)) :
    doArrayVectorDone t b devs s = (if u.saving then u.haltEntry t (b + 1) e.seq else u).writeUnlessWaiting t b e := by
  unfold Tile.readAheadFull at hfull
  obtain ⟨hpend, hplace⟩ := not_or.1 hfull
  unfold doArrayVectorDone
  rw [hrun]
  dsimp only
  simp only [beq_iff_eq]
  rw [if_neg, hread]
  · rfl
  · rw [hhalt]
    simp only [Bool.or_false, Bool.or_eq_true, Bool.and_eq_true, Bool.not_eq_true', beq_eq_false_iff_ne, decide_eq_true_eq]
    rintro ((hend | height) | ⟨⟨hop, hfbq⟩, hheld⟩)
    · omega
    · exact hpend height
    · exact hplace ⟨hop, hfbq, hheld⟩

end

/-! ### COMPANION_WORK_DONE and DIVERT_BATCH -/

/-- The first waiting vector is written, where its sample is settled and its companion work, if it has any, comes before that of the other
bank (R199). -/
theorem doCompanionWorkDone_write {s u : State} {t b : Nat} {e : QEntry} {pv : PendVec} {l : List PendVec} (hrun : s.bankRun t b = some e)
    (hpend : ((s.tile t).bank b).run.pend = pv :: l) (hsample : (s.tile t).sampleVec b e.seq pv.vec = false)
    (hfirst : pv.work = true → s.compFirst t b pv.order = true) (hwrite : runUnit t (writePend t b e pv) s = (.ok (), u)) :
    doCompanionWorkDone t b s = u := by
  have hturn : (pv.work && !s.compFirst t b pv.order) = false := by
    cases hwork : pv.work
    · rfl
    · rw [hfirst hwork]
      rfl
  unfold doCompanionWorkDone
  rw [hrun]
  dsimp only
  rw [hpend]
  dsimp only
  rw [hturn, hsample, Bool.false_or, if_neg Bool.false_ne_true, hwrite]

/-- After the last vector of a READ is read and no vector waits, the diverted ones are computed, where the batch comes before the companion
work of the other bank (R197, R199). -/
theorem doDivertBatch_all {s : State} {t b : Nat} {e : QEntry} (hrun : s.bankRun t b = some e) (hop : dOp e.d = 0x10)
    (hvec : ((s.tile t).bank b).run.vec = rdNvec e.d) (hpend : ((s.tile t).bank b).run.pend = [])
    (hfirst : s.compFirst t b ((((s.tile t).bank b).run.divs.head?.map (·.order)).getD 0) = true) :
    doDivertBatch t b s = divertAll t b e ((s.tile t).bank b).run.divs.length s := by
  unfold doDivertBatch
  rw [hrun]
  exact if_pos ⟨hop, hvec, hpend, hfirst⟩

/-- Settles O19: a read below both limits is `doArrayVectorDone_read`, whose vector stays or is written by the three cases of
`State.writeUnlessWaiting`; a bank at a limit pauses; waiting vectors and the divert batch have one rule each. -/
theorem arrayVectorsAreWritten : Obligations.ArrayVectorsAreWritten := by
  intro s u w w' t b e pv l devs hrun
  refine ⟨fun hvec hlen hplace hhalt hread hw => ?_, fun hfull => ?_, fun hpend hsample hfirst hwrite => ?_,
    fun hop hvec hpend hfirst => ?_⟩
  · have hdone : exec (.arrayVectorDone t b devs) s = .next (w.writeUnlessWaiting t b e) := by
      rw [exec_arrayVectorDone, hw, doArrayVectorDone_read hrun hvec (Tile.not_readAheadFull hlen hplace) hhalt hread]
    refine ⟨fun hwait => ?_, fun hpend hwork hsample hwrite => ?_⟩
    · rcases hwait with hseveral | ⟨hpend, hwork⟩
      · rw [hdone, State.writeUnlessWaiting_several hseveral]
      · rw [hdone, State.writeUnlessWaiting_work hpend hwork]
    · rw [hdone, State.writeUnlessWaiting_free hpend hwork hsample hwrite]
  · rw [exec_arrayVectorDone, doArrayVectorDone_full hrun hfull]
  · rw [exec_companionWorkDone, doCompanionWorkDone_write hrun hpend hsample hfirst hwrite]
  · rw [exec_divertBatch, doDivertBatch_all hrun hop hvec hpend hfirst]

end Sys2Proof.Machine
end

section
/-! Presses, the records that the MP and the scrubbers keep up, and refreshes (R156 to R180, R258 to R260, R399, R435, R436): what each command
does, and the three statements about them. -/

namespace Sys2Proof.Machine

/-! ### What the commands run -/

theorem exec_full (t : Nat) (s : State) : exec (.full t) s = .next (doPress t 1 s) := rfl
theorem exec_delta (t : Nat) (s : State) : exec (.delta t) s = .next (doPress t 2 s) := rfl
theorem exec_refresh (t : Nat) (s : State) : exec (.refresh t) s = .next (doPress t 3 s) := rfl
theorem exec_pressComplete (t : Nat) (out : PressOut) (s : State) : exec (.pressComplete t out) s = .next (doPressComplete t out s) := rfl
theorem exec_summaryWrite (s : State) : exec .summaryWrite s = .next (doSummaryWrite s) := rfl
theorem exec_ledgerWrite (s : State) : exec .ledgerWrite s = .next (doLedgerWrite s) := rfl
theorem exec_shadowCompare (t : Nat) (s : State) : exec (.shadowCompare t) s = .next (doShadowCompare t s) := rfl
theorem exec_scrubPeriod (g : ScrubTgt) (s : State) : exec (.scrubPeriod g) s = .next (doScrubPeriod g s) := rfl
theorem exec_stackTempRead (temps : List Nat) (s : State) : exec (.stackTempRead temps) s = .next (doStackTempRead temps s) := rfl
theorem exec_ecsRead (counts : List Nat) (s : State) : exec (.ecsRead counts) s = .next (doEcsRead counts s) := rfl
theorem exec_refreshRequest (t b age hot : Nat) (s : State) :
    exec (.refreshRequest t b age hot) s = .next (doRefreshRequest t b age hot s) := rfl
theorem exec_indexRefreshIssue (t b : Nat) (due : Bool) (s : State) :
    exec (.indexRefreshIssue t b due) s = .next (doIndexRefreshIssue t b due s) := rfl

/-! ### Starts of presses -/

/-- The present image of a DELTA stands apart from the new one; any other press names the one image of its CODE field. -/
theorem presentImage_delta {d : W512} (hop : dOp d = 2) : presentImage d = (pdOld d, pdOldScale d, 32) := if_pos hop

theorem presentImage_other {d : W512} (hop : dOp d ≠ 2) : presentImage d = (pdCode d, pdScale d, 16) := if_neg hop

section
variable {s v : State} {t op code scale off : Nat} {e : QEntry}

/-- A press whose turn has come and whose checks pass runs with its bank under press; a FULL needs no more, and any other press compares the
digest of its present image (R158). -/
theorem doPress_starts (hturn : s.turn t 3 e) (hop : dOp e.d = op) (hfree : pressFree t s e = true)
    (hchk : pressChk op (s.useOf e.mepoch) (s.tile t) e.d = .ok ()) :
    doPress t op s =
      if op = 1 then (s.started t 3 e Run.start).beginPress t op (pdBank e.d)
      else (((s.started t 3 e Run.start).beginPress t op (pdBank e.d)).pressCheck t e).2 := by
  obtain ⟨hstart, hclean⟩ := hturn
  unfold doPress
  rw [hstart]
  dsimp only
  rw [if_pos ⟨hop, hfree⟩, s.withHead_clean _ _ _ _ hclean, hchk]
  rfl

/-- The present image was read: the press goes on where its digest is the bank's, and else its descriptor is refused. -/
theorem State.pressCheck_read {h : List Byte} (himg : presentImage e.d = (code, scale, off))
    (hrun : runUnit t (xDigest (tileAgent t 3 e) code scale (pdFmt e.d)) s = (.ok h, v)) :
    (s.pressCheck t e).2 =
      if h = ((v.tile t).bank (pdBank e.d)).digest then
        v.modPrs t (fun p => { p with running := p.running.map (fun r => { r with checked := true }) })
      else (v.modPrs t (fun p => { p with running := none })).refuse t 3 e off (dField e.d off 8) := by
  unfold State.pressCheck
  rw [himg]
  dsimp only
  rw [hrun]
  dsimp only
  split <;> rfl

/-- The present image cannot be read: the fault leaves the bank under press (R166). -/
theorem State.pressCheck_fault {x : XErr} (himg : presentImage e.d = (code, scale, off))
    (hrun : runUnit t (xDigest (tileAgent t 3 e) code scale (pdFmt e.d)) s = (.error x, v)) :
    (s.pressCheck t e).2 = v.failEntry t 3 e x := by
  unfold State.pressCheck
  rw [himg]
  dsimp only
  rw [hrun]

end

/-! ### Ends of presses -/

section
variable {s u : State} {t : Nat} {e : QEntry} {pr : PrsRun} {out : PressOut} {done : Bool} {parts : List Part}
  (hpress : (s.tile t).prs.running = some pr) (hrun : (s.tile t).running 3 = some e) (hfold : pr.fold = false)
  (hchecked : pr.checked = true) (hpause : s.paused t = false) (hfault : ((s.tile t).faultReg 3).pend = false)
  (hunits : runUnits t (pressUnit (tileAgent t 3 e)) 1026 s = (.ok done, u))
  (hparts : parts = ((u.entry t 3 e.seq).map (fun e => e.run.snap)).getD [])
include hpress hrun hfold hchecked hpause hfault hunits hparts

/-- Everything that the running press of queue 3 does once its whole image `parts` has been read: it goes on as a FULL where it is none yet and
verify finds a failure (R173), and else it is done. -/
theorem doPressComplete_read : doPressComplete t out s =
    if pr.op ≠ 1 ∧ pr.escal = false ∧ u.verifyFails t pr.bank pr.op e.d parts out = true then
      (u.escalate t pr.bank pr.op e.d parts out).modEntry t 3 e.seq (fun e => { e with run := Run.start })
    else (u.pressDone t pr.bank pr.op (pr.op == 1 || pr.escal) false e.d e.ctx
      (u.descRec t 3 e clsDeferred cPoisonData) parts out).completeEntry t 3 e := by
  unfold Tile.faultReg at hfault
  subst hparts
  unfold doPressComplete
  rw [hpress, hrun]
  dsimp only
  rw [hfold, hpause, hfault, Bool.or_false, Bool.or_false, if_neg Bool.false_ne_true, if_pos hchecked]
  dsimp only
  rw [if_pos rfl, hunits]

theorem doPressComplete_done (hend : pr.op = 1 ∨ pr.escal = true ∨ u.verifyFails t pr.bank pr.op e.d parts out = false) :
    doPressComplete t out s = (u.pressDone t pr.bank pr.op (pr.op == 1 || pr.escal) false e.d e.ctx
      (u.descRec t 3 e clsDeferred cPoisonData) parts out).completeEntry t 3 e := by
  rw [doPressComplete_read hpress hrun hfold hchecked hpause hfault hunits hparts]
  refine if_neg ?_
  rintro ⟨hop, hescal, hfails⟩
  rcases hend with hfull | hescaled | hpasses
  · exact hop hfull
  · exact Bool.noConfusion (hescal.symm.trans hescaled)
  · exact Bool.noConfusion (hpasses.symm.trans hfails)

theorem doPressComplete_escalates (hop : pr.op ≠ 1) (hescal : pr.escal = false)
    (hfails : u.verifyFails t pr.bank pr.op e.d parts out = true) :
    doPressComplete t out s =
      (u.escalate t pr.bank pr.op e.d parts out).modEntry t 3 e.seq (fun e => { e with run := Run.start }) := by
  rw [doPressComplete_read hpress hrun hfold hchecked hpause hfault hunits hparts, if_pos ⟨hop, hescal, hfails⟩]

end

/-- Settles O21: every start is `doPress_starts`, a DELTA and a REFRESH going on with what the read of the present image gives; a completion
is `doPressComplete_done` or `doPressComplete_escalates`. -/
theorem pressesStartAndComplete : Obligations.PressesStartAndComplete := by
  intro s u t e
  refine ⟨fun hturn hfree => ⟨fun hop hchk => ?_, fun hop hchk hu => ?_, fun hop hchk hu => ?_⟩,
    fun pr out done parts hpress hrun hfold hchecked hpause hfault hunits hparts =>
      ⟨fun hend => ?_, fun hop hescal hfails => ?_⟩⟩
  · rw [exec_full, doPress_starts hturn hop hfree hchk, if_pos rfl]
  · have himg := presentImage_delta hop
    rw [exec_delta, doPress_starts hturn hop hfree hchk, if_neg (by decide), ← hu]
    rcases hread : runUnit t (xDigest (tileAgent t 3 e) (pdOld e.d) (pdOldScale e.d) (pdFmt e.d)) u with ⟨_ | _, v⟩
    · rw [State.pressCheck_fault himg hread]
    · rw [State.pressCheck_read himg hread]
  · have himg := presentImage_other (d := e.d) (by omega)
    rw [exec_refresh, doPress_starts hturn hop hfree hchk, if_neg (by decide), ← hu]
    rcases hread : runUnit t (xDigest (tileAgent t 3 e) (pdCode e.d) (pdScale e.d) (pdFmt e.d)) u with ⟨_ | _, v⟩
    · rw [State.pressCheck_fault himg hread]
    · rw [State.pressCheck_read himg hread]
  · rw [exec_pressComplete, doPressComplete_done hpress hrun hfold hchecked hpause hfault hunits hparts hend]
  · rw [exec_pressComplete, doPressComplete_escalates hpress hrun hfold hchecked hpause hfault hunits hparts hop hescal hfails]

/-! ### Refreshes -/

/-- A bank with these figures is to be refreshed: its age or its hot seconds have reached the threshold (R170). -/
def refreshNeeded (age hot : Nat) : Bool := 90000 ≤ age || 9000 ≤ hot

theorem refreshNeeded_iff {age hot : Nat} : refreshNeeded age hot = true ↔ 90000 ≤ age ∨ 9000 ≤ hot := by
  simp [refreshNeeded]

theorem refreshNeeded_below {age hot : Nat} (hage : age < 90000) (hhot : hot < 9000) : refreshNeeded age hot = false := by
  refine Bool.eq_false_iff.2 fun h => ?_
  have := refreshNeeded_iff.1 h
  omega

/-- The MP's figures of a bank are kept, and REFREQ is set where `need` says so. -/
def State.keepFigures (s : State) (t b age hot : Nat) (need : Bool) : State :=
  s.modTile t (fun v => v.modBank b (fun k => { k with age := age, hot := hot, refreq := k.refreq || need }))

section
variable {s : State} {t b : Nat}

/-- The figures of a bank are kept; where they reach a threshold and the ones before had reached none, the event is posted (R170). -/
theorem doRefreshRequest_keeps {age hot : Nat} (ht : t < 1024) (hb : b < 2) (hmp : s.mpRuns = true) : doRefreshRequest t b age hot s =
    if refreshNeeded age hot && !refreshNeeded ((s.tile t).bank b).age ((s.tile t).bank b).hot then
      (s.keepFigures t b age hot (refreshNeeded age hot)).notice t 6 b 0
    else s.keepFigures t b age hot (refreshNeeded age hot) :=
  if_pos (by simp [hmp, ht, hb])

/-- A bank of an image of the running context that is to be refreshed, with a place in queue 3 and no REFRESH of the MP there, gets one
(R399). -/
theorem doIndexRefreshIssue_puts {d : W512} {c : Nat} (ht : t < 1024) (hb : b < 2) (hmp : s.mpRuns = true)
    (hpress : ((s.tile t).bank b).press = some (d, c)) (huse : s.mode.use = true) (hidx : ((s.tile t).bank b).idx = true)
    (hneed : s.periodOver ((s.tile t).bank b) = true ∨ ((s.tile t).bank b).refreq = true)
    (hgoes : ((s.tile t).bank b).refStopped = false) (hctx : s.xl.runCtx = some c) (hmax : s.mpRefreshes < s.mode.maxref)
    (hroom : (s.tile t).full 3 = false) (hnone : ∀ e ∈ (s.tile t).queue 3, e.org = .mp → dField e.d 41 1 ≠ b) :
    doIndexRefreshIssue t b true s =
      { s.enqueue t 3 (refreshDesc b d) .mp c 16 with mp := { s.mp with timeouts := 0 } } := by
  have hfirst : ((s.tile t).queue 3).any (fun e => e.org == .mp && dField e.d 41 1 == b) = false := by
    rw [List.any_eq_false]
    intro e he hmine
    rw [Bool.and_eq_true, beq_iff_eq, beq_iff_eq] at hmine
    exact hnone e he hmine.1 hmine.2
  unfold doIndexRefreshIssue
  dsimp only
  rw [hpress]
  dsimp only
  rw [hfirst, if_pos]
  · rfl
  · simp [hmp, huse, ht, hb, hidx, hneed, hgoes, hctx, hmax, hroom]

end

/-- Settles O35: the three cases of `doRefreshRequest_keeps` by what the new and the kept figures have reached, and
`doIndexRefreshIssue_puts`. -/
theorem refreshesAreAskedAndIssued : Obligations.RefreshesAreAskedAndIssued := by
  intro s t b age hot k ht hb hmp hk
  subst hk
  refine ⟨fun hage hhot => ?_, fun hneed hage hhot => ?_, fun hneed hhad => ?_,
    fun d c hpress huse hidx hneed hgoes hctx hmax hroom hnone => ?_⟩
  · rw [exec_refreshRequest, doRefreshRequest_keeps ht hb hmp, refreshNeeded_below hage hhot]
    rfl
  · rw [exec_refreshRequest, doRefreshRequest_keeps ht hb hmp, refreshNeeded_iff.2 hneed, refreshNeeded_below hage hhot]
    rfl
  · rw [exec_refreshRequest, doRefreshRequest_keeps ht hb hmp, refreshNeeded_iff.2 hneed, refreshNeeded_iff.2 hhad]
    rfl
  · exact ⟨_, (exec_indexRefreshIssue t b true s).trans (congrArg _
      (doIndexRefreshIssue_puts ht hb hmp hpress huse hidx hneed hgoes hctx hmax hroom hnone)), rfl, rfl⟩

/-! ### Copies in flash, shadow compares -/

theorem doSummaryWrite_runs {s : State} (hmp : s.mpRuns = true) : doSummaryWrite s = s.writeSummary false := if_pos hmp

theorem doLedgerWrite_runs {s : State} (hmp : s.mpRuns = true) (hstate : s.mp.state = 2) : doLedgerWrite s = s.writeLedgers false :=
  if_pos (by rw [hmp, hstate]; rfl)

/-- The words and the blocks of a sampled matrix are written, marked poisoned where `mark` says so (R435, R436). -/
def State.writeSample (s : State) (t : Nat) (vat mark : Bool) (ws : List ShWrite) (bs : List FbEnt) : State :=
  bs.foldl (fun u b => u.pushFbq t 0 b) (ws.foldl (fun u x => u.putC t vat { x with poison := x.poison || mark }) s)

/-- The shadow unit holds no sample any more, and counts the one that it had. -/
def State.sampleDone (s : State) (t : Nat) : State :=
  s.modTile t (fun v => { v with shadow := { v.shadow with sample := none, sampled := satAdd 32 v.shadow.sampled 1 } })

section
variable {s : State} {t q seq code : Nat} {n w : List W32} {vat : Bool} {ws : List ShWrite} {bs : List FbEnt}
  (hsample : (s.tile t).shadow.sample = some (.matrix q seq n w code vat ws bs))
include hsample

theorem doShadowCompare_passes (hpass : matrixPasses n w code = true) :
    doShadowCompare t s = (s.writeSample t vat false ws bs).sampleDone t := by
  unfold doShadowCompare
  dsimp only
  rw [hsample]
  dsimp only
  rw [hpass, if_pos rfl]
  rfl

theorem doShadowCompare_fails (hfail : matrixPasses n w code = false) :
    doShadowCompare t s = ((s.writeSample t vat true ws bs).shadowRec t q seq false (matrixError n w)).sampleDone t := by
  unfold doShadowCompare
  dsimp only
  rw [hsample]
  dsimp only
  rw [hfail, if_neg Bool.false_ne_true]
  rfl

end

/-- A word that is marked is poisoned, whatever it was. -/
theorem State.writeSample_marked (s : State) (t : Nat) (vat : Bool) (ws : List ShWrite) (bs : List FbEnt) :
    s.writeSample t vat true ws bs =
      bs.foldl (fun u b => u.pushFbq t 0 b) (ws.foldl (fun u x => u.putC t vat { x with poison := true }) s) := by
  unfold State.writeSample
  simp only [Bool.or_true]

/-! ### Scrubs, and what the stacks report -/

/-- A scrub of a stack passes by the flawed words of the others. -/
theorem doScrubPeriod_stack_clean {s : State} {n : Nat} (hclean : ∀ p ∈ s.dram.syn, stackOf (4 * p.1) ≠ n) :
    doScrubPeriod (.stack n) s = s := by
  have hnone : s.dram.syn.filter (fun p => stackOf (4 * p.1) == n) = [] :=
    List.filter_eq_nil_iff.2 fun p hp heq => hclean p hp (beq_iff_eq.1 heq)
  unfold doScrubPeriod
  dsimp only
  rw [hnone]
  rfl

theorem zipIdx_replicate {α : Type} (n : Nat) (a : α) : (List.replicate n a).zipIdx = (List.range n).map (fun i => (a, i)) :=
  List.ext_getElem (by simp) fun i _ _ => by simp

/-- Equal temperatures of the first `n` stacks, each within the byte that holds it. -/
theorem doStackTempRead_equal {s : State} {n temp : Nat} (hmp : s.mpRuns = true) (hdram : s.rails.dram = true) (htemp : temp < 256) :
    doStackTempRead (List.replicate n temp) s =
      (List.range n).foldl (fun u i => u.modStack i (fun k => { k with temp := BitVec.ofNat 8 temp })) s := by
  have hmin : min temp 255 = temp := by omega
  unfold doStackTempRead
  rw [if_pos (by rw [hmp, hdram]; rfl), zipIdx_replicate, List.foldl_map]
  dsimp only
  rw [hmin]

theorem satAdd_zero {w n : Nat} (h : n < 2 ^ w) : satAdd w 0#w n = BitVec.ofNat w n := by
  simp [satAdd, h]

theorem doEcsRead_one {s : State} {c : Nat} (hdram : s.rails.dram = true) (hc : c < 2 ^ 24) :
    doEcsRead [c] s = s.modStack 0 (fun k => { k with ecs := BitVec.ofNat 24 c }) := by
  rw [← satAdd_zero hc]
  exact if_pos hdram

/-- Settles O33: one rule per command, the poison of a failed sample by `State.writeSample_marked`; a scrub of a scratchpad is its definition,
and does nothing on an empty list of flaws. -/
theorem keepingUpTheRecords : Obligations.KeepingUpTheRecords := by
  intro s t
  refine ⟨fun hmp => ?_, fun hmp hstate => ?_, fun q seq n w code vat ws bs hsample hpass => ?_,
    fun q seq n w code vat ws bs hsample hfail => ?_, rfl, fun hclean => ?_, fun n hclean => ?_,
    fun n temp hmp hdram htemp => ?_, fun c hdram hc => ?_⟩
  · rw [exec_summaryWrite, doSummaryWrite_runs hmp]
  · rw [exec_ledgerWrite, doLedgerWrite_runs hmp hstate]
  · rw [exec_shadowCompare, doShadowCompare_passes hsample hpass]
    rfl
  · rw [exec_shadowCompare, doShadowCompare_fails hsample hfail, State.writeSample_marked]
    rfl
  · rw [exec_scrubPeriod, doScrubPeriod, hclean]
    rfl
  · rw [exec_scrubPeriod, doScrubPeriod_stack_clean hclean]
  · rw [exec_stackTempRead, doStackTempRead_equal hmp hdram htemp]
  · rw [exec_ecsRead, doEcsRead_one hdram hc]

end Sys2Proof.Machine
end

section
/-! The commits of the matrix engine (R199, R219, R220, R249, R435), the steps of a fold (R201–R204), and the faults of descriptors with
their settlement (R276–R278, R335): what each command does, and the three statements of the composition chapter. -/

namespace Sys2Proof.Machine

/-! ### What the commands run -/

theorem exec_matrixTileCommit (t : Nat) (s : State) : exec (.matrixTileCommit t) s = .next (doMatrixTileCommit t s) := rfl
theorem exec_foldarm (t : Nat) (s : State) : exec (.foldarm t) s = .next (doFoldarm t s) := rfl
theorem exec_foldclr (t : Nat) (s : State) : exec (.foldclr t) s = .next (doFoldclr t s) := rfl
theorem exec_tileCommit (t : Nat) (s : State) : exec (.tileCommit t) s = .next (doTileCommit t s) := rfl
theorem exec_foldDeltaStart (t b : Nat) (s : State) : exec (.foldDeltaStart t b) s = .next (doFoldDeltaStart t b s) := rfl
theorem exec_foldDeltaComplete (t : Nat) (out : PressOut) (s : State) :
    exec (.foldDeltaComplete t out) s = .next (doFoldDeltaComplete t out s) := rfl
theorem exec_foldComplete (t b : Nat) (s : State) : exec (.foldComplete t b) s = .next (doFoldComplete t b s) := rfl
theorem exec_translationFault (t q i : Nat) (s : State) : exec (.translationFault t q i) s = .next (doTranslationFault t q i s) := rfl
theorem exec_xlresumeRetry (t q w : Nat) (s : State) : exec (.xlresumeRetry t q w) s = .next (s.xlResume t q w false) := rfl
theorem exec_xlresumeAbort (t q w : Nat) (s : State) : exec (.xlresumeAbort t q w) s = .next (s.xlResume t q w true) := rfl
theorem exec_hostAccessFailed (t q i : Nat) (s : State) : exec (.hostAccessFailed t q i) s = .next (s.hostFails t q i) := rfl
theorem exec_adapterReset (s : State) : exec .adapterReset s = .next (doAdapterReset s) := rfl

/-! ### MATRIX_TILE_COMMIT (R219, R220) -/

/-- What keeps the matrix engine from the next tile of its running descriptor: a pause, a pending fault, a full sub-queue (R249), a sample of an
earlier descriptor (R435), the stop point of a save (R220), or companion work that is ready (R199). -/
def State.commitHeld (s : State) (t : Nat) (e : QEntry) : Bool :=
  s.paused t || ((s.tile t).faultReg 0).pend || (mmFbq e.d && (s.tile t).fbqFull && dOp e.d != 0x24) ||
    (s.tile t).sampleOf 0 e.seq false || (s.saving && e.halt) || (s.compReady t 0).isSome || (s.compReady t 1).isSome

/-- The state `u` once the unit done is entered in the progress record: tiles of C enter themselves, a RESCORE is one unit. -/
def State.unitEntered (u : State) (t : Nat) (e : QEntry) : State :=
  if dOp e.d = 0x24 then u.modEntry t 0 e.seq (fun e => e.modRun (fun r => { r with unit := 1 })) else u

/-- What a commit makes of its unit: a failure is taken; after a success a descriptor whose grid is being stopped ends unsignalled, and under
pre-emption one stands at its stop point (R220). -/
def settleCommit (t : Nat) (e : QEntry) (r : Except XErr Bool × State) : State :=
  match r with
  | (.error x, u) => u.failEntry t 0 e x
  | (.ok _, u) =>
    if (u.unitEntered t e).stopping e then (u.unitEntered t e).removeEntry t 0 e
    else if (u.unitEntered t e).saving then (u.unitEntered t e).haltEntry t 0 e.seq
    else u.unitEntered t e

section
variable {s : State} {t : Nat} {e : QEntry}

theorem State.commitHeld_of_full (hfbq : mmFbq e.d = true) (hfull : (s.tile t).fbqFull = true) (hop : dOp e.d ≠ 0x24) :
    s.commitHeld t e = true := by
  simp [State.commitHeld, hfbq, hfull, hop]

theorem State.commitHeld_of_sample (hsample : (s.tile t).sampleOf 0 e.seq false = true) : s.commitHeld t e = true := by
  simp [State.commitHeld, hsample]

/-- With none of the holds the engine commits. -/
theorem State.not_commitHeld (hpause : s.paused t = false) (hfault : ((s.tile t).faultReg 0).pend = false)
    (hfull : (mmFbq e.d && (s.tile t).fbqFull && dOp e.d != 0x24) = false) (hsample : (s.tile t).sampleOf 0 e.seq false = false)
    (hhalt : (s.saving && e.halt) = false) (hcomp0 : s.compReady t 0 = none) (hcomp1 : s.compReady t 1 = none) :
    s.commitHeld t e = false := by
  unfold State.commitHeld
  rw [hpause, hfault, hfull, hsample, hhalt, hcomp0, hcomp1]
  rfl

variable (hrun : (s.tile t).running 0 = some e)
include hrun

theorem doMatrixTileCommit_held (hheld : s.commitHeld t e = true) : doMatrixTileCommit t s = s := by
  unfold doMatrixTileCommit
  dsimp only
  rw [hrun]
  exact if_pos hheld

/-- The engine does one unit of the running descriptor's work. -/
theorem doMatrixTileCommit_unit {w : X Bool × Nat} (hheld : s.commitHeld t e = false) (hmore : e.run.unit < matrixUnits e.d)
    (hw : s.workOf t 0 e = some w) : doMatrixTileCommit t s = settleCommit t e (runUnit t w.1 s) := by
  obtain rfl := Option.some.inj hw
  unfold doMatrixTileCommit
  dsimp only
  rw [hrun]
  dsimp only
  exact (if_neg (Bool.eq_false_iff.1 hheld)).trans (if_neg (Nat.not_le.2 hmore))

end

/-- Settles O18: `doMatrixTileCommit_unit` with what `settleCommit` makes of the unit, and the two holds of `State.commitHeld` that the
statement names. -/
theorem matrixTilesCommit : Obligations.MatrixTilesCommit := by
  intro s u v t e w last hrun
  refine ⟨fun hpause hfault hfull hsample hhalt hcomp0 hcomp1 hmore hw => ?_, fun hfbq hfull hop => ?_, fun hsample => ?_⟩
  · have hheld := State.not_commitHeld hpause hfault hfull hsample hhalt hcomp0 hcomp1
    have hunit := doMatrixTileCommit_unit hrun hheld hmore hw
    refine ⟨fun hok hv => ?_, fun x herr => ?_⟩
    · have hv : v = u.unitEntered t e := hv
      refine ⟨fun hstop => ?_, fun hstop => ?_⟩
      · rw [exec_matrixTileCommit, hunit, hok, settleCommit, ← hv, hstop, if_neg Bool.false_ne_true]
      · rw [exec_matrixTileCommit, hunit, hok, settleCommit, ← hv, if_pos hstop]
    · rw [exec_matrixTileCommit, hunit, herr, settleCommit]
  · rw [exec_matrixTileCommit, doMatrixTileCommit_held hrun (State.commitHeld_of_full hfbq hfull hop)]
  · rw [exec_matrixTileCommit, doMatrixTileCommit_held hrun (State.commitHeld_of_sample hsample)]

/-! ### FOLDARM and FOLDCLR (R201) -/

/-- A change of a fold alone leaves the queues of the tile. -/
theorem State.queue_modFold {s : State} {t b q : Nat} {e : QEntry} {l : List QEntry} (f : Fold → Fold)
    (h : (s.tile t).queue q = e :: l) : ((s.modFold t b f).tile t).queue q = e :: l :=
  State.queue_modTile_modBank _ h

/-- The head of queue 3 that has just started completes. -/
theorem State.completeNow_started {s : State} {t : Nat} {e : QEntry} {l : List QEntry} (r : Run) (h : (s.tile t).queue 3 = e :: l) :
    (s.started t 3 e r).completeNow t (dOp e.d) = (s.started t 3 e r).completeEntry t 3 e := by
  unfold State.completeNow
  rw [State.running_started r (by decide) h]
  exact (if_pos rfl).trans (State.completeEntry_run _ t 3 e .running r)

/-- The fold that a FOLDARM arms. -/
def armedFold (e : QEntry) : Fold :=
  { Fold.reset with
    armed := true, slot := dField e.d 49 1, k := BitVec.ofNat 16 (faK e.d), phase := BitVec.ofNat 16 (dField e.d 52 2)
    masterA := BitVec.ofNat 64 (dField e.d 16 8), masterB := BitVec.ofNat 64 (dField e.d 24 8)
    codeAddr := BitVec.ofNat 64 (dField e.d 32 8), scaleAddr := BitVec.ofNat 64 (dField e.d 40 8)
    rmode := dField e.d 54 1, ctr := dField e.d 56 2, stride := BitVec.ofNat 32 (faStride e.d), ctx := e.ctx }

section
variable {s : State} {t : Nat} {e : QEntry} (hturn : s.turn t 3 e) (hidle : (s.tile t).prsIdle = true)
include hturn hidle

theorem doFoldarm_ok (hop : dOp e.d = 4) (hchk : foldarmChk (s.useOf e.mepoch) (s.tile t) e.d = .ok ()) : doFoldarm t s =
    ((s.modFold t (dField e.d 48 1) (fun _ => armedFold e)).started t 3 e Run.start).completeEntry t 3 e := by
  obtain ⟨l, hhead⟩ := State.turn_head hturn (by decide)
  rw [← State.completeNow_started Run.start (State.queue_modFold _ hhead), hop]
  refine congrArg (State.completeNow · t 4) (State.startDesc_go hturn hop hidle ?_)
  dsimp only
  rw [hchk]
  rfl

theorem doFoldclr_ok (hop : dOp e.d = 5) (hchk : foldclrChk e.d = .ok ()) : doFoldclr t s =
    ((s.modFold t (dField e.d 48 1) (fun f => { f with armed := false })).started t 3 e Run.start).completeEntry t 3 e := by
  obtain ⟨l, hhead⟩ := State.turn_head hturn (by decide)
  rw [← State.completeNow_started Run.start (State.queue_modFold _ hhead), hop]
  refine congrArg (State.completeNow · t 5) (State.startDesc_go hturn hop hidle ?_)
  rw [hchk]

end

/-! ### The steps of a fold (R202–R204) -/

/-- The fold of bank `b` begins where the commit of epoch `ep` makes it due. -/
def State.beginDue (s : State) (t : Nat) (ep : W64) (b : Nat) : State :=
  if ((s.tile t).bank b).fold.dueAt ep then s.beginFold t b ep else s

/-- A commit that no running fold holds back begins the due folds, bank 0 first. -/
theorem doTileCommit_begins {s : State} {t : Nat} {ep : W64} {l : List W64} (hcommit : (s.tile t).commits = ep :: l)
    (hrun0 : ((s.tile t).bank 0).fold.run = false) (hrun1 : ((s.tile t).bank 1).fold.run = false) : doTileCommit t s =
      ((((s.modTile t (fun v => { v with commits := l })).markSaved t ep).beginDue t ep 0).beginDue t ep 1) := by
  unfold doTileCommit
  dsimp only
  rw [hcommit]
  dsimp only
  rw [hrun0, hrun1]
  rfl

/-- The DELTA of a fold may start: its quantisation is done, neither a press nor a READ has the bank, bank 0's fold is not before it, its writes
are acknowledged, and nothing pauses it or keeps it from the power budget (R151, R202). -/
structure State.DeltaFree (s : State) (t b : Nat) : Prop where
  bank : b < 2
  run : ((s.tile t).bank b).fold.run = true
  stage : ((s.tile t).bank b).fold.stage = .quantised
  idle : (s.tile t).prs.running = none
  unread : (s.tile t).reading b = false
  first : b = 0 ∨ ((s.tile t).bank 0).fold.run = false
  paid : s.owes t 7 (foldId t b) = false
  unpaused : s.paused t = false
  budget : s.overBudget true = false

/-- What a fold makes of the digest of its bank's present image: the DELTA presses where it agrees, and else, or where the image cannot be read,
the fold fails at step 2 (R158, R204). -/
def settleFoldDigest (t b : Nat) (digest : List Byte) (r : Except XErr (List Byte) × State) : State :=
  match r with
  | (.error .wait, u) => u
  | (.error x, u) => u.foldFail t b 2 (foldWhy x).1 (foldWhy x).2
  | (.ok h, u) =>
    if h = digest then
      ((u.foldNext t b).modPrs t (fun p => { p with running := some (PrsRun.start b 2 true true) })).modFold t b
        (fun f => { f with stage := .pressing })
    else u.foldFail t b 2 0 0

theorem doFoldDeltaStart_free {s : State} {t b : Nat} {d : W512} (h : s.DeltaFree t b) (hd : d = foldDesc b ((s.tile t).bank b)) :
    doFoldDeltaStart t b s = settleFoldDigest t b ((s.tile t).bank b).digest
      (runUnit t (xDigest (foldAgent t b ((s.tile t).bank b).fold) (pdOld d) (pdOldScale d) (pdFmt d)) s) := by
  have hquantised : ¬ (b < 2 ∧ ((s.tile t).bank b).fold.run = true ∧ ((s.tile t).bank b).fold.stage = .idle ∧ s.paused t = false) := by
    rintro ⟨-, -, hidle, -⟩
    rw [h.stage] at hidle
    cases hidle
  unfold doFoldDeltaStart
  dsimp only
  rw [if_neg hquantised, if_pos ⟨h.bank, h.run, h.stage, h.idle, h.unread, h.first, h.paid, h.unpaused, h.budget⟩, ← hd]
  rcases runUnit t (xDigest (foldAgent t b ((s.tile t).bank b).fold) (pdOld d) (pdOldScale d) (pdFmt d)) s with ⟨x | h, v⟩
  · cases x <;> rfl
  · rfl

/-- The DELTA of a fold that has read its whole image `parts` is done where it is a FULL already or verify finds no failure: the generation
rises, the slot flips and the rank is 0 (R202). -/
theorem doFoldDeltaComplete_done {s u : State} {t : Nat} {pr : PrsRun} {out : PressOut} {k : Bank} {done : Bool} {parts : List Part}
    (hpress : (s.tile t).prs.running = some pr) (hfold : pr.fold = true) (hpause : s.paused t = false)
    (hk : (s.tile t).bank pr.bank = k)
    (hunits : runUnits t (pressUnit (foldAgent t pr.bank k.fold)) 1026 s = (.ok done, u))
    (hparts : parts = (u.foldRun t pr.bank).snap)
    (hend : pr.escal = true ∨ u.verifyFails t pr.bank 2 (foldDesc pr.bank k) parts out = false) :
    doFoldDeltaComplete t out s = ((u.pressDone t pr.bank 2 pr.escal true (foldDesc pr.bank k) k.fold.ctx
      { mkRec clsDeferred cPoisonData t with ctx := some k.fold.ctx } parts out).foldNext t pr.bank).modTile t
        (fun v => v.modBank pr.bank (fun k => { k with
          fgen := k.fgen + 1, fold := { k.fold with stage := .pressed, formerB := k.corr, slot := 1 - k.fold.slot }
          corr := { k.corr with rank := 0 } })) := by
  have hpass : ¬ (pr.escal = false ∧ u.verifyFails t pr.bank 2 (foldDesc pr.bank k) parts out = true) := by
    rintro ⟨hescal, hfails⟩
    rcases hend with hescaled | hpasses
    · exact Bool.noConfusion (hescal.symm.trans hescaled)
    · exact Bool.noConfusion (hpasses.symm.trans hfails)
  subst hk hparts
  unfold doFoldDeltaComplete
  rw [hpress]
  dsimp only
  rw [hfold, hpause, Bool.not_true, Bool.or_false, if_neg Bool.false_ne_true, hunits]
  exact if_neg hpass

/-- A fold whose former B factor is zeroed, with every write acknowledged, ends and signals FOLD_CTR. -/
theorem doFoldComplete_zeroed {s u : State} {t b n : Nat} {f : Fold} {done : Bool} (hb : b < 2) (hf : ((s.tile t).bank b).fold = f)
    (hrun : f.run = true) (hstage : f.stage = .pressed) (hn : n = f.formerB.rank * ((s.tile t).bank b).cols / 2)
    (hunits : runUnits t (foldZero { foldAgent t b f with ctx := f.formerB.ctx } f.formerB.b.toNat n) (n / 16 + 2) s = (.ok done, u))
    (hpaid : u.owes t 7 (foldId t b) = false) (hpause : s.paused t = false) : doFoldComplete t b s =
      ((u.modFold t b (fun f => { f with run := false, stage := .idle })).sideEnd (foldId t b)).sendEvt f.ctr 1#32 (.fold t b) := by
  subst hf hn
  unfold doFoldComplete
  dsimp only
  rw [if_pos ⟨hb, hrun, hstage, hpause⟩, hunits]
  exact if_neg (Bool.eq_false_iff.1 hpaid)

/-- Settles O22: each clause is the rule of its command; the DELTA's start goes on with what the read of the present image gives. -/
theorem foldsRunTheirSteps : Obligations.FoldsRunTheirSteps := by
  intro s u t b e
  refine ⟨fun hturn hop hidle hchk hb hu => ?_, fun hturn hop hidle hchk hu => ?_, fun ep l w hcommit hrun0 hrun1 hu hw => ?_,
    fun d hb hrun hstage hpress hread hfirst hpaid hbudget hpause hd => ?_,
    fun pr out k done parts hpress hfold hpause hk hunits hparts hend => ?_,
    fun f n done hb hf hrun hstage hn hunits hpaid hpause => ?_⟩
  · have hu : u = s.modFold t (dField e.d 48 1) (fun _ => armedFold e) := hb ▸ hu
    rw [exec_foldarm, doFoldarm_ok hturn hidle hop hchk, hu]
  · rw [exec_foldclr, doFoldclr_ok hturn hidle hop hchk, hu]
  · have hw : w = u.beginDue t ep 0 := hw
    rw [exec_tileCommit, doTileCommit_begins hcommit hrun0 hrun1, ← hu, ← hw]
    rfl
  · rw [exec_foldDeltaStart, doFoldDeltaStart_free ⟨hb, hrun, hstage, hpress, hread, hfirst, hpaid, hpause, hbudget⟩ hd]
    rcases runUnit t (xDigest (foldAgent t b ((s.tile t).bank b).fold) (pdOld d) (pdOldScale d) (pdFmt d)) s with ⟨x | h, v⟩
    · cases x <;> rfl
    · rfl
  · rw [exec_foldDeltaComplete, doFoldDeltaComplete_done hpress hfold hpause hk hunits hparts hend]
  · rw [exec_foldComplete, doFoldComplete_zeroed hb hf hrun hstage hn hunits hpaid hpause]

/-! ### Faults are taken (R190, R276, R335) -/

/-- What a strand's descriptor does when it takes a fault. -/
theorem State.takeFault_strand (s : State) {t q k : Nat} {e : QEntry} (reason access addr : Nat) (horg : e.org = .strand k) :
    s.takeFault t q e reason access addr = (((({ s with xl := { s.xl with faultSeq := s.xl.faultSeq + 1 } } : State).modTile t
      (fun v => { v with faults := v.faults.set q ⟨true, BitVec.ofNat 64 addr, reason, access, e.ctx, s.xl.faultSeq, e.seq⟩ })).parkStrand
        t k).post (some e.ctx) 0x02
      (leBytes 2 (8 * t + q) ++ leBytes 1 reason ++ leBytes 1 access ++ leBytes 4 e.ctx ++ leBytes 4 s.xl.faultSeq.toNat ++
        leBytes 4 0 ++ leBytes 8 addr)) := by
  unfold State.takeFault
  rw [horg]

/-- A fault is taken where its queue has none pending. -/
theorem State.failEntry_fault {s : State} {t q : Nat} (e : QEntry) (r a ad : Nat) (h : ((s.tile t).faultReg q).pend = false) :
    s.failEntry t q e (.fault r a ad) = s.takeFault t q e r a ad :=
  if_neg (Bool.eq_false_iff.1 h)

theorem doTranslationFault_ahead {s u : State} {t q i r a ad : Nat} {e : QEntry}
    (hahead : s.faultAhead t q i = some (e, .fault r a ad, u)) (hpend : (((u.rewindBank t q).tile t).faultReg q).pend = false) :
    doTranslationFault t q i s = (u.rewindBank t q).takeFault t q e r a ad := by
  unfold doTranslationFault
  rw [hahead]
  exact State.failEntry_fault e r a ad hpend

/-- Only the queues of the arrays go back. -/
theorem State.rewindBank_other (u : State) {t q : Nat} (h1 : q ≠ 1) (h2 : q ≠ 2) : u.rewindBank t q = u :=
  if_neg (not_or.2 ⟨h1, h2⟩)

/-- A bank goes back to its first vector that is not written (R190). -/
theorem State.rewindBank_pend {u : State} {t b : Nat} {pv : PendVec} {l : List PendVec} (hb : b < 2)
    (hpend : ((u.tile t).bank b).run.pend = pv :: l) : u.rewindBank t (b + 1) =
      u.modARun t b (fun r => { r with vec := pv.vec, pend := [], divs := r.divs.filter (·.vec < pv.vec) }) := by
  have hq : b + 1 = 1 ∨ b + 1 = 2 := by omega
  unfold State.rewindBank State.rewindPend
  rw [if_pos hq, Nat.add_sub_cancel, hpend]
  rfl

/-! ### Failed host accesses (R335) -/

section
variable {s : State} {t q i : Nat}

theorem State.hostFails_side : s.hostFails t 7 i = s.armFail (sideTile t i) 7 i := if_pos rfl

variable {o : QEntry} (hq : q ≠ 7) (ho : ((s.tile t).queue q)[i]? = some o)
include hq ho

/-- A head that is about to start meets the failure at its start. -/
theorem State.hostFails_waiting (hph : o.ph = .waiting) (hnext : ((s.tile t).next q).any (fun x => x.1 == i) = true) :
    s.hostFails t q i = s.armFail t q o.seq := by
  unfold State.hostFails
  rw [if_neg hq, ho]
  exact (if_pos hph).trans (if_pos hnext)

/-- A running descriptor takes it where it stands. -/
theorem State.hostFails_running {u : State} {e : QEntry} {a ad : Nat} (hph : o.ph ≠ .waiting)
    (hahead : (s.armFail t q o.seq).faultAhead t q i = some (e, .fault 8 a ad, u))
    (hpend : (((u.rewindBank t q).tile t).faultReg q).pend = false) :
    s.hostFails t q i = (u.rewindBank t q).takeFault t q e 8 a ad := by
  unfold State.hostFails
  rw [if_neg hq, ho]
  dsimp only
  rw [if_neg hph, hahead]
  exact State.failEntry_fault e 8 a ad hpend

end

/-- The running descriptors of one tile meet the failures of an adapter reset, queue by queue. -/
def State.resetTile (u : State) (t : Nat) : State :=
  (List.range 7).foldl (fun u q =>
    ((u.tile t).queue q).zipIdx.foldl (fun u o => if o.1.ph = .waiting then u else u.hostFails t q o.2) u) u

/-- The work outside the queues meets them. -/
def State.resetSide (u : State) : State := u.side.foldl (fun u o => u.hostFails (o.seq / 2) 7 o.seq) u

theorem doAdapterReset_eq (s : State) : doAdapterReset s = (s.tiles.foldl (fun u p => u.resetTile p.1) s).resetSide := rfl

/-- Steps that each leave the state as it is. -/
theorem State.foldl_unchanged {α : Type} {s : State} {f : State → α → State} {l : List α} (h : ∀ a ∈ l, f s a = s) : l.foldl f s = s :=
  List.foldlRecOn (motive := fun u => u = s) l f rfl fun _ hu a ha => hu ▸ h a ha

theorem State.resetTile_empty {u : State} {t : Nat} (h : ∀ q, (u.tile t).queue q = []) : u.resetTile t = u :=
  State.foldl_unchanged fun q _ => by rw [h q]; rfl

theorem State.resetSide_none {u : State} (h : u.side = []) : u.resetSide = u := by
  unfold State.resetSide
  rw [h]
  rfl

/-- With every queue empty and no work outside the queues an adapter reset changes nothing. -/
theorem doAdapterReset_idle {s : State} (hqueues : ∀ p ∈ s.tiles, ∀ q, (s.tile p.1).queue q = []) (hside : s.side = []) :
    doAdapterReset s = s := by
  have htiles : s.tiles.foldl (fun u p => u.resetTile p.1) s = s :=
    State.foldl_unchanged fun p hp => State.resetTile_empty (hqueues p hp)
  rw [doAdapterReset_eq, htiles, State.resetSide_none hside]

/-! ### Settlement (R277) -/

theorem memReg_xlresume : memReg 0x1088 = 0x20000001088 := rfl

/-- With no fault pending the write of XLRESUME is refused. -/
theorem State.xlResume_none {s : State} {t q w : Nat} (abort : Bool) (hpend : ((s.tile t).faultReg q).pend = false) :
    s.xlResume t q w abort = s.csrAcc w 0x20000001088 := by
  unfold State.xlResume
  dsimp only
  rw [hpend, Bool.and_false, if_neg Bool.false_ne_true, memReg_xlresume]

/-- A pending fault is cleared, and its descriptor is aborted with a record or its strand goes on. -/
theorem State.xlResume_pending {s : State} {t q w : Nat} {e : QEntry} (abort : Bool) (ht : t < 1024)
    (hpend : ((s.tile t).faultReg q).pend = true) (he : s.entry t q ((s.tile t).faultReg q).entry = some e)
    (hstop : s.stopping e = false) : s.xlResume t q w abort =
      if abort then (((s.clearFault t q).detect { (s.clearFault t q).descRec t q e clsContained cXlAbort with
        info0 := BitVec.ofNat 64 ((s.tile t).faultReg q).reason, addr := ((s.tile t).faultReg q).addr }).endIssuer t e).abandonEntry t q e
      else (s.clearFault t q).unparkFor t e := by
  have hstop : (s.clearFault t q).stopping e = false := hstop
  unfold State.xlResume
  dsimp only
  rw [hpend, decide_eq_true ht, Bool.and_true, if_pos rfl, he]
  dsimp only
  rw [hstop, if_neg Bool.false_ne_true]

/-- Settles O25: a fault by the rules of `State.faultAhead` and `State.hostFails`, its settlement by the two ways of `State.xlResume`, and the
adapter's reset by `doAdapterReset_eq`. -/
theorem translationFaultsAreTakenAndSettled : Obligations.TranslationFaultsAreTakenAndSettled := by
  refine ⟨fun s u v t q i w e => ?_, fun s => ⟨fun u hu => ?_, fun hqueues hside => ?_⟩⟩
  · refine ⟨fun k reason access addr horg => s.takeFault_strand reason access addr horg, fun r a ad hahead hv hpend => ?_,
      fun h1 h2 => u.rewindBank_other h1 h2, fun b pv l hb hpend => State.rewindBank_pend hb hpend,
      fun o a ad hq ho => ⟨fun hph hahead hv hpend => ?_, fun hph hnext => ?_⟩, fun hq => ?_,
      fun ht hpend he hstop => ⟨?_, ?_⟩, fun hpend => ⟨?_, ?_⟩⟩
    · subst hv
      rw [exec_translationFault, doTranslationFault_ahead hahead hpend]
    · subst hv
      rw [exec_hostAccessFailed, State.hostFails_running hq ho hph hahead hpend]
    · rw [exec_hostAccessFailed, State.hostFails_waiting hq ho hph hnext]
    · rw [exec_hostAccessFailed, hq, State.hostFails_side]
    · rw [exec_xlresumeRetry, State.xlResume_pending false ht hpend he hstop, if_neg Bool.false_ne_true]
    · rw [exec_xlresumeAbort, State.xlResume_pending true ht hpend he hstop, if_pos rfl]
    · rw [exec_xlresumeRetry, State.xlResume_none false hpend]
    · rw [exec_xlresumeAbort, State.xlResume_none true hpend]
  · have hu : u = s.tiles.foldl (fun u p => u.resetTile p.1) s := hu
    rw [exec_adapterReset, doAdapterReset_eq, ← hu]
    rfl
  · rw [exec_adapterReset, doAdapterReset_idle hqueues hside]

end Sys2Proof.Machine
end

section
/-! What a matrix descriptor has passed when it starts (R215–R217): the rule of checks made one after another, what the checks of the
matrix engine let through, and everything that a start of it can go on with. -/

namespace Sys2Proof.Machine

/-! ### Checks in a row (R70) -/

theorem chk_eq_ok {ok : Bool} {off val : Nat} : chk ok off val = .ok () ↔ ok = true := by
  cases ok <;> simp [chk]

/-- Checks in a row let a descriptor through where the first does and those after it do. -/
theorem Chk.bind_eq_ok {c : Chk Unit} {k : Unit → Chk Unit} : (c >>= k) = .ok () ↔ c = .ok () ∧ k () = .ok () := by
  cases c with
  | error x => simp [bind, Except.bind]
  | ok _ => simp [bind, Except.bind]

/-! ### The checks of the matrix engine (R215, R217) -/

section
variable {op : Nat} {d : W512} {l : List Byte}

/-- C_OFS, M and N of a descriptor that passes, and K where it is not a VATZERO, which ignores K. -/
theorem mmChk_ranges (h : mmChk op d l = .ok ()) :
    dField d 32 4 % 64 = 0 ∧ 1 ≤ mmM d ∧ (32 ≤ mmN d ∧ mmN d ≤ 16384 ∧ mmN d % 32 = 0) ∧
      (op ≠ 0x23 → 32 ≤ mmK d ∧ mmK d ≤ 16777216 ∧ mmK d % 32 = 0) := by
  unfold mmChk at h
  obtain ⟨-, h⟩ := Chk.bind_eq_ok.1 h
  obtain ⟨-, h⟩ := Chk.bind_eq_ok.1 h
  obtain ⟨hofs, h⟩ := Chk.bind_eq_ok.1 h
  obtain ⟨hm, h⟩ := Chk.bind_eq_ok.1 h
  obtain ⟨hn, h⟩ := Chk.bind_eq_ok.1 h
  refine ⟨by simpa [chk_eq_ok] using hofs, by simpa [chk_eq_ok] using hm, by simpa [chk_eq_ok, and_assoc] using hn, fun hop => ?_⟩
  rw [if_pos (by simpa using hop)] at h
  obtain ⟨hk, -⟩ := Chk.bind_eq_ok.1 h
  simpa [chk_eq_ok, and_assoc] using hk

/-- Where C of a descriptor that passes ends: inside the vat for MMVAT and VATZERO, else inside the scratchpad. -/
theorem mmEnds_last (h : mmEnds op d l = .ok ()) :
    mmC d (prodOf l) + (mmM d - 1) * (prodOf l).ldc + (if mmBf d then 2 else 4) * mmN d ≤
      (if op = 0x22 ∨ op = 0x23 then 0x200000 else 0x300000) := by
  unfold mmEnds at h
  by_cases hvat : op = 0x22 ∨ op = 0x23
  · rw [if_pos hvat] at h ⊢
    obtain ⟨hlast, -⟩ := Chk.bind_eq_ok.1 h
    exact of_decide_eq_true (chk_eq_ok.1 hlast)
  · rw [if_neg hvat] at h ⊢
    obtain ⟨hlast, -⟩ := Chk.bind_eq_ok.1 h
    exact of_decide_eq_true (chk_eq_ok.1 hlast)

end

/-! ### The start (R215–R217) -/

/-- A matrix descriptor that starts, starts at its first unit: its record lies on 64 bytes of the scratchpad, was read once, and passed
the checks. -/
theorem mmStart_go {t op : Nat} {e : QEntry} {s u : State} {r : Run} (h : mmStart t op e s = .go r u) :
    dField e.d 36 4 % 64 = 0 ∧ dField e.d 36 4 + 64 ≤ 0x300000 ∧
      ∃ l, r.snap = [l] ∧ r.unit = 0 ∧ mmChk op e.d l = .ok () ∧ mmEnds op e.d l = .ok () := by
  unfold mmStart at h
  dsimp only at h
  split at h
  case isTrue => cases h
  case isFalse hofs =>
    split at h
    case isTrue => cases h
    case isFalse =>
      split at h
      case h_1 => cases h
      case h_2 hchk =>
        obtain ⟨hfields, hends⟩ := Chk.bind_eq_ok.1 hchk
        cases h
        exact ⟨by omega, by omega, _, rfl, rfl, hfields, hends⟩

/-- Settles O17: a start has passed the checks of `mmStart_go`, on the record that it keeps. -/
theorem startedProductsAreInRange : Obligations.StartedProductsAreInRange := by
  intro s u t op e r hgo
  obtain ⟨hrec, hrecEnd, l, hsnap, hunit, hfields, hends⟩ := mmStart_go hgo
  obtain ⟨hofs, hm, ⟨hnMin, hnMax, hnMul⟩, hk⟩ := mmChk_ranges hfields
  have hlast := mmEnds_last hends
  rw [hsnap]
  exact ⟨hm, hnMin, hnMax, hnMul, hk, hofs, hrec, hrecEnd, hlast, rfl, hunit⟩

end Sys2Proof.Machine
end

section
/-! Packets of collectives at the device that they reach (R285, R344, R354, R356, R357): arms, contributions and group writes. -/

namespace Sys2Proof.Machine

/-! ### What the commands run -/

theorem exec_collarm (p i : Nat) (s : State) : exec (.collarm p i) s = .next (doCollarm p i s) := rfl
theorem exec_rsgrp (p i : Nat) (s : State) : exec (.rsgrp p i) s = .next (doRsgrp p i s) := rfl
theorem exec_grpwr (p i : Nat) (s : State) : exec (.grpwr p i) s = .next (doGrpwr p i s) := rfl
theorem exec_collarmTimeout (id : Nat) (s : State) : exec (.collarmTimeout id) s = .next (doCollarmTimeout id s) := rfl

/-! ### Arms (R285, R354) -/

section
variable {s : State} {p i : Nat} {k : Packet} (hk : s.packetAt p i = some k) (hloc : k.hop = .loc) (hopc : k.opc = 0x14)
include hk hloc hopc

theorem doCollarm_saved (hfate : (s.dropRcvd p i k).ctxFate k.ctx = .saved) :
    doCollarm p i s = (s.dropRcvd p i k).discard p k := by
  unfold doCollarm
  rw [State.onPacket_own hk hloc _ hopc rfl, hfate]

/-- An arm whose context is not saved, running or not, goes by the collective that it names. -/
theorem doCollarm_unsaved (hfate : (s.dropRcvd p i k).ctxFate k.ctx ≠ .saved) : doCollarm p i s =
    match (s.dropRcvd p i k).coll (pkId k) with
    | some c => (s.dropRcvd p i k).modColl c.id (fun c => { c with armed := (c.armed ++ [pkRank k]).eraseDups })
    | none => { s.dropRcvd p i k with
        dsp := { (s.dropRcvd p i k).dsp with arms := (s.dropRcvd p i k).dsp.arms ++ [(pkId k, pkRank k)] } } := by
  unfold doCollarm
  rw [State.onPacket_own hk hloc _ hopc rfl]
  cases h : (s.dropRcvd p i k).ctxFate k.ctx with
  | saved => exact absurd h hfate
  | runs => rfl
  | none => rfl

end

/-- The collective fails at the first of its members that has not armed. -/
theorem doCollarmTimeout_fails {s : State} {id r : Nat} {c : Coll} (hc : s.coll id = some c)
    (hr : (List.range c.members.length).find? (fun r => !c.armed.contains r) = some r) : doCollarmTimeout id s =
      s.failRemote ⟨65536, (c.members[r]?).getD 0, 0x14, c.tile, 6, c.seq, none, 0, 0, c.ctx, noPage,
        .away ((c.members[r]?).getD 0) 0⟩ 0xFF := by
  unfold doCollarmTimeout
  rw [hc]
  dsimp only
  rw [hr]

/-! ### The way of a group packet (R328, R344) -/

/-- What both rows of group packets do before they look at the collective: a malformed packet is refused, and else its context decides;
`f` is what becomes of one whose context runs. `doRsgrp_way` and `doGrpwr_way` tie it to the rows. -/
def State.groupWay (u : State) (p : Nat) (k : Packet) (f : State) : State :=
  if !groupOk k then u.nakBack p k 19
  else
    match u.ctxFate k.ctx with
    | .saved => u.discard p k
    | .none => u.nakBack p k 17
    | .runs => f

section
variable {u : State} {p : Nat} {k : Packet} (f : State)

theorem State.groupWay_malformed (hbad : groupOk k = false) : u.groupWay p k f = u.nakBack p k 19 := by
  unfold State.groupWay
  rw [hbad]
  rfl

theorem State.groupWay_saved (hgood : groupOk k = true) (hfate : u.ctxFate k.ctx = .saved) :
    u.groupWay p k f = u.discard p k := by
  unfold State.groupWay
  rw [hgood, hfate]
  rfl

theorem State.groupWay_runs (hgood : groupOk k = true) (hfate : u.ctxFate k.ctx = .runs) : u.groupWay p k f = f := by
  unfold State.groupWay
  rw [hgood, hfate]
  rfl

end

/-! ### Contributions and group writes (R344, R346, R356, R357) -/

section
variable {s : State} {p i : Nat} {k : Packet} (hk : s.packetAt p i = some k) (hloc : k.hop = .loc)
include hk hloc

/-- A contribution to a running context is refused where no collective has its id; one to a reduce-scatter without ORDER is added at
once, whatever its rank, so nothing is staged or drained. -/
theorem doRsgrp_way (hopc : k.opc = 0x10) : ∃ f, doRsgrp p i s = (s.dropRcvd p i k).groupWay p k f ∧
    ((s.dropRcvd p i k).coll (pkId k) = none → f = (s.dropRcvd p i k).nakBack p k 22) ∧
    ∀ (c : Coll) (dst : List Loc) (v w : State) (old new sum : List (W32 × Bool)) (cnt0 cnt : List (Nat × Nat)) (q turn : Nat),
      (s.dropRcvd p i k).coll (pkId k) = some c → coScat c.d = true → coOrder c.d = false →
      (s.dropRcvd p i k).placeLines p k.ctx k.addr 1 64 = (.ok dst, v) → v.readLines k.ctx dst = (old, w) →
      decodeGroup k = (new, cnt0) → q = (k.addr + 2 ^ 64 - coDst c.d) % 2 ^ 64 / 4096 → turn = smGet 0 c.turn q →
      addGroup (if turn = 0 && !coAcc c.d then List.replicate 1024 (0#32, false) else old) new = (sum, cnt) →
      f = ((((w.countPartial dst 64).writeLines (uPort p) dst sum).dspCount
          ((2, if k.fmt ≤ 1 then (new.filter (fun w => nonFin w.1)).length else 0) :: cnt0 ++ cnt)).modColl c.id
        (fun c => { c with turn := smSet 0 c.turn q (turn + 1), applied := c.applied + 1 })).ackGroup p k 0x11 (coRank c.d) := by
  unfold doRsgrp
  rw [State.onPacket_own hk hloc _ hopc rfl]
  refine ⟨_, rfl, fun hnone => ?_, ?_⟩
  · rw [hnone]
  · rintro c dst v w old new sum cnt0 cnt _ _ hc hscat horder hplace hread hdecode rfl rfl hadd
    rw [hc]
    dsimp -zeta only
    rw [hscat, if_neg (by decide), hplace]
    dsimp -zeta only
    rw [hdecode, horder]
    -- the branch that stages goes while its bindings still stand: written out it is too large for the kernel
    simp -zeta only [Bool.false_and, Bool.false_eq_true, ↓reduceIte]
    rw [hread]
    dsimp only
    rw [hadd]

/-- A group write to a running context is refused where its id is a collective's, not 0, and none runs; a dispatch's, in another format
than its DFMT of FP32, is written as it decodes, with each NaN and infinity as the canonical NaN, and moves no collective. -/
theorem doGrpwr_way (hopc : k.opc = 0x12) : ∃ f, doGrpwr p i s = (s.dropRcvd p i k).groupWay p k f ∧
    (pkId k ≠ 0 → (s.dropRcvd p i k).coll (pkId k) = none → f = (s.dropRcvd p i k).nakBack p k 22) ∧
    ∀ (dst : List Loc) (v : State) (es new : List (W32 × Bool)) (cnt0 : List (Nat × Nat)),
      pkId k = 0 → k.fmt ≠ 0 → pkDfmt k = 0 → (s.dropRcvd p i k).placeLines p k.ctx k.addr 1 64 = (.ok dst, v) →
      decodeGroup k = (es, cnt0) → new = es.map (fun w => (if nonFin w.1 then nan32 else w.1, w.2)) →
      f = (((v.countPartial dst 64).writeLines (uPort p) dst new).dspCount
        ([(0, 0), (1, (new.filter (fun w => nonFin w.1)).length)] ++ cnt0)).ackGroup p k 0x13
          ((((s.dropRcvd p i k).coll (pkId k)).map (fun c => coRank c.d)).getD 0) := by
  unfold doGrpwr
  rw [State.onPacket_own hk hloc _ hopc rfl]
  refine ⟨_, rfl, fun hid hnone => ?_, ?_⟩
  · rw [hnone]
    exact if_pos (by simpa using hid)
  · rintro dst v es _ cnt0 hid hfmt hdfmt hplace hdecode rfl
    have hhalf : (pkDfmt k == 1) = false := by rw [hdfmt]; rfl
    have hsame : (k.fmt == 0x00) = false := beq_eq_false_iff_ne.2 hfmt
    rw [if_neg (by simp [hid]), hhalf]
    dsimp only
    rw [if_neg Bool.false_ne_true, hplace]
    dsimp only
    rw [hdecode, hsame, if_pos hid]
    simp only [Bool.false_and, Bool.and_false, Bool.or_false, if_neg Bool.false_ne_true]

end

/-- Settles O55: an arm goes by its context and its collective, a group packet by the way that both rows share, and a time-out fails the
collective at its first missing member. The bits of `State.countPartial` are the model's choice (DESIGN CHOICE, log 58). -/
theorem collectivePacketsAreServed : Obligations.CollectivePacketsAreServed := by
  rintro s _ p i k c hk hloc rfl
  refine ⟨fun hopc => ⟨fun hfate => ?_, fun hfate hc => ?_, fun hfate hnone => ?_⟩, fun hopc => ?_, fun hopc => ?_,
    fun id r hc hr => ?_⟩
  · rw [exec_collarm, doCollarm_saved hk hloc hopc hfate]
  · rw [exec_collarm, doCollarm_unsaved hk hloc hopc hfate, hc]
  · rw [exec_collarm, doCollarm_unsaved hk hloc hopc hfate, hnone]
  · obtain ⟨f, hdo, hrefused, hadded⟩ := doRsgrp_way hk hloc hopc
    rw [exec_rsgrp, hdo]
    refine ⟨fun hbad => ?_, fun hgood hfate => ?_, fun hgood hfate hnone => ?_, ?_⟩
    · rw [State.groupWay_malformed f hbad]
    · rw [State.groupWay_saved f hgood hfate]
    · rw [State.groupWay_runs f hgood hfate, hrefused hnone]
    · rintro dst v old w new cnt0 sum cnt _ hgood hc hscat horder hruns hplace hread hdecode rfl q turn hadd
      rw [State.groupWay_runs f hgood hruns, hadded c dst v w old new sum cnt0 cnt q turn hc hscat horder hplace hread hdecode rfl rfl hadd]
  · obtain ⟨f, hdo, hrefused, hwritten⟩ := doGrpwr_way hk hloc hopc
    rw [exec_grpwr, hdo]
    refine ⟨fun hbad => ?_, fun hgood hfate => ?_, fun hgood hfate hid hnone => ?_, ?_⟩
    · rw [State.groupWay_malformed f hbad]
    · rw [State.groupWay_saved f hgood hfate]
    · rw [State.groupWay_runs f hgood hfate, hrefused hid hnone]
    · rintro dst v es new cnt0 _ hgood hid hfmt hdfmt hruns hplace hdecode hnew rfl
      rw [State.groupWay_runs f hgood hruns, hwritten dst v es new cnt0 hid hfmt hdfmt hplace hdecode hnew]
  · rw [exec_collarmTimeout, doCollarmTimeout_fails hc hr]

end Sys2Proof.Machine
end

section
/-! Edge descriptors at the start (R297, R301, R331, R341, R353): the update, dispatch and collective units take theirs by one rule, RSIG
sends its request as it starts, and HEVENT posts its frame and completes at once. -/

namespace Sys2Proof.Machine

/-! ### What the commands run -/

theorem exec_update (t : Nat) (s : State) : exec (.update t) s = .next (doUpdate t s) := rfl
theorem exec_gnorm (t : Nat) (s : State) : exec (.gnorm t) s = .next (doGnorm t s) := rfl
theorem exec_dispatch (t : Nat) (s : State) : exec (.dispatch t) s = .next (doDispatch t s) := rfl
theorem exec_combine (t : Nat) (s : State) : exec (.combine t) s = .next (doCombine t s) := rfl
theorem exec_redscat (t : Nat) (s : State) : exec (.redscat t) s = .next (doRedscat t s) := rfl
theorem exec_allgather (t : Nat) (s : State) : exec (.allgather t) s = .next (doAllgather t s) := rfl
theorem exec_rsig (t : Nat) (s : State) : exec (.rsig t) s = .next (doRsig t s) := rfl

/-! ### Starts at an edge unit -/

section
variable {s u : State} {t : Nat} {e : QEntry} {r : Run} (hturn : s.turn t 6 e)
include hturn

/-- An edge descriptor whose turn has come, that names the unit `edge`, that nothing holds and whose start reads all it needs runs. -/
theorem State.startEdge_turn {op edge : Nat} {free : State → QEntry → Bool} {work : QEntry → X StartX} (hop : dOp e.d = op)
    (hedge : dField e.d 16 2 = edge) (hfree : free s e = true) (hwork : runUnit t (work e) s = (.ok (.go r), u)) :
    s.startEdge t op edge free work = u.started t 6 e r := by
  obtain ⟨hstart, hclean⟩ := hturn
  exact s.startEdge_go u t op edge free work e r hstart hclean hop hedge hfree hwork

/-- An RSIG whose fields pass sends its SIG to the device that it names as it starts to run (R331). -/
theorem doRsig_ok (hop : dOp e.d = 0x70) (hedge : dField e.d 16 2 = 0x0200) (hchk : rsigChk e.d = .ok ()) :
    doRsig t s = (s.requestPk ⟨t, t, e.ctx, 6, e.seq, false⟩
      (s.mkPacket 0x06 (rsigDev e.d) e.ctx 0 (rsigCtr e.d) (dField e.d 24 4) t) 0 noPage (.away (rsigDev e.d) 0)).started t 6 e
        Run.start := by
  refine State.startEdge_turn hturn hop hedge rfl ?_
  rw [hchk]
  exact runUnit_mod t _ _ s

/-- An HEVENT whose fields pass posts a JOB frame of its context and completes (R331, R339). -/
theorem doHevent_ok (hop : dOp e.d = 0x71) (hedge : dField e.d 16 2 = 0x0280) (hchk : heventChk e.d = .ok ()) :
    doHevent t s = (s.post (some e.ctx) 0x05 (leBytes 32 (dField e.d 24 32))).finishEdge t e.seq := by
  obtain ⟨hstart, hclean⟩ := hturn
  unfold doHevent
  rw [hstart]
  dsimp only
  rw [if_pos ⟨hop, hedge⟩, s.withHead_clean _ _ _ _ hclean, hchk]

end

/-- Settles O23: an UPDATE or GNORM also needs a place in the update engines (`updFree`), nothing holds the other starts, and RSIG and HEVENT do
their work as they start. -/
theorem edgeDescriptorsStart : Obligations.EdgeDescriptorsStart := by
  intro s u t e r hturn
  refine ⟨fun hop hedge hfree hwork => ?_, fun hop hedge hfree hwork => ?_, fun hop hedge hwork => ?_, fun hop hedge hwork => ?_,
    fun hop hedge hwork => ?_, fun hop hedge hwork => ?_, fun hop hedge hchk => ?_, fun hop hedge hchk => ?_⟩
  · rw [exec_update, doUpdate, State.startEdge_turn hturn hop hedge hfree hwork]
  · rw [exec_gnorm, doGnorm, State.startEdge_turn hturn hop hedge hfree hwork]
  · rw [exec_dispatch, doDispatch, State.startEdge_turn hturn hop hedge rfl hwork]
  · rw [exec_combine, doCombine, State.startEdge_turn hturn hop hedge rfl hwork]
  · rw [exec_redscat, doRedscat, State.startEdge_turn hturn hop hedge rfl hwork]
  · rw [exec_allgather, doAllgather, State.startEdge_turn hturn hop hedge rfl hwork]
  · rw [exec_rsig, doRsig_ok hturn hop hedge hchk]
  · rw [exec_hevent, doHevent_ok hturn hop hedge hchk]

end Sys2Proof.Machine
end

section
/-! What the host and the board reach the module by: event rings, BARs, the mailbox, the I3C target and the TAP (R334, R338, R340, R460,
R462, R491). -/

namespace Sys2Proof.Machine

/-! ### What the commands run -/

theorem exec_hev (s : State) : exec .hev s = .next (doHev s) := rfl
theorem exec_hostBarAccess (bar ofs size : Nat) (wr : Bool) (v : W64) (s : State) :
    exec (.hostBarAccess bar ofs size wr v) s = .next (doHostBarAccess bar ofs size wr v s) := rfl
theorem exec_mbdoor (v : W64) (s : State) : exec (.mbdoor v) s = .next (doMbdoor v s) := rfl
theorem exec_mgmtResponse (s : State) : exec .mgmtResponse s = .next (doMgmtResponse s) := rfl
theorem exec_mgmt (ofs : Nat) (bytes : List Byte) (s : State) : exec (.mgmt ofs bytes) s = .next (doMgmt ofs bytes s) := rfl
theorem exec_entdaa (a : Nat) (s : State) : exec (.entdaa a) s = .next (doEntdaa a s) := rfl
theorem exec_setnewda (a : Nat) (s : State) : exec (.setnewda a) s = .next (doSetnewda a s) := rfl
theorem exec_rstdaa (s : State) : exec .rstdaa s = .next (doRstdaa s) := rfl
theorem exec_getpid (s : State) : exec .getpid s = .next (doGetpid s) := rfl
theorem exec_getbcr (s : State) : exec .getbcr s = .next (doGetbcr s) := rfl
theorem exec_getdcr (s : State) : exec .getdcr s = .next (doGetdcr s) := rfl
theorem exec_getstatus (s : State) : exec .getstatus s = .next (doGetstatus s) := rfl
theorem exec_getmwl (s : State) : exec .getmwl s = .next (doGetmwl s) := rfl
theorem exec_getmrl (s : State) : exec .getmrl s = .next (doGetmrl s) := rfl
theorem exec_enec (m : Byte) (s : State) : exec (.enec m) s = .next (doEnec m s) := rfl
theorem exec_disec (m : Byte) (s : State) : exec (.disec m) s = .next (doDisec m s) := rfl
theorem exec_setmwl (n : W16) (s : State) : exec (.setmwl n) s = .next (doSetmwl n s) := rfl
theorem exec_setmrl (n : W16) (s : State) : exec (.setmrl n) s = .next (doSetmrl n s) := rfl
theorem exec_idcode (s : State) : exec .idcode s = .next (doIdcode s) := rfl
theorem exec_bypass (s : State) : exec .bypass s = .next (doBypass s) := rfl
theorem exec_samplePreload (cells : List Bool) (s : State) : exec (.samplePreload cells) s = .next (doSamplePreload cells s) := rfl
theorem exec_extest (s : State) : exec .extest s = .next (doExtest s) := rfl

/-! ### Event rings (R338) -/

/-- A frame in a ring that is not armed sends no message. -/
theorem State.writeFrame_unarmed {s : State} {c : Nat} {r : EqRing} (hring : s.eq[c]? = some r) (harm : r.arm = false) (typ : Nat)
    (body : List Byte) : s.writeFrame c typ body = { s with
      hostMem := s.hostMem.putBytes (bitsOf r.base.toNat 12 36 * 4096 + 64 * (r.tail.toNat % r.size)) (frameBytes typ r.phase r.eseq.toNat body)
      eq := s.eq.set c { r with tail := r.tail + 1, eseq := r.eseq + 1, arm := false } } := by
  unfold State.writeFrame
  rw [hring]
  dsimp only
  rw [if_neg (by simp [harm])]

section
variable {s : State} {f : Frame} {l : List Frame} {r : EqRing} (hframes : s.frames = f :: l) (hring : s.eq[f.ring]? = some r)
  (hen : r.en = true)
include hframes hring hen

/-- A ring without space drops the frame and owes the host a LOST frame for it. -/
theorem doHev_full (hfull : r.size ≤ (r.tail - r.head).toNat) : doHev s =
    { s with frames := l, eq := s.eq.set f.ring { r with lost := satAdd 32 r.lost 1, lostOwed := r.lostOwed + 1 } } := by
  unfold doHev
  rw [hframes]
  dsimp only
  rw [hring]
  dsimp only
  rw [if_neg (by simp [hen]), if_pos hfull]

/-- A ring with space first gets the LOST frame that it is owed; the oldest frame stays. -/
theorem doHev_lost (hspace : (r.tail - r.head).toNat < r.size) (howed : 0 < r.lostOwed) : doHev s =
    State.writeFrame { s with eq := s.eq.set f.ring { r with lostOwed := 0 } } f.ring 0x06 (leBytes 4 r.lostOwed) := by
  unfold doHev
  rw [hframes]
  dsimp only
  rw [hring]
  dsimp only
  rw [if_neg (by simp [hen]), if_neg (Nat.not_le.mpr hspace), if_pos howed]

/-- A ring with space that is owed nothing gets the frame. -/
theorem doHev_writes (hspace : (r.tail - r.head).toNat < r.size) (howed : r.lostOwed = 0) : doHev s =
    State.writeFrame { s with frames := l } f.ring f.typ f.body := by
  unfold doHev
  rw [hframes]
  dsimp only
  rw [hring]
  dsimp only
  rw [if_neg (by simp [hen]), if_neg (Nat.not_le.mpr hspace), if_neg (by omega)]

end

/-- Settles O29: the three ways of a frame at a ring that is on, and the write of a frame. -/
theorem eventFramesReachTheirRing : Obligations.EventFramesReachTheirRing := by
  intro s f l r hframes hring hen
  refine ⟨fun hfull => ?_, fun hspace howed => ?_, fun hspace howed => ?_, fun b typ harm => State.writeFrame_unarmed hring harm typ b⟩
  · rw [exec_hev, doHev_full hframes hring hen hfull]
  · rw [exec_hev, doHev_lost hframes hring hen hspace howed]
  · rw [exec_hev, doHev_writes hframes hring hen hspace howed]

/-! ### Accesses to the BARs (R334, R460, R469) -/

theorem uHost_eq : uHost = 0x912 := rfl
theorem edgeBase_eq : edgeBase = 0x20000000000 := rfl
theorem edgeAt_hostPort (ofs : Nat) : edgeAt 0x22 ofs = 0x20000220000 + ofs := rfl

/-- A read that is longer than any register (R469). -/
theorem State.csrLoad_wide (s : State) {w a size : Nat} (hdark : s.eftDark a = false) (hwide : 8 < size) :
    s.csrLoad w a size = (0#64, s.csrAcc w a) := by
  unfold State.csrLoad
  rw [hdark, if_neg Bool.false_ne_true, if_neg (by omega)]

theorem State.eftDark_hostPort (s : State) {ofs : Nat} (h : ofs < 0x4000) : s.eftDark (0x20000220000 + ofs) = false := by
  unfold State.eftDark
  rw [decide_eq_false (p := 0x200004D0000 ≤ 0x20000220000 + ofs) (by omega), Bool.false_and, Bool.false_and]

theorem State.csrLive_hostPort (s : State) {ofs : Nat} (hio : s.rails.io = true) (h : ofs < 0x4000) :
    s.csrLive (0x20000220000 + ofs) = true := by
  have hedge : isEdgeCsr (0x20000220000 + ofs) = true := by
    rw [isEdgeCsr, edgeBase_eq, Bool.and_eq_true]
    exact ⟨decide_eq_true (by omega), decide_eq_true (by omega)⟩
  rw [State.csrLive, hedge, hio, Bool.and_self, Bool.or_true]

theorem State.csrAstray_write (s : State) (a : Nat) : s.csrAstray true a = s.csrAcc 0x912 a := rfl
theorem State.csrAstray_read (s : State) (a : Nat) : s.csrAstray false a =
    State.csrAcc { s with host := { s.host with answer := some (0#64, false) } } 0x912 a := rfl

section
variable {s : State} {ofs n : Nat} (wr : Bool) (v : W64) (hio : s.rails.io = true) (hn : 0 < n)
include hio hn

theorem doHostBarAccess_bar0 : doHostBarAccess 0 ofs n wr v s = s.bar0Access ofs n wr v := by
  unfold doHostBarAccess
  rw [if_neg (by simp [hio]), if_neg (Nat.ne_of_gt hn)]
  rfl

theorem doHostBarAccess_bar1 : doHostBarAccess 1 ofs n wr v s = s.unsupported ofs := by
  unfold doHostBarAccess
  rw [if_neg (by simp [hio]), if_neg (Nat.ne_of_gt hn)]
  rfl

theorem doHostBarAccess_bar2 (hin : ofs + n ≤ 0x1000000000) : doHostBarAccess 2 ofs n wr v s = s.bar2Access ofs n wr v := by
  unfold doHostBarAccess
  rw [if_neg (by simp [hio]), if_neg (Nat.ne_of_gt hn)]
  exact if_pos hin

theorem doHostBarAccess_bar4 : doHostBarAccess 4 ofs n wr v s = s.bar4Access ofs n wr v := by
  unfold doHostBarAccess
  rw [if_neg (by simp [hio]), if_neg (Nat.ne_of_gt hn)]
  rfl

end

/-! ### BAR0 -/

section
variable (s : State) {ofs size : Nat} (wr : Bool) (v : W64)

/-- The registers of the host port's block. -/
theorem State.bar0Access_block {x : W64} {u : State} (hin : ofs + size ≤ 0x4000)
    (hload : s.csrLoad 0x912 (0x20000220000 + ofs) size = (x, u)) :
    s.bar0Access ofs size wr v = if wr then s.csrStore 0x912 (0x20000220000 + ofs) size v else u.barAnswer x false := by
  unfold State.bar0Access
  dsimp only
  rw [if_pos hin, edgeAt_hostPort, uHost_eq, hload]

/-- An access that begins in the host port's block and is longer than a register, or runs on beyond the block. -/
theorem State.bar0Access_astray (hio : s.rails.io = true) (hlow : ofs < 0x4000) (hlong : 8 < size ∨ 0x4000 < ofs + size) :
    s.bar0Access ofs size wr v = s.csrAstray wr (0x20000220000 + ofs) := by
  by_cases hin : ofs + size ≤ 0x4000
  · have hwide : 8 < size := by omega
    have hdark := s.eftDark_hostPort hlow
    rw [s.bar0Access_block wr v hin (s.csrLoad_wide hdark hwide)]
    cases wr with
    | true => exact s.csrStore_narrow _ _ _ v hdark (s.csrLive_hostPort hio hlow) (.inl (by omega))
    | false => rfl
  · unfold State.bar0Access
    dsimp only
    rw [if_neg hin, if_pos hlow, edgeAt_hostPort]

section
variable (hpos : 0 < size) (hsize : size ≤ 8)
include hpos hsize

/-- The mailbox that the host fills. -/
theorem State.bar0Access_inbox (hlow : 0x8000 ≤ ofs) (hend : ofs + size ≤ 0x9000) : s.bar0Access ofs size wr v =
    if wr then { s with host := { s.host with inbox := putBytesAt s.host.inbox (ofs - 0x8000) (leBytes size v.toNat) } }
    else s.barAnswer (BitVec.ofNat 64 (bytesAt s.host.inbox (ofs - 0x8000) size)) false := by
  unfold State.bar0Access
  dsimp only
  rw [if_neg (by omega), if_neg (by omega), if_neg (by omega), if_pos ⟨hlow, hend⟩]

/-- The mailbox that the module fills, which no write changes. -/
theorem State.bar0Access_outbox (hlow : 0x9000 ≤ ofs) (hend : ofs + size ≤ 0xA000) : s.bar0Access ofs size wr v =
    if wr then s else s.barAnswer (BitVec.ofNat 64 (bytesAt s.host.outbox (ofs - 0x9000) size)) false := by
  unfold State.bar0Access
  dsimp only
  rw [if_neg (by omega), if_neg (by omega), if_neg (by omega), if_neg (by omega), if_pos ⟨hlow, hend⟩]

theorem State.bar0Access_mbdoor : s.bar0Access 0xA000 size wr v =
    if wr then doMbdoor v s else s.barAnswer (BitVec.ofNat 64 (bitsOf (mbdoorValue s).toNat 0 (8 * size))) false := by
  unfold State.bar0Access
  dsimp only
  rw [if_neg (by omega), if_neg (by omega), if_neg (by omega), if_neg (by omega), if_neg (by omega), if_pos rfl]

/-- The MSI-X table, whose writes let waiting messages go. -/
theorem State.bar0Access_msix (hlow : 0xC000 ≤ ofs) (hend : ofs + size ≤ 0xC200) : s.bar0Access ofs size wr v =
    if wr then State.unmask { s with host := { s.host with
      msixTable := putBytesAt s.host.msixTable (ofs - 0xC000) (leBytes size v.toNat) } }
    else s.barAnswer (BitVec.ofNat 64 (bytesAt s.host.msixTable (ofs - 0xC000) size)) false := by
  unfold State.bar0Access
  dsimp only
  rw [if_neg (by omega), if_neg (by omega), if_neg (by omega), if_neg (by omega), if_neg (by omega), if_neg (by omega),
    if_pos ⟨hlow, hend⟩]

/-- The pending bits, which no write changes. -/
theorem State.bar0Access_pba (hlow : 0xD000 ≤ ofs) (hend : ofs + size ≤ 0xD008) : s.bar0Access ofs size wr v =
    if wr then s else s.barAnswer (BitVec.ofNat 64 (bitsOf s.host.pba.toNat (8 * (ofs - 0xD000)) (8 * size))) false := by
  unfold State.bar0Access
  dsimp only
  rw [if_neg (by omega), if_neg (by omega), if_neg (by omega), if_neg (by omega), if_neg (by omega), if_neg (by omega),
    if_neg (by omega), if_pos ⟨hlow, hend⟩]

end
end

/-! ### BAR2 and BAR4 -/

theorem locOf_dram {a : Nat} (h : a < 0x9FD8000000) : locOf a = .dram a := if_pos h

theorem isTileCsr_iff {a : Nat} : isTileCsr a = true ↔ tileBase ≤ a ∧ a < selfBase ∧ 0x700000 ≤ (a - tileBase) % 0x800000 := by
  simp only [isTileCsr, Bool.and_eq_true, decide_eq_true_eq, and_assoc]

theorem windowLoc_csr {t o : Nat} (h : 0x700000 ≤ o) : windowLoc t o = .csr (tileBase + t * 0x800000 + o) := by
  unfold windowLoc
  rw [if_neg (by omega), if_neg (by omega), if_neg (by omega), if_neg (by omega)]

/-- An address of a tile's CSR page names a CSR. -/
theorem locOf_tileCsr {a : Nat} (h : isTileCsr a = true) : locOf a = .csr a := by
  obtain ⟨hlow, hhigh, hpage⟩ := isTileCsr_iff.mp h
  have hmem : ¬ a < dramTop := Nat.not_lt.mpr (Nat.le_trans (by decide) hlow)
  have hplace : tileBase + (a - tileBase) / 0x800000 * 0x800000 + (a - tileBase) % 0x800000 = a := by omega
  unfold locOf
  rw [if_neg hmem, if_pos ⟨hlow, hhigh⟩, windowLoc_csr hpage, hplace]

theorem isTileCsr_page {a t o : Nat} (ha : a = 0x10000000000 + (t * 0x800000 + o)) (ht : t < 1024) (hlow : 0x700000 ≤ o)
    (hhigh : o < 0x800000) : isTileCsr a = true := by
  refine isTileCsr_iff.mpr ?_
  unfold tileBase selfBase
  omega

/-- A register of a tile lies in the CSR page with its first and its last byte. -/
theorem isTileCsr_reg {ofs t blk off : Nat} (ht : t < 1024) (hblk : blk < 16) (hoff : off < 0x10000) (halign : off % 8 = 0)
    (hofs : ofs = t * 0x800000 + 0x700000 + blk * 0x10000 + off) :
    isTileCsr (0x10000000000 + ofs) = true ∧ isTileCsr (0x10000000000 + ofs + 8 - 1) = true :=
  ⟨isTileCsr_page (t := t) (o := 0x700000 + blk * 0x10000 + off) (by omega) ht (by omega) (by omega),
    isTileCsr_page (t := t) (o := 0x700000 + blk * 0x10000 + off + 7) (by omega) ht (by omega) (by omega)⟩

section
variable {s : State} {ofs size a : Nat} (wr : Bool) (v : W64) (ha : s.host.aper * 0x1000000000 + ofs = a)
include ha

/-- Before the image has been applied nothing answers. -/
theorem State.bar2Access_unapplied (happ : s.applied = false) : s.bar2Access ofs size wr v = s.unsupported a := by
  unfold State.bar2Access
  rw [ha]
  dsimp only
  rw [if_neg (by simp [happ])]

section
variable (happ : s.applied = true)
include happ

/-- DRAM, by bytes. -/
theorem State.bar2Access_dram {l : List Byte} {poison : Bool} {u : State} (hpos : 0 < size) (hsize : size ≤ 8)
    (hend : a + size ≤ 0x9FD8000000) (hread : s.hostRead a size = ((l, poison), u)) : s.bar2Access ofs size wr v =
    if wr then s.writeBytesLoc uHost (.dram a) (leBytes size v.toNat) else u.barAnswer (BitVec.ofNat 64 (leVal l)) poison := by
  unfold State.bar2Access
  rw [ha]
  dsimp only
  rw [if_pos happ, locOf_dram (by omega), locOf_dram (by omega), hread]
  exact if_neg (by omega)

/-- Registers of a tile. -/
theorem State.bar2Access_tileCsr {x : W64} {u : State} (hfirst : isTileCsr a = true) (hlast : isTileCsr (a + size - 1) = true)
    (hload : s.csrLoad 0x912 a size = (x, u)) : s.bar2Access ofs size wr v =
    if wr then s.csrStore 0x912 a size v else u.barAnswer x false := by
  unfold State.bar2Access
  rw [ha]
  dsimp only
  rw [if_pos happ, locOf_tileCsr hfirst, locOf_tileCsr hlast, uHost_eq, hload]
  exact if_pos hfirst

/-- An access that begins in a tile's registers and runs on beyond all registers. -/
theorem State.bar2Access_beyond (hfirst : isTileCsr a = true) (hlast : ∀ p, locOf (a + size - 1) ≠ .csr p) :
    s.bar2Access ofs size wr v = s.csrAstray wr a := by
  unfold State.bar2Access
  rw [ha]
  dsimp only
  rw [if_pos happ, locOf_tileCsr hfirst]
  cases hloc : locOf (a + size - 1) with
  | csr p => exact absurd hloc (hlast p)
  | _ => exact if_pos hfirst

end
end

section
variable {s : State} {ofs size : Nat} (wr : Bool) (v : W64)

/-- Before the lock nothing answers. -/
theorem State.bar4Access_unlocked (hgecko : s.sec.gecko = false) : s.bar4Access ofs size wr v = s.unsupported (0x20000000000 + ofs) := by
  unfold State.bar4Access
  dsimp only
  rw [if_neg (by simp [hgecko]), if_neg (by simp [hgecko]), edgeBase_eq]

section
variable (happ : s.applied = true) (hgecko : s.sec.gecko = true)
include happ hgecko

/-- An access that begins at a register of an edge unit and runs on beyond the last. -/
theorem State.bar4Access_beyond (hlow : ofs < 0x1000000) (hend : 0x1000000 < ofs + size) :
    s.bar4Access ofs size wr v = s.csrAstray wr (0x20000000000 + ofs) := by
  unfold State.bar4Access
  dsimp only
  rw [if_pos (by simp [happ, hgecko, hlow, hend]), edgeBase_eq]

/-- The registers of the edge units. -/
theorem State.bar4Access_edgeCsr {x : W64} {u : State} (hin : ofs + size ≤ 0x1000000)
    (hload : s.csrLoad 0x912 (0x20000000000 + ofs) size = (x, u)) : s.bar4Access ofs size wr v =
    if wr then s.csrStore 0x912 (0x20000000000 + ofs) size v else u.barAnswer x false := by
  unfold State.bar4Access
  dsimp only
  rw [if_neg (by simp [Nat.not_lt.mpr hin]), if_pos (by simp [happ, hgecko, hin]), edgeBase_eq, uHost_eq, hload]

end
end

/-- Settles O40: the access goes to its BAR, and there each part by its rule above; BAR1 serves nothing. -/
theorem barsReachWhatTheyMap : Obligations.BarsReachWhatTheyMap := by
  intro s u v x ofs n size hio hn hpos hsize
  refine ⟨fun hlow hlong => ?_, fun happ hgecko hlow hend => ?_, fun hin => ⟨?_, fun hload => ?_⟩, fun hlow hend => ?_, fun hlow hend => ?_,
    fun hlow hend => ?_, ?_, fun hlow hend => ?_, fun hlow hend => ?_, fun happ haper hin => ?_,
    fun t blk off happ haper ht hblk hoff halign hofs => ?_, fun happ haper hin hfirst _ hlast => ?_, fun happ hin => ?_,
    fun happ hgecko hin => ⟨?_, fun hload => ?_⟩, fun hgecko => ?_, fun wr => ?_⟩
  all_goals simp only [exec_hostBarAccess, doHostBarAccess_bar0 _ v hio hn, doHostBarAccess_bar0 _ v hio hpos,
    doHostBarAccess_bar1 _ v hio hpos, doHostBarAccess_bar4 _ v hio hn, doHostBarAccess_bar4 _ v hio hpos]
  · rw [s.bar0Access_astray true v hio hlow hlong, s.bar0Access_astray false v hio hlow hlong]
    exact ⟨rfl, rfl⟩
  · rw [State.bar4Access_beyond true v happ hgecko hlow hend, State.bar4Access_beyond false v happ hgecko hlow hend]
    exact ⟨rfl, rfl⟩
  · rw [s.bar0Access_block true v hin (Prod.eta _).symm]
    rfl
  · rw [s.bar0Access_block false v hin hload]
    rfl
  · rw [s.bar0Access_inbox true v hpos hsize hlow hend]
    rfl
  · rw [s.bar0Access_inbox false v hpos hsize hlow hend]
    rfl
  · rw [s.bar0Access_outbox true v hpos hsize hlow hend, s.bar0Access_outbox false v hpos hsize hlow hend]
    exact ⟨rfl, rfl⟩
  · rw [s.bar0Access_mbdoor true v hpos hsize, s.bar0Access_mbdoor false v hpos hsize, exec_mbdoor]
    exact ⟨rfl, rfl⟩
  · rw [s.bar0Access_msix true v hpos hsize hlow hend, s.bar0Access_msix false v hpos hsize hlow hend]
    exact ⟨rfl, rfl⟩
  · rw [s.bar0Access_pba true v hpos hsize hlow hend, s.bar0Access_pba false v hpos hsize hlow hend]
    exact ⟨rfl, rfl⟩
  · have ha : s.host.aper * 0x1000000000 + ofs = ofs := by rw [haper, Nat.zero_mul, Nat.zero_add]
    have hdram : ofs + size ≤ 0x9FD8000000 := by omega
    refine ⟨?_, fun l p hread => ?_⟩
    · rw [doHostBarAccess_bar2 true v hio hpos hin, State.bar2Access_dram true v ha happ hpos hsize hdram (Prod.eta _).symm]
      rfl
    · rw [doHostBarAccess_bar2 false v hio hpos hin, State.bar2Access_dram false v ha happ hpos hsize hdram hread]
      rfl
  · have ha : s.host.aper * 0x1000000000 + ofs = 0x10000000000 + ofs := by rw [haper]
    obtain ⟨hfirst, hlast⟩ := isTileCsr_reg ht hblk hoff halign hofs
    rw [doHostBarAccess_bar2 true v hio (by omega) (by omega), State.bar2Access_tileCsr true v ha happ hfirst hlast (Prod.eta _).symm]
    rfl
  · have ha : s.host.aper * 0x1000000000 + ofs = 0x10000000000 + ofs := by rw [haper]
    rw [doHostBarAccess_bar2 true v hio hpos hin, doHostBarAccess_bar2 false v hio hpos hin,
      State.bar2Access_beyond true v ha happ hfirst hlast, State.bar2Access_beyond false v ha happ hfirst hlast]
    exact ⟨rfl, rfl⟩
  · rw [doHostBarAccess_bar2 true v hio hpos hin, State.bar2Access_unapplied true v rfl happ]
    rfl
  · rw [State.bar4Access_edgeCsr true v happ hgecko hin (Prod.eta _).symm]
    rfl
  · rw [State.bar4Access_edgeCsr false v happ hgecko hin hload]
    rfl
  · rw [State.bar4Access_unlocked false v hgecko]
    rfl
  · rfl

/-! ### The mailbox (R340) -/

/-- A fold over numbered elements below a bound does not meet the bound. -/
theorem foldl_zipIdx_below {α β : Type} (f : β → α × Nat → β) (l : List α) (ofs bound : Nat) (h : ofs + l.length ≤ bound) (m : β) :
    l.zipIdx.foldl (fun m p => if ofs + p.2 < bound then f m p else m) m = l.zipIdx.foldl f m := by
  refine List.foldl_rel (r := Eq) rfl fun p hp m m' hm => ?_
  have hlt := List.snd_lt_of_mem_zipIdx hp
  rw [hm, if_pos (by omega)]

section
variable {s : State} (hio : s.rails.io = true)
include hio

theorem doMbdoor_hands {v : W64} (hbusy : s.host.busy = false) (hv : v.getLsbD 0 = true) :
    doMbdoor v s = { s with host := { s.host with busy := true, rdy := false } } := by
  unfold doMbdoor State.bar0
  rw [if_pos hio, if_neg (by simp [hbusy]), if_pos hv]

theorem doMbdoor_busy {v : W64} (hbusy : s.host.busy = true) : doMbdoor v s = s.csrAcc 0x912 0xA000 := by
  unfold doMbdoor State.bar0
  rw [if_pos hio, if_pos hbusy, uHost_eq]

theorem doMgmt_fills {ofs : Nat} {bytes : List Byte} (hfit : ofs + bytes.length ≤ 4096) : doMgmt ofs bytes s =
    { s with host := { s.host with inbox := bytes.zipIdx.foldl (fun m p => smSet 0#8 m (ofs + p.2) p.1) s.host.inbox } } := by
  unfold doMgmt State.bar0
  dsimp only
  rw [if_pos hio, foldl_zipIdx_below (fun m p => smSet 0#8 m (ofs + p.2) p.1) bytes ofs 4096 hfit]

end

/-- A response after which nothing follows. -/
theorem doMgmtResponse_posts {s : State} {r : List Byte} (hmp : s.mpRuns = true) (hbusy : s.host.busy = true)
    (hresp : s.mp.hostResp = some r) (hafter : s.mp.after = 0) (hfit : r.length ≤ 4096) : doMgmtResponse s = { s with
      host := { s.host with outbox := r.zipIdx.foldl (fun m p => smSet 0#8 m p.2 p.1) s.host.outbox, busy := false, rdy := true }
      mp := { s.mp with hostResp := none, after := 0 }
      frames := s.frames ++ [⟨s.devRing, 0x07, []⟩] } := by
  have hanswer : s.hostAnswer = some r := by rw [State.hostAnswer, hresp]
  have hout := foldl_zipIdx_below (fun m (p : Byte × Nat) => smSet 0#8 m p.2 p.1) r 0 4096 (by omega) s.host.outbox
  simp only [Nat.zero_add] at hout
  unfold doMgmtResponse
  dsimp only
  rw [if_pos (by rw [hmp, hbusy]; rfl), hanswer]
  dsimp only
  rw [if_pos hafter, hout]
  rfl

/-! ### The I3C target (R462) -/

section
variable {s : State} (hpow : s.eft.pstate ≠ 0)
include hpow

theorem State.powered_of_pstate : s.powered = true := bne_iff_ne.mpr hpow

theorem State.modI3c_powered (f : I3c → I3c) : s.modI3c f = { s with i3c := f s.i3c } := if_pos (State.powered_of_pstate hpow)

section
variable {old : Nat} (haddr : s.i3c.addr = some old)
include haddr

theorem State.i3cReady_addressed : s.i3cReady = true := by
  rw [State.i3cReady, State.powered_of_pstate hpow, haddr]
  rfl

/-- An addressed target answers a CCC, most significant byte first. -/
theorem State.cccAnswer_addressed (l : List Byte) : s.cccAnswer l = { s with i3c := { s.i3c with ccc := l.reverse } } :=
  if_pos (State.i3cReady_addressed hpow haddr)

/-- A CCC that changes an addressed target. -/
theorem State.ccc_addressed (f : I3c → I3c) : (if s.i3cReady then s.modI3c f else s) = { s with i3c := f s.i3c } := by
  rw [if_pos (State.i3cReady_addressed hpow haddr), State.modI3c_powered hpow]

end
end

/-! ### The TAP (R460, R491) -/

section
variable {s : State} (hpow : s.eft.pstate ≠ 0)
include hpow

theorem doBypass_powered : doBypass s = s.tapBypass := if_pos (State.powered_of_pstate hpow)

theorem doIdcode_powered :
    doIdcode s = { s with jtag := { s.jtag with instr := 1, dr := shiftBits 32 0x1102474B, tlr := false } } :=
  if_pos (State.powered_of_pstate hpow)

theorem doSamplePreload_open (cells : List Bool) (hopen : s.boundaryOpen = true) : doSamplePreload cells s =
    { s with freeCtr := s.freeCtr + 1, jtag := ⟨2, cells.zipIdx.map (fun p => s.draw.1.getLsbD (p.2 % 64)), cells, false⟩ } := by
  unfold doSamplePreload
  rw [if_pos (State.powered_of_pstate hpow), if_pos hopen]
  rfl

theorem doSamplePreload_closed (cells : List Bool) (hclosed : s.boundaryOpen = false) : doSamplePreload cells s = s.tapBypass := by
  unfold doSamplePreload
  rw [if_pos (State.powered_of_pstate hpow), if_neg (by simp [hclosed])]

theorem doExtest_open (hopen : s.boundaryOpen = true) :
    doExtest s = { s with jtag := { s.jtag with instr := 3, tlr := false } } := by
  unfold doExtest
  rw [if_pos (State.powered_of_pstate hpow), if_pos hopen]

theorem doExtest_closed (hclosed : s.boundaryOpen = false) : doExtest s = s.tapBypass := by
  unfold doExtest
  rw [if_pos (State.powered_of_pstate hpow), if_neg (by simp [hclosed])]

end

/-- Settles O50: the mailbox by its rules; every CCC is an answer or a change of the target, which is powered and, but for the three of the
address, addressed; a closed boundary instruction and BYPASS leave the same TAP. -/
theorem channelsOfTheBoard : Obligations.ChannelsOfTheBoard := by
  refine ⟨fun s v r bytes ofs hio => ⟨fun hbusy hv => ?_, fun hbusy => ?_, fun hmp hbusy hresp hafter hfit => ?_, fun hfit => ?_⟩,
    fun s a old m n hpow => ⟨fun haddr ha => ?_, fun haddr ha => ?_, ?_, fun haddr => ?_⟩,
    fun s cells hpow => ⟨?_, ?_, fun hopen => ?_, fun hopen => ?_, fun hclosed => ⟨?_, ?_⟩⟩⟩
  · rw [exec_mbdoor, doMbdoor_hands hio hbusy hv]
  · rw [exec_mbdoor, doMbdoor_busy hio hbusy]
  · rw [exec_mgmtResponse, doMgmtResponse_posts hmp hbusy hresp hafter hfit]
  · rw [exec_mgmt, doMgmt_fills hio hfit]
  · rw [exec_entdaa, doEntdaa, State.modI3c_powered hpow, haddr, Nat.mod_eq_of_lt ha]
  · rw [exec_setnewda, doSetnewda, State.modI3c_powered hpow, haddr, Nat.mod_eq_of_lt ha]
  · rw [exec_rstdaa, doRstdaa, State.modI3c_powered hpow]
  · have hanswer := State.cccAnswer_addressed hpow haddr
    have hchange := State.ccc_addressed hpow haddr
    refine ⟨?_, ?_, ?_, ?_, ?_, ?_, ?_, ?_, ?_, ?_⟩
    · rw [exec_getpid, doGetpid, hanswer]
    · rw [exec_getbcr, doGetbcr, hanswer]
      rfl
    · rw [exec_getdcr, doGetdcr, hanswer]
      rfl
    · rw [exec_getstatus, doGetstatus, hanswer]
    · rw [exec_getmwl, doGetmwl, hanswer]
    · rw [exec_getmrl, doGetmrl, hanswer]
    · rw [exec_enec, doEnec, hchange]
    · rw [exec_disec, doDisec, hchange]
    · rw [exec_setmwl, doSetmwl, hchange]
    · rw [exec_setmrl, doSetmrl, hchange]
  · rw [exec_idcode, doIdcode_powered hpow]
    rfl
  · rw [exec_bypass, doBypass_powered hpow]
    rfl
  · refine ⟨{ s with freeCtr := s.freeCtr + 1 }, cells.zipIdx.map (fun p => s.draw.1.getLsbD (p.2 % 64)), ?_, rfl, ?_⟩
    · rw [exec_samplePreload, doSamplePreload_open hpow cells hopen]
    · rw [List.length_map, List.length_zipIdx]
  · rw [exec_extest, doExtest_open hpow hopen]
  · rw [exec_extest, exec_bypass, doExtest_closed hpow hclosed, doBypass_powered hpow]
  · rw [exec_samplePreload, exec_bypass, doSamplePreload_closed hpow cells hclosed, doBypass_powered hpow]

end Sys2Proof.Machine
end

section
/-! Training of the Rinov ports (R313, R314, R325, R329, R332, R361, R492). -/

namespace Sys2Proof.Machine

/-! ### What the commands run -/

theorem exec_linkDetect (p : Nat) (pairs : List (Option (Nat × Bool))) (s : State) :
    exec (.linkDetect p pairs) s = .next (doLinkDetect p pairs s) := rfl
theorem exec_linkEqDone (p : Nat) (s : State) : exec (.linkEqDone p) s = .next (doLinkEqDone p s) := rfl
theorem exec_linkDeskewDone (p : Nat) (s : State) : exec (.linkDeskewDone p) s = .next (doLinkDeskewDone p s) := rfl
theorem exec_linkParamDone (p : Nat) (peer : PeerParam) (s : State) : exec (.linkParamDone p peer) s = .next (doLinkParamDone p peer s) := rfl
theorem exec_linkRetrain (p : Nat) (why : RetrainWhy) (s : State) : exec (.linkRetrain p why) s = .next (doLinkRetrain p why s) := rfl
theorem exec_laneLoss (p lane : Nat) (s : State) : exec (.laneLoss p lane) s = .next (doLaneLoss p lane s) := rfl
theorem exec_retrainAttemptFailed (p : Nat) (s : State) : exec (.retrainAttemptFailed p) s = .next (doRetrainAttemptFailed p s) := rfl
theorem exec_linkDown (p : Nat) (s : State) : exec (.linkDown p) s = .next (doLinkDown p s) := rfl

/-! ### Detection (R313, R492) -/

/-- Receivers that between them see every lane see all eight. -/
theorem seenLanes_all {pairs : List (Option (Nat × Bool))}
    (h : ∀ i : Nat, i < 8 → ∃ (k : Nat) (inv : Bool), pairs[k]? = some (some (i, inv))) : seenLanes pairs = 0xFF#8 := by
  have hany : ∀ l ∈ List.range 8, pairs.any (fun x => x.any (fun y => y.1 == l)) = true := by
    intro l hl
    obtain ⟨k, inv, hk⟩ := h l (List.mem_range.mp hl)
    exact List.any_eq_true.mpr ⟨some (l, inv), List.mem_of_getElem? hk, by simp⟩
  have hfold : seenLanes pairs = (List.range 8).foldl (fun (m : Byte) (l : Nat) => m ||| 1#8 <<< l) 0#8 :=
    List.foldl_rel (r := Eq) rfl fun l hl m m' hm => by rw [hm, if_pos (hany l hl)]
  rw [hfold]
  decide

section
variable {s : State} {p : Nat} {pairs : List (Option (Nat × Bool))} (hp : p < 19)

section
variable (hst : (s.port p).st = 1) (hid : p = 18 ∨ s.lnk.idV = true)
include hp hst hid

/-- All lanes are seen. -/
theorem doLinkDetect_all (hseen : seenLanes pairs = 0xFF#8) : doLinkDetect p pairs s =
    s.modPort p (fun x => { x with st := 2, laneOk := 0xFF#8, x4 := false, half := false, rxMap := pairs }) := by
  unfold doLinkDetect
  dsimp only
  rw [hseen, if_pos ⟨hst, hp, hid, .inl rfl⟩]
  rfl

/-- The lower half alone is seen, and the port may run on it. -/
theorem doLinkDetect_lower (hx4 : (s.port p).x4ok = true) (hseen : seenLanes pairs = 0x0F#8) : doLinkDetect p pairs s =
    s.modPort p (fun x => { x with st := 2, laneOk := 0x0F#8, x4 := true, half := false, rxMap := pairs }) := by
  unfold doLinkDetect
  dsimp only
  rw [hseen, if_pos ⟨hst, hp, hid, .inr ⟨hx4, .inl (by decide)⟩⟩]
  rfl

/-- The upper half alone is seen, and the port may run on it. -/
theorem doLinkDetect_upper (hx4 : (s.port p).x4ok = true) (hseen : seenLanes pairs = 0xF0#8) : doLinkDetect p pairs s =
    s.modPort p (fun x => { x with st := 2, laneOk := 0xF0#8, x4 := true, half := true, rxMap := pairs }) := by
  unfold doLinkDetect
  dsimp only
  rw [hseen, if_pos ⟨hst, hp, hid, .inr ⟨hx4, .inr (by decide)⟩⟩]
  rfl

end

/-- A fabric port waits for the device's id. -/
theorem doLinkDetect_noId (hfabric : p ≠ 18) (hid : s.lnk.idV = false) : doLinkDetect p pairs s = s := by
  unfold doLinkDetect
  dsimp only
  rw [if_neg]
  rintro ⟨-, -, rfl | hv, -⟩
  · exact hfabric rfl
  · exact Bool.false_ne_true (hid.symm.trans hv)

end

/-! ### Equalisation and alignment (R313, R314) -/

section
variable {s : State} {p : Nat}

theorem doLinkEqDone_first (hcarries : (s.port p).carries = true) (hst : (s.port p).st = 2) :
    doLinkEqDone p s = s.modPort p (fun x => { x with st := 3 }) := by
  unfold doLinkEqDone
  dsimp only
  rw [if_neg (by simp [hcarries]), if_pos hst]

theorem doLinkEqDone_again (hcarries : (s.port p).carries = true) (hst : (s.port p).st = 6) (hsub : (s.port p).sub = 0) :
    doLinkEqDone p s = s.modPort p (fun x => { x with sub := 1 }) := by
  unfold doLinkEqDone
  dsimp only
  rw [if_neg (by simp [hcarries]), if_neg (by simp [hst]), if_pos ⟨hst, hsub⟩]

/-- Without healthy lanes for the port nothing goes on. -/
theorem doLinkEqDone_unhealthy (hcarries : (s.port p).carries = false) : doLinkEqDone p s = s := if_pos hcarries

theorem doLinkDeskewDone_first (hst : (s.port p).st = 3) :
    doLinkDeskewDone p s = s.modPort p (fun x => { x with st := 4, sent := some (s.paramOf p) }) := if_pos hst

theorem doLinkDeskewDone_again (hst : (s.port p).st = 6) (hsub : (s.port p).sub = 1) :
    doLinkDeskewDone p s = s.modPort p (fun x => { x with sub := 2, sent := some (s.paramOf p) }) := by
  unfold doLinkDeskewDone
  dsimp only
  rw [if_neg (by simp [hst]), if_pos ⟨hst, hsub⟩]

end

/-! ### Parameters (R320, R325, R332, R361) -/

section
variable {s : State} {p : Nat} {peer : PeerParam}

/-- Without healthy lanes the port does not come UP. -/
theorem doLinkParamDone_unhealthy (hcarries : (s.port p).carries = false) : doLinkParamDone p peer s = s :=
  if_neg fun ⟨_, _, h⟩ => Bool.false_ne_true (hcarries.symm.trans h)

section
variable (hp : p < 19) (hst : (s.port p).st = 4 ∨ (s.port p).st = 6 ∧ (s.port p).sub = 2) (hcarries : (s.port p).carries = true)
include hp hst hcarries

/-- A peer with this device's own id brings the port DOWN. -/
theorem doLinkParamDone_duplicate (hfabric : p ≠ 18) (hdev : peer.dev = s.devId) : doLinkParamDone p peer s =
    (s.modPort p (fun x => { x with peerDev := peer.dev, peerPort := peer.port })).portDown p := by
  unfold doLinkParamDone
  dsimp only
  rw [if_pos ⟨hp, hst, hcarries⟩, if_pos ⟨by omega, hdev⟩]

/-- The host port takes the credits of hop class 0 alone, and is in no bond. -/
theorem doLinkParamDone_host (hhost : p = 18) : doLinkParamDone p peer s =
    s.modPort p (fun x => { x.up { peer with credits := hostPools peer.credits } with apart := false }) := by
  subst hhost
  unfold doLinkParamDone
  dsimp only
  rw [if_pos ⟨hp, hst, hcarries⟩, if_neg (by omega), if_pos rfl]
  rfl

/-- A fabric port whose peer is not expected comes UP apart from every bond, with a LINK event. -/
theorem doLinkParamDone_unexpected {d : Nat} (hfabric : p ≠ 18) (hdev : peer.dev ≠ s.devId) (hexpect : (s.port p).expect = some d)
    (hother : d ≠ peer.dev) : doLinkParamDone p peer s = (s.modPort p (fun x => { x.up peer with apart := true })).linkEvent p := by
  have hlow : decide (p < 18) = true := decide_eq_true (by omega)
  have hne : (d != peer.dev) = true := bne_iff_ne.mpr hother
  unfold doLinkParamDone
  dsimp only
  rw [if_pos ⟨hp, hst, hcarries⟩, if_neg (fun h => hdev h.2), if_neg hfabric, hexpect, hlow]
  simp [hne]

/-- A fabric port in no bond, for which no peer is expected, comes UP. -/
theorem doLinkParamDone_up (hfabric : p ≠ 18) (hdev : peer.dev ≠ s.devId) (hexpect : (s.port p).expect = none)
    (hbond : (s.port p).bond = 31) : doLinkParamDone p peer s = s.modPort p (fun x => { x.up peer with apart := false }) := by
  unfold doLinkParamDone
  dsimp only
  rw [if_pos ⟨hp, hst, hcarries⟩, if_neg (fun h => hdev h.2), if_neg hfabric, hexpect, hbond]
  simp

end
end

/-! ### Retraining (R314, R322) -/

section
variable {s : State} {p : Nat} (hp : p < 19)
include hp

section
variable (hst : (s.port p).st = 5)
include hst

theorem doLinkRetrain_frameLock (hdue : (s.port p).lockLost = true) : doLinkRetrain p .frameLock s = s.startRetrain p 0 :=
  if_pos ⟨hst, hp, hdue⟩

theorem doLinkRetrain_uncorrectable (hdue : 64 < (s.port p).winBad) : doLinkRetrain p .uncorrectable s = s.startRetrain p 0 :=
  if_pos ⟨hst, hp, decide_eq_true hdue⟩

theorem doLinkRetrain_replays (hdue : 16 ≤ (s.port p).replays) : doLinkRetrain p .replays s = s.startRetrain p 0 :=
  if_pos ⟨hst, hp, decide_eq_true hdue⟩

theorem doLaneLoss_up {lane : Nat} (hlane : lane < 8) (hok : (s.port p).laneOk.getLsbD lane = true) : doLaneLoss p lane s =
    (s.modPort p (fun x => { x with laneOk := x.laneOk &&& ~~~(1#8 <<< lane) })).startRetrain p lane := by
  unfold doLaneLoss
  dsimp only
  rw [if_pos ⟨hp, hlane, hok⟩, if_pos hst]

end

theorem doRetrainAttemptFailed_again (hst : (s.port p).st = 6) (hfails : (s.port p).fails < 2) :
    doRetrainAttemptFailed p s = s.modPort p (fun x => { x with fails := x.fails + 1, sub := 0 }) := if_pos ⟨hst, hp, hfails⟩

theorem doLinkDown_third (hst : (s.port p).st = 6) (hfails : (s.port p).fails = 2) : doLinkDown p s = s.portDown p :=
  if_pos ⟨hst, hp, hfails⟩

end

theorem State.with_no_out {s : State} (h : s.out = []) : { s with out := [] } = s := by
  cases s
  cases h
  rfl

/-- A port goes DOWN while no packet waits: a LINK event, a record, and the requests in flight on the port fail. -/
theorem State.portDown_idle {s u : State} {p c : Nat} (hout : s.out = []) (hu : u = (s.modPort p Port.goDown).linkEvent p)
    (hc : c = if (u.members (s.port p).bond).any (fun q => (u.port q).st == 5) then clsCorrected else clsContained) : s.portDown p =
      (s.remotes.filter (fun r => r.port == some p)).foldl
        (fun (v : State) (r : Remote) => if v.remotes.any (fun y => y.tag == r.tag) then v.failRemote r 0xFF else v)
        (u.detect { mkRec c cLinkDown (uPort p) with ctx := u.xl.runCtx }) := by
  unfold State.portDown
  dsimp only
  rw [← hu, ← hc]
  generalize hw : u.detect { mkRec c cLinkDown (uPort p) with ctx := u.xl.runCtx } = w
  have hnone : w.out = [] := by rw [← hw, hu]; exact hout
  have hremotes : w.remotes = s.remotes := by rw [← hw, hu]; rfl
  simp only [hnone, List.filter_nil, List.any_nil, Bool.or_false]
  rw [State.with_no_out hnone, hremotes]

/-- Settles O51: each step of training and retraining by its rule above. -/
theorem portsTrainAndRetrain : Obligations.PortsTrainAndRetrain := by
  refine ⟨fun s u p peer pairs hp => ⟨fun hst hid => ⟨fun hseen => ?_, fun hx4 => ⟨fun hseen => ?_, fun hseen => ?_⟩⟩,
    fun _ hfabric hid => ?_, seenLanes_all, fun hcarries => ⟨fun hst => ?_, fun hst hsub => ?_⟩, fun hcarries => ⟨?_, ?_⟩,
    fun hst => ?_, fun hst hsub => ?_,
    fun hst hcarries => ⟨fun hfabric hdev hexpect hbond => ?_, fun hhost => ?_, fun d hfabric hdev hexpect hother hu => ?_,
      fun hfabric hdev => ?_⟩⟩,
    fun s u p lane c hp => ⟨fun hst => ⟨fun hdue => ?_, fun hdue => ?_, fun hdue => ?_, fun hlane hok => ?_⟩, fun hst hfails => ?_,
      fun hst hfails hout hu hc => ?_⟩⟩
  · rw [exec_linkDetect, doLinkDetect_all hp hst hid hseen]
  · rw [exec_linkDetect, doLinkDetect_lower hp hst hid hx4 hseen]
  · rw [exec_linkDetect, doLinkDetect_upper hp hst hid hx4 hseen]
  · rw [exec_linkDetect, doLinkDetect_noId hfabric hid]
  · rw [exec_linkEqDone, doLinkEqDone_first hcarries hst]
  · rw [exec_linkEqDone, doLinkEqDone_again hcarries hst hsub]
  · rw [exec_linkEqDone, doLinkEqDone_unhealthy hcarries]
  · rw [exec_linkParamDone, doLinkParamDone_unhealthy hcarries]
  · rw [exec_linkDeskewDone, doLinkDeskewDone_first hst]
  · rw [exec_linkDeskewDone, doLinkDeskewDone_again hst hsub]
  · rw [exec_linkParamDone, doLinkParamDone_up hp hst hcarries hfabric hdev hexpect hbond]
  · rw [exec_linkParamDone, doLinkParamDone_host hp hst hcarries hhost]
  · rw [exec_linkParamDone, doLinkParamDone_unexpected hp hst hcarries hfabric hdev hexpect hother, hu]
  · rw [exec_linkParamDone, doLinkParamDone_duplicate hp hst hcarries hfabric hdev]
  · rw [exec_linkRetrain, doLinkRetrain_frameLock hp hst hdue]
  · rw [exec_linkRetrain, doLinkRetrain_uncorrectable hp hst hdue]
  · rw [exec_linkRetrain, doLinkRetrain_replays hp hst hdue]
  · rw [exec_laneLoss, doLaneLoss_up hp hst hlane hok]
  · rw [exec_retrainAttemptFailed, doRetrainAttemptFailed_again hp hst hfails]
  · rw [exec_linkDown, doLinkDown_third hp hst hfails, State.portDown_idle hout hu hc]

end Sys2Proof.Machine
end

section
/-! Flits that the Rinov ports send, send again and receive (R312, R315, R316, R322, R422). -/

namespace Sys2Proof.Machine

/-! ### What the commands run -/

theorem exec_flitTime (p : Nat) (s : State) : exec (.flitTime p) s = .next (doFlitTime p s) := rfl
theorem exec_flitNakResend (p : Nat) (s : State) : exec (.flitNakResend p) s = .next (doFlitNakResend p s) := rfl
theorem exec_ackTimeoutResend (p : Nat) (s : State) : exec (.ackTimeoutResend p) s = .next (doAckTimeoutResend p s) := rfl
theorem exec_flitReceive (p : Nat) (flit : List Byte) (corr uncorr : Nat) (fc : Option (List Byte)) (s : State) :
    exec (.flitReceive p flit corr uncorr fc) s = .next (doFlitReceive p flit corr uncorr fc s) := rfl

/-! ### Changes of one port -/

theorem modAt_modAt {α : Type} (f g : α → α) : ∀ (l : List α) (i : Nat), modAt (modAt l i f) i g = modAt l i (fun x => g (f x))
  | [], _ => rfl
  | _ :: _, 0 => rfl
  | x :: r, i + 1 => congrArg (x :: ·) (modAt_modAt f g r i)

theorem getElem?_modAt {α : Type} (f : α → α) : ∀ (l : List α) (i : Nat), (modAt l i f)[i]? = l[i]?.map f
  | [], _ => rfl
  | _ :: _, 0 => rfl
  | _ :: r, i + 1 => getElem?_modAt f r i

/-- A change is its image of the one element. -/
theorem modAt_congr {α : Type} {f g : α → α} : ∀ (l : List α) (i : Nat), (∀ x, l[i]? = some x → f x = g x) → modAt l i f = modAt l i g
  | [], _, _ => rfl
  | x :: r, 0, h => congrArg (· :: r) (h x rfl)
  | x :: r, i + 1, h => congrArg (x :: ·) (modAt_congr r i h)

theorem State.modPort_modPort (s : State) (p : Nat) (f g : Port → Port) :
    (s.modPort p f).modPort p g = s.modPort p (fun x => g (f x)) := by
  unfold State.modPort
  rw [modAt_modAt]

/-- A change of a port is what it makes of the port as it stands. -/
theorem State.modPort_const {s : State} {p : Nat} {f : Port → Port} {y : Port} (h : f (s.port p) = y) :
    s.modPort p f = s.modPort p (fun _ => y) := by
  unfold State.modPort
  rw [modAt_congr (g := fun _ => y) s.lnk.ports p]
  intro x hx
  rw [← h, State.port, hx]
  rfl

/-- A port that is not OFF is there, and reads as changed. -/
theorem State.port_modPort {s : State} {p : Nat} (hst : (s.port p).st ≠ 0) (f : Port → Port) :
    (s.modPort p f).port p = f (s.port p) := by
  have hmod : (s.modPort p f).port p = (s.lnk.ports[p]?.map f).getD (Port.reset false) := by
    rw [State.port, State.modPort, getElem?_modAt]
  rw [hmod]
  unfold State.port at hst ⊢
  cases hx : s.lnk.ports[p]? with
  | none => exact absurd (by rw [hx]; rfl) hst
  | some x => rfl

/-! ### Sending (R315, R322, R422) -/

/-- The port sends an IDLE flit, with the credits that it returns. -/
def Port.sendIdle (x : Port) : Port := (takeGive x (giveNow x)).sendFlit x.txSeq 0 (flitBody (giveNow x) [])

section
variable {s : State} {p : Nat} (hp : p < 19) (hst : (s.port p).st = 5)
include hp hst

/-- After a fatal error the port sends IDLE flits. -/
theorem doFlitTime_fatal (hfatal : s.holds.fatal = true) : doFlitTime p s = s.modPort p Port.sendIdle := by
  unfold doFlitTime
  dsimp only
  rw [if_neg (by omega), if_pos hfatal]
  rfl

section
variable (hfatal : s.holds.fatal = false)
include hfatal

/-- A flit of the retry buffer that is to go again. -/
theorem doFlitTime_resends {f : TxFlit} (hf : (s.port p).retry[(s.port p).resend]? = some f) : doFlitTime p s =
    s.modPort p (fun x => ({ x with resend := x.resend + 1 } : Port).sendFlit f.seq 1 f.body) := by
  unfold doFlitTime
  dsimp only
  rw [if_neg (by omega), if_neg (by simp [hfatal]), hf]

section
variable (hnone : (s.port p).retry.length ≤ (s.port p).resend)
include hnone

/-- The retry buffer is full. -/
theorem doFlitTime_full (hfull : min 512 (s.port p).depth ≤ (s.port p).retry.length) : doFlitTime p s = s.modPort p Port.sendIdle := by
  unfold doFlitTime
  dsimp only
  rw [if_neg (by omega), if_neg (by simp [hfatal]), List.getElem?_eq_none hnone]
  exact if_pos hfull

/-- There is nothing to send. -/
theorem doFlitTime_nothing (hfill : s.fillSlots p 40 15 [] = ([], s)) : doFlitTime p s = s.modPort p Port.sendIdle := by
  unfold doFlitTime
  dsimp only
  rw [if_neg (by omega), if_neg (by simp [hfatal]), List.getElem?_eq_none hnone, hfill]
  exact ite_self _

/-- A new DATA flit goes into the retry buffer as it is sent. -/
theorem doFlitTime_sends {l : List Slot} {u : State} (hroom : (s.port p).retry.length < min 512 (s.port p).depth) (hl : l ≠ [])
    (hfill : s.fillSlots p 40 15 [] = (l, u)) : doFlitTime p s = u.modPort p (fun x =>
      ({ takeGive x (giveNow x) with txSeq := (x.txSeq + 1) % 4096, retry := x.retry ++ [TxFlit.mk x.txSeq (flitBody (giveNow x) l)],
                                     resend := x.resend + 1 } : Port).sendFlit x.txSeq 1 (flitBody (giveNow x) l)) := by
  unfold doFlitTime
  dsimp only
  rw [if_neg (by omega), if_neg (by simp [hfatal]), List.getElem?_eq_none hnone, hfill]
  dsimp only
  rw [if_neg (by omega), if_neg (by simp [hl])]

end
end
end

/-- Without waiting packets a port takes none. -/
theorem State.takePacket_none {s : State} (hout : s.out = []) (p : Nat) : s.takePacket p = none := by
  have hnext : (fun ch => s.nextPacket p ch) = fun _ => none := by
    funext ch
    rw [State.nextPacket, hout]
    rfl
  rw [State.takePacket, hnext, List.findSome?_eq_none_iff.mpr fun _ _ => rfl]

/-- With no packet in progress and none waiting there are no slots to send. -/
theorem State.fillSlots_nothing {s : State} {p : Nat} (hcur : (s.port p).cur = []) (hout : s.out = []) (fuel n : Nat) (acc : List Slot) :
    s.fillSlots p fuel n acc = (acc, s) := by
  cases fuel with
  | zero => rfl
  | succ fuel =>
    rw [State.fillSlots, hcur, State.takePacket_none hout]
    exact ite_self _

section
variable {s : State} {p : Nat} (hst : (s.port p).st = 5)
include hst

theorem doFlitNakResend_replays (hnak : (s.port p).nakReq = true) : doFlitNakResend p s = s.modPort p Port.startReplay :=
  if_pos ⟨hst, hnak⟩

theorem doAckTimeoutResend_replays (hretry : (s.port p).retry ≠ []) : doAckTimeoutResend p s = s.modPort p Port.startReplay :=
  if_pos ⟨hst, hretry⟩

end

/-! ### Receiving (R312, R315, R322) -/

/-- An ACK changes the retry buffer alone. -/
theorem Port.acked_eq (x : Port) (n : Nat) :
    x.acked n = { x with retry := (x.acked n).retry, resend := (x.acked n).resend, replays := (x.acked n).replays } := by
  unfold Port.acked
  split
  · rfl
  · dsimp only
    split <;> rfl

theorem Port.acked_rxSeq (x : Port) (n : Nat) : (x.acked n).rxSeq = x.rxSeq := by rw [x.acked_eq]

theorem Port.acked_nakSent (x : Port) (n : Nat) : (x.acked n).nakSent = x.nakSent := by rw [x.acked_eq]

theorem Port.acked_rcvd (x : Port) (n : Nat) : (x.acked n).rcvd = x.rcvd := by rw [x.acked_eq]

/-- Where no packet has arrived, none takes a link. -/
theorem State.routeNew_none {s : State} {p n : Nat} {y : Port} (h : y.rcvd.length ≤ n) :
    State.routeNew p n (s.modPort p (fun _ => y)) = s.modPort p (fun _ => y) := by
  rw [State.routeNew, State.modPort_modPort, List.take_of_length_le h, List.drop_eq_nil_of_le h, List.map_nil, List.append_nil]

/-- The port after a flit's ACK and NAK. -/
def Port.heard (x : Port) (l : List Byte) : Port :=
  if bitOf (lField l 2 2) 12 then { x.acked (lField l 2 2 % 4096) with nakReq := true } else x.acked (lField l 2 2 % 4096)

theorem Port.heard_rxSeq (x : Port) (l : List Byte) : (x.heard l).rxSeq = x.rxSeq := by
  unfold Port.heard
  split <;> exact x.acked_rxSeq _

theorem Port.heard_nakSent (x : Port) (l : List Byte) : (x.heard l).nakSent = x.nakSent := by
  unfold Port.heard
  split <;> exact x.acked_nakSent _

theorem Port.heard_rcvd (x : Port) (l : List Byte) : (x.heard l).rcvd = x.rcvd := by
  unfold Port.heard
  split <;> exact x.acked_rcvd _

/-- One NAK is asked for. -/
def Port.askNak (x : Port) : Port := if x.nakSent then x else { x with nakDue := true, nakSent := true }

theorem Port.askNak_rcvd (x : Port) : x.askNak.rcvd = x.rcvd := by
  unfold Port.askNak
  split <;> rfl

/-- The port after a flit's ACK and NAK and its two credit returns. -/
def Port.credited (x : Port) (l : List Byte) : Port :=
  { x.heard l with
    credits := modAt (modAt (x.heard l).credits (lField l 4 2 % 16) (· + lField l 4 2 / 16)) (lField l 6 2 % 16) (· + lField l 6 2 / 16) }

theorem Port.credited_rxSeq (x : Port) (l : List Byte) : (x.credited l).rxSeq = x.rxSeq := x.heard_rxSeq l
theorem Port.credited_nakSent (x : Port) (l : List Byte) : (x.credited l).nakSent = x.nakSent := x.heard_nakSent l
theorem Port.credited_rcvd (x : Port) (l : List Byte) : (x.credited l).rcvd = x.rcvd := x.heard_rcvd l

/-- What a flit of descrambled bytes `l` makes of its port (R312, R322): `sound` says that no codeword was uncorrectable and the frame lock
stands. -/
def Port.takes (x : Port) (p : Nat) (l : List Byte) (sound : Bool) : Port :=
  if sound && lField l 0 2 / 4096 ≤ 1 && crc32c (l.take 252) == BitVec.ofNat 32 (lField l 252 4) then
    if lField l 0 2 / 4096 = 0 then
      if lField l 0 2 % 4096 = (x.credited l).rxSeq then x.credited l else (x.credited l).askNak
    else if lField l 0 2 % 4096 = (x.heard l).rxSeq then
      ({ x.credited l with rxSeq := ((x.heard l).rxSeq + 1) % 4096, nakSent := false } : Port).accept (unitPort p) (flitSlots l)
    else (x.heard l).askNak
  else x.askNak

theorem Port.askNak_eq {x : Port} {b : Bool} (h : x.nakSent = b) :
    x.askNak = if b then x else { x with nakDue := true, nakSent := true } := by rw [← h, Port.askNak]

section
variable (x : Port) (p : Nat) {l : List Byte}

/-- A flit that is not sound, of no known type or with a wrong FCRC is discarded. -/
theorem Port.takes_bad {sound : Bool}
    (h : sound = false ∨ 8192 ≤ lField l 0 2 ∨ crc32c (l.take 252) ≠ BitVec.ofNat 32 (lField l 252 4)) :
    x.takes p l sound = x.askNak := by
  refine if_neg fun hgood => ?_
  simp only [Bool.and_eq_true, decide_eq_true_eq, beq_iff_eq] at hgood
  obtain ⟨⟨hsound, htyp⟩, hfcrc⟩ := hgood
  rcases h with h | h | h
  · exact Bool.false_ne_true (h.symm.trans hsound)
  · omega
  · exact h hfcrc

section
variable (hfcrc : crc32c (l.take 252) = BitVec.ofNat 32 (lField l 252 4))
include hfcrc

/-- A sound DATA flit in order. -/
theorem Port.takes_next (htyp : lField l 0 2 / 4096 = 1) (hseq : lField l 0 2 % 4096 = x.rxSeq) : x.takes p l true =
    ({ x.credited l with rxSeq := (x.rxSeq + 1) % 4096, nakSent := false } : Port).accept (unitPort p) (flitSlots l) := by
  unfold Port.takes
  rw [if_pos (by simp [htyp, hfcrc]), if_neg (by omega), x.heard_rxSeq, if_pos hseq]

/-- A sound DATA flit with another FSEQ. -/
theorem Port.takes_other (htyp : lField l 0 2 / 4096 = 1) (hseq : lField l 0 2 % 4096 ≠ x.rxSeq) :
    x.takes p l true = (x.heard l).askNak := by
  unfold Port.takes
  rw [if_pos (by simp [htyp, hfcrc]), if_neg (by omega), x.heard_rxSeq, if_neg hseq]

/-- A sound IDLE flit that shows nothing missing. -/
theorem Port.takes_idle (htyp : lField l 0 2 / 4096 = 0) (hseq : lField l 0 2 % 4096 = x.rxSeq) : x.takes p l true = x.credited l := by
  unfold Port.takes
  rw [if_pos (by simp [htyp, hfcrc]), if_pos htyp, x.credited_rxSeq, if_pos hseq]

/-- A sound IDLE flit that is ahead. -/
theorem Port.takes_idleAhead (htyp : lField l 0 2 / 4096 = 0) (hseq : lField l 0 2 % 4096 ≠ x.rxSeq) :
    x.takes p l true = (x.credited l).askNak := by
  unfold Port.takes
  rw [if_pos (by simp [htyp, hfcrc]), if_pos htyp, x.credited_rxSeq, if_neg hseq]

end
end

section
variable {s : State} {p corr uncorr : Nat} {flit l : List Byte} {rx : BitVec 31} {x : Port} (hp : p < 19) (hst : (s.port p).st = 5)
  (hlen : flit.length = 256) (hscr : scramble (s.port p).rx flit = (l, rx))
  (hx : x = { s.port p with
    rx := rx, corr := satAdd 32 (s.port p).corr corr, uncorr := satAdd 32 (s.port p).uncorr uncorr, winBad := (s.port p).winBad + uncorr })
include hp hst hlen hscr hx

/-- A flit with no frame control before it. -/
theorem doFlitReceive_takes : doFlitReceive p flit corr uncorr none s =
    State.routeNew p (s.port p).rcvd.length (s.modPort p (fun _ => x.takes p l (uncorr = 0 && !(s.port p).lockLost))) := by
  unfold doFlitReceive
  dsimp only
  rw [if_neg (by omega)]
  refine congrArg (State.routeNew p _) (State.modPort_const ?_)
  rw [hscr, hx]
  rfl

/-- A flit that brings no packet. -/
theorem doFlitReceive_noPacket {y : Port} (hy : x.takes p l (uncorr = 0 && !(s.port p).lockLost) = y) (hrcvd : y.rcvd = x.rcvd) :
    doFlitReceive p flit corr uncorr none s = s.modPort p (fun _ => y) := by
  have hsame : y.rcvd = (s.port p).rcvd := hrcvd.trans (by rw [hx])
  rw [doFlitReceive_takes hp hst hlen hscr hx, hy, State.routeNew_none (Nat.le_of_eq (congrArg List.length hsame))]

end

/-- The frame control is taken before the flit that it comes with. -/
theorem doFlitReceive_frame {s : State} {p : Nat} {flit : List Byte} (hp : p < 19) (hst : (s.port p).st = 5) (hlen : flit.length = 256)
    (fc : List Byte) (corr uncorr : Nat) :
    doFlitReceive p flit corr uncorr (some fc) s = doFlitReceive p flit corr uncorr none (s.modPort p (fun x => x.frameSeen fc)) := by
  have hport : (s.modPort p (fun x => x.frameSeen fc)).port p = (s.port p).frameSeen fc := State.port_modPort (by omega) _
  have hst' : ((s.port p).frameSeen fc).st = 5 := hst
  unfold doFlitReceive
  dsimp only
  rw [hport, State.modPort_modPort, if_neg (by omega), if_neg (by omega)]
  rfl

/-- Settles O52: a flit time by what the port has to send, and a received flit by `Port.takes`. -/
theorem flitsAreSentAndReceived : Obligations.FlitsAreSentAndReceived := by
  refine ⟨fun s u p f idle hp hst (hidle : idle = s.modPort p Port.sendIdle) => ⟨fun hfatal => ?_,
      fun hfatal => ⟨fun hf => ?_, fun hnone hfull => ?_, fun hnone hcur hout => ?_, fun l hnone hroom hl hfill => ?_⟩,
      fun hnak => ?_, fun hretry => ?_, fun x => ⟨rfl, rfl, rfl⟩⟩,
    fun s p corr uncorr flit l rx x y z cr hp hst hlen hscr hx => ⟨fun hbad => ?_, fun huncorr hlock hfcrc hz hcr => ?_, fun fc => ?_⟩⟩
  · rw [exec_flitTime, doFlitTime_fatal hp hst hfatal, hidle]
  · rw [exec_flitTime, doFlitTime_resends hp hst hfatal hf]
  · rw [exec_flitTime, doFlitTime_full hp hst hfatal hnone hfull, hidle]
  · rw [exec_flitTime, doFlitTime_nothing hp hst hfatal hnone (State.fillSlots_nothing hcur hout _ _ _), hidle]
  · rw [exec_flitTime, doFlitTime_sends hp hst hfatal hnone hroom hl hfill]
  · rw [exec_flitNakResend, doFlitNakResend_replays hst hnak]
  · rw [exec_ackTimeoutResend, doAckTimeoutResend_replays hst hretry]
  · have hunsound : (uncorr = 0 && !(s.port p).lockLost) = false ∨ 8192 ≤ lField l 0 2 ∨
        crc32c (l.take 252) ≠ BitVec.ofNat 32 (lField l 252 4) := by
      rcases hbad with h | h | h
      · exact .inl (by simp [h])
      · exact .inl (by simp [h])
      · exact .inr h
    have hsent : x.nakSent = (s.port p).nakSent := by rw [hx]
    rw [exec_flitReceive, doFlitReceive_noPacket hp hst hlen hscr hx (x.takes_bad p hunsound) x.askNak_rcvd, Port.askNak_eq hsent]
  · have hsound : (uncorr = 0 && !(s.port p).lockLost) = true := by simp [huncorr, hlock]
    have hseqx : x.rxSeq = (s.port p).rxSeq := by rw [hx]
    have hsent : x.nakSent = (s.port p).nakSent := by rw [hx]
    obtain rfl : z = x.heard l := hz
    refine ⟨fun htyp hseq hy => ?_, fun htyp hseq => ?_, fun htyp hy => ?_⟩
    · obtain rfl : y = { x.credited l with rxSeq := (x.rxSeq + 1) % 4096, nakSent := false } := by rw [hy, hcr, hseqx]; rfl
      rw [exec_flitReceive, doFlitReceive_takes hp hst hlen hscr hx, hsound, x.takes_next p hfcrc htyp (hseq.trans hseqx.symm)]
    · have htakes := x.takes_other p hfcrc htyp (hseqx ▸ hseq)
      rw [exec_flitReceive, doFlitReceive_noPacket hp hst hlen hscr hx (hsound ▸ htakes)
        ((x.heard l).askNak_rcvd.trans (x.heard_rcvd l)), Port.askNak_eq ((x.heard_nakSent l).trans hsent)]
    · obtain rfl : y = x.credited l := by rw [hy, hcr]; rfl
      refine ⟨fun hseq => ?_, fun hseq => ?_⟩
      · have htakes := x.takes_idle p hfcrc htyp (hseq.trans hseqx.symm)
        rw [exec_flitReceive, doFlitReceive_noPacket hp hst hlen hscr hx (hsound ▸ htakes) (x.credited_rcvd l)]
      · have htakes := x.takes_idleAhead p hfcrc htyp (hseqx ▸ hseq)
        rw [exec_flitReceive, doFlitReceive_noPacket hp hst hlen hscr hx (hsound ▸ htakes)
          ((x.credited l).askNak_rcvd.trans (x.credited_rcvd l)), Port.askNak_eq ((x.credited_nakSent l).trans hsent)]
  · rw [exec_flitReceive, exec_flitReceive, doFlitReceive_frame hp hst hlen]

end Sys2Proof.Machine
end

section
/-! Packets that go on to other devices, and the answers that settle this device's requests (R324, R326, R329, R330). -/

namespace Sys2Proof.Machine

/-! ### What the commands run -/

theorem exec_packetForward (p i : Nat) (s : State) : exec (.packetForward p i) s = .next (doPacketForward p i s) := rfl
theorem exec_wrack (p i : Nat) (s : State) : exec (.wrack p i) s = .next (doWrack p i s) := rfl
theorem exec_rsack (p i : Nat) (s : State) : exec (.rsack p i) s = .next (doRsack p i s) := rfl
theorem exec_grpack (p i : Nat) (s : State) : exec (.grpack p i) s = .next (doGrpack p i s) := rfl
theorem exec_sigack (p i : Nat) (s : State) : exec (.sigack p i) s = .next (doSigack p i s) := rfl
theorem exec_rdrsp (p i : Nat) (s : State) : exec (.rdrsp p i) s = .next (doRdrsp p i s) := rfl
theorem exec_nak (p i : Nat) (s : State) : exec (.nak p i) s = .next (doNak p i s) := rfl
theorem exec_remoteTimeout (tag : Nat) (s : State) : exec (.remoteTimeout tag) s = .next (doRemoteTimeout tag s) := rfl

/-! ### Forwarding (R324, R326) -/

/-- A packet that has no answer gets none. -/
theorem State.nakBack_unanswered (s : State) (p reason : Nat) {k : Packet} (h : unanswered k.opc = true) : s.nakBack p k reason = s :=
  if_pos h

section
variable {s : State} {p i : Nat} {k : Packet} (hk : s.packetAt p i = some k)
include hk

theorem doPacketForward_unreach (hhop : k.hop = .unreach) : doPacketForward p i s = (s.dropRcvd p i k).nakBack p k 16 := by
  unfold doPacketForward
  rw [hk]
  dsimp only
  rw [hhop]

theorem doPacketForward_local (hhop : k.hop = .loc) : doPacketForward p i s = s := by
  unfold doPacketForward
  rw [hk]
  dsimp only
  rw [hhop]

section
variable {b : Nat} (hhop : k.hop = .bond b)
include hhop

theorem doPacketForward_far (hhops : 3 ≤ k.hops) : doPacketForward p i s = (s.dropRcvd p i k).nakBack p k 18 := by
  unfold doPacketForward
  rw [hk]
  dsimp only
  rw [hhop]
  exact if_pos (by omega)

theorem doPacketForward_goes {u : State} (hu : u = s.dropRcvd p i k) (hhops : k.hops < 3) : doPacketForward p i s =
    { u with out := u.out ++ [{ k with hops := k.hops + 1, via := b, unit := unitPort p }] } := by
  subst hu
  unfold doPacketForward
  rw [hk]
  dsimp only
  rw [hhop]
  exact if_neg (by omega)

end
end

/-! ### Answers at the source (R329, R330) -/

section
variable {s u : State} {p i : Nat} {k : Packet} {r : Remote} (hk : s.packetAt p i = some k) (hloc : k.hop = .loc)
  (hu : u = s.dropRcvd p i k)
include hk hloc hu

theorem doWrack_settles (hopc : k.opc = 0x04) (hasked : u.asked k [0x01] = some r) :
    doWrack p i s = (u.settle r).flushDue r.tile r.queue r.seq := by
  unfold doWrack
  rw [State.onPacket_own hk hloc _ hopc rfl, ← hu, hasked]

theorem doWrack_late (hopc : k.opc = 0x04) (hasked : u.asked k [0x01] = none) : doWrack p i s = u := by
  unfold doWrack
  rw [State.onPacket_own hk hloc _ hopc rfl, ← hu, hasked]

theorem doRsack_settles (hopc : k.opc = 0x11) (hasked : u.asked k [0x10] = some r) : doRsack p i s = u.settle r := by
  unfold doRsack
  rw [State.onPacket_own hk hloc _ hopc rfl, ← hu, hasked]

theorem doGrpack_settles (hopc : k.opc = 0x13) (hasked : u.asked k [0x12] = some r) : doGrpack p i s = u.settle r := by
  unfold doGrpack
  rw [State.onPacket_own hk hloc _ hopc rfl, ← hu, hasked]

theorem doSigack_settles (hopc : k.opc = 0x07) (hasked : u.asked k [0x06] = some r) :
    doSigack p i s = (u.settle r).finishEdge r.tile r.seq := by
  unfold doSigack
  rw [State.onPacket_own hk hloc _ hopc rfl, ← hu, hasked]

/-- Data that carries no tag is not checked. -/
theorem doRdrsp_settles (hopc : k.opc = 0x03) (hasked : u.asked k [0x02] = some r) (hrind : k.rind = none) : doRdrsp p i s =
    (u.settle r).modEntry r.tile r.queue r.seq (fun e => e.modRun (fun w =>
      { w with rbuf := ⟨r.dst, r.addr, k.words.take (r.len / 4), false, r.page, none⟩ :: w.rbuf })) := by
  unfold doRdrsp
  rw [State.onPacket_own hk hloc _ hopc rfl, ← hu, hasked]
  dsimp only
  rw [hrind]
  simp only [Bool.and_false, Bool.false_eq_true, if_false, map_mark_false]

theorem doRdrsp_late (hopc : k.opc = 0x03) (hasked : u.asked k [0x02] = none) : doRdrsp p i s = u := by
  unfold doRdrsp
  rw [State.onPacket_own hk hloc _ hopc rfl, ← hu, hasked]

theorem doNak_fails (hopc : k.opc = 0x05) (hasked : u.remotes.find? (fun y => y.tag == k.tag) = some r) : doNak p i s =
    (u.modPort p (fun x => { x with nakrcvd := satAdd 16 x.nakrcvd 1 })).failRemote r (k.info % 256) := by
  unfold doNak
  rw [State.onPacket_own hk hloc _ hopc rfl, ← hu]
  dsimp only
  rw [State.modPort_remotes, hasked]

end

theorem doRemoteTimeout_fails {s : State} {tag q : Nat} {r : Remote} (hasked : s.remotes.find? (fun y => y.tag == tag) = some r)
    (hport : r.port = some q) : doRemoteTimeout tag s =
      (s.modPort q (fun x => { x with timeout := satAdd 16 x.timeout 1 })).failRemote r 0xFF := by
  unfold doRemoteTimeout
  rw [hasked]
  dsimp only
  rw [hport]

/-- Settles O53: a packet for another device by its hop, an answer by the request that it belongs to. -/
theorem packetsAreForwardedAndSettled : Obligations.PacketsAreForwardedAndSettled := by
  refine ⟨fun s u p i b k hk hu => ⟨fun hhop => ?_, fun hhop => ⟨fun hhops => ?_, fun hhops => ?_⟩, fun hhop => ?_,
      fun hopc reason => u.nakBack_unanswered p reason hopc⟩,
    fun s u p i tag k r hk hloc hu => ⟨fun hopc hasked => ?_, fun hopc hasked => ?_, fun hopc hasked => ?_, fun hopc hasked => ?_,
      fun hopc hasked hrind => ?_, fun hopc hasked => ?_, fun hopc hasked => ?_, fun hopc hasked => ?_, fun q hasked hport => ?_, rfl⟩⟩
  · rw [exec_packetForward, doPacketForward_unreach hk hhop, hu]
  · rw [exec_packetForward, doPacketForward_far hk hhop hhops, hu]
  · rw [exec_packetForward, doPacketForward_goes hk hhop hu hhops]
  · rw [exec_packetForward, doPacketForward_local hk hhop]
  · rw [exec_wrack, doWrack_settles hk hloc hu hopc hasked]
  · rw [exec_rsack, doRsack_settles hk hloc hu hopc hasked]
  · rw [exec_grpack, doGrpack_settles hk hloc hu hopc hasked]
  · rw [exec_sigack, doSigack_settles hk hloc hu hopc hasked]
  · rw [exec_rdrsp, doRdrsp_settles hk hloc hu hopc hasked hrind]
  · rw [exec_rdrsp, doRdrsp_late hk hloc hu hopc hasked]
  · rw [exec_wrack, doWrack_late hk hloc hu hopc hasked]
  · rw [exec_nak, doNak_fails hk hloc hu hopc hasked]
  · rw [exec_remoteTimeout, doRemoteTimeout_fails hasked hport]

end Sys2Proof.Machine
end

section
/-! Checkpoints, routes and roles of the clutch (R326, R361, R363, R366, R375, R377–R379, R382, R427, R440). -/

namespace Sys2Proof.Machine

/-! ### What the commands run -/

theorem exec_ckptDrainDone (ok : Bool) (s : State) : exec (.ckptDrainDone ok) s = .next (doCkptDrainDone ok s) := rfl
theorem exec_ckptdone (dev : Sender) (e : W64) (digs : List (List Byte)) (s : State) :
    exec (.ckptdone dev e digs) s = .next (doCkptdone dev e digs s) := rfl
theorem exec_ckptok (e : W64) (s : State) : exec (.ckptok e) s = .next (doCkptok e s) := rfl
theorem exec_nvmeTimeout (fails : Bool) (s : State) : exec (.nvmeTimeout fails) s = .next (doNvmeTimeout fails s) := rfl
theorem exec_routeupd (ents : List RouteEnt) (s : State) : exec (.routeupd ents) s = .next (doRouteupd ents s) := rfl
theorem exec_routeack (dev : Sender) (s : State) : exec (.routeack dev) s = .next (doRouteack dev s) := rfl
theorem exec_subst (id : Nat) (s : State) : exec (.subst id) s = .next (doSubst id s) := rfl
theorem exec_treecfg (cfg : TreeCfg) (s : State) : exec (.treecfg cfg) s = .next (doTreecfg cfg s) := rfl
theorem exec_xcheck (s : State) : exec .xcheck s = .next (doXcheck s) := rfl

/-! ### Messages (R366) -/

theorem State.send_clu (s : State) (k : Packet) : (s.send k).clu = s.clu := by
  unfold State.send
  split
  · rfl
  · rfl
  · split <;> rfl

theorem State.send_route (s : State) (k : Packet) : (s.send k).lnk.route = s.lnk.route := by
  unfold State.send
  split
  · rfl
  · rfl
  · split <;> rfl

theorem State.cluSend_clu (s : State) (opc dst : Nat) (e : W64) (count flags : Nat) (body : List Nat) :
    (s.cluSend opc dst e count flags body).clu = s.clu := by
  unfold State.cluSend
  split
  · rfl
  · exact s.send_clu _

theorem State.cluSend_route (s : State) (opc dst : Nat) (e : W64) (count flags : Nat) (body : List Nat) :
    (s.cluSend opc dst e count flags body).lnk.route = s.lnk.route := by
  unfold State.cluSend
  split
  · rfl
  · exact s.send_route _

theorem Clu.manager_of_role {c : Clu} (h : c.role = 0) : c.manager = true := beq_iff_eq.mpr h
theorem Clu.not_manager_of_role {c : Clu} (h : c.role ≠ 0) : c.manager = false := beq_eq_false_iff_ne.mpr h

/-- A manager hears a device that has not failed and is the module that it knows by the id. -/
theorem State.fromDev_known {s : State} {x : Sender} (hear : State → State) (hfailed : s.clu.failed.contains x.dev = false)
    (hholder : getDev s.clu.holders x.dev = x.former) : s.fromDev x hear = hear s :=
  if_neg (by rw [hfailed, hholder, bne_self_eq_false, Bool.or_self, Bool.and_false]; exact Bool.false_ne_true)

/-- Any other device hears every sender. -/
theorem State.fromDev_member {s : State} (x : Sender) (hear : State → State) (hrole : s.clu.role ≠ 0) : s.fromDev x hear = hear s :=
  if_neg (by rw [Clu.not_manager_of_role hrole, Bool.false_and]; exact Bool.false_ne_true)

/-! ### The drain of a checkpoint (R363, R375–R380, R427) -/

theorem doCkptDrainDone_none {s : State} (hdrain : s.clu.drain = none) (ok : Bool) : doCkptDrainDone ok s = s := by
  rw [doCkptDrainDone, hdrain]

section
variable {s : State} {c : W64} (hdrain : s.clu.drain = some c)
include hdrain

theorem doCkptDrainDone_stays : doCkptDrainDone false s = s.drainFail := by
  rw [doCkptDrainDone, hdrain]
  rfl

section
variable {u : State} {tab : CkTab} {data : List (List Byte)} (htab : s.clu.table = some tab)
include htab

theorem doCkptDrainDone_poison {a : Nat} (hread : s.drainAll tab c 0 tab.ents = ((data, some a), u)) : doCkptDrainDone true s =
    (u.detect { mkRec clsDeferred cPoisonData uClutch with addr := BitVec.ofNat 64 a }).drainFail := by
  rw [doCkptDrainDone, hdrain]
  dsimp only
  rw [if_neg (by decide), htab, Option.getD_some, hread]

/-- A sound drain: what it stores (`v`), the pieces it hands on and its own copy (`w`), and the drive's flush (`x`). -/
theorem doCkptDrainDone_sound {v w x : State} {digs : List (List Byte)} {cat : List CatEnt} {parts : List CkPart}
    (hread : s.drainAll tab c 0 tab.ents = ((data, none), u)) (hdigs : digs = data.map entryDigest)
    (hcat : cat = catOf u.clu.tree (fullSnap u.clu.snapEvery u.clu.ckSeq) c (newestOf u.clu.saved u.devId) tab digs)
    (hparts : parts = (if u.clu.tree.group.isEmpty then [] else parityParts u.clu.tree
      (((tab.ents.zip data).filter (fun p => !cfgSnaps u.clu.tree p.1.tid)).map (·.2)).flatten) ++ snapParts u.clu.tree c cat data)
    (hv : v = u.freeRange (parAddr tab u.clu.tree u.clu.ckSeq) (u.clu.tree.held / 4))
    (hw : w = State.snapData (v.modClu (fun x => { x with
      cand := some ⟨c, x.ckSeq, [u.clu.tree.group], u.clu.tree.shards, [], [(v.devId, cat)]⟩, outbox := parts })) NvmeCmd.write)
    (hx : x = if w.clu.drive then w.askDrive [.flush] else w) : doCkptDrainDone true s =
      (x.cluSend 0x39 x.clu.mgrId c digs.length 0 ((digs.flatten).map (·.toNat) ++ x.clu.who)).drainEnd := by
  subst hx hw hv hparts hcat hdigs
  rw [doCkptDrainDone, hdrain]
  dsimp only
  rw [if_neg (by decide), htab, Option.getD_some, hread]

end
end

/-- No drive, or nobody's snapshots to keep: the drive gets nothing. -/
theorem State.snapData_none {s : State} (h : s.clu.drive = false ∨ s.clu.tree.snapFor = none) (f : Nat → Nat → NvmeCmd) :
    s.snapData f = s := by
  refine if_neg fun hboth => ?_
  obtain ⟨hdrive, hfor⟩ := Bool.and_eq_true_iff.mp hboth
  rcases h with h | h
  · exact Bool.false_ne_true (h.symm.trans hdrive)
  · rw [h] at hfor
    exact Bool.false_ne_true hfor

/-! ### Reports and completion (R378, R379) -/

theorem doCkptdone_manager {s u : State} {dev : Sender} {e : W64} {digs : List (List Byte)} (hu : u = s.takeClu 0x39)
    (hrole : u.clu.role = 0) (hfailed : u.clu.failed.contains dev.dev = false) (hholder : getDev u.clu.holders dev.dev = dev.former) :
    doCkptdone dev e digs s = u.ckReport dev.dev e digs := by
  subst hu
  rw [doCkptdone, State.fromDev_known _ hfailed hholder, if_pos (Clu.manager_of_role hrole)]

theorem doCkptdone_member {s u : State} {dev : Sender} {e : W64} {digs : List (List Byte)} (hu : u = s.takeClu 0x39)
    (hrole : u.clu.role ≠ 0) : doCkptdone dev e digs s = u := by
  subst hu
  rw [doCkptdone, State.fromDev_member _ _ hrole, if_neg (by simp [Clu.not_manager_of_role hrole])]

/-- A report for another checkpoint than the one in progress. -/
theorem State.ckReport_other {s : State} {e : W64} (h : s.clu.ckRun ≠ some e) (dev : Nat) (digs : List (List Byte)) :
    s.ckReport dev e digs = s := if_neg fun hall => h hall.1

section
variable {s u : State} {e : W64} (hu : u = s.takeClu 0x3A)
include hu

theorem doCkptok_noCopy (hcand : u.clu.cand = none) : doCkptok e s =
    u.modClu (fun x => { x with ckpt := e, ckv := true, slot := x.ckSeq % 2, ckSeq := x.ckSeq + 1, cand := none }) := by
  subst hu
  unfold doCkptok State.modClu
  dsimp only
  rw [hcand]

theorem doCkptok_ownCopy {k : CkRec} (hcand : u.clu.cand = some k) (hepoch : k.epoch = e) : doCkptok e s =
    u.modClu (fun x => { x with
      ckpt := e, ckv := true, slot := x.ckSeq % 2, ckSeq := x.ckSeq + 1, cand := none
      saved := (k :: x.saved).take 2, own := (e :: x.own).take 2 }) := by
  subst hu
  unfold doCkptok State.modClu
  dsimp only
  rw [hcand]
  dsimp only
  rw [if_pos hepoch]

end

section
variable {s u : State} (hdrive : s.clu.drive = true) (hu : u = s.detect (mkRec clsCorrected cNvmeFail uMgmt)) (fails : Bool)
include hdrive hu

theorem doNvmeTimeout_idle (hdrain : u.clu.drain = none) : doNvmeTimeout fails s = u := by
  unfold doNvmeTimeout
  dsimp only
  rw [if_pos hdrive, ← hu, hdrain]
  rfl

theorem doNvmeTimeout_drains {c : W64} (hdrain : u.clu.drain = some c) : doNvmeTimeout fails s = u.drainFail := by
  unfold doNvmeTimeout
  dsimp only
  rw [if_pos hdrive, ← hu, hdrain]
  rfl

end

/-! ### Routes (R326, R361, R382) -/

/-- The route table with one entry written. -/
def putRoute (m : SMap W16) (dev b : Nat) (v : Bool) : SMap W16 :=
  smSet 0#16 m (dev % 4096) (BitVec.ofNat 16 (if v then 0x8000 + b % 32 else 0))

/-- The state after a ROUTEUPD of one entry has been written and acknowledged. -/
def State.routed (u : State) (dev b : Nat) (v : Bool) : State :=
  State.cluSend { u with lnk := { u.lnk with route := putRoute u.lnk.route dev b v } } 0x37 u.clu.mgrId u.epoch 0 0 u.clu.who

theorem State.routed_clu (u : State) (dev b : Nat) (v : Bool) : (u.routed dev b v).clu = u.clu := State.cluSend_clu _ _ _ _ _ _ _
theorem State.routed_route (u : State) (dev b : Nat) (v : Bool) : (u.routed dev b v).lnk.route = putRoute u.lnk.route dev b v :=
  State.cluSend_route _ _ _ _ _ _ _

theorem smGet_putRoute_same {m : SMap W16} (hm : smWf 0#16 m) {dev b : Nat} (hdev : dev < 4096) (hb : b < 32) (v : Bool) :
    smGet 0#16 (putRoute m dev b v) dev = if v then BitVec.ofNat 16 (0x8000 + b) else 0#16 := by
  rw [putRoute, Nat.mod_eq_of_lt hdev, Nat.mod_eq_of_lt hb, smGet_smSet_wf _ _ _ _ hm]
  cases v <;> rfl

theorem smGet_putRoute_other (m : SMap W16) {dev d : Nat} (hdev : dev < 4096) (hd : d ≠ dev) (b : Nat) (v : Bool) :
    smGet 0#16 (putRoute m dev b v) d = smGet 0#16 m d := by
  rw [putRoute, Nat.mod_eq_of_lt hdev, smGet_smSet_other _ _ _ _ _ hd]

section
variable {s u : State} (hu : u = s.takeClu 0x36) (dev b : Nat) (v : Bool)
include hu

theorem doRouteupd_noRoll (hdue : u.clu.rollDue = none) : doRouteupd [⟨dev, b, v⟩] s = u.routed dev b v := by
  have hclu : (u.routed dev b v).clu.rollDue = none := by rw [State.routed_clu, hdue]
  subst hu
  unfold State.routed putRoute at hclu ⊢
  unfold doRouteupd
  dsimp only [List.foldl_cons, List.foldl_nil] at hclu ⊢
  rw [hclu]

/-- A rollback that waited for its routes: the frame with its STATE 1 follows, unless a later rollback is under way. -/
theorem doRouteupd_roll {q : Roll} (hdue : u.clu.rollDue = some q) : doRouteupd [⟨dev, b, v⟩] s =
    if u.clu.roll.isNone then ((u.routed dev b v).modClu (fun c => { c with rollDue := none })).rollFrame q 1
    else (u.routed dev b v).modClu (fun c => { c with rollDue := none }) := by
  have hclu : (u.routed dev b v).clu = u.clu := State.routed_clu _ _ _ _
  subst hu
  unfold State.routed putRoute at hclu ⊢
  unfold doRouteupd
  dsimp only [List.foldl_cons, List.foldl_nil] at hclu ⊢
  rw [hclu, hdue]
  dsimp only
  rw [State.modClu_clu, hclu]

/-- Whatever rollback waits, the route table is the one written. -/
theorem doRouteupd_route : (doRouteupd [⟨dev, b, v⟩] s).lnk.route = putRoute u.lnk.route dev b v := by
  cases hdue : u.clu.rollDue with
  | none => rw [doRouteupd_noRoll hu dev b v hdue, State.routed_route]
  | some q =>
    rw [doRouteupd_roll hu dev b v hdue]
    split
    · exact u.routed_route dev b v
    · exact u.routed_route dev b v

end

section
variable {s u w : State} {ack : Sender} {r h : MgrRoll} (hu : u = s.takeClu 0x37)
include hu

theorem doRouteack_member (hrole : u.clu.role ≠ 0) : doRouteack ack s = u := by
  subst hu
  rw [doRouteack, State.fromDev_member _ _ hrole, if_neg (by simp [Clu.not_manager_of_role hrole])]

section
variable (hrole : u.clu.role = 0) (hfailed : u.clu.failed.contains ack.dev = false) (hholder : getDev u.clu.holders ack.dev = ack.former)
  (hroll : u.clu.rolling = some r) (hphase : r.phase = .routes) (hh : h = { r with dones := addDev r.dones ack.dev })
  (hw : w = u.modClu (fun c => { c with rolling := some h }))
include hrole hfailed hholder hroll hphase hh hw

/-- A manager in the phase of the routes notes an acknowledgement, and goes on with the last one. -/
theorem doRouteack_manager : doRouteack ack s =
    if (u.devId :: u.clu.live ++ u.clu.spares).all h.dones.contains then
      (w.replan.modClu (fun c => { c with rolling := some { h with phase := .spares, dones := [] } })).sendRoll (h.subs.map (·.1)) h false
    else w := by
  subst hu hh hw
  rw [doRouteack, State.fromDev_known _ hfailed hholder, if_pos (Clu.manager_of_role hrole), State.noteRouteack, hroll]
  dsimp only
  rw [if_pos hphase]
  rfl

theorem doRouteack_waits (hmissing : ∃ d ∈ u.devId :: u.clu.live ++ u.clu.spares, d ∉ h.dones) : doRouteack ack s = w := by
  rw [doRouteack_manager hu hrole hfailed hholder hroll hphase hh hw, if_neg]
  intro hall
  obtain ⟨d, hd, hnot⟩ := hmissing
  exact hnot (List.contains_iff_mem.mp (List.all_eq_true.mp hall d hd))

theorem doRouteack_last (hall : ∀ d ∈ u.devId :: u.clu.live ++ u.clu.spares, d ∈ h.dones) : doRouteack ack s =
    (w.replan.modClu (fun c => { c with rolling := some { h with phase := .spares, dones := [] } })).sendRoll (h.subs.map (·.1)) h false := by
  rw [doRouteack_manager hu hrole hfailed hholder hroll hphase hh hw]
  exact if_pos (List.all_eq_true.mpr fun d hd => List.contains_iff_mem.mpr (hall d hd))

end
end

/-! ### Roles and plans (R361, R366, R382) -/

section
variable {s u : State} {id : Nat} (hu : u = s.takeClu 0x38)
include hu

/-- A spare takes the failed device's id. -/
theorem doSubst_spare (hrole : u.clu.role = 3) (hid : id < 4096) : doSubst id s =
    ((({ u with devId := id } : State).modClu (fun c => { c with role := 2, former := some u.devId, origin := some u.devId })).detect
      (mkRec clsCorrected cRole uClutch)).cluFrame 0x12 (leBytes 2 id ++ leBytes 2 u.devId ++ leBytes 1 0) := by
  subst hu
  unfold doSubst
  dsimp only
  rw [if_pos ⟨hrole, hid⟩]

theorem doSubst_other (hrole : u.clu.role ≠ 3) : doSubst id s = u := by
  subst hu
  exact if_neg fun h => hrole h.1

end

/-- A plan of another generation voids the counts, and a last commit is acknowledged again. -/
theorem Clu.plant_newGen {c : Clu} {t : TreeCfg} (h : c.gen ≠ t.gen) : (c.plant t).gen = t.gen ∧ (c.plant t).creadys = [] ∧
    (c.plant t).ccacks = [] ∧ (c.plant t).sent = false ∧ (c.commits ≠ 0#32 → (c.plant t).ackDue = true) := by
  have hnew : ¬ (c.gen = t.gen ∧ c.tree.parent = t.parent ∧ c.tree.children = t.children) := fun hsame => h hsame.1
  refine ⟨rfl, if_neg hnew, if_neg hnew, if_neg hnew, fun hcommits => ?_⟩
  unfold Clu.plant
  dsimp only
  rw [decide_eq_false hnew, bne_iff_ne.mpr hcommits]
  exact Bool.or_true _

/-- A plan of the same tree, without a table, changes the plan alone. -/
theorem Clu.plant_same {c : Clu} {t : TreeCfg} (htable : t.table = none) (hgen : c.gen = t.gen) (hparent : c.tree.parent = t.parent)
    (hchildren : c.tree.children = t.children) : c.plant t = { c with tree := t } := by
  unfold Clu.plant
  dsimp only
  rw [htable, ← hgen, ← hparent, ← hchildren]
  simp

/-- Settles O60: each clause is the rule of its command; a ROUTEUPD also by what the table then holds, and a plan by `Clu.plant`. -/
theorem checkpointsRoutesAndRoles : Obligations.CheckpointsRoutesAndRoles := by
  refine ⟨fun s u v w x c e dev digs data tab cat parts => ⟨fun hdrain => ?_, fun hdrain ok => ?_, fun a hdrain htab hread => ?_,
      fun hdrain htab hread hdigs hcat hparts hv hw hx => ?_, fun f h => State.snapData_none h f, fun hu hrole hfailed hholder => ?_,
      fun hu hrole => ?_, fun hother => State.ckReport_other hother dev.dev digs, fun hu hcand => ?_, fun k hu hcand hepoch => ?_,
      fun f hdrive hu => ⟨fun hdrain => ?_, fun hdrain => ?_⟩⟩,
    fun s u w dev b id ack v cfg r h q => ⟨fun hu hm hdev hb => ?_, fun m hu hm hw => ⟨fun hdue => ?_, fun hdue hroll => ?_⟩,
      fun hu hrole hfailed hholder hroll hphase hh hw => ⟨fun hmissing => ?_, fun hall => ?_⟩, fun hu hrole => ?_, fun hu hrole hid => ?_,
      fun hu hrole => ?_, ?_, fun c hgen => Clu.plant_newGen hgen,
      fun c htable hgen hparent hchildren => Clu.plant_same htable hgen hparent hchildren, ?_⟩⟩
  · rw [exec_ckptDrainDone, doCkptDrainDone_stays hdrain]
  · rw [exec_ckptDrainDone, doCkptDrainDone_none hdrain]
  · rw [exec_ckptDrainDone, doCkptDrainDone_poison hdrain htab hread]
  · rw [exec_ckptDrainDone, doCkptDrainDone_sound hdrain htab hread hdigs hcat hparts hv hw hx]
  · rw [exec_ckptdone, doCkptdone_manager hu hrole hfailed hholder]
  · rw [exec_ckptdone, doCkptdone_member hu hrole]
  · rw [exec_ckptok, doCkptok_noCopy hu hcand]
  · rw [exec_ckptok, doCkptok_ownCopy hu hcand hepoch]
  · rw [exec_nvmeTimeout, doNvmeTimeout_idle hdrive hu f hdrain]
  · rw [exec_nvmeTimeout, doNvmeTimeout_drains hdrive hu f hdrain]
  · refine ⟨doRouteupd [⟨dev, b, v⟩] s, exec_routeupd _ _, ?_, fun d hd => ?_⟩
    · rw [doRouteupd_route hu, smGet_putRoute_same hm hdev hb]
    · rw [doRouteupd_route hu, smGet_putRoute_other _ hdev hd]
  · obtain rfl : w = u.routed dev b v := by rw [hw, hm]; rfl
    rw [exec_routeupd, doRouteupd_noRoll hu dev b v hdue]
  · obtain rfl : w = u.routed dev b v := by rw [hw, hm]; rfl
    rw [exec_routeupd, doRouteupd_roll hu dev b v hdue, hroll]
    rfl
  · rw [exec_routeack, doRouteack_waits hu hrole hfailed hholder hroll hphase hh hw hmissing]
  · rw [exec_routeack, doRouteack_last hu hrole hfailed hholder hroll hphase hh hw hall]
  · rw [exec_routeack, doRouteack_member hu hrole]
  · rw [exec_subst, doSubst_spare hu hrole hid]
  · rw [exec_subst, doSubst_other hu hrole]
  · rw [exec_treecfg, doTreecfg]
  · rw [exec_xcheck, doXcheck]

end Sys2Proof.Machine
end

section
/-! The step and its front command, and the error unit: detection, the class actions, and the way of a record from its detection to the log
(R410, R422, R423, R428–R434). -/

namespace Sys2Proof.Machine

/-! ### Steps -/

/-- Settles O1: the step takes the command off the queue. -/
theorem stepRunsTheFrontCommand : Obligations.StepRunsTheFrontCommand := fun _ _ _ => rfl

/-- Settles O2: the idle step moves the window on while rationing is on, and otherwise leaves the state as it is. -/
theorem idleStepMovesOnlyTheWindow : Obligations.IdleStepMovesOnlyTheWindow := by
  intro s hp
  have hstep : step s = .next s.idle := by rw [step, hp]
  rw [hstep, State.idle]
  split
  · exact ⟨_, _, rfl⟩
  · exact ⟨s.pwr.window, s.holds.ration, rfl⟩

/-! ### What the commands run -/

theorem exec_containedAction (s : State) : exec .containedAction s = .next (doContainedAction s) := rfl
theorem exec_fatalAction (s : State) : exec .fatalAction s = .next (doFatalAction s) := rfl
theorem exec_errorRecordRaise (s : State) : exec .errorRecordRaise s = .next (doErrorRecordRaise s) := rfl
theorem exec_recordHandled (s : State) : exec .recordHandled s = .next (doRecordHandled s) := rfl

/-! ### Detection and the class actions (R422, R423, R428) -/

theorem State.detect_fatalDue (s : State) (r : Rec) : (s.detect r).err.fatalDue = true ↔ s.err.fatalDue = true ∨ r.cls = 3 := by
  simp [State.detect, clsFatal]

theorem State.detect_contDue (s : State) {r : Rec} {c : Nat} (hcls : r.cls = 2) (hcause : r.cause ≠ 0x1A) (hrun : s.xl.runCtx = some c) :
    (s.detect r).err.contDue = s.err.contDue ++ [c] := by
  unfold State.detect
  dsimp only
  rw [hrun]
  exact if_pos ⟨hcls, hcause⟩

theorem State.detect_contDue_same (s : State) {r : Rec} (h : r.cls ≠ 2 ∨ r.cause = 0x1A ∨ s.xl.runCtx = none) :
    (s.detect r).err.contDue = s.err.contDue := by
  unfold State.detect
  dsimp only
  cases hrun : s.xl.runCtx with
  | none => rfl
  | some c =>
    refine if_neg fun ⟨hcls, hcause⟩ => ?_
    rcases h with h | h | h
    · exact h hcls
    · exact hcause h
    · exact Option.some_ne_none c (hrun.symm.trans h)

theorem doContainedAction_due {s : State} {c : Nat} {l : List Nat} (h : s.err.contDue = c :: l) :
    doContainedAction s = (State.stopGrids { s with err := { s.err with contDue := l } } c).failRpt := by
  rw [doContainedAction, h]

theorem doContainedAction_none {s : State} (h : s.err.contDue = []) : doContainedAction s = s := by rw [doContainedAction, h]

theorem doFatalAction_due {s : State} (h : s.err.fatalDue = true) : doFatalAction s = s.fatalHold := if_pos h

/-- A fatal class action holds every tile. -/
theorem State.held_of_fatal {s : State} (h : s.holds.fatal = true) (t : Nat) : s.held t = true :=
  List.any_eq_true.2 ⟨s.holds.fatal, by simp [State.holdBits], h⟩

/-- Settles O30: a detection by what it leaves in each field, the class actions by their two cases. -/
theorem detectionAndClassActions : Obligations.DetectionAndClassActions := by
  refine ⟨fun s r => ⟨rfl, s.detect_fatalDue r, fun c hcls hcause hrun => s.detect_contDue hcls hcause hrun,
    fun h => s.detect_contDue_same h, rfl⟩, fun s c l => ⟨fun h => ?_, fun h => ?_, fun h => ?_, fun u t hu h => ?_⟩⟩
  · rw [exec_containedAction, doContainedAction_due h]
  · rw [exec_containedAction, doContainedAction_none h]
  · rw [exec_fatalAction, doFatalAction_due h]
    rfl
  · rw [exec_fatalAction, doFatalAction_due h] at hu
    obtain rfl := Host.Outcome.next.inj hu
    exact State.held_of_fatal rfl t

/-! ### Repetitions (R432) -/

/-- The first waiting record of class corrected that is the same error takes the repetition. -/
theorem mergeInto_first {r x : Rec} {a b : List Rec} (hcls : x.cls = clsCorrected) (hsame : sameError x r = true)
    (hfirst : ∀ y ∈ a, ¬ (y.cls = clsCorrected ∧ sameError y r = true)) :
    mergeInto r (a ++ x :: b) = some (a ++ { x with rep := x.rep + 1 } :: b) := by
  induction a with
  | nil => exact if_pos ⟨hcls, hsame⟩
  | cons y a ih =>
    have hrest := ih fun z hz => hfirst z (List.mem_cons_of_mem _ hz)
    rw [List.cons_append, mergeInto, if_neg (hfirst y List.mem_cons_self), hrest]
    rfl

theorem sameError_iff (a b : Rec) : sameError a b = true ↔ a.unit = b.unit ∧ a.cause = b.cause ∧ a.sub = b.sub ∧ a.addr = b.addr := by
  simp [sameError, and_assoc]

/-- A record that a unit other than the stopped MP's eft island detects enters the error unit. -/
theorem doErrorRecordRaise_enters {s : State} {r : Rec} {l : List Rec} (hdet : s.err.det = r :: l) (heft : r.eft = false ∨ s.mpRuns = true) :
    doErrorRecordRaise s = { s with err := ErrUnit.enter { s.err with det := l } s.xl.runCtx r } := by
  unfold doErrorRecordRaise
  rw [hdet]
  dsimp only
  refine if_neg fun hmirror => ?_
  obtain ⟨hown, hdead⟩ := Bool.and_eq_true_iff.1 hmirror
  rcases heft with h | h
  · exact Bool.noConfusion (hown.symm.trans h)
  · have hstopped : (!s.mpRuns) = true := hdead
    rw [h] at hstopped
    exact Bool.noConfusion hstopped

theorem ErrUnit.enter_repeats {u : ErrUnit} {r : Rec} {l : List Rec} (run : Option Nat) (h : mergeInto r u.waiting = some l) :
    u.enter run r = { u with waiting := l } := by rw [ErrUnit.enter, h]

theorem ErrUnit.enter_waits {u : ErrUnit} {r : Rec} (run : Option Nat) (h : mergeInto r u.waiting = none) (hroom : u.count < 256) :
    u.enter run r = ErrUnit.pick { u with waiting := putWaiting r u.waiting } := by
  rw [ErrUnit.enter, h]
  exact if_pos hroom

/-- Settles O31: the record enters the error unit, where the first record of its error takes it. -/
theorem repetitionsAddToRepeat : Obligations.RepetitionsAddToRepeat := by
  intro s r x l a b hdet heft hwait hcls hunit hcause hsub haddr hfirst
  have hmerge : mergeInto r s.err.waiting = some (a ++ { x with rep := x.rep + 1 } :: b) := by
    rw [hwait]
    refine mergeInto_first hcls ((sameError_iff x r).2 ⟨hunit, hcause, hsub, haddr⟩) fun y hy ⟨hyc, hys⟩ => ?_
    obtain ⟨hyu, hycause, hysub, hyaddr⟩ := (sameError_iff y r).1 hys
    exact hfirst y hy hyc hyu hycause hysub hyaddr
  rw [exec_errorRecordRaise, doErrorRecordRaise_enters hdet heft]
  rw [ErrUnit.enter_repeats (u := { s.err with det := l }) _ hmerge]

/-! ### Waiting and handling (R429–R431, R433, R434) -/

theorem putWaiting_behind {r x : Rec} (hcls : r.cls ≤ x.cls) (hstamp : x.cls = r.cls → x.stamp ≤ r.stamp) : putWaiting r [x] = [x, r] := by
  refine if_neg fun h => ?_
  rcases h with h | ⟨heq, hlt, -⟩
  · exact Nat.not_lt.2 hcls h
  · exact BitVec.not_lt.2 (hstamp heq) hlt

theorem putWaiting_ahead {r x : Rec} (hcls : x.cls = r.cls) (haside : x.setAside = false) (hstamp : r.stamp < x.stamp) :
    putWaiting r [x] = [r, x] := if_pos (.inr ⟨hcls, hstamp, haside⟩)

theorem ErrUnit.pick_none {u : ErrUnit} (h : u.waiting = []) : u.pick = u := by rw [ErrUnit.pick, h]

theorem ErrUnit.pick_free {u : ErrUnit} {x : Rec} {l : List Rec} (hwait : u.waiting = x :: l) (hhand : u.inHand = none) :
    u.pick = { u with inHand := some x, waiting := l } := by
  rw [ErrUnit.pick, hwait, hhand]

theorem ErrUnit.pick_above {u : ErrUnit} {x h : Rec} {l : List Rec} (hwait : u.waiting = x :: l) (hhand : u.inHand = some h)
    (hcls : h.cls < x.cls) : u.pick = { u with inHand := some x, waiting := putFront { h with setAside := true } l } := by
  rw [ErrUnit.pick, hwait, hhand]
  exact if_pos hcls

/-- A record that finds a place waits, and the next one may be taken in hand. -/
theorem doErrorRecordRaise_waits {s : State} {r : Rec} {l : List Rec} (hdet : s.err.det = r :: l) (heft : r.eft = false)
    (hmerge : mergeInto r s.err.waiting = none) (hroom : s.err.count < 256) :
    doErrorRecordRaise s = { s with err := ErrUnit.pick { s.err with det := l, waiting := putWaiting r s.err.waiting } } := by
  rw [doErrorRecordRaise_enters hdet (.inl heft)]
  rw [ErrUnit.enter_waits (u := { s.err with det := l }) _ hmerge hroom]

theorem State.lostEscRecord_none {s : State} (h : s.err.lostEscDue = false) : s.lostEscRecord = s := by
  rw [State.lostEscRecord, h]
  rfl

/-- The log's number, the ring, the summaries and the frame of the record in hand. -/
theorem doRecordHandled_last {s : State} {r : Rec} {b : List Byte} (hhand : s.err.inHand = some r) (hmp : s.mpRuns = true)
    (hb : b = r.bytes s.err.nextSeq ((if r.setAside then 1 else 0) + 2 * (if s.err.lostBefore then 1 else 0)))
    (hwait : s.err.waiting = []) (hesc : s.err.lostEscDue = false) :
    doRecordHandled s = { s with
      err := { s.err with
        inHand := none, nextSeq := s.err.nextSeq + 1, lostBefore := false, sum := s.err.sum.note r b
        ring := smSet [] s.err.ring (s.err.nextSeq.toNat % 1024) b }
      eft := { s.eft with mirror := s.err.sum.note r b, mirrorSeq := s.err.nextSeq + 1 }
      frames := if postsFrame r then s.frames ++ [⟨r.ctx.getD s.devRing, 0x09, b.take 32⟩] else s.frames } := by
  subst hb
  unfold doRecordHandled
  rw [hhand]
  dsimp only
  rw [if_pos hmp]
  cases postsFrame r
  · rw [if_neg Bool.false_ne_true, if_neg Bool.false_ne_true, State.lostEscRecord_none (by exact hesc), ErrUnit.pick_none (by exact hwait)]
    rfl
  · rw [if_pos rfl, if_pos rfl, State.lostEscRecord_none (by exact hesc), ErrUnit.pick_none (by exact hwait)]
    rfl

/-- Settles O32: a record that repeats none takes its place, and `ErrUnit.pick` chooses the record in hand. -/
theorem recordsWaitAndAreHandled : Obligations.RecordsWaitAndAreHandled := by
  refine ⟨fun s r l hdet heft hmerge hroom => ?_, fun s r b hhand hmp hb hwait hesc => ?_⟩
  · have hraise : exec .errorRecordRaise s =
        .next { s with err := ErrUnit.pick { s.err with det := l, waiting := putWaiting r s.err.waiting } } := by
      rw [exec_errorRecordRaise, doErrorRecordRaise_waits hdet heft hmerge hroom]
    have hput (hempty : s.err.waiting = []) : putWaiting r s.err.waiting = [r] := by rw [hempty]; rfl
    refine ⟨hraise, fun x _ => putWaiting_behind, fun x _ => putWaiting_ahead, fun hnone hempty => ?_, fun h hhand hcls hempty => ?_⟩
    · rw [hraise, ErrUnit.pick_free (x := r) (l := []) (by exact hput hempty) (by exact hnone), ← hempty]
    · rw [hraise, ErrUnit.pick_above (x := r) (l := []) (by exact hput hempty) (by exact hhand) hcls]
      rfl
  · rw [exec_recordHandled, doRecordHandled_last hhand hmp hb hwait hesc]

end Sys2Proof.Machine
end

section
/-! Mode epochs and their fence (R401, R443, R444), the field cross-check (R440–R442), and what the MP and the eft island reach in the tiles
(R446, R476, R478). -/

namespace Sys2Proof.Machine

/-! ### What the commands run -/

theorem exec_modeChange (v : W64) (w : Nat) (s : State) : exec (.modeChange v w) s = .next (doModeChange v w s) := rfl
theorem exec_modeAck (t : Nat) (s : State) : exec (.modeAck t) s = .next (doModeAck t s) := rfl
theorem exec_fenceTimeout (s : State) : exec .fenceTimeout s = .next (doFenceTimeout s) := rfl
theorem exec_mpXchkStart (v : W64) (w : Nat) (s : State) : exec (.mpXchkStart v w) s = .next (doMpXchkStart v w s) := rfl
theorem exec_xchkDone (res : List XchkRes) (s : State) : exec (.xchkDone res) s = .next (doXchkDone res s) := rfl
theorem exec_mpDiagsel (v : W64) (w : Nat) (s : State) : exec (.mpDiagsel v w) s = .next (doMpDiagsel v w s) := rfl
theorem exec_diagReadDone (ok : Bool) (s : State) : exec (.diagReadDone ok) s = .next (doDiagReadDone ok s) := rfl
theorem exec_mpAccessTimeout (u : Nat) (s : State) : exec (.mpAccessTimeout u) s = .next (doMpAccessTimeout u s) := rfl
theorem exec_eftAccessTimeout (wr : Bool) (a : Nat) (v : W64) (s : State) :
    exec (.eftAccessTimeout wr a v) s = .next (doEftAccessTimeout wr a s) := rfl

/-! ### Mode epochs (R443, R444) -/

/-- An accepted change of the mode: its value is posted and the fence opens. -/
theorem doModeChange_free {s : State} {v : W64} (w : Nat) (hbusy : s.wbusy domMp = false) (hlo : 3600 ≤ bitsOf v.toNat 4 17)
    (hhi : bitsOf v.toNat 4 17 ≤ 86400) (href : bitsOf v.toNat 24 8 ≠ 0) :
    doModeChange v w s = { s with
      posted := smSet none s.posted domMp (some (mpReg 0x700, v, w))
      mode := { s.mode with
        mepoch := s.mode.mepoch + 1, fence := true, ack := 0#1024, next := v.getLsbD 0
        hist := smSet false s.mode.hist (s.mode.mepoch + 1).toNat (v.getLsbD 0) }
      pwr := { s.pwr with profile := [] } } := by
  unfold doModeChange
  dsimp only
  rw [hbusy, if_neg Bool.false_ne_true, s.postWrite_free _ _ _ _ hbusy, if_neg href,
    if_pos ⟨hlo, hhi⟩]

theorem doModeChange_busy {s : State} (v : W64) (w : Nat) (hbusy : s.wbusy domMp = true) :
    doModeChange v w s = s.csrAcc w (mpReg 0x700) := if_pos hbusy

/-- A tile's acknowledgement while others are owed. -/
theorem doModeAck_noted {s : State} {t : Nat} (ht : t < 1024) (hfence : s.mode.fence = true) (hack : s.mode.ack.getLsbD t = false)
    (huse : smGet false s.mode.hist s.mode.mepoch.toNat = false) (hdone : (s.tile t).oldWorkDone s.mode.mepoch false = true)
    (howed : s.mode.ack ||| (1#1024 <<< t) ≠ BitVec.allOnes 1024) :
    doModeAck t s = { s with mode := { s.mode with
      ack := s.mode.ack ||| (1#1024 <<< t), fenced := s.mode.fenced &&& ~~~(1#1024 <<< t) } } := by
  have hturn : (decide (t < 1024) && (s.mode.fenced.getLsbD t || (s.mode.fence && !s.mode.ack.getLsbD t)) &&
      (s.tile t).oldWorkDone s.mode.mepoch false) = true := by
    rw [decide_eq_true ht, hfence, hack, hdone]
    simp
  have hrest : (s.mode.fence && s.mode.ack ||| (1#1024 <<< t) == BitVec.allOnes 1024) = false := by
    rw [beq_false_of_ne howed, Bool.and_false]
  unfold doModeAck
  dsimp only
  rw [huse, if_pos hturn, if_neg Bool.false_ne_true]
  exact if_neg (Bool.eq_false_iff.1 hrest)

theorem doFenceTimeout_open {s : State} (hfence : s.mode.fence = true) :
    doFenceTimeout s = ((List.range 1024).foldl (fun u t => if u.mode.ack.getLsbD t then u else u.fenceOff t) s).releaseFence :=
  if_pos hfence

/-- The release of a fence over the tiles of `l`: `State.releaseFence` for all 1,024, which a proof should not count out. -/
def State.releaseOver (s : State) (l : List Nat) : State :=
  let v : W64 := match smGet none s.posted domMp with | some (_, v, _) => v | none => 0#64
  let s := l.foldl (fun (s : State) (t : Nat) =>
    if s.mode.ack.getLsbD t then s.modTile t (fun v => v.setCtr 62 (v.ctr 62 + 1)) else s) s
  let m := s.mode
  { s with
    mode := { m with fence := false, use := m.next, period := idxPeriod s v, maxref := idxMaxref s v } }.clearPost domMp

theorem State.releaseFence_eq (s : State) : s.releaseFence = s.releaseOver (List.range 1024) := rfl

/-- What a release makes of the mode's record: the counters that tiles gain leave it alone. -/
theorem State.releaseOver_mode (s : State) (l : List Nat) : (s.releaseOver l).mode.fence = false ∧ (s.releaseOver l).mode.use = s.mode.next ∧
    (s.releaseOver l).mode.mepoch = s.mode.mepoch := by
  have hsame : (l.foldl (fun (s : State) (t : Nat) =>
      if s.mode.ack.getLsbD t then s.modTile t (fun v => v.setCtr 62 (v.ctr 62 + 1)) else s) s).mode = s.mode := by
    induction l generalizing s with
    | nil => rfl
    | cons t l ih =>
      refine (ih _).trans ?_
      dsimp only
      split <;> rfl
  exact ⟨rfl, congrArg ModeSt.next hsame, (congrArg ModeSt.mepoch hsame :)⟩

theorem State.releaseFence_mode (s : State) : s.releaseFence.mode.fence = false ∧ s.releaseFence.mode.use = s.mode.next ∧
    s.releaseFence.mode.mepoch = s.mode.mepoch := by
  rw [s.releaseFence_eq]
  exact s.releaseOver_mode _

/-- Settles O34: a change of the mode is accepted or logged, an acknowledgement is noted, and the fence ends by its release. -/
theorem modeChangesFenceTheTiles : Obligations.ModeChangesFenceTheTiles := by
  refine fun s v w t => ⟨fun hbusy hlo hhi href => ?_, fun hbusy => ?_, fun ht hfence hack huse hdone howed => ?_, fun hfence => ?_,
    s.releaseFence_mode⟩
  · rw [exec_modeChange, doModeChange_free w hbusy hlo hhi href]
    rfl
  · rw [exec_modeChange, doModeChange_busy v w hbusy]
    rfl
  · rw [exec_modeAck, doModeAck_noted ht hfence hack huse hdone howed]
  · rw [exec_fenceTimeout, doFenceTimeout_open hfence]

/-! ### The cross-check (R440–R442) -/

theorem doMpXchkStart_starts {s : State} {v : W64} (w : Nat) (hbit : v.getLsbD 0 = true) (hidle : s.mp.xState ≠ 1) :
    doMpXchkStart v w s = { s with mp := { s.mp with xState := if s.xl.runCtx.isSome then 3 else 1 } } :=
  if_pos (by rw [hbit, bne_iff_ne.2 hidle]; rfl)

theorem doXchkDone_ends {s : State} (res : List XchkRes) (hrun : s.mp.xState = 1) {x y : State} {odd : List (Nat × Nat)}
    (hx : x = (List.range 512).foldl (fun x t => x.testPair 0x200 t) s) (hodd : odd = x.xchkOdd s res)
    (hy : y = odd.foldl (fun x p => x.rerunPair p.1) x) :
    doXchkDone res s = y.xchkEnd (odd.map (fun p => y.xchkNamed s res p.1 p.2)).flatten := by
  rw [hy, hodd, hx, doXchkDone, if_pos hrun]

section
variable {s old : State} {res : List XchkRes} {t : Nat} (n : Nat)

/-- The tiles of a pair that differ from their neighbours in the rerun too. -/
theorem State.xchkNamed_eq {a b : Option Nat} (ha : s.xchkTest old res true t (t ^^^ 1) = a)
    (hb : s.xchkTest old res true (t ^^^ 0x200) (t ^^^ 0x200 ^^^ 1) = b) :
    s.xchkNamed old res t n =
      if (if a.isSome then [t] else []) ++ (if b.isSome then [t ^^^ 0x200] else []) = [] then [(t, false, n), (t ^^^ 0x200, false, n)]
      else ((if a.isSome then [t] else []) ++ (if b.isSome then [t ^^^ 0x200] else [])).map (fun u => (u, true, n)) := by
  unfold State.xchkNamed
  simp only [List.filter_cons, List.filter_nil, ha, hb]
  cases a <;> cases b <;> rfl

theorem State.xchkNamed_suspect (ha : s.xchkTest old res true t (t ^^^ 1) = none)
    (hb : s.xchkTest old res true (t ^^^ 0x200) (t ^^^ 0x200 ^^^ 1) = none) :
    s.xchkNamed old res t n = [(t, false, n), (t ^^^ 0x200, false, n)] := State.xchkNamed_eq n ha hb

theorem State.xchkNamed_one (ha : s.xchkTest old res true t (t ^^^ 1) ≠ none)
    (hb : s.xchkTest old res true (t ^^^ 0x200) (t ^^^ 0x200 ^^^ 1) = none) : s.xchkNamed old res t n = [(t, true, n)] := by
  obtain ⟨a, ha⟩ := Option.ne_none_iff_exists'.1 ha
  exact State.xchkNamed_eq n ha hb

theorem State.xchkNamed_both (ha : s.xchkTest old res true t (t ^^^ 1) ≠ none)
    (hb : s.xchkTest old res true (t ^^^ 0x200) (t ^^^ 0x200 ^^^ 1) ≠ none) :
    s.xchkNamed old res t n = [(t, true, n), (t ^^^ 0x200, true, n)] := by
  obtain ⟨a, ha⟩ := Option.ne_none_iff_exists'.1 ha
  obtain ⟨b, hb⟩ := Option.ne_none_iff_exists'.1 hb
  exact State.xchkNamed_eq n ha hb

end

/-! ### The diagnostic path, and accesses that time out (R446, R476, R478) -/

theorem doMpDiagsel_posts {s : State} {v : W64} (w : Nat) (hbusy : s.wbusy domMp = false) (hcol : bitsOf v.toNat 8 6 ≤ 32)
    (hofs : bitsOf v.toNat 16 12 % 8 = 0) : doMpDiagsel v w s = { s with
      posted := smSet none s.posted domMp (some (mpReg 0xA00, v, w)), mp := { s.mp with diagValid := false } } := by
  unfold doMpDiagsel
  dsimp only
  rw [hbusy, if_neg Bool.false_ne_true, s.postWrite_free _ _ _ _ hbusy, if_pos hofs,
    if_neg (Nat.not_le.2 (Nat.lt_succ_of_le hcol))]

/-- The read of a tile that serves a logical one. -/
theorem doDiagReadDone_reads {s : State} {v : W64} {w row col t ofs : Nat} (hpost : smGet none s.posted domMp = some (mpReg 0xA00, v, w))
    (hrow : bitsOf v.toNat 0 5 = row) (hcol : bitsOf v.toNat 8 6 = col) (hcols : col ≤ 32) (hofs : bitsOf v.toNat 16 12 = ofs)
    (h8 : ofs % 8 = 0) (htile : s.logicalOf row col = some t) :
    doDiagReadDone true s = { s.clearPost domMp with mp := { s.mp with
      diagRow := row, diagCol := col, diagOfs := ofs, diagValid := true
      diagData := csrRead (s.clearPost domMp) (0x10000000000 + t * 0x800000 + 0x700000 + ofs), timeouts := 0 } } := by
  subst hrow hcol hofs
  have hclear : (s.clearPost domMp).logicalOf (bitsOf v.toNat 0 5) (bitsOf v.toNat 8 6) = some t := htile
  unfold doDiagReadDone
  rw [hpost]
  dsimp only
  rw [if_pos rfl, if_pos (Nat.lt_succ_of_le hcols), if_pos h8, if_pos rfl, if_pos rfl, if_pos rfl, State.diagRead, hclear]
  rfl

/-- A tile that does not answer the MP is fenced off. -/
theorem doMpAccessTimeout_tile {s : State} {u : Nat} (hmp : s.mpRuns = true) (hu : u < 1024) :
    doMpAccessTimeout u s = (s.detect (mkRec clsContained cMpTimeout u)).fenceOff u := by
  have hunit : u ≠ uMgmt := fun h => absurd (h ▸ hu) (by decide)
  rw [doMpAccessTimeout, if_pos hmp, State.mpTimeout]
  dsimp only
  rw [if_pos hu, if_neg hunit]

theorem doEftAccessTimeout_read (s : State) {a : Nat} (hlo : 0x200004D0000 ≤ a) (hhi : a < 0x200004E0000) :
    doEftAccessTimeout false a s = { s with host := { s.host with answer := some (BitVec.allOnes 64, false) } } :=
  if_pos ⟨hlo, hhi, rfl⟩

theorem doEftAccessTimeout_write (s : State) (a : Nat) : doEftAccessTimeout true a s = s :=
  if_neg fun ⟨_, _, hread⟩ => Bool.noConfusion hread

/-- Settles O36: the check by its two commands and by what it names, the diagnostic path and the time-outs by the rule of each command. -/
theorem checksAndDiagnosis : Obligations.ChecksAndDiagnosis := by
  refine fun s v w u => ⟨fun hbit hidle => ?_, fun res odd x y named hrun hx hodd hy hnamed => ?_, fun t => rfl,
    fun old res t n => ⟨State.xchkNamed_suspect n, State.xchkNamed_one n, State.xchkNamed_both n⟩, fun hbusy hcol hofs => ?_,
    fun row col t ofs hpost hrow hcol hcols hofs h8 htile => ?_, fun hmp hu => ?_, fun a hlo hhi => ?_, fun a => ?_⟩
  · rw [exec_mpXchkStart, doMpXchkStart_starts w hbit hidle]
  · rw [exec_xchkDone, doXchkDone_ends res hrun hx hodd hy, ← hnamed]
    rfl
  · rw [exec_mpDiagsel, doMpDiagsel_posts w hbusy hcol hofs]
    rfl
  · rw [exec_diagReadDone, doDiagReadDone_reads hpost hrow hcol hcols hofs h8 htile]
    rfl
  · rw [exec_mpAccessTimeout, doMpAccessTimeout_tile hmp hu]
    rfl
  · rw [exec_eftAccessTimeout, doEftAccessTimeout_read s hlo hhi]
  · rw [exec_eftAccessTimeout, doEftAccessTimeout_write]

end Sys2Proof.Machine
end

section
/-! Offsets of the register blocks that no register has (R472): what a read of one gives, and what a write of one does. -/

namespace Sys2Proof.Machine

/-! ### Families -/

/-- An offset outside a family names none of its registers. -/
theorem idx8_none {off base count : Nat} (h : inFam off base count = false) : idx8 off base count = none := by
  refine if_neg fun ⟨hlo, hhi⟩ => ?_
  rw [inFam, decide_eq_true hlo, decide_eq_true hhi] at h
  exact Bool.noConfusion h

/-! ### Reads of the tile blocks -/

section
variable (s : State) (t off : Nat)

theorem tileReg_unassigned (h : tileAssigned 0 off = false) : tileReg s t off = 0#64 := by
  have hfam : inFam off 0x200 10 = false ∧ inFam off 0x400 7 = false ∧ inFam off 0x440 7 = false := by
    simp only [tileAssigned, Bool.or_eq_false_iff] at h
    exact ⟨h.1.1.2, h.1.2, h.2⟩
  obtain ⟨hnum, haddr, hreason⟩ := hfam
  have h0 : off ≠ 0 := by rintro rfl; exact absurd h (by decide)
  unfold tileReg
  dsimp only
  rw [if_neg h0]
  unfold tileRegOf
  split
  case h_8 => rw [idx8_none hnum, idx8_none haddr, idx8_none hreason]
  all_goals exact absurd h (by decide)

theorem scuReg_unassigned (h : tileAssigned 1 off = false) : scuReg s t off = 0#64 := by
  unfold scuReg
  dsimp only
  split
  case h_7 => rfl
  all_goals exact absurd h (by decide)

theorem arrReg_unassigned (h : tileAssigned 2 off = false) : arrReg s t off = 0#64 := by
  have hfam : inFam off 0x40 8 = false ∧ inFam off 0x110 4 = false := by
    simp only [tileAssigned, Bool.or_eq_false_iff] at h
    exact ⟨h.1.2, h.2⟩
  obtain ⟨htrim, hspill⟩ := hfam
  unfold arrReg
  dsimp only
  split
  case h_11 => rw [idx8_none htrim, idx8_none hspill]
  all_goals exact absurd h (by decide)

theorem prsReg_unassigned (h : tileAssigned 3 off = false) : prsReg s t off = 0#64 := by
  have hfam : inFam off 0x40 8 = false ∧ inFam off 0x1000 320 = false := by
    simp only [tileAssigned, Bool.or_eq_false_iff] at h
    exact ⟨h.1.2, h.2⟩
  obtain ⟨hdigest, hledger⟩ := hfam
  unfold prsReg
  dsimp only
  split
  case h_10 =>
    rw [idx8_none hdigest]
    refine if_neg fun ⟨_, hlo, hhi⟩ => ?_
    rw [inFam, decide_eq_true hlo, decide_eq_true (by omega)] at hledger
    exact Bool.noConfusion hledger
  all_goals exact absurd h (by decide)

theorem mxeReg_unassigned (h : tileAssigned 4 off = false) : mxeReg s t off = 0#64 := by
  unfold mxeReg
  dsimp only
  split
  case h_7 => rfl
  all_goals exact absurd h (by decide)

theorem vecReg_unassigned (h : tileAssigned 5 off = false) : vecReg s t off = 0#64 := by
  have hfam : inFam off 0x100 16 = false ∧ inFam off 0x1000 512 = false := by
    simp only [tileAssigned, Bool.or_eq_false_iff] at h
    exact ⟨h.1.2, h.2⟩
  obtain ⟨halm, hhist⟩ := hfam
  unfold vecReg
  dsimp only
  split
  case h_4 => rw [idx8_none halm, idx8_none hhist]
  all_goals exact absurd h (by decide)

theorem dmaReg_unassigned (h : tileAssigned 6 off = false) : dmaReg s t off = 0#64 := by
  unfold dmaReg
  dsimp only
  split
  case h_5 => rfl
  all_goals exact absurd h (by decide)

/-- A read of an unassigned offset of a tile's blocks. -/
theorem tileBlock_unassigned {blk : Nat} (ho : off < 0x10000) (h : tileAssigned blk off = false) :
    tileBlock s t (0x700000 + blk * 0x10000 + off) = 0#64 := by
  have hblk : (0x700000 + blk * 0x10000 + off) / 0x10000 = blk + 0x70 := by omega
  have hoff : (0x700000 + blk * 0x10000 + off) % 0x10000 = off := by omega
  unfold tileBlock
  rw [hblk, hoff]
  split
  · obtain rfl : blk = 0 := by omega
    exact tileReg_unassigned s t off h
  · obtain rfl : blk = 1 := by omega
    exact scuReg_unassigned s t off h
  · obtain rfl : blk = 2 := by omega
    exact arrReg_unassigned s t off h
  · obtain rfl : blk = 3 := by omega
    exact prsReg_unassigned s t off h
  · obtain rfl : blk = 4 := by omega
    exact mxeReg_unassigned s t off h
  · obtain rfl : blk = 5 := by omega
    exact vecReg_unassigned s t off h
  · obtain rfl : blk = 6 := by omega
    exact dmaReg_unassigned s t off h
  · rfl

end

/-! ### Reads of the edge units' blocks -/

section
variable (s : State) (off : Nat)

theorem memBlock_unassigned {n : Nat} (hn : n < 8) (h : edgeAssigned n off = false) : memBlock s n off = 0#64 := by
  unfold edgeAssigned at h
  rw [if_pos hn, Bool.or_eq_false_iff] at h
  obtain ⟨hlow, hzero⟩ := h
  unfold memBlock
  dsimp only
  split
  case h_4 =>
    by_cases h0 : n = 0
    · simp only [h0, beq_self_eq_true, Bool.true_and, Bool.or_eq_false_iff] at hzero
      obtain ⟨⟨⟨hroot, hinv⟩, hbase⟩, hpre⟩ := hzero
      rw [if_pos h0]
      unfold memReg0
      split
      case h_3 => rw [idx8_none hroot, idx8_none hbase]
      · exact absurd hinv (by decide)
      · exact absurd hpre (by decide)
    · exact if_neg h0
  all_goals exact absurd hlow (by decide)

theorem updBlock_unassigned {n : Nat} (hn : n < 8) (h : edgeAssigned (0x08 + n) off = false) : updBlock s n off = 0#64 := by
  unfold edgeAssigned at h
  rw [if_neg (by omega), if_pos (by omega), Bool.or_eq_false_iff, Bool.or_eq_false_iff] at h
  obtain ⟨⟨hone, hnum⟩, hseq⟩ := h
  unfold updBlock
  dsimp only
  split
  case h_6 => rw [idx8_none hnum, idx8_none hseq]
  all_goals exact absurd hone (by decide)

theorem lnkHost_unassigned (hcfg : inFam off 0x100 2 = false) (hsq : inFam off 0x1000 32 = false) (heq : inFam off 0x1200 32 = false)
    (hroute : inFam off 0x4000 1024 = false) : lnkHost s off = 0#64 := by
  have hring {base : Nat} (hfam : inFam off base 32 = false) : ¬ (base ≤ off ∧ off < base + 0x100) := fun ⟨hlo, hhi⟩ => by
    rw [inFam, decide_eq_true hlo, decide_eq_true hhi] at hfam
    exact Bool.noConfusion hfam
  unfold lnkHost
  split
  case h_3 => rw [if_neg (hring hsq), if_neg (hring heq), idx8_none hroute]
  all_goals exact absurd hcfg (by decide)

theorem lnkBlock_unassigned {p : Nat} (hp : p < 19) (h : edgeAssigned (0x10 + p) off = false) : lnkBlock s p off = 0#64 := by
  unfold edgeAssigned at h
  rw [if_neg (by omega), if_neg (by omega), if_pos (by omega)] at h
  simp only [Bool.or_eq_false_iff] at h
  obtain ⟨⟨⟨hlow, hnum⟩, hone⟩, hhost⟩ := h
  unfold lnkBlock
  dsimp only
  split
  case h_9 =>
    rw [idx8_none hnum]
    by_cases h18 : p = 18
    · simp only [h18, Nat.reduceAdd, beq_self_eq_true, Bool.true_and, Bool.or_eq_false_iff] at hhost
      obtain ⟨⟨⟨hcfg, hsq⟩, heq⟩, hroute⟩ := hhost
      exact (if_pos h18).trans (lnkHost_unassigned s off hcfg hsq heq hroute)
    · exact if_neg h18
  case h_6 | h_7 | h_8 => exact absurd hone (by decide)
  all_goals exact absurd hlow (by decide)

theorem dspBlock_unassigned {p : Nat} (hp : p < 18) (h : edgeAssigned (0x28 + p) off = false) : dspBlock s p off = 0#64 := by
  unfold edgeAssigned at h
  rw [if_neg (by omega), if_neg (by omega), if_neg (by omega), if_pos (by omega), Bool.or_eq_false_iff] at h
  obtain ⟨hzero, hport⟩ := h
  unfold dspBlock
  dsimp only
  rw [if_neg (beq_eq_false_iff_ne.1 hzero)]
  by_cases h0 : p = 0
  · simp only [h0, Nat.add_zero, beq_self_eq_true, Bool.true_and, Bool.or_eq_false_iff] at hport
    obtain ⟨⟨hone, htok⟩, hnum⟩ := hport
    rw [if_pos h0]
    split
    case h_4 => rw [idx8_none htok, idx8_none hnum]
    all_goals exact absurd hone (by decide)
  · exact if_neg h0

theorem cluBlock_unassigned (h : inFam off 0 9 = false) : cluBlock s off = 0#64 := by
  unfold cluBlock
  dsimp only
  split
  case h_10 => rfl
  all_goals exact absurd h (by decide)

theorem mpBlock_unassigned (h : edgeAssigned 0x48 off = false) : mpBlock s off = 0#64 := by
  have hfam : inFam off 0x400 32 = false ∧ inFam off 0x840 16 = false := by
    have h : (([0x0, 0x8, 0x600, 0x700, 0x708, 0x800, 0x900, 0x908, 0xA00, 0xA08].contains off || inFam off 0x400 32) ||
      inFam off 0x840 16) = false := h
    simp only [Bool.or_eq_false_iff] at h
    exact ⟨h.1.2, h.2⟩
  obtain ⟨hskip, hack⟩ := hfam
  unfold mpBlock
  dsimp only
  split
  case h_11 => rw [idx8_none hskip, idx8_none hack]
  all_goals exact absurd h (by decide)

theorem pwrBlock_unassigned (h : inFam off 0 11 = false) : pwrBlock s off = 0#64 := by
  unfold pwrBlock
  dsimp only
  split
  case h_12 => rfl
  all_goals exact absurd h (by decide)

theorem secBlock_unassigned (h : inFam off 0 2 = false) : secBlock s off = 0#64 := by
  unfold secBlock
  dsimp only
  split
  case h_3 => rfl
  all_goals exact absurd h (by decide)

theorem logBlock_unassigned (hlow : inFam off 0 2 = false) (hring : ¬ (0x8000 ≤ off ∧ off < 0x18000)) : logBlock s off = 0#64 := by
  unfold logBlock
  dsimp only
  split
  case h_3 => exact if_neg hring
  all_goals exact absurd hlow (by decide)

theorem eftBlock_unassigned (h : inFam off 0 3 = false) : eftBlock s off = 0#64 := by
  unfold eftBlock
  dsimp only
  split
  case h_4 => rfl
  all_goals exact absurd h (by decide)

/-- A read of an unassigned offset of an edge unit's block. -/
theorem edgeBlock_unassigned {k : Nat} (ho : off < 0x10000) (h8 : off % 8 = 0) (h : edgeAssigned k off = false) :
    edgeBlock s k off = 0#64 := by
  unfold edgeBlock
  by_cases hmem : k < 0x08
  · rw [if_pos hmem, memBlock_unassigned s off hmem h]
  rw [if_neg hmem]
  by_cases hupd : k < 0x10
  · rw [if_pos hupd, updBlock_unassigned s off (by omega) (by rwa [Nat.add_sub_cancel' (by omega)])]
  rw [if_neg hupd]
  by_cases hlnk : k < 0x23
  · rw [if_pos hlnk, lnkBlock_unassigned s off (by omega) (by rwa [Nat.add_sub_cancel' (by omega)])]
  rw [if_neg hlnk]
  by_cases hdsp : 0x28 ≤ k ∧ k < 0x3A
  · rw [if_pos hdsp, dspBlock_unassigned s off (by omega) (by rwa [Nat.add_sub_cancel' hdsp.1])]
  rw [if_neg hdsp]
  split
  · exact cluBlock_unassigned s off h
  · exact mpBlock_unassigned s off h
  · exact pwrBlock_unassigned s off h
  · exact secBlock_unassigned s off h
  · obtain ⟨hlow, hring⟩ := Bool.or_eq_false_iff.1 (show (inFam off 0 2 || (0x8000 ≤ off && off % 8 == 0)) = false from h)
    refine logBlock_unassigned s off hlow fun hin => ?_
    rw [decide_eq_true hin.1, h8] at hring
    exact Bool.noConfusion hring
  · have hring : (decide (off < 0x8000) && off % 8 == 0) = false := h
    have hhigh : inFam (0x10000 + off) 0 2 = false := by simp [inFam]; omega
    refine logBlock_unassigned s _ hhigh fun hin => ?_
    rw [decide_eq_true (by omega), h8] at hring
    exact Bool.noConfusion hring
  · exact eftBlock_unassigned s off h
  · rfl

end

/-! ### Writes -/

section
variable (s : State) (v : W64) (w off : Nat)

theorem logIf_unassigned {b : Bool} (a : Nat) (h : b = false) : s.logIf (!b) w a = s.csrAcc w a := by
  rw [h]
  exact s.logIf_true w a

theorem State.writeTile_unassigned {blk : Nat} (t : Nat) (h : tileAssigned blk off = false) :
    s.writeTile w t blk off v = s.csrAcc w (tileAt t blk off) := by
  unfold State.writeTile
  dsimp only
  split
  case h_12 =>
    have halm : inFam off 0x100 16 = false := by
      simp only [tileAssigned, Bool.or_eq_false_iff] at h
      exact h.1.2
    rw [idx8_none halm]
    exact logIf_unassigned s w _ h
  case h_13 => exact logIf_unassigned s w _ h
  all_goals exact absurd h (by decide)

theorem State.writeMem0_unassigned (h : edgeAssigned 0 off = false) : s.writeMem0 w off v = s.csrAcc w (memReg off) := by
  have hfam : inFam off 0x1000 16 = false ∧ inFam off 0x1100 16 = false := by
    have h : (inFam off 0 3 || (0 == 0 && (inFam off 0x1000 16 || inFam off 0x1080 2 || inFam off 0x1100 16 || off == 0x1180))) = false := h
    simp only [beq_self_eq_true, Bool.true_and, Bool.or_eq_false_iff] at h
    exact ⟨h.2.1.1.1, h.2.1.2⟩
  obtain ⟨hroot, hbase⟩ := hfam
  unfold State.writeMem0
  dsimp only
  split
  case h_4 =>
    rw [idx8_none hroot, idx8_none hbase]
    exact logIf_unassigned s w _ h
  all_goals exact absurd h (by decide)

theorem State.writeLnkHost_unassigned (h : edgeAssigned 0x22 off = false) : s.writeLnkHost w off v = s.csrAcc w (edgeAt 0x22 off) := by
  have hfam : inFam off 0x1000 32 = false ∧ inFam off 0x1200 32 = false := by
    have h : (inFam off 0 5 || inFam off 0x200 7 || [0x280, 0x288, 0x300, 0x308].contains off ||
      (0x22 == 0x22 && (inFam off 0x100 2 || inFam off 0x1000 32 || inFam off 0x1200 32 || inFam off 0x4000 1024))) = false := h
    simp only [beq_self_eq_true, Bool.true_and, Bool.or_eq_false_iff] at h
    exact ⟨h.2.1.1.2, h.2.1.2⟩
  obtain ⟨hsq, heq⟩ := hfam
  have hcfg : off ≠ 0x108 := by rintro rfl; exact absurd h (by decide)
  unfold State.writeLnkHost
  dsimp only
  rw [if_neg hcfg, hsq, heq, if_neg Bool.false_ne_true, if_neg Bool.false_ne_true]
  exact logIf_unassigned s w _ h

theorem State.writeLnk_unassigned {p : Nat} (hp : p < 19) (h : edgeAssigned (0x10 + p) off = false) :
    s.writeLnk w p off v = s.csrAcc w (edgeAt (0x10 + p) off) := by
  have hlow : inFam off 0 5 = false ∧ [0x280, 0x288, 0x300, 0x308].contains off = false := by
    unfold edgeAssigned at h
    rw [if_neg (by omega), if_neg (by omega), if_pos (by omega)] at h
    simp only [Bool.or_eq_false_iff] at h
    exact ⟨h.1.1.1, h.1.2⟩
  obtain ⟨hlow, hone⟩ := hlow
  unfold State.writeLnk
  dsimp only
  split
  case h_1 => exact absurd hlow (by decide)
  case h_5 =>
    by_cases h18 : p = 18
    · subst h18
      exact (if_pos rfl).trans (s.writeLnkHost_unassigned v w off h)
    · rw [if_neg h18]
      exact logIf_unassigned s w _ h
  all_goals exact absurd hone (by decide)

theorem State.writeDsp0_unassigned (h : edgeAssigned 0x28 off = false) : s.writeDsp0 w off v = s.csrAcc w (edgeAt 0x28 off) := by
  unfold State.writeDsp0
  dsimp only
  split
  case h_5 => exact logIf_unassigned s w _ h
  all_goals exact absurd h (by decide)

theorem State.writeClu_unassigned (h : edgeAssigned 0x40 off = false) : s.writeClu w off v = s.csrAcc w (edgeAt 0x40 off) := by
  unfold State.writeClu
  dsimp only
  rw [if_neg]
  · exact logIf_unassigned s w _ h
  · rintro (rfl | rfl | rfl)
    all_goals exact absurd h (by decide)

theorem State.writeMp_unassigned (h : edgeAssigned 0x48 off = false) : s.writeMp w off v = s.csrAcc w (mpReg off) := by
  have hskip : inFam off 0x400 32 = false := by
    have h : (([0x0, 0x8, 0x600, 0x700, 0x708, 0x800, 0x900, 0x908, 0xA00, 0xA08].contains off || inFam off 0x400 32) ||
      inFam off 0x840 16) = false := h
    simp only [Bool.or_eq_false_iff] at h
    exact h.1.2
  unfold State.writeMp
  dsimp only
  split
  case h_6 =>
    rw [idx8_none hskip]
    exact logIf_unassigned s w _ h
  all_goals exact absurd h (by decide)

/-- A write of an unassigned offset of an edge unit's block, where the EFT block is served. -/
theorem State.writeEdge_unassigned {k : Nat} (hmp : k = 0x4D → s.mpRuns = true) (h : edgeAssigned k off = false) :
    s.writeEdge w k off v = s.csrAcc w (edgeAt k off) := by
  have hnone : s.logIf (!edgeAssigned k off) w (edgeAt k off) = s.csrAcc w (edgeAt k off) := logIf_unassigned s w _ h
  unfold State.writeEdge
  dsimp only
  by_cases h0 : k = 0
  · subst h0
    exact (if_pos rfl).trans (s.writeMem0_unassigned v w off h)
  rw [if_neg h0]
  by_cases hmem : k < 0x08
  · rw [if_pos hmem, hnone]
  rw [if_neg hmem]
  by_cases hupd : k < 0x10
  · rw [if_pos hupd, if_neg, hnone]
    unfold edgeAssigned at h
    rw [if_neg hmem, if_pos hupd] at h
    rintro (rfl | rfl | rfl)
    all_goals exact absurd h (by decide)
  rw [if_neg hupd]
  by_cases hlnk : k < 0x23
  · have hk : 0x10 + (k - 0x10) = k := Nat.add_sub_cancel' (by omega)
    rw [if_pos hlnk, s.writeLnk_unassigned v w off (by omega) (by rwa [hk]), hk]
  rw [if_neg hlnk]
  by_cases hdsp : k = 0x28
  · subst hdsp
    exact (if_pos rfl).trans (s.writeDsp0_unassigned v w off h)
  rw [if_neg hdsp]
  split
  · exact s.writeClu_unassigned v w off h
  · exact s.writeMp_unassigned v w off h
  · rw [if_neg, hnone]
    intro hin
    have hoff : off = 0x08 ∨ off = 0x18 ∨ off = 0x20 ∨ off = 0x28 ∨ off = 0x50 := by simpa using hin
    rcases hoff with rfl | rfl | rfl | rfl | rfl
    all_goals exact absurd h (by decide)
  · rw [if_neg, hnone]
    rintro rfl
    exact absurd h (by decide)
  · rw [hmp rfl, if_neg (by decide), if_neg, hnone]
    rintro rfl
    exact absurd h (by decide)
  · exact hnone

end

/-- Settles O37: a read by the registers of each block, a write by the last case of its block. -/
theorem unassignedOffsetsReadZero : Obligations.UnassignedOffsetsReadZero := by
  refine fun s v w off hio hcore ho h8 => ⟨fun t blk ht hb h => ⟨?_, ?_⟩, fun k hk h => ⟨?_, fun hmp => ?_⟩, fun k hlo hhi ho hoff => ?_,
    fun k hlo hhi h0 => ?_⟩
  · have hin : 0x10000000000 ≤ tileAt t blk off ∧ tileAt t blk off < 0x10200000000 := by unfold tileAt tileBase; omega
    have htile : (tileAt t blk off - 0x10000000000) / 0x800000 = t := by unfold tileAt tileBase; omega
    have hrest : (tileAt t blk off - 0x10000000000) % 0x800000 = 0x700000 + blk * 0x10000 + off := by unfold tileAt tileBase; omega
    rw [csrRead, if_pos hin, htile, hrest, tileBlock_unassigned s t off ho h]
  · rw [exec_registerWrite, s.csrStore_tile w t blk off v hcore ht hb ho h8, s.writeTile_unassigned v w off t h]
    rfl
  · have hnot : ¬ (0x10000000000 ≤ edgeAt k off ∧ edgeAt k off < 0x10200000000) := by unfold edgeAt edgeBase; omega
    have hin : 0x20000000000 ≤ edgeAt k off ∧ edgeAt k off < 0x20001000000 := by unfold edgeAt edgeBase; omega
    have hblk : (edgeAt k off - 0x20000000000) / 0x10000 = k := by unfold edgeAt edgeBase; omega
    have hrest : (edgeAt k off - 0x20000000000) % 0x10000 = off := by unfold edgeAt edgeBase; omega
    rw [csrRead, if_neg hnot, if_pos hin, hblk, hrest, edgeBlock_unassigned s off ho h8 h]
  · rw [exec_registerWrite, s.csrStore_edge w k off v hio hk ho h8 (eftDark_edgeAt s k off ho hmp), s.writeEdge_unassigned v w off hmp h]
    rfl
  · unfold edgeAssigned inFam
    rw [if_pos (by omega), decide_eq_false (show ¬ off < 0 + 8 * 3 by omega), beq_false_of_ne (show k ≠ 0 by omega)]
    simp
  · unfold edgeAssigned
    rw [if_neg (by omega), if_neg (by omega), if_neg (by omega), if_pos (by omega), beq_false_of_ne h0,
      beq_false_of_ne (show k ≠ 0x28 by omega)]
    rfl

end Sys2Proof.Machine
end

section
/-! Power (R403, R404, R408–R419): the input and the trips, what a tick of the cap asks for, and the steps of the controller. -/

namespace Sys2Proof.Machine

/-! ### What the commands run -/

theorem exec_inputSample (v i : Nat) (s : State) : exec (.inputSample v i) s = .next (doInputSample v i s) := rfl
theorem exec_inputTrip (why : InTrip) (s : State) : exec (.inputTrip why) s = .next (doInputTrip why s) := rfl
theorem exec_stage1Start (v : Nat) (s : State) : exec (.stage1Start v) s = .next (doStage1Start v s) := rfl
theorem exec_stage1Stop (v : Nat) (s : State) : exec (.stage1Stop v) s = .next (doStage1Stop v s) := rfl
theorem exec_thermalTrip (d : Nat) (s : State) : exec (.thermalTrip d) s = .next (doThermalTrip d s) := rfl
theorem exec_capTick (pin pavg : Nat) (s : State) : exec (.capTick pin pavg) s = .next (doCapTick pin pavg s) := rfl
theorem exec_rationFrame (s : State) : exec .rationFrame s = .next (doRationFrame s) := rfl
theorem exec_setpointSlewStep (s : State) : exec .setpointSlewStep s = .next (doSetpointSlewStep s) := rfl
theorem exec_droopTrip (d : Nat) (s : State) : exec (.droopTrip d) s = .next (doDroopTrip d s) := rfl
theorem exec_droopClear (d us : Nat) (s : State) : exec (.droopClear d us) s = .next (doDroopClear d us s) := rfl
theorem exec_issueRampStep (d : Nat) (s : State) : exec (.issueRampStep d) s = .next (doIssueRampStep d s) := rfl
theorem exec_learnBinEnd (s : State) : exec .learnBinEnd s = .next (doLearnBinEnd s) := rfl
theorem exec_thermalScan (l : List (Nat × Nat)) (s : State) : exec (.thermalScan l) s = .next (doThermalScan l s) := rfl
theorem exec_throttleStep (s : State) : exec .throttleStep s = .next (doThrottleStep s) := rfl
theorem exec_paceRead (d us : Nat) (s : State) : exec (.paceRead d us) s = .next (doPaceRead d us s) := rfl

/-! ### The input and the trips (R40, R403, R404) -/

section
variable {s : State} {v i : Nat}

theorem doInputSample_eq (hon : s.eft.pstate ≠ 0) (hio : s.rails.io = true) : doInputSample v i s =
    { s with
      eft := { s.eft with vin := v }
      pwr := { s.pwr with
        vin := min v 65535, iin := min i 65535, flags := if v < 5000 then s.pwr.flags ||| 8#4 else s.pwr.flags } } := by
  unfold doInputSample
  dsimp only
  rw [if_neg hon, if_pos hio]

theorem doInputTrip_on (why : InTrip) (hon : s.eft.pstate ≠ 0) : doInputTrip why s =
    match why with
    | .under => s.tripRails 2 cUvTrip
    | .over => s.tripRails 3 cOvTrip
    | .current => s.tripRails 4 cOcpTrip := by
  cases why <;> exact if_neg hon

theorem doStage1Start_starts (hoff : s.rails.stage1 = false) (hv : 4800 ≤ v) :
    doStage1Start v s = { s.unpowered with eft := { s.unpowered.eft with vin := v } } := if_pos ⟨hoff, hv⟩

theorem doStage1Stop_stops (hon : s.rails.stage1 = true) (hv : v < 4400) : doStage1Stop v s = { s.unpowered with
    rails := ⟨false, false, false, false⟩, eft := { s.unpowered.eft with pstate := 0, vin := v } } := if_pos ⟨hon, hv⟩

theorem doThermalTrip_trips {d : Nat} (hon : s.eft.pstate ≠ 0) (hd : d < 64) : doThermalTrip d s =
    { s.tripRails 1 cThermTrip with pins := { (s.tripRails 1 cThermTrip).pins with tripAlert := true } } := if_pos ⟨hon, hd⟩

/-- What the eft island takes over of its own records stands in its mirror alone. -/
theorem State.mirrorOwn_frame (s : State) : s.mirrorOwn = { s with eft := s.mirrorOwn.eft } := by
  unfold State.mirrorOwn
  generalize s.err.det.filter (·.eft) = l
  induction l generalizing s with
  | nil => rfl
  | cons r l ih => rw [List.foldl_cons, ih]

/-- Only an update that is being staged breaks with the power. -/
theorem State.breakUpdate_none (s : State) (h : s.sess.status ≠ 1) : s.breakUpdate = s :=
  if_neg fun hboth => h (of_decide_eq_true (Bool.and_eq_true_iff.1 hboth).1)

theorem State.tripRails_flash (s : State) (code cause : Nat) (h : s.sess.status ≠ 1) : (s.tripRails code cause).flash = s.flash := by
  show s.mirrorOwn.breakUpdate.flash = s.flash
  rw [s.mirrorOwn_frame, State.breakUpdate_none _ (by exact h)]

end

/-- Settles O42: a sample, the starts and stops of the input, and the trips, each by the rule of its command. -/
theorem inputsAndTrips : Obligations.InputsAndTrips := by
  refine fun s v i d => ⟨fun hon hio hlo hhi hi => ?_, fun hon hio hlow hi => ?_, fun hon => ⟨?_, ?_, ?_⟩, fun hoff hv => ?_,
    fun hon hv => ?_, fun hon hd => ⟨_, exec_thermalTrip d s, ?_⟩⟩
  · rw [exec_inputSample, doInputSample_eq hon hio, Nat.min_eq_left hhi, Nat.min_eq_left hi, if_neg (Nat.not_lt.2 hlo)]
  · rw [exec_inputSample, doInputSample_eq hon hio, Nat.min_eq_left (by omega), Nat.min_eq_left hi, if_pos hlow]
  · rw [exec_inputTrip, doInputTrip_on _ hon]
    rfl
  · rw [exec_inputTrip, doInputTrip_on _ hon]
    rfl
  · rw [exec_inputTrip, doInputTrip_on _ hon]
    rfl
  · rw [exec_stage1Start, doStage1Start_starts hoff hv]
  · rw [exec_stage1Stop, doStage1Stop_stops hon hv]
  · rw [doThermalTrip_trips hon hd]
    exact ⟨rfl, rfl, rfl, rfl, rfl, rfl, fun h => s.tripRails_flash 1 cThermTrip h⟩

/-! ### The cap (R413–R415) -/

/-- A flag and its record change nothing else of the power controller. -/
theorem State.pwrFlag_pwr (s : State) (i cause : Nat) : ∃ fl, (s.pwrFlag i cause).pwr = { s.pwr with flags := fl } := by
  unfold State.pwrFlag
  split
  · exact ⟨s.pwr.flags, rfl⟩
  · exact ⟨_, rfl⟩

theorem State.pwrApply_none {s : State} (h : s.posted = []) : s.pwrApply = s := by
  unfold State.pwrApply
  rw [h]
  rfl

theorem State.drawUpTo_le (s : State) (n : Nat) : (s.drawUpTo n).1 ≤ n := Nat.le_of_lt_succ (Nat.mod_lt _ n.succ_pos)

theorem fitN_bounds (cal : List Byte) (sample vset cap n : Nat) :
    4 ≤ fitN cal sample vset cap n ∧ fitN cal sample vset cap n ≤ max 4 n := by
  induction n with
  | zero => exact ⟨Nat.le_refl 4, Nat.le_refl 4⟩
  | succ m ih =>
    unfold fitN
    split
    · omega
    · split <;> omega

/-- The floor cannot meet the cap (R415). -/
abbrev Pwr.unattained (p : Pwr) (pavg : Nat) : Prop := (p.vset = 550 ∧ p.n = 4) ∧ p.capw < pavg

/-- What a tick leaves in the power controller: the sample, and an ask within the bounds. -/
theorem doCapTick_pwr {s : State} (pin pavg : Nat) (hio : s.rails.io = true) (hcore : s.rails.core = true) (hpost : s.posted = [])
    {eff : Nat} (heff : eff = if s.pwr.unattained pavg then min pavg 4095 else s.pwr.capw) :
    ∃ (fl : BitVec 4) (l : Option Nat) (v k : Nat) (b : Bool),
      v ≤ (if s.pwr.unattained pavg then 0 else if 11 * eff < 10 * pin then s.pwr.vset - 551 else 250) ∧ k ≤ 60 ∧
      (doCapTick pin pavg s).pwr = { s.pwr with
        pin := min pin 65535, pavg := min pavg 65535, tick := s.pwr.tick + 1, flags := fl, learnV := l, effw := eff
        reach := if s.pwr.vset = 550 ∧ s.pwr.n = 4 then min pavg 4095 else s.pwr.reach
        capV := some (550 + v)
        capN := if s.pwr.unattained pavg then 4 else if 11 * eff < 10 * pin then fitN s.pwr.cal pin s.pwr.vset eff s.pwr.n
          else if b then 4 + k else 64 } := by
  subst heff
  unfold doCapTick
  dsimp only
  rw [if_pos hio, State.pwrApply_none hpost, if_pos hcore]
  have hflag (u : State) : ∃ fl, (if s.pwr.unattained pavg then u.pwrFlag 0 cCapUnatt else u).pwr = { u.pwr with flags := fl } := by
    split
    · exact u.pwrFlag_pwr 0 cCapUnatt
    · exact ⟨u.pwr.flags, rfl⟩
  obtain ⟨fl, hfl⟩ := hflag { s with pwr := { s.pwr with
    pin := min pin 65535, pavg := min pavg 65535, tick := s.pwr.tick + 1
    reach := if s.pwr.vset = 550 ∧ s.pwr.n = 4 then min pavg 4095 else s.pwr.reach } }
  generalize (if s.pwr.unattained pavg then _ else _ : State) = u at hfl ⊢
  have hdraws (n : Nat) : ((u.drawUpTo n).2.drawUpTo 60).2 = { u with freeCtr := u.freeCtr + 1 + 1 } := rfl
  rw [hdraws]
  generalize State.learned _ = l
  generalize (State.slewing _ || _) = b
  refine ⟨fl, l, (u.drawUpTo _).1, ((u.drawUpTo 0).2.drawUpTo 60).1, b, u.drawUpTo_le _, State.drawUpTo_le _ 60, ?_⟩
  dsimp only
  rw [hfl]
  rfl

/-- Settles O43: the ask of a tick by its cases, with `fitN_bounds` for the n of a sample above the cap. -/
theorem capTicksAskWithinBounds : Obligations.CapTicksAskWithinBounds := by
  intro s pin pavg hio hcore hpost hn hlo hhi hpin hpavg
  obtain ⟨fl, l, v, k, b, hv, hk, hpwr⟩ := doCapTick_pwr pin pavg hio hcore hpost rfl
  refine ⟨_, exec_capTick pin pavg s, ?_⟩
  rw [hpwr]
  have hfit (cap : Nat) := fitN_bounds s.pwr.cal pin s.pwr.vset cap s.pwr.n
  have hvle : v ≤ 250 := by
    refine Nat.le_trans hv ?_
    split
    · omega
    · split <;> omega
  refine ⟨Nat.min_eq_left hpin, Nat.min_eq_left hpavg, rfl, rfl, ⟨550 + v, rfl, by omega, by omega⟩, ?_, ?_, fun hup => ?_,
    fun hhigh hvset => ⟨550 + v, rfl, ?_⟩, fun hvset hfloor hcap hreach => ?_⟩
  · dsimp only
    split
    · omega
    · split
      · exact (hfit _).1
      · split <;> omega
  · dsimp only
    split
    · omega
    · split
      · exact Nat.le_trans (hfit _).2 (by omega)
      · split <;> omega
  · exact ⟨if_neg fun hun => hup hun.1, if_neg hup⟩
  · have hup : ¬ s.pwr.unattained pavg := fun hun => absurd hun.1.1 (Nat.ne_of_gt hvset)
    rw [if_neg hup, if_pos hhigh] at hv
    omega
  · have hun : s.pwr.unattained pavg := ⟨⟨hvset, hfloor⟩, hcap⟩
    rw [if_pos hun] at hv
    exact ⟨(if_pos hun).trans (Nat.min_eq_left hreach), (if_pos hun.1).trans (Nat.min_eq_left hreach), by rw [Nat.le_zero.1 hv], if_pos hun⟩

/-! ### The controller (R408–R412, R416, R417, R419) -/

section
variable {s : State} {p : Pwr} (hcore : s.rails.core = true) (hp : s.pwr = p)
include hcore hp

/-- The frame's n, unless a droop holds the setpoint. -/
theorem doRationFrame_eq (hslew : p.slewHold = false) : doRationFrame s = State.inWindow { s with pwr := { p with
    n := if min p.thrN p.capN < p.n then min p.thrN p.capN else min (min p.thrN p.capN) (p.n + 8) } } 0 := by
  subst hp
  unfold doRationFrame
  rw [if_pos hcore]
  dsimp only
  rw [hslew]
  rfl

theorem doSetpointSlewStep_run (hrun : s.eft.pstate = 3) (hslew : p.slewHold = false) : doSetpointSlewStep s = { s with pwr := { p with
    vset := if p.vset < p.target then p.vset + 1 else if p.target < p.vset then p.vset - 1 else p.vset } } := by
  subst hp
  unfold doSetpointSlewStep
  dsimp only
  rw [hcore, hrun, hslew]
  rfl

theorem doSetpointSlewStep_clear (hrun : s.eft.pstate = 3) (hslew : p.slewHold = true) (hdroop : s.holds.droop = 0#64) :
    doSetpointSlewStep s = { s with pwr := { p with slewHold := false } } := by
  subst hp
  unfold doSetpointSlewStep
  dsimp only
  rw [hcore, hrun, if_pos (by decide), if_pos hslew, if_pos hdroop]

theorem doDroopTrip_trips {d : Nat} (hd : d < 64) (hclear : s.holds.droop.getLsbD d = false) : doDroopTrip d s = { s with
    holds := { s.holds with droop := s.holds.droop ||| (1#64 <<< d) }
    pwr := { p with events := satAdd 32 p.events 1, slewHold := true } } := by
  subst hp
  exact if_pos (by rw [hcore, hclear, decide_eq_true hd]; rfl)

theorem doIssueRampStep_steps {d : Nat} (hd : d ≤ 64) : doIssueRampStep d s = { s with
    pwr := { p with ramp := smSet 0 p.ramp d (if 7 ≤ smGet 0 p.ramp d then 0 else smGet 0 p.ramp d + 1) } } := by
  subst hp
  exact if_pos (by rw [hcore, decide_eq_true hd]; rfl)

/-- The end of a bin moves on to the next, and learns nothing while learning is off. -/
theorem doLearnBinEnd_pwr : ∃ l, (doLearnBinEnd s).pwr = { p with epochMs := p.epochMs + 1, tick := 0, profile := l } ∧
    (p.learnEn = false → l = p.profile) := by
  subst hp
  unfold doLearnBinEnd
  rw [if_pos hcore]
  refine ⟨_, rfl, fun hoff => ?_⟩
  rw [hoff]
  rfl

theorem doPaceRead_off {d us : Nat} (hoff : p.paceEn = false) : doPaceRead d us s =
    { s with pwr := { p with achieved := min d 2047, paceV := some us } } := by
  subst hp
  unfold doPaceRead
  rw [if_pos hcore]
  dsimp only
  exact if_neg fun hall => Bool.noConfusion (hoff.symm.trans hall.1)

/-- The first reading, of a tile below 95 °C. -/
theorem doThermalScan_one {d us : Nat} (hd : d < 1056) (hcool : us < 95) (htemps : p.temps = []) (hpos : 0 < us) :
    doThermalScan [(d, us)] s = { s with pwr := { p with temps := [(d, us)], tmax := us, ttile := d, throttle := p.throttle } } := by
  subst hp
  have hmap : smSet 0 [] d (min us 255) = [(d, us)] := by
    rw [Nat.min_eq_left (by omega)]
    exact if_neg (Nat.ne_of_gt hpos)
  unfold doThermalScan
  rw [if_pos hcore]
  dsimp only [List.foldl_cons, List.foldl_nil]
  rw [if_pos hd, htemps, hmap]
  dsimp only [List.foldl_cons, List.foldl_nil]
  simp only [if_pos hpos]
  rw [if_neg (by omega), decide_eq_false (by omega), Bool.or_false]

end

theorem doSetpointSlewStep_notRun {s : State} (hrun : s.eft.pstate ≠ 3) : doSetpointSlewStep s = s := by
  unfold doSetpointSlewStep
  dsimp only
  rw [beq_false_of_ne hrun, Bool.and_false]
  rfl

section
variable {s : State} {p : Pwr} (hp : s.pwr = p)
include hp

theorem doSetpointSlewStep_held (hslew : p.slewHold = true) (hdroop : s.holds.droop ≠ 0#64) : doSetpointSlewStep s = s := by
  subst hp
  unfold doSetpointSlewStep
  dsimp only
  rw [if_pos hslew, if_neg hdroop, ite_self]

theorem doDroopClear_clears {d us : Nat} (htrip : s.holds.droop.getLsbD d = true) : doDroopClear d us s = { s with
    holds := { s.holds with droop := s.holds.droop &&& ~~~(1#64 <<< d) }
    pwr := { p with gatedUs := satAdd 32 p.gatedUs us, ramp := if 1 ≤ us then smSet 0 p.ramp d 1 else p.ramp } } := by
  subst hp
  exact if_pos htrip

theorem doThrottleStep_down (hthr : p.throttle = true) (hhot : 95 ≤ p.tmax) (hroom : 550 < p.thrV.getD p.target) :
    doThrottleStep s = { s with pwr := { p with thrV := some (max 550 (p.thrV.getD p.target - 5)) } } := by
  subst hp
  unfold doThrottleStep
  dsimp only
  rw [if_pos hthr, if_pos hhot, if_pos hroom]

theorem doThrottleStep_up (hthr : p.throttle = true) (hcool : p.tmax ≤ 92) (hroom : p.thrN < 64) :
    doThrottleStep s = { s with pwr := { p with thrN := min 64 (p.thrN + 4) } } := by
  subst hp
  unfold doThrottleStep
  dsimp only
  rw [if_pos hthr, if_neg (by omega), if_pos hcool, if_pos hroom]

end

/-- A saturating count to which nothing is added. -/
theorem satAdd_nothing {w : Nat} (v : BitVec w) : satAdd w v 0 = v :=
  (if_pos v.isLt).trans (by rw [Nat.add_zero, BitVec.ofNat_toNat, BitVec.setWidth_eq])

/-- Settles O44: each step is the rule of its command in the case stated. -/
theorem controllerSteps : Obligations.ControllerSteps := by
  refine fun s p d us hcore hp => ⟨fun hslew hle => ?_, fun hslew hlt => ?_, fun hrun hslew hup => ?_, fun hrun hslew hdown => ?_,
    fun hslew hdroop => ?_, fun hrun => ?_, fun hrun hslew hdroop => ?_, fun hd hclear => ?_, fun htrip hus => ?_, fun htrip => ?_,
    fun k hk hd => ?_, ?_, fun hthr hhot hroom => ?_, fun hthr hcool hroom => ?_, fun hd hcool htemps hpos => ?_, fun hoff hd => ?_⟩
  · have hn : (if min p.thrN p.capN < p.n then min p.thrN p.capN else min (min p.thrN p.capN) (p.n + 8)) = min p.thrN p.capN := by
      split <;> omega
    rw [exec_rationFrame, doRationFrame_eq hcore hp hslew, hn]
  · rw [exec_rationFrame, doRationFrame_eq hcore hp hslew, if_neg (by omega)]
  · rw [exec_setpointSlewStep, doSetpointSlewStep_run hcore hp hrun hslew, if_pos hup]
  · rw [exec_setpointSlewStep, doSetpointSlewStep_run hcore hp hrun hslew, if_neg (by omega), if_pos hdown]
  · rw [exec_setpointSlewStep, doSetpointSlewStep_held hp hslew hdroop]
  · rw [exec_setpointSlewStep, doSetpointSlewStep_notRun hrun]
  · rw [exec_setpointSlewStep, doSetpointSlewStep_clear hcore hp hrun hslew hdroop]
  · rw [exec_droopTrip, doDroopTrip_trips hcore hp hd hclear]
  · rw [exec_droopClear, doDroopClear_clears hp htrip, if_pos hus]
  · rw [exec_droopClear, doDroopClear_clears hp htrip, satAdd_nothing, ← hp]
    rfl
  · rw [exec_issueRampStep, doIssueRampStep_steps hcore hp hd, hk]
  · obtain ⟨l, hpwr, hoff⟩ := doLearnBinEnd_pwr hcore hp
    refine ⟨_, exec_learnBinEnd s, ?_⟩
    rw [hpwr]
    exact ⟨rfl, rfl, rfl, hoff⟩
  · rw [exec_throttleStep, doThrottleStep_down hp hthr hhot hroom]
  · rw [exec_throttleStep, doThrottleStep_up hp hthr hcool hroom]
  · rw [exec_thermalScan, doThermalScan_one hcore hp hd hcool htemps hpos]
  · rw [exec_paceRead, doPaceRead_off hcore hp hoff, Nat.min_eq_left hd]

end Sys2Proof.Machine
end

section
/-! The board lines and the cold reset (R450, R451, R484–R488), what the management processor keeps (R377, R447, R449, R452), start-up (R453,
R454, R460), and the state after a cold reset. -/

namespace Sys2Proof.Machine

/-! ### What the commands run -/

theorem exec_coldReset (s : State) : exec .coldReset s = .next (doColdReset s) := rfl
theorem exec_modPwrenAssert (s : State) : exec .modPwrenAssert s = .next (doModPwrenAssert s) := rfl
theorem exec_modPwrenDeassert (s : State) : exec .modPwrenDeassert s = .next (doModPwrenDeassert s) := rfl
theorem exec_lockoutExpire (s : State) : exec .lockoutExpire s = .next (doLockoutExpire s) := rfl
theorem exec_modResetNAssert (s : State) : exec .modResetNAssert s = .next (doModResetNAssert s) := rfl
theorem exec_modResetNDeassert (s : State) : exec .modResetNDeassert s = .next (doModResetNDeassert s) := rfl
theorem exec_resetHeldTimeout (s : State) : exec .resetHeldTimeout s = .next (doResetHeldTimeout s) := rfl
theorem exec_boardHaltNAssert (s : State) : exec .boardHaltNAssert s = .next (doBoardHaltNAssert s) := rfl
theorem exec_boardHaltNDeassert (s : State) : exec .boardHaltNDeassert s = .next (doBoardHaltNDeassert s) := rfl
theorem exec_haltHeldTimeout (s : State) : exec .haltHeldTimeout s = .next (doHaltHeldTimeout s) := rfl
theorem exec_hostPortWake (s : State) : exec .hostPortWake s = .next (doHostPortWake s) := rfl
theorem exec_mpWatchdogSignal (s : State) : exec .mpWatchdogSignal s = .next (doMpWatchdogSignal s) := rfl
theorem exec_mpWatchdogExpire (s : State) : exec .mpWatchdogExpire s = .next (doMpWatchdogExpire s) := rfl
theorem exec_timekeeperTick (s : State) : exec .timekeeperTick s = .next (doTimekeeperTick s) := rfl
theorem exec_startUp (env : StartEnv) (s : State) : exec (.startUp env) s = .next (doStartUp env s) := rfl
theorem exec_stackTrained (n : Nat) (ok : Bool) (s : State) : exec (.stackTrained n ok) s = .next (doStackTrained n ok s) := rfl
theorem exec_startupReady (env : ReadyEnv) (s : State) : exec (.startupReady env) s = .next (doStartupReady env s) := rfl
theorem exec_startupDeadline (s : State) : exec .startupDeadline s = .next (doStartupDeadline s) := rfl
theorem exec_regulatorRead (vals : List Nat) (s : State) : exec (.regulatorRead vals) s = .next (doRegulatorRead vals s) := rfl
theorem exec_smartLogRead (page : List Byte) (s : State) : exec (.smartLogRead page) s = .next (doSmartLogRead page s) := rfl
theorem exec_sensorSnapshot (s : State) : exec .sensorSnapshot s = .next (doSensorSnapshot s) := rfl

/-! ### The state after a cold reset (R451) -/

/-- Settles O3: the state is the one of the definition, whose registers are evaluated. -/
theorem resetLeavesTheModule : Obligations.ResetLeavesTheModule :=
  ⟨⟨State.reset_canon, rfl, fun _ => rfl⟩, by decide, by decide, by decide, by decide, by decide, by decide, by decide, by decide⟩

/-! ### The board lines (R450, R484–R488) -/

theorem State.powered_iff (s : State) : s.powered = true ↔ s.eft.pstate ≠ 0 := bne_iff_ne

section
variable {s : State} (hon : s.eft.pstate ≠ 0)
include hon

theorem doModPwrenAssert_rises (hline : s.pins.pwren = false) : doModPwrenAssert s =
    { s with pins := { s.pins with pwren := true }, eft := { s.eft with startPend := true } } :=
  if_pos (by rw [s.powered_iff.2 hon, hline]; rfl)

theorem doModPwrenDeassert_falls (hline : s.pins.pwren = true) : doModPwrenDeassert s =
    let u := if 2 ≤ s.eft.pstate then s.railsOff else s
    { u with pins := { u.pins with pwren := false }, eft := { u.eft with startPend := false, lockout := true } } :=
  if_pos (by rw [s.powered_iff.2 hon, hline]; rfl)

theorem doModResetNAssert_rises (hline : s.pins.rst = false) : doModResetNAssert s =
    State.coldState { s with pins := { s.pins with rst := true, resetLogged := false } } :=
  if_pos (by rw [s.powered_iff.2 hon, hline]; rfl)

theorem doModResetNDeassert_falls (hline : s.pins.rst = true) : doModResetNDeassert s =
    { s with pins := { s.pins with rst := false }, eft := { s.eft with rstLow := false, startPend := s.pins.pwren } } :=
  if_pos (by rw [s.powered_iff.2 hon, hline]; rfl)

theorem doResetHeldTimeout_first (hline : s.pins.rst = true) (hlog : s.pins.resetLogged = false) : doResetHeldTimeout s =
    State.eftRecord { s with pins := { s.pins with resetLogged := true }, eft := { s.eft with rstLow := true } } clsFatal cResetHeld :=
  if_pos (by rw [s.powered_iff.2 hon, hline, hlog]; rfl)

theorem doBoardHaltNAssert_rises (hline : s.pins.halt = false) : doBoardHaltNAssert s =
    { s with pins := { s.pins with halt := true, haltLogged := false } } :=
  if_pos (by rw [s.powered_iff.2 hon, hline]; rfl)

theorem doBoardHaltNDeassert_falls (hline : s.pins.halt = true) : doBoardHaltNDeassert s = { s with
    pins := { s.pins with halt := false }
    pwr := { s.pwr with ramp :=
      if s.rails.core then (List.range 64).foldl (fun m d => smSet 0 m d 1) s.pwr.ramp else s.pwr.ramp } } :=
  if_pos (by rw [s.powered_iff.2 hon, hline]; rfl)

theorem doHaltHeldTimeout_first (hline : s.pins.halt = true) (hlog : s.pins.haltLogged = false) : doHaltHeldTimeout s =
    State.eftRecord { s with pins := { s.pins with haltLogged := true } } clsCorrected cHaltHeld :=
  if_pos (by rw [s.powered_iff.2 hon, hline, hlog]; rfl)

theorem doColdReset_on : doColdReset s = s.coldState := if_pos (s.powered_iff.2 hon)

end

/-- BOARD_HALT_N holds every tile. -/
theorem State.held_of_halt {s : State} (h : s.pins.halt = true) (t : Nat) : s.held t = true :=
  List.any_eq_true.2 ⟨s.pins.halt, by simp [State.holdBits], h⟩

/-- A cold reset outside the checks of an update leaves the flash. -/
theorem State.coldState_flash (s : State) (h : s.sess.status ≠ 1) : s.coldState.flash = s.flash := by
  show s.mirrorOwn.breakUpdate.flash = s.flash
  rw [s.mirrorOwn_frame, State.breakUpdate_none _ (by exact h)]

/-- What outlasts a cold reset. -/
theorem State.coldState_kept (s : State) : s.coldState.hostMem = s.hostMem ∧ s.coldState.pending = s.pending ∧
    s.coldState.eft.startPend = (s.pins.pwren && !s.pins.rst) := by
  have hbreak (u : State) : u.breakUpdate.hostMem = u.hostMem ∧ u.breakUpdate.pending = u.pending ∧ u.breakUpdate.pins = u.pins := by
    unfold State.breakUpdate
    split
    · dsimp only
      split <;> exact ⟨rfl, rfl, rfl⟩
    · exact ⟨rfl, rfl, rfl⟩
  obtain ⟨hmem, hpend, hpins⟩ := hbreak s.mirrorOwn
  rw [s.mirrorOwn_frame] at hmem hpend hpins
  have hstart : s.coldState.eft.startPend = (s.mirrorOwn.breakUpdate.pins.pwren && !s.mirrorOwn.breakUpdate.pins.rst) := rfl
  refine ⟨?_, ?_, ?_⟩
  · show s.mirrorOwn.breakUpdate.hostMem = s.hostMem
    rw [s.mirrorOwn_frame, hmem]
  · show s.mirrorOwn.breakUpdate.pending = s.pending
    rw [s.mirrorOwn_frame, hpend]
  · rw [hstart, s.mirrorOwn_frame, hpins]

/-- Settles O45: each line by its rule, the cold reset by what it leaves. -/
theorem boardLinesAndReset : Obligations.BoardLinesAndReset := by
  refine ⟨fun s hon => ⟨fun hline => ?_, fun hline heft => ?_, fun hline hup => ?_, fun hlock => ?_, fun hline => ?_, fun hline => ?_,
    fun hline hlog => ?_, fun hline => ?_, fun t u hline hu => ?_, fun hline hcore => ?_, fun hline hcore => ?_, fun hline hlog => ?_,
    fun heft hline hwake => ?_⟩, fun s hon hsess => ?_⟩
  · rw [exec_modPwrenAssert, doModPwrenAssert_rises hon hline]
  · rw [exec_modPwrenDeassert, doModPwrenDeassert_falls hon hline, if_neg (by omega)]
  · rw [exec_modPwrenDeassert, doModPwrenDeassert_falls hon hline, if_pos hup]
  · exact congrArg Host.Outcome.next (if_pos hlock)
  · rw [exec_modResetNAssert, doModResetNAssert_rises hon hline]
  · rw [exec_modResetNDeassert, doModResetNDeassert_falls hon hline]
  · rw [exec_resetHeldTimeout, doResetHeldTimeout_first hon hline hlog]
    rfl
  · rw [exec_boardHaltNAssert, doBoardHaltNAssert_rises hon hline]
  · rw [exec_boardHaltNAssert, doBoardHaltNAssert_rises hon hline] at hu
    obtain rfl := Host.Outcome.next.inj hu
    exact State.held_of_halt rfl t
  · rw [exec_boardHaltNDeassert, doBoardHaltNDeassert_falls hon hline, hcore]
    rfl
  · rw [exec_boardHaltNDeassert, doBoardHaltNDeassert_falls hon hline, if_pos hcore]
  · rw [exec_haltHeldTimeout, doHaltHeldTimeout_first hon hline hlog]
    rfl
  · exact congrArg Host.Outcome.next (if_pos ⟨heft, hline, hwake⟩)
  · obtain ⟨hmem, hpend, hstart⟩ := s.coldState_kept
    refine ⟨_, exec_coldReset s, ?_⟩
    rw [doColdReset_on hon]
    exact ⟨rfl, rfl, rfl, rfl, rfl, rfl, rfl, rfl, rfl, rfl, s.coldState_flash hsess, hmem, hpend, hstart⟩

/-! ### The watchdog, the timekeeper and the readings (R377, R447, R449, R452) -/

section
variable {s : State} (hmp : s.mpRuns = true)
include hmp

theorem doMpWatchdogSignal_notes : doMpWatchdogSignal s = { s with eft := { s.eft with signalAt := s.time } } := if_pos hmp

/-- The MP is dead: the fatal class action, and the eft island's own record. -/
theorem doMpWatchdogExpire_dead : doMpWatchdogExpire s =
    (State.fatalHold { s with mp := { s.mp with alive := false }, eft := { s.eft with mpDead := true } }).mirrorRecord
      { mkRec clsFatal cMpFault uEft with eft := true } := if_pos hmp

theorem doRegulatorRead_keeps (vals : List Nat) : doRegulatorRead vals s = { s with mp := { s.mp with regs := vals } } := if_pos hmp

theorem doSmartLogRead_drive (page : List Byte) (hdrive : s.clu.drive = true) : doSmartLogRead page s =
    State.askDrive { s with err := { s.err with sum := { s.err.sum with smart := page } }
                            eft := { s.eft with mirror := { s.err.sum with smart := page } } } [.smartLog] :=
  if_pos (by rw [hmp, hdrive]; rfl)

end

theorem doSmartLogRead_noDrive {s : State} (page : List Byte) (hdrive : s.clu.drive = false) : doSmartLogRead page s = s :=
  if_neg (by rw [hdrive, Bool.and_false]; exact Bool.false_ne_true)

/-- Free readings are draws and nothing else. -/
theorem freeReadings_state (n : Nat) (s : State) : (freeReadings n s).2 = { s with freeCtr := s.freeCtr + n } := by
  induction n generalizing s with
  | zero => rfl
  | succ n ih =>
    refine (ih s.draw.2).trans ?_
    unfold State.draw
    dsimp only
    rw [Nat.add_assoc, Nat.add_comm 1 n]

/-- A snapshot of every reading, those of the trip sensors drawn. -/
theorem doSensorSnapshot_keeps {s u : State} {trips : List Nat} (hmp : s.mpRuns = true) (hread : freeReadings 64 s = (trips, u)) :
    doSensorSnapshot s = { u with eft := { u.eft with
      snap := ([s.time.toNat, s.pwr.vin, s.pwr.iin, s.holds.droop.toNat] ++ s.stackRegs.map (fun k => k.temp.toNat) ++ trips ++
        (List.range 1056).map (fun p => smGet 0 s.pwr.temps p) ++ s.mp.regs) } } := by
  have hu : u = { s with freeCtr := s.freeCtr + 64 } := by rw [← freeReadings_state, hread]
  unfold doSensorSnapshot
  rw [if_pos hmp, hread, hu]

/-- Settles O46: the watchdog, the timekeeper and each reading by the rule of its command. -/
theorem managementKeepsTime : Obligations.ManagementKeepsTime := by
  refine ⟨fun s r vin => ⟨fun hmp => ?_, fun hmp hr => ?_, fun u t hmp hu => ?_, fun hon => ?_, fun hoff => ?_, fun hrail hv => ?_⟩,
    fun s vals page hmp => ⟨?_, fun hdrive => ?_, fun hdrive => ?_, fun trips u hread => ?_⟩⟩
  · rw [exec_mpWatchdogSignal, doMpWatchdogSignal_notes hmp]
  · rw [exec_mpWatchdogExpire, doMpWatchdogExpire_dead hmp, hr]
    rfl
  · rw [exec_mpWatchdogExpire, doMpWatchdogExpire_dead hmp] at hu
    obtain rfl := Host.Outcome.next.inj hu
    exact State.held_of_fatal rfl t
  · exact congrArg Host.Outcome.next (if_pos (s.powered_iff.2 hon))
  · exact congrArg Host.Outcome.next (if_neg fun hon => s.powered_iff.1 hon hoff)
  · exact ⟨_, exec_stage1Start vin s, by rw [doStage1Start_starts hrail hv]; rfl⟩
  · rw [exec_regulatorRead, doRegulatorRead_keeps hmp]
  · rw [exec_smartLogRead, doSmartLogRead_drive hmp page hdrive]
  · rw [exec_smartLogRead, doSmartLogRead_noDrive page hdrive]
  · rw [exec_sensorSnapshot, doSensorSnapshot_keeps hmp hread]

/-! ### Start-up (R453, R454, R460) -/

/-- Start-up has come to step 7 of an MP that runs. -/
def State.atSelfTests (s : State) : Prop := s.mpRuns = true ∧ s.mp.state = 1 ∧ s.mp.step = 7

theorem doStackTrained_at {s : State} {n : Nat} (h : s.atSelfTests) (hn : n < 8) (ok : Bool) : doStackTrained n ok s =
    if ok then { s with stackRegs := modAt s.stackRegs n (fun k => { k with ready := true }) } else s.stopStart := by
  obtain ⟨hmp, hstate, hstep⟩ := h
  exact if_pos (by rw [hmp, hstate, hstep, decide_eq_true hn]; rfl)

theorem doStartupDeadline_stops {s : State} (hmp : s.mpRuns = true) (hstate : s.mp.state = 1) : doStartupDeadline s = s.stopStart :=
  if_pos (by rw [hmp, hstate]; rfl)

/-- What the first step of a start-up sets, and the steps up to the self-tests keep. -/
def State.starting (u : State) (posId : Nat) : Prop :=
  u.pins.posId = posId ∧ u.rails.io = true ∧ u.eft.startPend = false ∧ (u.eft.pstate = 2 ∨ u.eft.pstate = 4)

theorem State.starting_bringUp {u : State} {n : Nat} (env : StartEnv) (fw fl : List Byte) (h : u.starting n) : (u.bringUp env fw fl).starting n := by
  unfold State.bringUp
  dsimp only
  split
  · exact ⟨h.1, h.2.1, h.2.2.1, .inr rfl⟩
  · exact h

theorem State.starting_recover {u : State} {n : Nat} (fw fl : List Byte) (err which : Nat) (h : u.starting n) :
    ((u.measure fw fl).recover err which).starting n := ⟨h.1, h.2.1, h.2.2.1, .inr rfl⟩

/-- The end of START_UP, once both images `fw` and `fl` are checked against the root and the floor. -/
def State.imagesChecked (s : State) (env : StartEnv) (fw fl : List Byte) (floor : Nat) (check : Nat × Nat) : State :=
  let (err, which) := check
  let signed := imageCheck fw (s.idPart 3) 0 floor = 0 ∧ imageCheck fl (s.idPart 3) 1 floor = 0
  let up := if signed then raisedFloor fw fl floor else floor
  let s : State := { s with flash := if floor < up then s.flash.raiseFloor up else s.flash, sec := { s.sec with floor := up } }
  if err = 0 then s.bringUp env fw fl else (s.measure fw fl).recover err which

theorem State.starting_imagesChecked {u : State} {n : Nat} (env : StartEnv) (fw fl : List Byte) (floor : Nat) (check : Nat × Nat) (h : u.starting n) :
    (u.imagesChecked env fw fl floor check).starting n := by
  unfold State.imagesChecked
  obtain ⟨err, which⟩ := check
  dsimp only
  split
  · exact State.starting_bringUp env fw fl h
  · exact State.starting_recover fw fl _ _ h

/-- The same with the check itself. -/
def State.checkImages (s : State) (env : StartEnv) (fw fl : List Byte) (floor : Nat) : State :=
  s.imagesChecked env fw fl floor (imagesCheck fw fl (s.idPart 3) floor)

theorem State.starting_checkImages {u : State} {n : Nat} (env : StartEnv) (fw fl : List Byte) (floor : Nat) (h : u.starting n) :
    (u.checkImages env fw fl floor).starting n :=
  State.starting_imagesChecked env fw fl floor _ h

/-- The step of START_UP that reads the two images and checks them. -/
def State.loadImages (s : State) (env : StartEnv) : State :=
  let fw := s.flash.image 0
  let fl := s.flash.image 1
  let floor := s.flash.floor
  let s : State := { s with sec := { s.sec with floor := floor } }
  let s := { s with mp := { s.mp with flomo := fl } }.keepPages
  s.checkImages env fw fl floor

theorem State.starting_loadImages {u : State} {n : Nat} (env : StartEnv) (h : u.starting n) : (u.loadImages env).starting n :=
  State.starting_checkImages env _ _ _ h

/-- The steps of a start-up up to its self-tests keep what its first step has set; a failed image or router leaves the module in RECOVERY. -/
theorem doStartUp_starts {s : State} (env : StartEnv) (h : s.canStart = true) : (doStartUp env s).starting (env.posId % 64) := by
  unfold doStartUp
  rw [if_pos h]
  conv =>
    enter [1, old, s1, s2, fw, fl, floor, s3, s4]
    change State.imagesChecked _ env fw fl floor (imagesCheck fw fl _ floor)
    change State.checkImages _ env fw fl floor
  conv =>
    enter [1, old, s1, s2]
    change State.loadImages _ env
  exact State.starting_loadImages env ⟨rfl, rfl, rfl, .inl rfl⟩

/-- The end of start-up. -/
theorem doStartupReady_ready {s : State} (r : ReadyEnv) (h : s.atSelfTests) (hstacks : s.stackRegs.all (·.ready) = true) :
    (doStartupReady r s).eft.pstate = 3 ∧ (doStartupReady r s).sec.gecko = true ∧ (doStartupReady r s).mp.state = 2 ∧
      (doStartupReady r s).mp.step = 10 ∧ (doStartupReady r s).lnk.idV = true ∧ (doStartupReady r s).clu.drive = r.drive := by
  obtain ⟨hmp, hstate, hstep⟩ := h
  unfold doStartupReady
  rw [if_pos (by rw [hmp, hstate, hstep, hstacks]; rfl)]
  dsimp only
  refine ⟨rfl, rfl, rfl, rfl, ?_, ?_⟩
  · split <;> rfl
  · split <;> rfl

/-- Settles O47: each command of start-up by its rule, a stop by what `State.stopStart` sets. -/
theorem startupRunsItsSteps : Obligations.StartupRunsItsSteps := by
  refine fun s n env r => ⟨fun h => ⟨_, exec_startUp env s, doStartUp_starts env h⟩, fun hmp hstate hstep hn => ?_,
    fun hmp hstate hstep hn => ?_, fun hmp hstate => ?_, ⟨_, rfl, rfl, rfl, rfl, rfl, rfl, rfl, rfl, rfl⟩,
    fun hmp hstate hstep hstacks => ⟨_, exec_startupReady r s, doStartupReady_ready r ⟨hmp, hstate, hstep⟩ hstacks⟩⟩
  · rw [exec_stackTrained, doStackTrained_at ⟨hmp, hstate, hstep⟩ hn]
    rfl
  · rw [exec_stackTrained, doStackTrained_at ⟨hmp, hstate, hstep⟩ hn]
    rfl
  · rw [exec_startupDeadline, doStartupDeadline_stops hmp hstate]

end Sys2Proof.Machine
end

section
/-! Management commands (R434, R445, R452, R462–R467) and the update path (R463, R464): one rule for a command that the MP serves, one for
a command that the eft island serves. -/

namespace Sys2Proof.Machine

/-! ### What the commands run -/

theorem exec_mgmtGetid (c : Chan) (s : State) : exec (.mgmtGetid c) s = .next (doMgmtGetid c s) := rfl
theorem exec_attest (c : Chan) (s : State) : exec (.attest c) s = .next (doAttest c s) := rfl
theorem exec_readsum (c : Chan) (s : State) : exec (.readsum c) s = .next (doReadsum c s) := rfl
theorem exec_readsens (c : Chan) (s : State) : exec (.readsens c) s = .next (doReadsens c s) := rfl
theorem exec_readlog (c : Chan) (s : State) : exec (.readlog c) s = .next (doReadlog c s) := rfl
theorem exec_setcap (c : Chan) (s : State) : exec (.setcap c) s = .next (doSetcap c s) := rfl
theorem exec_powerdown (c : Chan) (s : State) : exec (.powerdown c) s = .next (doPowerdown c s) := rfl
theorem exec_reset (c : Chan) (s : State) : exec (.reset c) s = .next (doReset c s) := rfl
theorem exec_wake (c : Chan) (s : State) : exec (.wake c) s = .next (doWake c s) := rfl
theorem exec_updbegin (c : Chan) (s : State) : exec (.updbegin c) s = .next (doUpdbegin c s) := rfl
theorem exec_upddata (c : Chan) (s : State) : exec (.upddata c) s = .next (doUpddata c s) := rfl
theorem exec_updend (c : Chan) (s : State) : exec (.updend c) s = .next (doUpdend c s) := rfl
theorem exec_updstat (c : Chan) (s : State) : exec (.updstat c) s = .next (doUpdstat c s) := rfl
theorem exec_updateImageDone (ok : Bool) (s : State) : exec (.updateImageDone ok) s = .next (doUpdateImageDone ok s) := rfl
theorem exec_eftI3cTakeover (f : List Byte) (s : State) : exec (.eftI3cTakeover f) s = .next (doEftI3cTakeover f s) := rfl

/-! ### The length of GETID page 0 (R466) -/

theorem leBytes_length (n v : Nat) : (leBytes n v).length = n := by
  induction n generalizing v with
  | zero => rfl
  | succ n ih => exact congrArg Nat.succ (ih _)

theorem padTo_length (n : Nat) (l : List Byte) : (padTo n l).length = n := by
  simp [padTo]

/-- Placing fields adds the bytes that no field fills, and no others. -/
theorem placeFields_length (room : Nat) (l : List (Nat × List Byte)) :
    (placeFields room l).length = room + (l.map (fun p => p.2.length)).sum := by
  induction l generalizing room with
  | nil => simp [placeFields]
  | cons p l ih =>
    have hgap : Config.idGap p.1 % (room + 1) < room + 1 := Nat.mod_lt _ (Nat.succ_pos room)
    simp only [placeFields, List.length_append, List.length_map, List.length_range, ih, List.map_cons, List.sum_cons]
    omega

theorem State.idPage0_length (s : State) : s.idPage0.length = 2016 := by
  have hparts : hgkPart.length = 16 ∧ hgkStep.length = 2 := by decide
  unfold State.idPage0
  rw [placeFields_length, ((List.mergeSort_perm _ _).map _).sum_nat]
  simp [State.idFields, leBytes_length, padTo_length, hparts]

/-! ### A command that the MP serves -/

section
variable {s : State} {c : Chan} {f : List Byte} (hframe : s.frameOf c = some f) (hsound : frameFault f = none)
include hframe hsound

/-- A sound frame of the command's opcode gets what the command answers. -/
theorem State.mpServe_answers {opc st : Nat} {inRecovery : Bool} {run : List Byte → State → MRes} {body : List Byte} {u : State}
    (hop : mOpc f = opc) (hserved : s.mp.state = 3 → inRecovery = true) (hrun : run (mBody f) s = (st, body, u)) :
    s.mpServe c opc inRecovery run = u.respond c (mResponse f st body) := by
  have hopen : ¬(s.mp.state = 3 ∧ inRecovery = false) := fun ⟨h3, hno⟩ => Bool.false_ne_true (hno.symm.trans (hserved h3))
  unfold State.mpServe
  simp only [hframe, hsound]
  rw [if_neg (not_not_intro hop), if_neg hopen, hrun]

/-- A command with no body answers at once, and what it asks for follows: at once over I3C, with the placing of the response on the
mailbox. -/
theorem State.commandThen_answers {opc k : Nat} {inRecovery : Bool} (hop : mOpc f = opc) (hserved : s.mp.state = 3 → inRecovery = true)
    (hbody : mBody f = []) : s.commandThen c opc inRecovery k =
      match c with
      | .host => { s.respond c (mResponse f stOk []) with mp := { (s.respond c (mResponse f stOk [])).mp with after := k } }
      | .i3c _ => (s.respond c (mResponse f stOk [])).follow k := by
  have hopen : ¬(s.mp.state = 3 ∧ inRecovery = false) := fun ⟨h3, hno⟩ => Bool.false_ne_true (hno.symm.trans (hserved h3))
  unfold State.commandThen
  simp only [hframe, hsound]
  rw [if_neg (not_not_intro hop), if_neg hopen, if_neg (not_not_intro hbody)]
  cases c <;> rfl

variable (hmp : s.mpRuns = true)
include hmp

theorem State.serveMp_answers {opc st : Nat} {inRecovery : Bool} {run : List Byte → State → MRes} {body : List Byte} {u : State}
    (hop : mOpc f = opc) (hserved : s.mp.state = 3 → inRecovery = true) (hrun : run (mBody f) s = (st, body, u)) :
    s.serveMp c opc inRecovery run = u.respond c (mResponse f st body) :=
  (if_pos hmp).trans (State.mpServe_answers hframe hsound hop hserved hrun)

theorem State.serveEither_answers {opc st : Nat} {run : List Byte → State → MRes} {body : List Byte} {u : State}
    (hop : mOpc f = opc) (hrun : run (mBody f) s = (st, body, u)) : s.serveEither c opc run = u.respond c (mResponse f st body) :=
  (if_pos hmp).trans (State.mpServe_answers hframe hsound hop (fun _ => rfl) hrun)

end

/-! ### A command that the eft island serves (R445, R450) -/

theorem State.i3cReady_iff (s : State) : s.i3cReady = true ↔ s.eft.pstate ≠ 0 ∧ s.i3c.addr.isSome = true := by
  rw [State.i3cReady, Bool.and_eq_true, s.powered_iff]

/-- A sound frame of a served kind other than RESET gets what the island answers. -/
theorem State.eftServe_answers {s u : State} {f body : List Byte} {st : Nat} (hready : s.i3cReady = true) (hsound : frameFault f = none)
    (hop : eftOpcs.contains (mOpc f) = true) (hkind : mOpc f ≠ 0x12) (hrun : s.eftRun (mOpc f) (mBody f) = (st, body, u)) :
    s.eftServe f = u.respond (.i3c f) (mResponse f st body) := by
  unfold State.eftServe
  rw [if_pos (by rw [hready, hop]; rfl)]
  simp only [hsound, hrun]
  rw [if_neg (fun h => hkind h.1)]

/-- RESET follows its response. -/
theorem State.eftServe_reset {s : State} {f : List Byte} (hready : s.i3cReady = true) (hsound : frameFault f = none)
    (hop : mOpc f = 0x12) (hbody : mBody f = []) : s.eftServe f = (s.respond (.i3c f) (mResponse f 0 [])).coldState := by
  have hrun : s.eftRun 0x12 [] = (stOk, [], s) := rfl
  unfold State.eftServe
  rw [if_pos (by rw [hready, hop]; rfl)]
  simp only [hsound, hop, hbody, hrun]
  rfl

theorem State.eftServe_readsens {s : State} {f : List Byte} (hready : s.i3cReady = true) (hsound : frameFault f = none)
    (hop : mOpc f = 0x04) (hbody : mBody f = []) :
    s.eftServe f = s.respond (.i3c f) (mResponse f 0 (Config.snapBytes s.eft.snap)) :=
  State.eftServe_answers hready hsound (by rw [hop]; rfl) (by rw [hop]; decide) (by rw [hop, hbody]; rfl)

theorem runWake_starts {s : State} (heft : s.eft.pstate = 1) (hline : s.pins.pwren = true) :
    runWake s = (stOk, [], { s with eft := { s.eft with startPend := true } }) := if_pos ⟨heft, hline⟩

/-- WAKE in EFT with MOD_PWREN asserted is a start condition. -/
theorem State.eftServe_wake {s : State} {f : List Byte} (hready : s.i3cReady = true) (hsound : frameFault f = none)
    (hop : mOpc f = 0x13) (hbody : mBody f = []) (heft : s.eft.pstate = 1) (hline : s.pins.pwren = true) :
    s.eftServe f = State.respond { s with eft := { s.eft with startPend := true } } (.i3c f) (mResponse f 0 []) :=
  have hrun : s.eftRun 0x13 [] = runWake s := rfl
  State.eftServe_answers hready hsound (by rw [hop]; rfl) (by rw [hop]; decide) (by
    rw [hop, hbody, hrun]
    exact runWake_starts heft hline)

/-- Settles O48: each command answers by the rule of the side that serves it, with what it runs on the frame's body. -/
theorem managementCommandsAnswer : Obligations.ManagementCommandsAnswer := by
  refine ⟨fun s c f b hmp hstate hframe hsound hbody => ?_, fun s f hon haddr hsound hbody => ?_⟩
  · subst hbody
    refine ⟨fun hop hb => ⟨?_, s.idPage0_length⟩, fun hop hb => ?_, fun hop hlen hkey => ?_,
      fun hop hlen hkey => ?_, fun hop hb => ?_, fun hop hb => ?_, fun hop hlen hn => ?_, fun hop hlen hcap hbusy => ?_, fun hop hb hc => ?_,
      fun hop hb hc => ?_, fun hop hb hc => ?_, fun hop hb hc => ?_, fun hop hb hc => ?_⟩
    · rw [exec_mgmtGetid, doMgmtGetid, State.serveEither_answers hframe hsound hmp hop (if_pos hb)]
      rfl
    · rw [exec_mgmtGetid, doMgmtGetid, State.serveEither_answers hframe hsound hmp hop (by rw [hb])]
      rfl
    · rw [exec_attest, doAttest, State.serveMp_answers hframe hsound hmp hop (fun _ => rfl)
        ((if_neg (not_not_intro hlen)).trans (if_neg (ne_true_of_eq_false hkey)))]
      rfl
    · rw [exec_attest, doAttest, State.serveMp_answers hframe hsound hmp hop (fun _ => rfl)
        ((if_neg (not_not_intro hlen)).trans (if_pos hkey))]
      rfl
    · rw [exec_readsum, doReadsum, State.serveEither_answers hframe hsound hmp hop (if_pos hb)]
      rfl
    · rw [exec_readsens, doReadsens, State.serveEither_answers hframe hsound hmp hop (if_pos hb)]
      rfl
    · rw [exec_readlog, doReadlog, State.serveMp_answers hframe hsound hmp hop (fun _ => rfl) (if_neg (by omega))]
      rfl
    · rw [exec_setcap, doSetcap, hbusy, if_neg Bool.false_ne_true, State.serveMp_answers hframe hsound hmp hop (fun h => absurd h hstate)
        ((if_neg (not_not_intro hlen)).trans (if_neg (by omega)))]
      rfl
    · subst hc
      exact ⟨_, by rw [exec_powerdown, doPowerdown, if_pos hmp, State.commandThen_answers hframe hsound hop (fun h => absurd h hstate) hb], rfl, rfl⟩
    · subst hc
      rw [exec_powerdown, doPowerdown, if_pos hmp, State.commandThen_answers hframe hsound hop (fun h => absurd h hstate) hb]
      rfl
    · subst hc
      exact ⟨_, by rw [exec_reset, doReset, if_pos hmp, State.commandThen_answers hframe hsound hop (fun _ => rfl) hb], rfl, rfl⟩
    · subst hc
      rw [exec_reset, doReset, if_pos hmp, State.commandThen_answers hframe hsound hop (fun _ => rfl) hb]
      rfl
    · subst hc
      rw [exec_wake, doWake, State.serveMp_answers hframe hsound hmp hop (fun _ => rfl) rfl]
      rfl
  · have hready := s.i3cReady_iff.2 ⟨hon, haddr⟩
    refine ⟨fun hop heft hline => ?_, fun hop => ?_, fun hop hdead => ?_, fun hop => ?_⟩
    · rw [exec_wake, doWake, if_pos hop, State.eftServe_wake hready hsound hop hbody heft hline]
    · rw [exec_eftI3cTakeover, doEftI3cTakeover, State.eftServe_readsens hready hsound hop hbody]
    · rw [exec_readsens, doReadsens, State.serveEither, hdead, if_neg Bool.false_ne_true, if_pos hop,
        State.eftServe_readsens hready hsound hop hbody]
    · rw [exec_eftI3cTakeover, doEftI3cTakeover, State.eftServe_reset hready hsound hop hbody]

/-! ### The update path (R463, R464) -/

/-- Outside RECOVERY the loader does not start the module. -/
theorem State.loaderStarts_outside {s : State} (h : s.mp.state ≠ 3) : s.loaderStarts = s := if_neg fun h3 => h h3.1

/-- The checks of a staged image end well: it lies in its region of the flash, outside RECOVERY with no more to follow. -/
theorem doUpdateImageDone_passed {s : State} (hmp : s.mpRuns = true) (hstatus : s.sess.status = 1) (hstate : s.mp.state ≠ 3) (ok : Bool) :
    doUpdateImageDone ok s = if s.stagedResult = 0 then
      (if ok then State.endSession { s with flash := s.flash.program s.sess.kind s.sess.image } 3 0 else s.breakUpdate.endSession 4 4)
      else s.endSession 4 s.stagedResult := by
  unfold doUpdateImageDone
  rw [if_pos (by rw [hmp, hstatus]; rfl)]
  by_cases hres : s.stagedResult = 0
  · refine (if_neg (not_not_intro hres)).trans ?_
    rw [if_pos hres, State.loaderStarts_outside (by exact hstate)]
    rfl
  · exact (if_pos hres).trans (if_neg hres).symm

/-- Settles O49: each command of a session answers by the rule of a served command, and the checks by their result. -/
theorem updatesGoThroughTheirSession : Obligations.UpdatesGoThroughTheirSession := by
  refine fun s c f b hmp => ⟨fun hframe hsound hbody => ?_, fun hstatus hstate => ⟨?_, ?_⟩⟩
  · subst hbody
    refine ⟨fun hop hopen hlen hnone hkind hroom => ?_, fun hop hbar => ?_, fun hop hchan hstatus hlen hroom => ?_,
      fun hop hb hchan hstatus => ?_, fun hop hb hstatus => ?_⟩
    · have hopen : ¬(s.barred c = true) := by rw [hopen]; decide
      have hnone : ¬(s.sess.chan.isSome = true) := by rw [hnone]; decide
      rw [exec_updbegin, doUpdbegin, State.serveMp_answers hframe hsound hmp hop (fun _ => rfl)
        ((if_neg hopen).trans ((if_neg (not_not_intro hlen)).trans ((if_neg hnone).trans ((if_neg (by omega)).trans (if_neg (by omega))))))]
      rfl
    · rw [exec_updbegin, doUpdbegin, State.serveMp_answers hframe hsound hmp hop (fun _ => rfl) (if_pos hbar)]
      rfl
    · have hsess : ¬(s.sess.chan ≠ some (chanNum c) ∨ s.sess.status ≠ 0) := by simp [hchan, hstatus]
      rw [exec_upddata, doUpddata, State.serveMp_answers hframe hsound hmp hop (fun _ => rfl)
        ((if_neg hsess).trans (if_neg (by omega)))]
      rfl
    · have hsess : ¬(s.sess.chan ≠ some (chanNum c) ∨ s.sess.status ≠ 0) := by simp [hchan, hstatus]
      rw [exec_updend, doUpdend, State.serveMp_answers hframe hsound hmp hop (fun _ => rfl) ((if_pos hb).trans (if_neg hsess))]
      rfl
    · rw [exec_updstat, doUpdstat, State.serveMp_answers hframe hsound hmp hop (fun _ => rfl) ((if_pos hb).trans (if_neg hstatus))]
      rfl
  · rw [exec_updateImageDone, doUpdateImageDone_passed hmp hstatus hstate]
    rfl
  · rw [exec_updateImageDone, doUpdateImageDone_passed hmp hstatus hstate]
    rfl

end Sys2Proof.Machine
end

section
/-! READY, ABANDON and CKPTTAB (R362, R363, R366, R374). -/

namespace Sys2Proof.Machine

theorem exec_ready (t : Nat) (s : State) : exec (.ready t) s = .next (doReady t s) := rfl
theorem exec_abandon (t : Nat) (s : State) : exec (.abandon t) s = .next (doAbandon t s) := rfl
theorem exec_ckpttab (t : Nat) (s : State) : exec (.ckpttab t) s = .next (doCkpttab t s) := rfl

/-! ### Descriptors that leave queue 6 (R363) -/

section
variable {s : State} {t op : Nat} {e : QEntry} (hturn : s.turn t 6 e) (hedge : dField e.d 16 2 = 0x0400) (hop : dOp e.d = op)
include hturn hedge hop

theorem State.takeHeld_kept {check : W512 → Chk Unit} (keep : QEntry → State → State) (hchk : check e.d = .ok ()) :
    s.takeHeld t op check keep = (keep e s).intoClutch t e := by
  obtain ⟨hstart, hclean⟩ := hturn
  unfold State.takeHeld
  rw [hstart]
  dsimp only
  rw [if_pos ⟨hop, hedge⟩, s.withHead_clean _ _ _ _ hclean, hchk]

theorem State.takeHeld_refused {check : W512 → Chk Unit} (keep : QEntry → State → State) {o v : Nat} (hchk : check e.d = .error (o, v)) :
    s.takeHeld t op check keep = s.refuse t 6 e o v := by
  obtain ⟨hstart, hclean⟩ := hturn
  unfold State.takeHeld
  rw [hstart]
  dsimp only
  rw [if_pos ⟨hop, hedge⟩, s.withHead_clean _ _ _ _ hclean, hchk]

end

/-! ### The start of CKPTTAB (R374) -/

/-- A unit that succeeds has run its work to that end. -/
theorem run_of_runUnit_ok {α : Type} {t : Nat} {x : X α} {s u : State} {a : α} (h : runUnit t x s = (.ok a, u)) :
    x.run.run s = (.ok a, u) := by
  unfold runUnit at h
  split at h
  case h_1 b v heq => rw [heq, h]
  case h_2 => exact absurd (congrArg Prod.fst h) (by simp)

/-- A unit that begins with work that succeeds goes on after it. -/
theorem runUnit_bind_ok {α β : Type} {t : Nat} {x : X α} {f : α → X β} {s u v : State} {a : α} {b : β} (hx : runUnit t x s = (.ok a, u))
    (hf : runUnit t (f a) u = (.ok b, v)) : runUnit t (x >>= f) s = (.ok b, v) := by
  refine runUnit_ok t _ s v b ?_
  have hrun := run_of_runUnit_ok hx
  have hrest := run_of_runUnit_ok hf
  rw [ExceptT.run_bind, StateT.run_bind, hrun]
  exact hrest

/-- A table that is sound is registered, and its copy goes to the manager as the descriptor starts to run. -/
theorem doCkpttab_ok {s u : State} {t : Nat} {e : QEntry} {l : List Byte} {tab : CkTab} (hturn : s.turn t 6 e) (hop : dOp e.d = 0x92)
    (hedge : dField e.d 16 2 = 0x0400) (hzero : dField e.d 18 6 = 0) (hlow : 1 ≤ dField e.d 32 4) (hhigh : dField e.d 32 4 ≤ 4096)
    (hzero' : dField e.d 36 4 = 0)
    (hread : runUnit t (xBytes (cluAgent t e) (dField e.d 24 8) (8 * dField e.d 32 4 + 1) (32 * dField e.d 32 4)) s = (.ok (l, none), u))
    (hents : ckAll l (dField e.d 32 4) = .ok ())
    (htab : tab = CkTab.mk ((List.range (dField e.d 32 4)).map (ckEnt l)) (dField e.d 40 8) (dField e.d 48 8) (dPatch e.d))
    (hregions : ckTabChk tab = .ok ()) :
    doCkpttab t s = ((u.modClu (fun c => { c with nextTable := some tab })).sendTable).started t 6 e Run.start := by
  subst htab
  have hfields : (do chkZero e.d 18 6; chk (1 ≤ dField e.d 32 4 && dField e.d 32 4 ≤ 4096) 32 (dField e.d 32 4); chkZero e.d 36 4 : Chk Unit)
      = .ok () := by
    simp [chkZero, chk, hzero, hzero', hlow, hhigh, bind, Except.bind]
  refine State.startEdge_turn hturn hop hedge rfl ?_
  dsimp only
  rw [hfields]
  refine runUnit_bind_ok hread ?_
  dsimp only
  rw [hents]
  dsimp only [bind, Except.bind]
  rw [hregions]
  exact runUnit_mod t _ _ u

/-! ### The copy of a table for the manager (R374) -/

theorem State.sendTable_member {s : State} (hrole : s.clu.role ≠ 0) (hid : s.lnk.idV = true) :
    s.sendTable = (s.modClu (fun c => { c with tabOwed := true })).sendHeart := by
  unfold State.sendTable
  dsimp only
  rw [if_neg (by exact ne_true_of_eq_false (Clu.not_manager_of_role hrole))]
  exact if_pos hid

theorem State.sendTable_manager {s : State} {tab : CkTab} (hrole : s.clu.role = 0) (htab : s.clu.nextTable = some tab) :
    s.sendTable = s.modClu (fun c => { c with tabOwed := false, nextTabs := putDev c.nextTabs s.devId tab }) := by
  unfold State.sendTable
  dsimp only
  rw [if_pos (by exact Clu.manager_of_role hrole)]
  unfold State.modClu
  dsimp only
  rw [htab]

/-- Settles O56: READY and ABANDON by what a held descriptor does, CKPTTAB by its start, and the copy of a table by the device's role. -/
theorem clutchDescriptorsAreHeld : Obligations.ClutchDescriptorsAreHeld := by
  intro s u t e hturn hedge
  refine ⟨fun hop hchk => ?_, fun o v hop hchk => ?_, fun hop hchk hu => ?_, fun o v hop hchk => ?_,
    fun l hop hzero hlow hhigh hzero' hread hents tab htab hregions => ?_, State.sendTable_member, fun tab => State.sendTable_manager⟩
  · rw [exec_ready, doReady, State.takeHeld_kept hturn hedge hop _ hchk]
  · rw [exec_ready, doReady, State.takeHeld_refused hturn hedge hop _ hchk]
  · rw [exec_abandon, doAbandon, State.takeHeld_kept hturn hedge hop _ hchk, hu]
  · rw [exec_abandon, doAbandon, State.takeHeld_refused hturn hedge hop _ hchk]
  · rw [exec_ckpttab, doCkpttab_ok hturn hop hedge hzero hlow hhigh hzero' hread hents htab hregions]

end Sys2Proof.Machine
end

section
/-! The messages of the commit (R364, R367, R368, R371, R372). -/

namespace Sys2Proof.Machine

theorem exec_cready (src : Sender) (e : W64) (n : Nat) (s : State) : exec (.cready src e n) s = .next (doCready src e n s) := rfl
theorem exec_ccommit (e : W64) (flags : Byte) (s : State) : exec (.ccommit e flags) s = .next (doCcommit e flags s) := rfl
theorem exec_ccack (src : Sender) (e : W64) (n : Nat) (s : State) : exec (.ccack src e n) s = .next (doCcack src e n s) := rfl
theorem exec_mirror (r : MirrorRec) (s : State) : exec (.mirror r) s = .next (doMirror r s) := rfl
theorem exec_mack (e : W64) (s : State) : exec (.mack e) s = .next (doMack e s) := rfl

/-! ### Who is heard (R371, R382) -/

/-- A device whose word counts: none that the manager has declared failed, and no module whose id another has taken. -/
theorem State.fromDev_heard {s : State} {x : Sender} (hear : State → State)
    (h : s.clu.role = 0 → s.clu.failed.contains x.dev = false ∧ getDev s.clu.holders x.dev = x.former) : s.fromDev x hear = hear s := by
  by_cases hrole : s.clu.role = 0
  · obtain ⟨hfailed, hholder⟩ := h hrole
    exact State.fromDev_known hear hfailed hholder
  · exact State.fromDev_member x hear hrole

/-- Any other device is answered. -/
theorem State.fromDev_failed {s : State} {x : Sender} (hear : State → State) (hrole : s.clu.role = 0)
    (h : s.clu.failed.contains x.dev = true ∨ getDev s.clu.holders x.dev ≠ x.former) : s.fromDev x hear = s.answerFailed x.dev := by
  refine if_pos ?_
  rw [Clu.manager_of_role hrole, Bool.true_and, Bool.or_eq_true, bne_iff_ne]
  exact h

/-- The answer names the epoch to prepare where no commit is decided. -/
theorem State.answerFailed_free {s : State} (hdecided : s.clu.decided = none) (dev : Nat) : s.answerFailed dev =
    s.cluAll [dev] 0x33 (s.epoch + 1) 0 1 (longWords s.epoch.toNat ++ [s.clu.gen, 0] ++ [dev]) := by
  unfold State.answerFailed State.sendRoll
  rw [hdecided]
  dsimp only
  rw [BitVec.add_sub_cancel]
  rfl

/-- Else it names the epoch after the decided one. -/
theorem State.answerFailed_decided {s : State} {d : W64} {x : Byte} (hdecided : s.clu.decided = some (d, x)) (dev : Nat) :
    s.answerFailed dev = s.cluAll [dev] 0x33 (d + 1) 0 1 (longWords d.toNat ++ [s.clu.gen, 0] ++ [dev]) := by
  unfold State.answerFailed State.sendRoll
  rw [hdecided]
  dsimp only
  rw [BitVec.add_sub_cancel]
  rfl

/-! ### Counts (R367, R372) -/

section
variable {s : State} {y : CluCount}

theorem State.hearCount_void (h : y.gen < s.clu.gen) : s.hearCount y = s := if_pos h

theorem State.hearCount_early (hgen : s.clu.gen ≤ y.gen) (h : s.fits y = false) : s.hearCount y =
    s.modClu (fun c => { c with early := c.early.filter (fun z => !(z.ack == y.ack && z.src == y.src)) ++ [y] }) := by
  unfold State.hearCount
  rw [if_neg (Nat.not_lt.2 hgen), if_pos (by rw [h]; rfl)]

theorem State.hearCount_ack (hgen : s.clu.gen ≤ y.gen) (h : s.fits y = true) (hack : y.ack = true) : s.hearCount y =
    ((s.modClu (fun c => { c with ccacks := putCount c.ccacks y.src y.n })).maybeAck).settleCommit := by
  unfold State.hearCount
  rw [if_neg (Nat.not_lt.2 hgen), if_neg (by rw [h]; decide), if_pos hack]

theorem State.hearCount_ready (hgen : s.clu.gen ≤ y.gen) (h : s.fits y = true) (hack : y.ack = false) : s.hearCount y =
    (s.modClu (fun c => { c with creadys := putCount c.creadys y.src y.n })).maybeReady := by
  unfold State.hearCount
  rw [if_neg (Nat.not_lt.2 hgen), if_neg (by rw [h]; decide), if_neg (by rw [hack]; decide)]

/-- A count of ready subtrees fits its generation and the epoch that is prepared. -/
theorem State.fits_ready (hack : y.ack = false) : s.fits y = true ↔ y.gen = s.clu.gen ∧ y.epoch = s.epoch + 1 ∧ s.clu.roll = none := by
  simp [State.fits, hack]

theorem State.fits_ack (hack : y.ack = true) : s.fits y = true ↔ y.gen = s.clu.gen ∧ y.epoch = s.epoch := by
  simp [State.fits, hack]

end

/-- One early count is heard again. -/
theorem State.hearEarly_one {s : State} {y : CluCount} (h : s.clu.early = [y]) :
    s.hearEarly = (s.modClu (fun c => { c with early := [] })).hearCount y := by
  unfold State.hearEarly
  rw [h]
  rfl

section
variable {s u : State} {src : Sender} {e : W64} {n : Nat} (hu : u = s.takeClu 0x30)
  (hheard : u.clu.role = 0 → u.clu.failed.contains src.dev = false ∧ getDev u.clu.holders src.dev = src.former)
include hu hheard

theorem doCready_heard : doCready src e n s = u.hearCount ⟨false, src.dev, e, src.gen, n⟩ := by
  subst hu
  exact State.fromDev_heard _ hheard

theorem doCready_next (hgen : src.gen = u.clu.gen) (he : e = u.epoch + 1) (hroll : u.clu.roll = none) :
    doCready src e n s = (u.modClu (fun c => { c with creadys := putCount c.creadys src.dev n })).maybeReady := by
  rw [doCready_heard hu hheard, State.hearCount_ready (Nat.le_of_eq hgen.symm) ((State.fits_ready rfl).2 ⟨hgen, he, hroll⟩) rfl]

theorem doCready_old (hgen : src.gen < u.clu.gen) : doCready src e n s = u := by
  rw [doCready_heard hu hheard, State.hearCount_void hgen]

/-- A count of a later generation, or of another epoch than the one that is prepared, waits. -/
theorem doCready_early (h : u.clu.gen < src.gen ∨ src.gen = u.clu.gen ∧ (e ≠ u.epoch + 1 ∨ u.clu.roll.isSome = true)) :
    doCready src e n s = u.modClu (fun c => { c with
      early := c.early.filter (fun z => !(z.ack == false && z.src == src.dev)) ++ [⟨false, src.dev, e, src.gen, n⟩] }) := by
  have hgen : u.clu.gen ≤ src.gen := h.elim Nat.le_of_lt fun h => Nat.le_of_eq h.1.symm
  have hno : u.fits ⟨false, src.dev, e, src.gen, n⟩ = false := by
    rw [Bool.eq_false_iff]
    intro hfits
    obtain ⟨heq, hepoch, hroll⟩ := (State.fits_ready rfl).1 hfits
    rcases h with hlt | ⟨_, hother | hsome⟩
    · exact absurd heq (Nat.ne_of_gt hlt)
    · exact hother hepoch
    · rw [hroll] at hsome
      exact Bool.false_ne_true hsome
  rw [doCready_heard hu hheard, State.hearCount_early hgen hno]

end

section
variable {s u : State} {src : Sender} {e : W64} {n : Nat} (hu : u = s.takeClu 0x32)
  (hheard : u.clu.role = 0 → u.clu.failed.contains src.dev = false ∧ getDev u.clu.holders src.dev = src.former)
include hu hheard

theorem doCcack_heard : doCcack src e n s = u.hearCount ⟨true, src.dev, e, src.gen, n⟩ := by
  subst hu
  exact State.fromDev_heard _ hheard

theorem doCcack_now (hgen : src.gen = u.clu.gen) (he : e = u.epoch) : doCcack src e n s =
    ((u.modClu (fun c => { c with ccacks := putCount c.ccacks src.dev n })).maybeAck).settleCommit := by
  rw [doCcack_heard hu hheard, State.hearCount_ack (Nat.le_of_eq hgen.symm) ((State.fits_ack rfl).2 ⟨hgen, he⟩) rfl]

theorem doCcack_old (hgen : src.gen < u.clu.gen) : doCcack src e n s = u := by
  rw [doCcack_heard hu hheard, State.hearCount_void hgen]

end

/-! ### CCOMMIT, MIRROR and MACK (R367, R368, R371, R372) -/

section
variable {s u : State} {e : W64} {fl : Byte} (hu : u = s.takeClu 0x31)
include hu

theorem doCcommit_next (he : e = u.epoch + 1) : doCcommit e fl s = (u.commitDown e fl).hearEarly := by
  subst hu
  exact if_pos he

/-- A commit already applied goes on and is acknowledged again. -/
theorem doCcommit_again (he : e = u.epoch) : doCcommit e fl s =
    ((u.cluAll u.clu.tree.children 0x31 e 0 fl.toNat []).modClu (fun c => { c with ackDue := true, ccacks := [] })).maybeAck := by
  have hne : e ≠ u.epoch + 1 := by rw [he]; bv_omega
  subst hu
  exact (if_neg hne).trans (if_pos he)

theorem doCcommit_other (hnext : e ≠ u.epoch + 1) (hnow : e ≠ u.epoch) : doCcommit e fl s = u := by
  subst hu
  exact (if_neg hnext).trans (if_neg hnow)

end

section
variable {s u : State} {r : MirrorRec} (hu : u = s.takeClu 0x3D) (hrole : u.clu.role = 1)
include hu hrole

theorem doMirror_decision (hckpt : r.ckpt = none) : doMirror r s =
    (u.modClu (fun c => { c with mirror := some r })).cluSend 0x3E u.clu.mgrId r.epoch 0 0 [] := by
  subst hu
  unfold doMirror
  dsimp only
  rw [if_pos hrole, hckpt]

theorem doMirror_checkpoint {k : CkRec} (hckpt : r.ckpt = some k) : doMirror r s =
    (u.modClu (fun c => { c.noteHist k with ckpts := (k :: c.ckpts).take 2, lastCk := k.epoch })).cluSend 0x3E u.clu.mgrId r.epoch 0 0 [] := by
  subst hu
  unfold doMirror
  dsimp only
  rw [if_pos hrole, hckpt]

end

section
variable {s u : State} {e : W64} (hu : u = s.takeClu 0x3E) (hrole : u.clu.role = 0)
include hu hrole

theorem doMack_manager : doMack e s =
    match u.clu.ckOwed, u.clu.decided, u.clu.rolling with
    | some k, d, _ =>
      if k.epoch = e then u.ckptComplete k
      else match d with
        | some (e', flags) => if e' = e && !u.clu.bound then u.bindCommit e' flags else u
        | none => u
    | none, some (e', flags), _ => if e' = e && !u.clu.bound then u.bindCommit e' flags else u
    | none, none, some r => if r.phase = .mirror ∧ r.epoch = e then u.rollOut else u
    | none, none, none => u := by
  subst hu
  refine (if_neg (by rw [Clu.manager_of_role hrole]; decide)).trans ?_
  rfl

theorem doMack_binds {fl : Byte} (howed : u.clu.ckOwed = none) (hdecided : u.clu.decided = some (e, fl)) (hbound : u.clu.bound = false) :
    doMack e s = u.bindCommit e fl := by
  rw [doMack_manager hu hrole, howed, hdecided]
  exact if_pos (by rw [hbound]; simp)

theorem doMack_completes {k : CkRec} (howed : u.clu.ckOwed = some k) (hepoch : k.epoch = e) : doMack e s = u.ckptComplete k := by
  rw [doMack_manager hu hrole, howed]
  exact if_pos hepoch

theorem doMack_rolls {g : MgrRoll} (howed : u.clu.ckOwed = none) (hdecided : u.clu.decided = none) (hroll : u.clu.rolling = some g)
    (hphase : g.phase = .mirror) (hepoch : g.epoch = e) : doMack e s = u.rollOut := by
  rw [doMack_manager hu hrole, howed, hdecided, hroll]
  exact if_pos ⟨hphase, hepoch⟩

end

/-! ### What a commit leaves (R364) -/

/-- What every step of a fold keeps, the fold keeps. -/
theorem State.foldl_same {α β : Type} (p : State → β) (f : State → α → State) (hf : ∀ u x, p (f u x) = p u) (l : List α) (s : State) :
    p (l.foldl f s) = p s := by
  induction l generalizing s with
  | nil => rfl
  | cons x l ih => exact (ih (f s x)).trans (hf s x)

theorem State.signalDone_kept (s : State) (t q : Nat) (e : QEntry) :
    (s.signalDone t q e).epoch = s.epoch ∧ (s.signalDone t q e).clu = s.clu := by
  unfold State.signalDone
  split
  · split <;> exact ⟨rfl, rfl⟩
  · exact ⟨rfl, rfl⟩
  · exact ⟨rfl, rfl⟩

theorem State.reapAll_kept (s : State) (l : List (Nat × QEntry)) :
    (s.reapAll l).epoch = s.epoch ∧ (s.reapAll l).clu = s.clu := by
  have hone (u : State) (p : Nat × QEntry) : (match p.2.org with | .strand k => u.reap p.1 k | _ => u).epoch = u.epoch ∧
      (match p.2.org with | .strand k => u.reap p.1 k | _ => u).clu = u.clu := by
    split <;> exact ⟨rfl, rfl⟩
  exact ⟨State.foldl_same (·.epoch) _ (fun u p => (hone u p).1) l s, State.foldl_same (·.clu) _ (fun u p => (hone u p).2) l s⟩

/-- The held READYs and ABANDONs go, and nothing else of the clutch functions changes. -/
theorem State.releaseHeld_kept (s : State) : s.releaseHeld.epoch = s.epoch ∧
    s.releaseHeld.clu = { s.clu with readies := [], abandons := [] } := by
  obtain ⟨hepoch, hclu⟩ := State.reapAll_kept
    ((s.clu.readies.foldl (fun s p => s.signalDone p.1 6 p.2) s).modClu (fun c => { c with readies := [], abandons := [] }))
    (s.clu.readies ++ s.clu.abandons)
  refine ⟨hepoch.trans ?_, hclu.trans ?_⟩
  · exact State.foldl_same (·.epoch) _ (fun u (p : Nat × QEntry) => (u.signalDone_kept p.1 6 p.2).1) _ s
  · exact congrArg (fun c : Clu => { c with readies := [], abandons := [] })
      (State.foldl_same (·.clu) _ (fun u (p : Nat × QEntry) => (u.signalDone_kept p.1 6 p.2).2) _ s)

theorem State.applyCommit_leaves (s : State) (e : W64) (fl : Byte) : (s.applyCommit e fl).epoch = e ∧
    (s.applyCommit e fl).clu.readies = [] ∧ (s.applyCommit e fl).clu.abandons = [] ∧ (s.applyCommit e fl).clu.need = none := by
  unfold State.applyCommit
  generalize List.range 1024 = l
  extract_lets old s1 s2 s3
  obtain ⟨hepoch, hclu⟩ : s3.epoch = s2.epoch ∧ s3.clu = { s2.clu with readies := [], abandons := [] } := s2.releaseHeld_kept
  have hnote : s2.epoch = e := State.foldl_same (·.epoch) (fun u t => u.modTile t (fun v => { v with commits := v.commits ++ [e] })) (fun _ _ => rfl) l s1
  exact ⟨hepoch.trans hnote, congrArg Clu.readies hclu, congrArg Clu.abandons hclu, rfl⟩

/-- Settles O57: each message by its rule; a count by whether the device counts and whether the count fits. -/
theorem commitMessages : Obligations.CommitMessages := by
  refine fun s u src n e fl r k g y => ⟨fun hu hheard => ⟨fun hgen he hroll => ?_, fun hgen => ?_, fun h hy => ?_⟩,
    fun hu hrole hfailed => ⟨fun hdecided => ?_, fun d x hdecided => ?_⟩, State.hearEarly_one,
    fun hu => ⟨fun he => ?_, fun he => ?_, fun hnext hnow => ?_⟩, fun hu hheard => ⟨fun hgen he => ?_, fun hgen => ?_⟩,
    fun hu hrole => ⟨fun hckpt => ?_, fun hckpt => ?_⟩,
    fun hu hrole => ⟨fun howed hdecided hbound => ?_, fun howed hepoch => ?_, fun howed hdecided hroll hphase hepoch => ?_⟩,
    s.applyCommit_leaves e fl⟩
  · rw [exec_cready, doCready_next hu hheard hgen he hroll]
  · rw [exec_cready, doCready_old hu hheard hgen]
  · rw [exec_cready, doCready_early hu hheard h, hy]
  · rw [exec_cready, doCready, ← hu, State.fromDev_failed _ hrole hfailed, State.answerFailed_free hdecided]
  · rw [exec_cready, doCready, ← hu, State.fromDev_failed _ hrole hfailed, State.answerFailed_decided hdecided]
  · rw [exec_ccommit, doCcommit_next hu he]
  · rw [exec_ccommit, doCcommit_again hu he]
  · rw [exec_ccommit, doCcommit_other hu hnext hnow]
  · rw [exec_ccack, doCcack_now hu hheard hgen he]
  · rw [exec_ccack, doCcack_old hu hheard hgen]
  · rw [exec_mirror, doMirror_decision hu hrole hckpt]
  · rw [exec_mirror, doMirror_checkpoint hu hrole hckpt]
  · rw [exec_mack, doMack_binds hu hrole howed hdecided hbound]
  · rw [exec_mack, doMack_completes hu hrole howed hepoch]
  · rw [exec_mack, doMack_rolls hu hrole howed hdecided hroll hphase hepoch]

end Sys2Proof.Machine
end

section
/-! The messages of a rollback (R363–R365, R371, R382–R385, R422). -/

namespace Sys2Proof.Machine

theorem exec_croll (e rest : W64) (cause : Nat) (note : RollNote) (s : State) : exec (.croll e rest cause note) s = .next (doCroll e rest cause note s) := rfl
theorem exec_rollbackRestoreDone (got : RestoreData) (s : State) : exec (.rollbackRestoreDone got) s = .next (doRollbackRestoreDone got s) := rfl
theorem exec_crdone (r : RestoreReport) (s : State) : exec (.crdone r) s = .next (doCrdone r s) := rfl
theorem exec_failrpt (dev : Sender) (why : FailWhy) (s : State) : exec (.failrpt dev why) s = .next (doFailrpt dev why s) := rfl

/-! ### CROLL (R363–R365, R422) -/

/-- What a CROLL that has a restore point changes of the clutch functions. -/
def Clu.rolledBack (c : Clu) (now : W64) (r : Roll) (cause : Nat) (note : RollNote) : Clu :=
  { c.countHold now with
    roll := some r, rollDue := if note.subst then some r else none, gen := note.gen
    need := none, abandoned := false, sent := false, creadys := []
    failCount := if c.role = 1 ∧ c.firstCommit.isSome = true then c.failCount + (note.failed.filter (fun d => !c.failed.contains d)).length
      else c.failCount
    failed := if c.role = 1 then note.failed.foldl addDev c.failed else c.failed
    drain := if cause = 2 then c.drain else none
    cand := if cause = 2 then c.cand else none
    ckfail := if cause ≠ 2 ∧ c.role ≠ 0 ∧ (c.drain.isSome = true ∨ c.cand.isSome = true) then satAdd 8 c.ckfail 1 else c.ckfail }

theorem Clu.countHold_stops (c : Clu) (now : W64) : (c.countHold now).stops = c.stops := by
  unfold Clu.countHold
  split <;> rfl

theorem State.readPacket_xl (s : State) (unit : Nat) (k : Packet) : (s.readPacket unit k).xl = s.xl := by
  refine State.foldl_same (·.xl) _ (fun u y => ?_) k.syn s
  dsimp only
  split <;> rfl

theorem State.dropRcvd_xl (s : State) (p i : Nat) (k : Packet) : (s.dropRcvd p i k).xl = s.xl := by
  unfold State.dropRcvd
  extract_lets u
  have hu : u.xl = s.xl := by
    show State.xl (match (s.rcvdAt p)[i]? with | some x => _ | none => _) = _
    split
    · exact s.readPacket_xl _ _
    · rfl
  split <;> exact hu

/-- The clutch takes its packet from a port; the contexts are as they were. -/
theorem State.takeClu_xl (s : State) (opc : Nat) : (s.takeClu opc).xl = s.xl := by
  unfold State.takeClu
  extract_lets ofPort
  split
  · rfl
  · split
    · rfl
    · split
      · exact s.dropRcvd_xl _ _ _
      · rfl

/-- A CROLL whose cause is below 0x80 stops the running context's grids (`u`), is recorded (`v`) and posted (`w`). -/
theorem doCroll_restores {s u v w : State} {e rest : W64} {cause : Nat} {note : RollNote} {r : Roll} (hcause : cause < 0x80)
    (hr : r = ⟨e, rest, cause, (note.failed[0]?).getD 0xFFFF, false⟩)
    (hu : u = (match s.xl.runCtx with | some x => (s.takeClu 0x33).stopGrids x | none => s.takeClu 0x33).dropHeld (fun _ => true))
    (hv : v = u.detect { mkRec clsContained cRollback uClutch with ctx := u.xl.runCtx }) (hw : w = v.rollFrame r 0) :
    doCroll e rest cause note s = w.modClu (fun c => c.rolledBack w.time r cause note) := by
  have hlow : ¬(0x80 ≤ cause) := Nat.not_le.2 hcause
  have hkeep : decide (0x80 ≤ cause) = false := decide_eq_false hlow
  unfold doCroll
  rw [Nat.mod_eq_of_lt hcause, hkeep]
  extract_lets s1 failed r1 s2 s3 _ s4 _ s5 s6 breaks now
  have h2 : s2 = match s.xl.runCtx with | some x => (s.takeClu 0x33).stopGrids x | none => s.takeClu 0x33 := by
    show (match (s.takeClu 0x33).xl.runCtx with | some x => _ | none => _) = _
    rw [State.takeClu_xl]
  have h4 : s4 = v := by
    rw [hv, hu, ← h2]
  have h6 : s6 = w := by
    rw [hw, hr, ← h4]
    exact congrArg (State.rollFrame · r1 0) (if_neg hlow)
  show s6.modClu _ = _
  rw [h6, hr]
  refine congrArg w.modClu (funext fun c => ?_)
  have hbreaks : breaks = (cause != 2) := rfl
  have hnow : now = w.time := congrArg State.time h6
  clear_value breaks now
  subst hbreaks hnow
  unfold Clu.rolledBack
  by_cases h2 : cause = 2
  · simp [h2, r1, failed, Clu.countHold_stops]
  · simp [h2, r1, failed, Clu.countHold_stops, Clu.manager]

/-! ### The restore (R365, R384) -/

theorem doRollbackRestoreDone_waits {s : State} (h : s.clu.roll = none ∨ s.stopOver = false) (got : RestoreData) :
    doRollbackRestoreDone got s = s := by
  unfold doRollbackRestoreDone
  rcases h with h | h
  · rw [h]
  · rw [h]
    cases s.clu.roll <;> rfl

section
variable {s u : State} {r : Roll} {got : RestoreData} (hroll : s.clu.roll = some r) (hover : s.stopOver = true)
include hroll hover

theorem doRollbackRestoreDone_mismatch (hrestore : (s.snapReads r).restoreEntries r got = (false, u)) :
    doRollbackRestoreDone got s = u.cluSend 0x34 u.clu.mgrId r.epoch 0 0 (u.clu.gen :: u.clu.who) := by
  unfold doRollbackRestoreDone
  rw [hroll, hover]
  dsimp only
  rw [hrestore]
  rfl

section
variable {v w x : State} (hrestore : (s.snapReads r).restoreEntries r got = (true, u)) (hw : w = u.backTo r)
  (hx : w.cluSend 0x34 w.clu.mgrId r.epoch 1 0 (w.clu.gen :: w.clu.who) = x)
  (hv : v = (if w.clu.rollDue.isSome then x else x.rollFrame r 1))
include hrestore hw hx hv

/-- A restore that verifies: the device goes back (`w`), reports (`x`), posts its STATE 1 where no routes are to come (`v`), and a spare
that has taken an id posts that too. -/
theorem doRollbackRestoreDone_verified : doRollbackRestoreDone got s =
    State.hearEarly (State.modClu (v.clu.former.elim v (fun f => v.cluFrame 0x12 (leBytes 2 v.devId ++ leBytes 2 f ++ leBytes 1 1)))
      (fun c => { c with roll := none, former := none, rolls := satAdd 16 c.rolls 1 })) := by
  have hdue : x.clu.rollDue = w.clu.rollDue := by rw [← hx, State.cluSend_clu]
  unfold doRollbackRestoreDone
  rw [hroll, hover]
  dsimp only
  rw [hrestore]
  dsimp only
  rw [if_pos rfl, ← hw, hx, hdue, ← hv]
  cases v.clu.former <;> rfl

theorem doRollbackRestoreDone_member (hformer : v.clu.former = none) : doRollbackRestoreDone got s =
    (v.modClu (fun c => { c with roll := none, former := none, rolls := satAdd 16 c.rolls 1 })).hearEarly := by
  rw [doRollbackRestoreDone_verified hroll hover hrestore hw hx hv, hformer]
  rfl

theorem doRollbackRestoreDone_spare {f : Nat} (hformer : v.clu.former = some f) : doRollbackRestoreDone got s =
    ((v.cluFrame 0x12 (leBytes 2 v.devId ++ leBytes 2 f ++ leBytes 1 1)).modClu (fun c =>
      { c with roll := none, former := none, rolls := satAdd 16 c.rolls 1 })).hearEarly := by
  rw [doRollbackRestoreDone_verified hroll hover hrestore hw hx hv, hformer]
  rfl

end
end

/-- A restore that is not kept from going back ends in the restore epoch. -/
theorem State.backTo_epoch {s : State} {r : Roll} (hkeep : r.keep = false) : (s.backTo r).epoch = r.restore := by
  unfold State.backTo
  split
  case isTrue h =>
    rw [hkeep, Bool.false_or, decide_eq_true_eq] at h
    exact h.symm
  case isFalse => rfl

/-- Nothing is read from the drive where no restore point remains, or where nobody's snapshots are kept. -/
theorem State.snapReads_none {s : State} {r : Roll} (h : r.keep = true ∨ s.clu.drive = false ∨ s.clu.tree.snapFor = none) :
    s.snapReads r = s := by
  unfold State.snapReads
  rcases h with hkeep | hdrive
  · exact if_pos (by rw [hkeep, Bool.true_or])
  · rw [State.snapData_none hdrive]
    exact ite_self s

theorem State.restoreEntries_committed {s : State} {r : Roll} (hrestore : r.restore = s.epoch) (hformer : s.clu.former = none)
    (got : RestoreData) : s.restoreEntries r got = (true, s) := by
  unfold State.restoreEntries
  exact if_pos (by simp [hrestore, hformer])

theorem State.restoreEntries_keep {s : State} {r : Roll} (hkeep : r.keep = true) (got : RestoreData) : s.restoreEntries r got = (true, s) := by
  unfold State.restoreEntries
  exact if_pos (by simp [hkeep])

/-! ### CRDONE at the manager (R365, R372, R382, R385) -/

section
variable {s u : State} {dev : Sender} (hu : u = s.takeClu 0x34) (hrole : u.clu.role = 0) (hfailed : u.clu.failed.contains dev.dev = false)
  (hholder : getDev u.clu.holders dev.dev = dev.former)
include hu hrole hfailed hholder

theorem doCrdone_manager (ok : Bool) : doCrdone ⟨dev, ok⟩ s = if dev.gen = u.clu.gen then u.noteCrdone dev.dev ok else u := by
  subst hu
  rw [doCrdone, State.fromDev_known _ hfailed hholder, Clu.manager_of_role hrole, Bool.true_and]
  simp only [beq_iff_eq]

theorem doCrdone_void (h : dev.gen ≠ u.clu.gen ∨ u.clu.rolling = none) (ok : Bool) : doCrdone ⟨dev, ok⟩ s = u := by
  rw [doCrdone_manager hu hrole hfailed hholder]
  rcases h with hgen | hnone
  · exact if_neg hgen
  · rw [State.noteCrdone, hnone]
    exact ite_self u

section
variable {g : MgrRoll} (hgen : dev.gen = u.clu.gen) (hroll : u.clu.rolling = some g)
include hgen hroll

theorem doCrdone_bad : doCrdone ⟨dev, false⟩ s = u.badRestore g := by
  rw [doCrdone_manager hu hrole hfailed hholder, if_pos hgen, State.noteCrdone, hroll]
  rfl

section
variable {h : MgrRoll} {v : State} (hh : h = { g with dones := addDev g.dones dev.dev }) (hv : v = u.modClu (fun c => { c with rolling := some h }))
include hh hv

/-- A report that restored: with the last survivor's the spares come in or the rollback ends, with the last spare's it ends. -/
theorem doCrdone_good : doCrdone ⟨dev, true⟩ s =
    match g.phase with
    | .survivors => if (u.devId :: u.clu.live).all h.dones.contains then (if v.replaces h then v.substitute h else v.endRoll h) else v
    | .spares => if g.subs.all (fun p => h.dones.contains p.1) then v.endRoll h else v
    | _ => v := by
  rw [doCrdone_manager hu hrole hfailed hholder, if_pos hgen, State.noteCrdone, hroll]
  subst hv hh
  rfl

theorem doCrdone_waits (hphase : g.phase = .survivors) (hmissing : ∃ d ∈ u.devId :: u.clu.live, d ∉ h.dones) :
    doCrdone ⟨dev, true⟩ s = v := by
  rw [doCrdone_good hu hrole hfailed hholder hgen hroll hh hv, hphase]
  refine if_neg fun hall => ?_
  obtain ⟨d, hd, hnot⟩ := hmissing
  exact hnot (List.contains_iff_mem.mp (List.all_eq_true.mp hall d hd))

/-- The last survivor's report brings the spares in, or ends the rollback. -/
theorem doCrdone_last (hphase : g.phase = .survivors) (hall : ∀ d ∈ u.devId :: u.clu.live, d ∈ h.dones) :
    doCrdone ⟨dev, true⟩ s = if v.replaces h then v.substitute h else v.endRoll h := by
  rw [doCrdone_good hu hrole hfailed hholder hgen hroll hh hv, hphase]
  exact if_pos (List.all_eq_true.mpr fun d hd => List.contains_iff_mem.mpr (hall d hd))

theorem doCrdone_spares (hphase : g.phase = .spares) (hall : ∀ p ∈ g.subs, p.1 ∈ h.dones) : doCrdone ⟨dev, true⟩ s = v.endRoll h := by
  rw [doCrdone_good hu hrole hfailed hholder hgen hroll hh hv, hphase]
  exact if_pos (List.all_eq_true.mpr fun p hp => List.contains_iff_mem.mpr (hall p hp))

end
end
end

theorem State.replaces_none {s : State} (h : s.clu.toReplace s.devId = []) (r : MgrRoll) : s.replaces r = false := by
  simp [State.replaces, h]

theorem State.replaces_lost {s : State} {r : MgrRoll} (h : s.clu.toReplace s.devId ≠ []) (hstuck : s.clu.stuck = false) (hfailed : r.failed ≠ []) :
    s.replaces r = true := by
  simp [State.replaces, h, hstuck, hfailed]

/-- The end of a rollback, its condition as a proposition. -/
theorem State.endRoll_eq (s : State) (g : MgrRoll) : s.endRoll g = (State.takeAbandon (s.modClu (fun c =>
    { c with rolling := none, lost := if c.stuck = true ∨ g.failed = [] then c.lost else [] }))).maybeReady := by
  unfold State.endRoll
  simp only [Bool.or_eq_true, beq_iff_eq]

/-! ### FAILRPT at the manager (R364, R365, R371) -/

section
variable {s u : State} {dev : Sender} {e : W64} (hu : u = s.takeClu 0x3B)
include hu

theorem doFailrpt_member (hrole : u.clu.role ≠ 0) (ab : Bool) : doFailrpt dev ⟨e, ab⟩ s = u := by
  subst hu
  rw [doFailrpt, State.fromDev_member _ _ hrole, if_pos (by rw [Clu.not_manager_of_role hrole]; rfl)]

section
variable (hrole : u.clu.role = 0) (hfailed : u.clu.failed.contains dev.dev = false) (hholder : getDev u.clu.holders dev.dev = dev.former)
include hrole hfailed hholder

/-- An error at a device is a failure, unless the clutch is held for want of a restore point. -/
theorem doFailrpt_error (hheld : 2 ∉ u.clu.stops) : doFailrpt dev ⟨e, false⟩ s = u.mgrFail dev.dev := by
  subst hu
  rw [doFailrpt, State.fromDev_known _ hfailed hholder, if_neg (by rw [Clu.manager_of_role hrole]; decide)]
  exact if_neg fun h => hheld (List.contains_iff_mem.1 h)

theorem doFailrpt_abandon : doFailrpt dev ⟨e, true⟩ s =
    if dev.gen < u.clu.gen then u else (u.modClu (fun c => { c with abandonDue := some e })).takeAbandon := by
  subst hu
  rw [doFailrpt, State.fromDev_known _ hfailed hholder, if_neg (by rw [Clu.manager_of_role hrole]; decide)]
  rfl

theorem doFailrpt_old (hgen : dev.gen < u.clu.gen) : doFailrpt dev ⟨e, true⟩ s = u := by
  rw [doFailrpt_abandon hu hrole hfailed hholder, if_pos hgen]

/-- An ABANDON waits for a decision that stands. -/
theorem doFailrpt_waits (hgen : u.clu.gen ≤ dev.gen) (hbusy : u.clu.decided.isSome = true ∨ u.clu.rolling.isSome = true) :
    doFailrpt dev ⟨e, true⟩ s = u.modClu (fun c => { c with abandonDue := some e }) := by
  rw [doFailrpt_abandon hu hrole hfailed hholder, if_neg (Nat.not_lt.2 hgen)]
  refine if_neg fun hidle => ?_
  obtain ⟨⟨-, hdecided⟩, hrolling⟩ : (u.clu.manager = true ∧ u.clu.decided.isNone = true) ∧ u.clu.rolling.isNone = true := by
    have hboth : u.clu.idle = true := hidle
    rwa [Clu.idle, Bool.and_eq_true, Bool.and_eq_true] at hboth
  rcases hbusy with h | h
  · rw [Option.isNone_iff_eq_none.1 hdecided] at h
    exact Bool.false_ne_true h
  · rw [Option.isNone_iff_eq_none.1 hrolling] at h
    exact Bool.false_ne_true h

/-- Where none stands, one for the epoch that is prepared brings its rollback, and another is ignored. -/
theorem doFailrpt_rolls {v : State} (hgen : u.clu.gen ≤ dev.gen) (hdecided : u.clu.decided = none) (hrolling : u.clu.rolling = none)
    (hv : v = u.modClu (fun c => { c with abandonDue := none })) : doFailrpt dev ⟨e, true⟩ s =
      if e = u.epoch + 1 then v.decideRoll ⟨u.epoch + 1, u.epoch, 2, [], .mirror, [], [], u.epoch⟩ else v := by
  rw [doFailrpt_abandon hu hrole hfailed hholder, if_neg (Nat.not_lt.2 hgen), hv]
  have hidle : u.clu.idle = true := by rw [Clu.idle, Clu.manager_of_role hrole, hdecided, hrolling]; rfl
  exact if_pos hidle

end
end

/-- Settles O58: CROLL by what it changes, the restore by whether it verifies, and each report at the manager by the phase of its
rollback. -/
theorem rollbackMessages : Obligations.RollbackMessages := by
  refine fun s u v w x e rest cause f dev note got ab r g h => ⟨fun hcause hr hu hv hw => ?_, fun hwait => ?_,
    fun hroll hover hrestore hw hx hv => ⟨fun hkeep => ?_, fun hformer => ?_, fun hformer => ?_⟩, fun hroll hover hrestore => ?_,
    State.snapReads_none, fun hrestore hformer => State.restoreEntries_committed hrestore hformer got,
    fun hkeep => State.restoreEntries_keep hkeep got,
    fun hu hrole hfailed hholder => ⟨fun hvoid => ?_, fun hgen hroll => ?_, fun hgen hroll hh hv =>
      ⟨fun hphase hmissing => ?_, fun hphase hall => ⟨fun hnone => ?_, fun hlost hstuck hfail => ?_⟩, fun hphase hall => ?_⟩⟩,
    fun hu hrole hfailed hholder => ⟨fun hheld => ?_, fun hgen => ?_, fun hgen hbusy => ?_,
      fun hgen hdecided hrolling hv => ⟨fun he => ?_, fun he => ?_⟩⟩, s.endRoll_eq g, fun hu hrole => ?_⟩
  · rw [exec_croll, doCroll_restores hcause hr hu hv hw]
    rfl
  · rw [exec_rollbackRestoreDone, doRollbackRestoreDone_waits hwait]
  · rw [hw, State.backTo_epoch hkeep]
  · rw [exec_rollbackRestoreDone, doRollbackRestoreDone_member hroll hover hrestore hw hx hv hformer]
  · rw [exec_rollbackRestoreDone, doRollbackRestoreDone_spare hroll hover hrestore hw hx hv hformer]
  · rw [exec_rollbackRestoreDone, doRollbackRestoreDone_mismatch hroll hover hrestore]
  · rw [exec_crdone, doCrdone_void hu hrole hfailed hholder hvoid]
  · rw [exec_crdone, doCrdone_bad hu hrole hfailed hholder hgen hroll]
  · rw [exec_crdone, doCrdone_waits hu hrole hfailed hholder hgen hroll hh hv hphase hmissing]
  · rw [exec_crdone, doCrdone_last hu hrole hfailed hholder hgen hroll hh hv hphase hall, State.replaces_none hnone]
    rfl
  · rw [exec_crdone, doCrdone_last hu hrole hfailed hholder hgen hroll hh hv hphase hall,
      State.replaces_lost hlost hstuck (by rw [hh]; exact hfail), if_pos rfl]
  · rw [exec_crdone, doCrdone_spares hu hrole hfailed hholder hgen hroll hh hv hphase hall]
  · rw [exec_failrpt, doFailrpt_error hu hrole hfailed hholder hheld]
  · rw [exec_failrpt, doFailrpt_old hu hrole hfailed hholder hgen]
  · rw [exec_failrpt, doFailrpt_waits hu hrole hfailed hholder hgen hbusy]
  · rw [exec_failrpt, doFailrpt_rolls hu hrole hfailed hholder hgen hdecided hrolling hv, if_pos he]
  · rw [exec_failrpt, doFailrpt_rolls hu hrole hfailed hholder hgen hdecided hrolling hv, if_neg he]
  · rw [exec_failrpt, doFailrpt_member hu hrole]

end Sys2Proof.Machine
end

section
/-! Heartbeats and takeover (R360, R366, R371, R373). -/

namespace Sys2Proof.Machine

theorem exec_heart (dev : Nat) (rep : DevReport) (s : State) : exec (.heart dev rep) s = .next (doHeart dev rep s) := rfl
theorem exec_heartbeatPeriod (s : State) : exec .heartbeatPeriod s = .next (doHeartbeatPeriod s) := rfl
theorem exec_heartbeatMiss (dev : Nat) (s : State) : exec (.heartbeatMiss dev) s = .next (doHeartbeatMiss dev s) := rfl
theorem exec_standbyTakeover (eps : List (Nat × DevReport)) (s : State) : exec (.standbyTakeover eps) s = .next (doStandbyTakeover eps s) := rfl

/-! ### HEART (R371, R373) -/

section
variable {s u : State} {dev : Nat} {rep : DevReport} (hu : u = s.takeClu 0x35)
include hu

theorem doHeart_answered (hrole : u.clu.role = 0)
    (h : getDev u.clu.holders dev ≠ rep.former ∨ (u.clu.failed.contains dev = true ∧ rep.first = false)) :
    doHeart dev rep s = u.answerFailed dev := by
  subst hu
  refine (if_pos (Clu.manager_of_role hrole)).trans (if_pos ?_)
  rw [Clu.replaced, Bool.or_eq_true, bne_iff_ne, Bool.and_eq_true, Bool.not_eq_true']
  exact h

theorem doHeart_heard (hrole : u.clu.role = 0) (hholder : getDev u.clu.holders dev = rep.former)
    (h : u.clu.failed.contains dev = false ∨ rep.first = true) : doHeart dev rep s = u.heard dev rep := by
  subst hu
  refine (if_pos (Clu.manager_of_role hrole)).trans (if_neg ?_)
  rw [Clu.replaced, Bool.or_eq_true, bne_iff_ne, Bool.and_eq_true, Bool.not_eq_true']
  rintro (hother | ⟨hfailed, hfirst⟩)
  · exact hother hholder
  · rcases h with h | h
    · exact Bool.false_ne_true (h.symm.trans hfailed)
    · exact Bool.false_ne_true (hfirst.symm.trans h)

/-- At the standby it shows that the manager lives. -/
theorem doHeart_standby (hrole : u.clu.role = 1) (hdev : dev = u.clu.mgrId) : doHeart dev rep s =
    u.modClu (fun c => { c with missed := smSet 0 c.missed dev 0 }) := by
  subst hu
  have hmember : ¬((s.takeClu 0x35).clu.manager = true) :=
    ne_true_of_eq_false (Clu.not_manager_of_role (by rw [hrole]; exact Nat.one_ne_zero))
  exact (if_neg hmember).trans (if_pos ⟨hrole, hdev⟩)

/-- At another device it comes from a new manager. -/
theorem doHeart_member (hrole : 2 ≤ u.clu.role) : doHeart dev rep s = (u.modClu (fun c => { c with mgrId := dev, tabOwed := true })).sendHeart := by
  subst hu
  have hmember : ¬((s.takeClu 0x35).clu.manager = true) := ne_true_of_eq_false (Clu.not_manager_of_role (by omega))
  exact (if_neg hmember).trans (if_neg fun h => by omega)

end

/-- The device's own HEART where it has no drive, no table to report and no former id. -/
theorem State.sendHeart_plain {s : State} (htab : s.clu.tabOwed = false) (hdrive : s.clu.drive = false) (horigin : s.clu.origin = none) :
    s.sendHeart = (s.cluSend 0x35 s.clu.mgrId s.epoch (if s.clu.holdsJob then 1 else 0) 0 [if s.clu.hbFirst then 1 else 0, 0, 0, 0, 0]).modClu
      (fun c => { c with tabOwed := false, hbFirst := false }) := by
  unfold State.sendHeart
  dsimp only
  rw [htab, hdrive, horigin]
  rfl

/-! ### The periods (R371) -/

/-- Two changes that agree on the clutch functions as they stand are one. -/
theorem State.modClu_congr {s : State} {f g : Clu → Clu} (h : f s.clu = g s.clu) : s.modClu f = s.modClu g :=
  congrArg (fun c => ({ s with clu := c } : State)) h

theorem State.sendHeart_role (s : State) : s.sendHeart.clu.role = s.clu.role := by
  unfold State.sendHeart
  extract_lets c drive opt tab who u
  have hsent : u.clu = s.clu := s.cluSend_clu _ _ _ _ _ _
  show u.clu.role = s.clu.role
  rw [hsent]

theorem doHeartbeatPeriod_quiet {s : State} (h : s.holds.fatal = true ∨ s.lnk.idV = false) : doHeartbeatPeriod s = s := by
  refine if_pos ?_
  rw [Bool.or_eq_true, Bool.not_eq_true']
  exact h

section
variable {s : State} (hfatal : s.holds.fatal = false) (hid : s.lnk.idV = true)
include hfatal hid

theorem doHeartbeatPeriod_counts : doHeartbeatPeriod s = (if s.clu.manager then s.mgrPeriod else s.sendHeart).modClu (fun c =>
    { c with missed := c.watched.foldl (fun m d => smSet 0 m d (smGet 0 m d + 1)) c.missed }) :=
  if_neg (by rw [hfatal, hid]; decide)

theorem doHeartbeatPeriod_manager (hrole : s.clu.role = 0) : doHeartbeatPeriod s = s.mgrPeriod.modClu (fun c =>
    { c with missed := c.watched.foldl (fun m d => smSet 0 m d (smGet 0 m d + 1)) c.missed }) := by
  rw [doHeartbeatPeriod_counts hfatal hid, if_pos (Clu.manager_of_role hrole)]

/-- The standby watches its manager. -/
theorem doHeartbeatPeriod_standby (hrole : s.clu.role = 1) : doHeartbeatPeriod s = s.sendHeart.modClu (fun c =>
    { c with missed := smSet 0 c.missed c.mgrId (smGet 0 c.missed c.mgrId + 1) }) := by
  have hsent : s.sendHeart.clu.role = 1 := s.sendHeart_role.trans hrole
  have hwatch : s.sendHeart.clu.watched = [s.sendHeart.clu.mgrId] := by
    rw [Clu.watched, Clu.manager, hsent]
    rfl
  rw [doHeartbeatPeriod_counts hfatal hid, Clu.manager, hrole, if_neg (by decide)]
  refine State.modClu_congr ?_
  rw [hwatch]
  rfl

/-- Another device watches none. -/
theorem doHeartbeatPeriod_member (hrole : 2 ≤ s.clu.role) : doHeartbeatPeriod s = s.sendHeart := by
  have hsent : 2 ≤ s.sendHeart.clu.role := by rw [s.sendHeart_role]; exact hrole
  have hmember (c : Clu) (h : 2 ≤ c.role) : c.manager = false := Clu.not_manager_of_role (by omega)
  have hwatch : s.sendHeart.clu.watched = [] := by
    rw [Clu.watched, hmember _ hsent]
    exact if_neg (show ¬s.sendHeart.clu.role = 1 by omega)
  rw [doHeartbeatPeriod_counts hfatal hid, hmember _ hrole, if_neg (by decide)]
  refine (State.modClu_congr (g := id) ?_).trans rfl
  rw [hwatch]
  rfl

end

/-- The manager asks for a cross-check of a device that is alive, or of none. -/
theorem State.scheduleXcheck_asks (s : State) : s.scheduleXcheck = { s with freeCtr := s.freeCtr + 1 } ∨
    ∃ d ∈ s.devId :: s.clu.live, s.scheduleXcheck = State.cluSend { s with freeCtr := s.freeCtr + 1 } 0x3F d s.epoch 0 0 [] := by
  unfold State.scheduleXcheck
  dsimp only
  split
  case h_1 d heq => exact .inr ⟨d, List.mem_of_getElem? heq, rfl⟩
  case h_2 => exact .inl rfl

theorem doHeartbeatMiss_fails {s : State} {dev : Nat} (hrole : s.clu.role = 0) (hknown : dev ∈ s.clu.known) (hlive : dev ∉ s.clu.failed)
    (hmiss : s.clu.miss ≤ smGet 0 s.clu.missed dev) : doHeartbeatMiss dev s = s.mgrFail dev := by
  have hwatch : s.clu.watched.contains dev = true := by
    rw [Clu.watched, if_pos (Clu.manager_of_role hrole), List.contains_iff_mem, List.mem_filter]
    exact ⟨List.mem_append_left _ hknown, by simp [hlive]⟩
  exact if_pos (by rw [Clu.manager_of_role hrole, hwatch, decide_eq_true hmiss]; rfl)

theorem doHeartbeatMiss_few {s : State} {dev : Nat} (hmiss : smGet 0 s.clu.missed dev < s.clu.miss) : doHeartbeatMiss dev s = s :=
  if_neg (by simp [Nat.not_le.2 hmiss])

/-! ### Takeover (R373) -/

theorem doStandbyTakeover_other {s : State} (hrole : s.clu.role ≠ 1) (eps : List (Nat × DevReport)) : doStandbyTakeover eps s = s :=
  if_neg (by simp [hrole])

/-- The clutch functions of a standby that takes over, its manager being lost: it counts its own drive and tables and what the others
report. -/
def Clu.takesOver (c : Clu) (epoch : W64) (self old : Nat) (own : DevReport) (others : List (Nat × DevReport)) : Clu :=
  others.foldl (fun (c : Clu) p => c.join epoch p.1 p.2) { c.noteReport epoch self own with
    gen := c.gen + 65536, treeLive := [], tabOwed := false, role := 0, mgrId := self, sbyLost := true, known := [], spares := []
    holders := others.filterMap (fun p => p.2.former.map (fun f => (p.1, f)))
    missed := [], failed := [old], failCount := c.failCount + (if c.firstCommit.isSome then 1 else 0)
    lost := if c.mgrOnly then [] else [old] }

/-- With no decision stored a standby that takes over rolls back. -/
theorem doStandbyTakeover_rolls {s u v : State} {eps others : List (Nat × DevReport)} (hrole : s.clu.role = 1)
    (hmiss : s.clu.miss ≤ smGet 0 s.clu.missed s.clu.mgrId) (hmirror : s.clu.mirror = none)
    (hv : v = s.cluAll (eps.map (·.1)) 0x35 s.epoch 0 0 []) (hothers : others = eps.filter (fun p => p.1 != s.clu.mgrId && p.1 != v.devId))
    (hu : u = (v.modClu (fun c => c.takesOver v.epoch v.devId s.clu.mgrId v.ownReport others)).detect (mkRec clsCorrected cRole uClutch)) :
    doStandbyTakeover eps s = u.replan.startRoll 3 := by
  subst hu hothers hv
  unfold doStandbyTakeover
  dsimp only
  rw [if_pos (by rw [decide_eq_true hrole, decide_eq_true hmiss]; rfl), hmirror]
  rfl

/-- Settles O59: HEART by the role of the device that hears it, a period by the role of the one whose period it is, and a takeover by
`Clu.takesOver`. -/
theorem heartbeatsAndTakeover : Obligations.HeartbeatsAndTakeover := by
  refine fun s u v dev rep eps others => ⟨fun hu => ⟨fun hrole hout => ?_, fun hrole hholder hlive => ?_, fun hrole hdev => ?_,
      fun hrole => ?_⟩, State.sendHeart_plain, fun hu => ?_, fun hquiet => ?_,
    fun hfatal hid => ⟨fun hrole => ?_, fun hrole => ?_, fun hrole => ?_⟩, fun hrole hknown hlive hmiss => ?_, fun hmiss => ?_,
    fun hrole hmiss hmirror hv hothers hu => ?_, fun hrole => ?_⟩
  · rw [exec_heart, doHeart_answered hu hrole hout]
  · rw [exec_heart, doHeart_heard hu hrole hholder hlive]
  · rw [exec_heart, doHeart_standby hu hrole hdev]
  · rw [exec_heart, doHeart_member hu hrole]
  · subst hu
    exact s.scheduleXcheck_asks
  · rw [exec_heartbeatPeriod, doHeartbeatPeriod_quiet hquiet]
  · rw [exec_heartbeatPeriod, doHeartbeatPeriod_standby hfatal hid hrole]
  · rw [exec_heartbeatPeriod, doHeartbeatPeriod_member hfatal hid hrole]
  · rw [exec_heartbeatPeriod, doHeartbeatPeriod_manager hfatal hid hrole]
  · rw [exec_heartbeatMiss, doHeartbeatMiss_fails hrole hknown hlive hmiss]
  · rw [exec_heartbeatMiss, doHeartbeatMiss_few hmiss]
  · rw [exec_standbyTakeover, doStandbyTakeover_rolls hrole hmiss hmirror hv hothers hu]
  · rw [exec_standbyTakeover, doStandbyTakeover_other hrole]

end Sys2Proof.Machine
end

section
/-! What keeps the memories canonical, as rules to chain: `h.post` says of a canonical state that `State.post` leaves it canonical. -/

namespace Sys2Proof.Machine

-- One theorem at a time: elaborated side by side, with a thread for each, so many short ones pass the memory limit.
set_option Elab.async false

/-! ### States -/

/-- A change outside the tiles and memories. -/
theorem State.canon.frame {s u : State} (h : s.canon) (htiles : u.tiles = s.tiles := by exact rfl) (hdram : u.dram = s.dram := by exact rfl)
    (hhost : u.hostMem = s.hostMem := by exact rfl) : u.canon := s.canon_of_eq u h htiles hdram hhost

theorem State.canon.ite {s u : State} {c : Prop} [Decidable c] (hs : s.canon) (hu : u.canon) : (if c then s else u).canon := by
  split
  · exact hs
  · exact hu

theorem State.canon.iteSnd {α : Type} {p q : α × State} {c : Prop} [Decidable c] (hp : p.2.canon) (hq : q.2.canon) :
    (if c then p else q).2.canon := by
  split
  · exact hp
  · exact hq

/-- The state of a pair that a pattern takes apart. -/
theorem State.canon.of_pair {α : Type} {p : α × State} {a : α} {u : State} (hp : p = (a, u)) (h : p.2.canon) : u.canon := by
  rw [hp] at h
  exact h

theorem State.canon.foldl {α : Type} {f : State → α → State} {l : List α} {s : State} (h : s.canon) (hf : ∀ u x, u.canon → (f u x).canon) :
    (l.foldl f s).canon := State.canon_foldl f hf l s h

/-- A fold that carries a value beside the state. -/
theorem State.canon.foldlSnd {α β : Type} {f : β × State → α → β × State} {l : List α} {p : β × State} (h : p.2.canon)
    (hf : ∀ q x, q.2.canon → (f q x).2.canon) : (l.foldl f p).2.canon := by
  induction l generalizing p with
  | nil => exact h
  | cons x l ih => exact ih (hf p x h)

theorem State.canon.iteFst {α : Type} {p q : State × α} {c : Prop} [Decidable c] (hp : p.1.canon) (hq : q.1.canon) :
    (if c then p else q).1.canon := by
  split
  · exact hp
  · exact hq

theorem State.canon.foldlFst {α β : Type} {f : State × β → α → State × β} {l : List α} {p : State × β} (h : p.1.canon)
    (hf : ∀ q x, q.1.canon → (f q x).1.canon) : (l.foldl f p).1.canon := by
  induction l generalizing p with
  | nil => exact h
  | cons x l ih => exact ih (hf p x h)

/-- A change of a tile outside its memories. -/
theorem State.canon.modTile {s : State} {t : Nat} {f : Tile → Tile} (h : s.canon)
    (hf : ∀ v : Tile, (f v).spad = v.spad ∧ (f v).vat = v.vat := by exact fun _ => ⟨rfl, rfl⟩) : (s.modTile t f).canon :=
  s.canon_modTile_same t f h (fun v => (hf v).1) (fun v => (hf v).2)

/-! ### Work that may fail (R56) -/

/-- Work of a unit that leaves a canonical state canonical, whether it succeeds or fails. -/
def X.keeps {α : Type} (x : X α) : Prop := ∀ s : State, s.canon → (x.run.run s).2.canon

theorem X.keeps.pure {α : Type} {a : α} : X.keeps (Pure.pure a) := fun _ h => h
theorem X.keeps.fail {α : Type} {e : XErr} : X.keeps (xFail e : X α) := fun _ h => h
theorem X.keeps.mod {f : State → State} (hf : ∀ u, u.canon → (f u).canon) : X.keeps (xMod f) := hf
theorem X.keeps.act {α : Type} {f : State → α × State} (hf : ∀ u, u.canon → (f u).2.canon) : X.keeps (xDo f) := hf

theorem X.keeps.bind {α β : Type} {x : X α} {f : α → X β} (hx : x.keeps) (hf : ∀ a, (f a).keeps) : X.keeps (x >>= f) := by
  intro s h
  have hu := hx s h
  rw [ExceptT.run_bind, StateT.run_bind]
  generalize x.run.run s = r at hu ⊢
  obtain ⟨a | a, u⟩ := r
  · exact hu
  · exact hf a u hu

/-- Work that begins by looking at the state. -/
theorem X.keeps.state {β : Type} {f : State → X β} (hf : ∀ u, u.canon → (f u).keeps) : X.keeps (xState >>= f) := fun s h => hf s h s h

theorem X.keeps.ite {α : Type} {x y : X α} {c : Prop} [Decidable c] (hx : x.keeps) (hy : y.keeps) : X.keeps (if c then x else y) := by
  split
  · exact hx
  · exact hy

/-- Two ways that join again. -/
theorem X.keeps.join {α β : Type} {x y : X α} {f : α → X β} {c : Prop} [Decidable c] (hx : x.keeps) (hy : y.keeps) (hf : ∀ a, (f a).keeps) :
    X.keeps (if c then x >>= f else y >>= f) := .ite (hx.bind hf) (hy.bind hf)

/-- Work that is left out unless a condition holds. -/
theorem X.keeps.joinWhen {β : Type} {x : X PUnit} {f : PUnit → X β} {c : Prop} [Decidable c] (hx : x.keeps) (hf : ∀ a, (f a).keeps) :
    X.keeps (if c then x >>= f else f ⟨⟩) := .ite (hx.bind hf) (hf _)

theorem X.keeps.map {α β : Type} {f : α → β} {x : X α} (hx : x.keeps) : X.keeps (f <$> x) := by
  rw [← bind_pure_comp]
  exact hx.bind fun _ => .pure

theorem X.keeps.mapM {α β : Type} {f : α → X β} (hf : ∀ a, (f a).keeps) (l : List α) : X.keeps (l.mapM f) := by
  induction l with
  | nil => exact .pure
  | cons a l ih =>
    rw [List.mapM_cons]
    exact (hf a).bind fun _ => ih.bind fun _ => .pure

theorem X.keeps.forM {α : Type} {f : α → X PUnit} (hf : ∀ a, (f a).keeps) (l : List α) : X.keeps (l.forM f) := by
  induction l with
  | nil => exact .pure
  | cons a l ih => exact (hf a).bind fun _ => ih

/-- A unit of such work: what it leaves where it fails is canonical too. -/
theorem State.canon.runUnit {α : Type} {s : State} {t : Nat} {x : X α} (h : s.canon) (hx : x.keeps) : (runUnit t x s).2.canon := by
  have hu := hx s h
  unfold Machine.runUnit
  generalize x.run.run s = r at hu ⊢
  obtain ⟨a | a, u⟩ := r
  · exact s.canon_unitUndo u t h
  · exact hu

theorem State.canon.runUnits {s : State} {t n : Nat} {x : X Bool} (h : s.canon) (hx : x.keeps) : (runUnits t x n s).2.canon := by
  induction n generalizing s with
  | zero => exact h
  | succ n ih =>
    have hu := h.runUnit (t := t) hx
    rw [runUnits_succ]
    split
    case h_1 u heq => exact .of_pair heq hu
    case h_2 u heq => exact ih (.of_pair heq hu)
    case h_3 e u heq => exact .of_pair heq hu

theorem State.canon.runUntil {s : State} {t n : Nat} {x : X Bool} {stop : State → Bool} (h : s.canon) (hx : x.keeps) :
    (runUntil t x stop n s).2.canon := by
  induction n generalizing s with
  | zero => exact h
  | succ n ih =>
    have hu := h.runUnit (t := t) hx
    unfold Machine.runUntil
    split
    · exact h
    · split
      case h_1 u heq => exact .of_pair heq hu
      case h_2 u heq => exact ih (.of_pair heq hu)
      case h_3 e u heq => exact .of_pair heq hu

end Sys2Proof.Machine
end

section
/-! What keeps the memories canonical: the functions of the state, the bus, the strands and descriptors. -/

namespace Sys2Proof.Machine

-- One theorem at a time: elaborated side by side, with a thread for each, so many short ones pass the memory limit.
set_option Elab.async false

/-! ### Ops -/

theorem State.canon.drawUpTo {s : State} {n} (h : s.canon) : (s.drawUpTo n).2.canon := h.frame

theorem State.canon.csrAcc {s : State} {w addr} (h : s.canon) : (s.csrAcc w addr).canon := h.frame

theorem State.canon.post {s : State} {ctx typ body} (h : s.canon) : (s.post ctx typ body).canon := h.frame

theorem State.canon.notice {s : State} {unit src index detail} (h : s.canon) : (s.notice unit src index detail).canon := h.frame

theorem State.canon.numCount {s : State} {t n k} (h : s.canon) : (s.numCount t n k).canon := by
  unfold State.numCount
  exact .ite (.notice (.modTile h)) (.modTile h)

theorem State.canon.numCounts {s : State} {t l} (h : s.canon) : (s.numCounts t l).canon := by
  unfold State.numCounts
  exact h.foldl fun _ _ hu => hu.numCount

/-! ### Route -/

theorem State.canon.modPort {s : State} {p f} (h : s.canon) : (s.modPort p f).canon := h.frame

theorem State.canon.readPacket {s : State} {unit k} (h : s.canon) : (s.readPacket unit k).canon := by
  unfold State.readPacket
  refine .foldl h fun _ _ hu => ?_
  split
  · exact hu
  · exact hu
  · exact hu.frame
  · exact hu.frame

theorem State.canon.send {s : State} {k} (h : s.canon) : (s.send k).canon := by
  unfold State.send
  split
  · exact h.frame
  · exact h.frame
  · exact h.ite h.frame

/-! ### Bus -/

theorem State.canon.stackCmd {s : State} {n ctx} (h : s.canon) : (s.stackCmd n ctx).canon := by
  unfold State.stackCmd
  split
  · exact h
  · exact h.frame
  · exact h.frame

theorem State.canon.tableEntry {s : State} {a} (h : s.canon) : (s.tableEntry a).2.canon := by
  unfold State.tableEntry
  split
  · rcases hlo : s.readLoc (.dram a) none with ⟨lo, u⟩
    have hu : u.canon := .of_pair hlo (State.canon_readLoc _ _ _ h)
    dsimp only
    rcases hhi : u.readLoc (.dram (a + 4)) none with ⟨hi, v⟩
    exact .of_pair hhi (State.canon_readLoc _ _ _ hu)
  · exact h.frame

theorem State.canon.walk {s : State} {unit ctx a acc} (h : s.canon) : (s.walk unit ctx a acc).2.canon := by
  unfold State.walk
  dsimp only
  split
  case h_1 u heq =>
    have hu : u.canon := .of_pair heq h.tableEntry
    exact hu.frame
  case h_2 u heq =>
    have hu : u.canon := .of_pair heq h.tableEntry
    split
    · exact hu
    · split
      case h_1 u1 heq2 =>
        have hu1 : u1.canon := .of_pair heq2 hu.tableEntry
        exact hu1.frame
      case h_2 u1 heq2 =>
        have hu1 : u1.canon := .of_pair heq2 hu.tableEntry
        split
        · exact hu1
        · split
          case h_1 u2 heq4 =>
            have hu2 : u2.canon := .of_pair heq4 hu1.tableEntry
            exact hu2.frame
          case h_2 u2 heq4 =>
            have hu2 : u2.canon := .of_pair heq4 hu1.tableEntry
            split <;> exact hu2

theorem X.keeps.leafFor {g a acc} : (Machine.leafFor g a acc).keeps := by
  unfold Machine.leafFor
  dsimp only
  refine .state fun _ _ => ?_
  split
  · exact .bind (.mod fun _ hu => .modTile hu.frame) fun _ => .pure
  · split
    · refine .bind (.mod fun _ hu => .modTile hu) fun _ => .bind (.act fun _ hu => hu.walk) fun _ => ?_
      split
      · exact .fail
      · exact .bind (.mod fun _ hu => .modTile hu) fun _ => .pure
    · refine .bind (.act fun _ hu => hu.walk) fun _ => ?_
      split
      · exact .fail
      · exact .pure

theorem X.keeps.xlate {g a acc} : (Machine.xlate g a acc).keeps := by
  unfold Machine.xlate
  split
  · exact .fail
  · split
    · exact .ite .pure .fail
    · refine .bind .leafFor fun _ => ?_
      split
      · exact .fail
      · refine .state fun _ _ => ?_
        split
        · split
          · exact .bind (.mod fun _ hu1 => hu1.frame) fun _ => .fail
          · exact .pure
        · exact .pure

theorem State.canon.readHere {s : State} {g a a1} (h : s.canon) : (s.readHere g a a1).2.canon := by
  induction a1 generalizing s g a with
  | zero =>
    unfold State.readHere
    exact h
  | succ a1 ih =>
    unfold State.readHere
    refine ih ?_
    split
    · split
      · exact State.canon_readLoc _ _ _ h
      · exact h
    · exact h

theorem State.canon.modEntry {s : State} {t q seq f} (h : s.canon) : (s.modEntry t q seq f).canon := by
  unfold State.modEntry
  exact .ite h.frame (.modTile h)

theorem State.canon.sideStart {s : State} {id d ctx r} (h : s.canon) : (s.sideStart id d ctx r).canon := h.frame

theorem State.canon.sideEnd {s : State} {id} (h : s.canon) : (s.sideEnd id).canon := h.frame

theorem State.canon.requestPk {s : State} {g k len page into} (h : s.canon) : (s.requestPk g k len page into).canon := h.send.frame

theorem State.canon.request {s : State} {g opc dst addr len page into rind words fmt} (h : s.canon) :
    (s.request g opc dst addr len page into rind words fmt).canon :=
  h.requestPk

theorem X.keeps.remoteLine {g dev line page} : (Machine.remoteLine g dev line page).keeps := by
  unfold Machine.remoteLine
  refine .state fun _ _ => ?_
  split
  · exact .fail
  · split
    · exact .pure
    · split
      · exact .fail
      · exact .bind (.mod fun _ hu1 => hu1.request) fun _ => .fail

theorem X.keeps.remotePut {g b} : (Machine.remotePut g b).keeps := by
  unfold Machine.remotePut
  exact .mod fun _ hu => hu.modEntry

theorem X.keeps.xEntry {g} : (Machine.xEntry g).keeps := by
  unfold Machine.xEntry
  refine .state fun _ _ => ?_
  split
  · exact .pure
  · exact .fail

theorem X.keeps.xRun {g f} : (Machine.xRun g f).keeps := by
  unfold Machine.xRun
  exact .mod fun _ hu => hu.modEntry

theorem X.keeps.xRead32 {g a} : (Machine.xRead32 g a).keeps := by
  unfold Machine.xRead32
  refine .bind .xlate fun _ => ?_
  split
  · exact .act fun _ hu => State.canon_readLoc _ _ _ hu
  · exact .bind .remoteLine fun _ => .pure

theorem State.canon.noteCover {g loc n} {s : State} (h : s.canon) : (Machine.noteCover g loc n s).canon := by
  unfold Machine.noteCover
  split
  · exact .modTile h
  · exact h

theorem State.canon.countPartials {s : State} {t q seq} (h : s.canon) : (s.countPartials t q seq).canon := by
  unfold State.countPartials
  exact .modTile (h.foldl fun _ _ hu => hu.frame)

theorem X.keeps.xWrite32 {g a v mark} : (Machine.xWrite32 g a v mark).keeps := by
  unfold Machine.xWrite32
  refine .bind .xlate fun _ => ?_
  split
  · exact .mod fun _ hu => (State.canon_putWord _ _ _ _ _ hu).noteCover
  · exact .bind (.act fun _ hu => State.canon_made _ _ hu) fun _ => .bind .remoteLine fun _ => .remotePut

theorem X.keeps.xWriteBytes {g a l mark} : (Machine.xWriteBytes g a l mark).keeps := by
  unfold Machine.xWriteBytes
  refine .bind (.act fun _ hu => State.canon_made _ _ hu) fun v => .bind .xlate fun x => ?_
  split
  case h_1 pa =>
    refine .mod fun u hu => ?_
    have hw : (Machine.noteCover g (locOf pa) (leBytes l.length v.toNat).length
        (u.writeBytesLoc g.tile (locOf pa) (leBytes l.length v.toNat))).canon := (State.canon_writeBytesLoc _ _ _ _ hu).noteCover
    exact .ite (State.canon_markLoc _ _ hw) hw
  · exact .bind .remoteLine fun _ => .remotePut

theorem X.keeps.xReadBytes {g a n} : (Machine.xReadBytes g a n).keeps := by
  unfold Machine.xReadBytes
  exact .bind .xRead32 fun _ => .ite .pure (.bind .xRead32 fun _ => .pure)

theorem X.keeps.xReadWords {g a a1} : (Machine.xReadWords g a a1).keeps := by
  induction a1 generalizing g a with
  | zero =>
    unfold Machine.xReadWords
    exact .pure
  | succ a1 ih =>
    unfold Machine.xReadWords
    exact .bind .xRead32 fun _ => ih.bind fun _ => .pure

theorem X.keeps.xPutLine {g a l} : (Machine.xPutLine g a l).keeps := by
  unfold Machine.xPutLine
  refine .bind (.mapM (fun _ => .bind (.act fun _ hu => State.canon_made _ _ hu) fun _ => .pure) _) fun _ => .bind .xlate fun _ => ?_
  split
  · exact .mod fun _ hu => hu.foldl fun _ _ hu1 => (State.canon_writeLoc _ _ _ _ _ hu1).noteCover
  · exact .remotePut

theorem X.keeps.xWriteWords_go {g a a1 a2} : (Machine.xWriteWords.go g a a1 a2).keeps := by
  induction a generalizing g a1 a2 with
  | zero =>
    unfold Machine.xWriteWords.go
    exact .pure
  | succ a ih =>
    unfold Machine.xWriteWords.go
    split
    · exact .pure
    · exact .ite (.bind .xPutLine fun _ => ih) (.bind .xWrite32 fun _ => ih)

theorem X.keeps.xWriteWords {g a l} : (Machine.xWriteWords g a l).keeps := by
  unfold Machine.xWriteWords
  exact .xWriteWords_go

theorem X.keeps.flushBy {g fmt} : (Machine.flushBy g fmt).keeps := by
  unfold Machine.flushBy
  refine .state fun _ _ => ?_
  split
  · exact .pure
  · exact .mod fun _ hu1 => (hu1.foldl fun _ _ hu2 => hu2.request).modEntry

theorem X.keeps.flushAs {g fmt} : (Machine.flushAs g fmt).keeps := by
  unfold Machine.flushAs
  exact .flushBy

theorem X.keeps.flushRemote {g} : (Machine.flushRemote g).keeps := by
  unfold Machine.flushRemote
  exact .flushAs

theorem X.keeps.xSpad {t o ctx} : (Machine.xSpad t o ctx).keeps := by
  unfold Machine.xSpad
  exact .act fun _ hu => State.canon_readLoc _ _ _ hu

/-! ### Strand -/

theorem State.canon.endStrand {s : State} {t k} (h : s.canon) : (s.endStrand t k).canon := by
  unfold State.endStrand
  exact h.ite (State.canon_reap _ _ _ (State.canon_setStrand _ _ _ _ h))

theorem State.canon.parkStrand {s : State} {t k} (h : s.canon) : (s.parkStrand t k).canon := by
  unfold State.parkStrand
  dsimp only
  split
  · exact h
  · exact h
  · exact h
  · exact State.canon_setStrand _ _ _ _ h
  · exact State.canon_setStrand _ _ _ _ h

theorem State.canon.unparkStrand {s : State} {t k} (h : s.canon) : (s.unparkStrand t k).canon := by
  unfold State.unparkStrand
  exact .ite (State.canon_setStrand _ _ _ _ h) ((State.canon_setStrand _ _ _ _ h).ite h)

/-! ### Desc -/

theorem State.canon.removeEntry {s : State} {t q e} (h : s.canon) : (s.removeEntry t q e).canon := by
  unfold State.removeEntry
  split
  · exact State.canon_reap _ _ _ (.modTile h.countPartials)
  · exact .modTile h.countPartials

theorem State.canon.dropEntry {s : State} {t q e} (h : s.canon) : (s.dropEntry t q e).canon := h.removeEntry

theorem State.canon.endIssuer {s : State} {t e} (h : s.canon) : (s.endIssuer t e).canon := by
  unfold State.endIssuer
  split
  · exact h.endStrand
  · exact h

theorem State.canon.refuse {s : State} {t q e off val} (h : s.canon) : (s.refuse t q e off val).canon := by
  unfold State.refuse
  split
  · exact .dropEntry (.modTile h.frame)
  · exact .dropEntry (.endIssuer h.frame)

theorem State.canon.poisonStart {s : State} {t q e addr} (h : s.canon) : (s.poisonStart t q e addr).canon := by
  unfold State.poisonStart
  exact .dropEntry (.endIssuer h.frame)

theorem State.canon.readHead {s : State} {t q e} (h : s.canon) : (s.readHead t q e).2.canon := by
  unfold State.readHead
  refine .modEntry (.foldl h fun _ _ hu => ?_)
  split
  · exact hu
  · exact hu
  · exact hu.frame
  · exact hu.frame

theorem State.canon.withHead {s : State} {t q : Nat} {e : QEntry} {k : QEntry → State → State} (h : s.canon) (hk : ∀ x u, u.canon → (k x u).canon) :
    (s.withHead t q e k).canon := by
  unfold State.withHead
  exact (hk _ _ h).ite (h.readHead.poisonStart.ite (hk _ _ h.readHead))

/-- The state that a start leaves, whatever it finds. -/
@[reducible] def StartRes.left : StartRes → State
  | .go _ s => s
  | .refuse _ _ s => s
  | .poison _ s => s

theorem State.canon.settle {t q} {e : QEntry} {r : StartRes} (hr : r.left.canon) : (State.settleStart t q e r).canon := by
  cases r with
  | go r s => exact .modEntry (s := s) hr
  | refuse off val s => exact .refuse (s := s) hr
  | poison a s => exact .poisonStart (s := s) hr

theorem State.canon.startDesc {s : State} {t q op free check} (h : s.canon) (hcheck : ∀ e u, u.canon → (check e u).left.canon) :
    (s.startDesc t q op free check).canon := by
  obtain hs | ⟨e, -, -, -, hs⟩ := s.startDesc_cases t q op free check
  · rw [hs]
    exact h
  · rw [hs]
    exact h.withHead fun e u hu => .settle (hcheck e u hu)

theorem State.canon.startChk {s : State} {c : Chk Run} (h : s.canon) : (Machine.startChk c s).left.canon := by
  cases c with
  | ok r => exact h
  | error e => exact h

theorem State.canon.signalDone {s : State} {t q e} (h : s.canon) : (s.signalDone t q e).canon := by
  unfold State.signalDone
  split
  · exact .ite h.frame h
  · exact h.frame
  · exact h

theorem State.canon.completeEntry {s : State} {t q e} (h : s.canon) : (s.completeEntry t q e).canon := h.signalDone.removeEntry

theorem State.canon.leaveEntry {s : State} {t q e} (h : s.canon) : (s.leaveEntry t q e).canon := by
  unfold State.leaveEntry
  exact h.removeEntry.ite h.completeEntry

theorem State.canon.drainEdge {s : State} {t a} (h : s.canon) : (s.drainEdge t a).canon := by
  induction a generalizing s t with
  | zero =>
    unfold State.drainEdge
    exact h
  | succ a ih =>
    unfold State.drainEdge
    split
    · exact (ih h.leaveEntry).ite h
    · exact h

theorem State.canon.finishEdge {s : State} {t seq} (h : s.canon) : (s.finishEdge t seq).canon := h.modEntry.drainEdge

theorem State.canon.haltEntry {s : State} {t q seq} (h : s.canon) : (s.haltEntry t q seq).canon := h.modEntry

theorem State.canon.takeFault {s : State} {t q e reason access addr} (h : s.canon) : (s.takeFault t q e reason access addr).canon := by
  unfold State.takeFault
  refine .post ?_
  split
  · exact .parkStrand (.modTile h.frame)
  · exact .modTile h.frame

theorem State.canon.endRead {s : State} {t q} (h : s.canon) : (s.endRead t q).canon := by
  unfold State.endRead
  exact .ite (.modTile h) h

theorem State.canon.failEntry {s : State} {t q e x} (h : s.canon) : (s.failEntry t q e x).canon := by
  unfold State.failEntry
  split
  · exact h.ite h.takeFault
  · exact .dropEntry (.endRead (.endIssuer h.frame))
  · exact h

theorem State.canon.startEdge {s : State} {t op edge free} {work : QEntry → X StartX} (h : s.canon) (hwork : ∀ e, (work e).keeps) :
    (s.startEdge t op edge free work).canon := by
  unfold State.startEdge
  split
  · exact h
  · refine .ite (h.withHead fun e u hu => ?_) h
    have hr := hu.runUnit (t := t) (hwork e)
    split
    case h_1 heq => exact .failEntry (.of_pair heq hr)
    case h_2 heq => exact .modEntry (.of_pair heq hr)
    case h_3 heq => exact .refuse (.of_pair heq hr)
    case h_4 heq => exact .poisonStart (.of_pair heq hr)

theorem State.canon.doUndefinedEngOp {t q} {s : State} (h : s.canon) : (Machine.doUndefinedEngOp t q s).canon := by
  unfold Machine.doUndefinedEngOp
  split
  · exact h
  · exact .ite (h.withHead fun _ _ hu => hu.refuse.ite hu.refuse) h

end Sys2Proof.Machine
end

section
/-! What keeps the memories canonical: the functions of the matrix and the array engine. -/

namespace Sys2Proof.Machine

-- One theorem at a time: elaborated side by side, with a thread for each, so many short ones pass the memory limit.
set_option Elab.async false

/-! ### Matrix -/

theorem State.canon.mmStart {t op e} {s : State} (h : s.canon) : (Machine.mmStart t op e s).left.canon := by
  unfold Machine.mmStart
  dsimp only
  split
  · exact h
  · have hr := State.canon_readRecord 16 s t (dField e.d 36 4) e.ctx h
    split
    · exact hr
    · split
      · exact hr
      · exact .ite (.modTile hr) hr

theorem State.canon.doMm {t} {s : State} (h : s.canon) : (Machine.doMm t s).canon := by
  unfold Machine.doMm
  exact h.startDesc fun _ _ hu => .mmStart hu

theorem State.canon.doMmacc {t} {s : State} (h : s.canon) : (Machine.doMmacc t s).canon := by
  unfold Machine.doMmacc
  exact h.startDesc fun _ _ hu => .mmStart hu

theorem State.canon.doMmvat {t} {s : State} (h : s.canon) : (Machine.doMmvat t s).canon := by
  unfold Machine.doMmvat
  exact h.startDesc fun _ _ hu => .mmStart hu

theorem State.canon.doVatzero {t} {s : State} (h : s.canon) : (Machine.doVatzero t s).canon := by
  unfold Machine.doVatzero
  exact h.startDesc fun _ _ hu => .mmStart hu

theorem X.keeps.xElem {g a size} : (Machine.xElem g a size).keeps := by
  unfold Machine.xElem
  exact .ite (.bind .xReadBytes fun _ => .pure) (.bind .xReadBytes fun _ => .pure)

theorem X.keeps.xElems {g size a} : (Machine.xElems g size a).keeps := by
  induction a generalizing g size with
  | nil =>
    unfold Machine.xElems
    exact .pure
  | cons y a ih =>
    unfold Machine.xElems
    exact .bind .xElem fun _ => ih.bind fun _ => .pure

theorem X.keeps.xSpadByte {t ctx o} : (Machine.xSpadByte t ctx o).keeps := by
  unfold Machine.xSpadByte
  exact .bind .xSpad fun _ => .pure

theorem X.keeps.xScales {t ctx o a} : (Machine.xScales t ctx o a).keeps := by
  induction a generalizing t ctx o with
  | zero =>
    unfold Machine.xScales
    exact .pure
  | succ a ih =>
    unfold Machine.xScales
    exact .bind .xSpadByte fun _ => ih.bind fun _ => .pure

theorem X.keeps.xRowA {g d r m} : (Machine.xRowA g d r m).keeps := by
  unfold Machine.xRowA
  exact .bind .xElems fun _ => .ite (.bind .xScales fun _ => .pure) (.bind .pure fun _ => .pure)

theorem X.keeps.xColB {g d r n} : (Machine.xColB g d r n).keeps := by
  unfold Machine.xColB
  exact .bind .xElems fun _ => .ite (.bind .xScales fun _ => .pure) (.bind .pure fun _ => .pure)

theorem X.keeps.xLines {f : Nat → X OpLine} (hf : ∀ i, (f i).keeps) (l : List Nat) : (Machine.xLines f l).keeps := by
  induction l with
  | nil => exact .pure
  | cons i l ih => exact (hf i).bind fun _ => ih.bind fun _ => .pure

theorem State.canon.countIssues {t ctx d r rows kc} {s : State} (h : s.canon) : (Machine.countIssues t ctx d r rows kc s).canon := by
  unfold Machine.countIssues
  dsimp only
  refine .modTile ?_
  split
  · exact h
  · exact h.frame

theorem State.canon.sampleDue {s : State} {t matrix n} (h : s.canon) : (s.sampleDue t matrix n).2.canon := by
  unfold State.sampleDue
  dsimp only
  split
  · exact h
  · split
    · exact .modTile (.modTile h)
    · exact .modTile h

theorem State.canon.pushFbq {s : State} {t src b} (h : s.canon) : (s.pushFbq t src b).canon := by
  unfold State.pushFbq
  exact .modTile h

theorem X.keeps.mmTile_freeC {a} : (Machine.mmTile.freeC a).keeps := by
  induction a with
  | nil =>
    unfold Machine.mmTile.freeC
    exact .pure
  | cons y a ih =>
    unfold Machine.mmTile.freeC
    exact .bind (.act fun _ hu => hu.frame) fun _ => ih.bind fun _ => .pure

theorem X.keeps.mmTile_xElemsAt {t ctx vat a} : (Machine.mmTile.xElemsAt t ctx vat a).keeps := by
  induction a generalizing t ctx vat with
  | nil =>
    unfold Machine.mmTile.xElemsAt
    exact .pure
  | cons y a ih =>
    unfold Machine.mmTile.xElemsAt
    refine .bind (.act fun _ hu => State.canon_readLoc _ _ _ hu) fun _ => ?_
    split
    · exact .bind .pure fun _ => ih.bind fun _ => .pure
    · exact .bind (.act fun _ hu => State.canon_readLoc _ _ _ hu) fun _ => ih.bind fun _ => .pure

theorem X.keeps.mmTile {t e} : (Machine.mmTile t e).keeps := by
  unfold Machine.mmTile
  refine .ite (.bind (.mod fun _ hu => .modEntry (hu.foldl fun _ _ hv => State.canon_zeroVat _ _ _ _ _ _ _ hv)) fun _ => .pure) ?_
  refine .bind (.xLines (fun _ => .xRowA) _) fun _ => .bind (.xLines (fun _ => .xColB) _) fun _ => .join .pure .mmTile_xElemsAt fun _ =>
    .state fun _ _ => .join .mmTile_freeC .pure fun _ =>
    .bind (.mod fun u hu =>
    .modEntry (.ite (.modTile (.sampleDue ?_)) (.foldl (.foldl (.sampleDue ?_) fun _ _ hv => State.canon_putC _ _ _ _ hv) fun _ _ hv =>
    hv.pushFbq))) fun _ => .pure
  · exact .ite (.modTile hu.countIssues.numCounts) hu.countIssues.numCounts
  · exact .ite (.modTile hu.countIssues.numCounts) hu.countIssues.numCounts

theorem State.canon.rescoreStart {t e} {s : State} (h : s.canon) : (Machine.rescoreStart t e s).left.canon := by
  unfold Machine.rescoreStart
  dsimp only
  split
  · exact h
  · have hr := State.canon_readRecord 16 s t (dField e.d 40 4) e.ctx h
    split
    · exact hr
    · split
      · exact hr
      · exact hr

theorem State.canon.doRescore {t} {s : State} (h : s.canon) : (Machine.doRescore t s).canon := by
  unfold Machine.doRescore
  exact h.startDesc fun _ _ hu => .rescoreStart hu

theorem X.keeps.rescoreOne {g l q c} : (Machine.rescoreOne g l q c).keeps := by
  unfold Machine.rescoreOne
  exact .ite .pure (.bind .xElems fun _ => .bind (.mod fun _ hu => .modTile (.iteSnd hu hu.frame)) fun _ =>
    .ite (.bind (.mod fun _ hu => hu.numCounts) fun _ => .pure) (.bind .xReadBytes fun _ => .bind (.mod fun _ hu => hu.numCounts) fun _ => .pure))

theorem X.keeps.rescoreAll {g l q a} : (Machine.rescoreAll g l q a).keeps := by
  induction a generalizing g l q with
  | nil =>
    unfold Machine.rescoreAll
    exact .pure
  | cons y a ih =>
    unfold Machine.rescoreAll
    exact .bind .rescoreOne fun _ => ih.bind fun _ => .pure

theorem X.keeps.rescoreWork {t e} : (Machine.rescoreWork t e).keeps := by
  unfold Machine.rescoreWork
  dsimp only
  refine .bind .xReadWords fun _ => .bind .xElems fun _ => .bind .rescoreAll fun _ => .bind (.mod fun _ hu => hu.numCount) fun _ => .state fun _ _ =>
    ?_
  split
  · exact .bind (.act fun _ hu1 => freeWords_canon _ _ hu1) fun _ => .bind .pure fun _ => .bind .xWriteWords fun _ => .bind .flushRemote fun _ =>
      .pure
  · exact .bind .pure fun _ => .bind .xWriteWords fun _ => .bind .flushRemote fun _ => .pure

theorem State.canon.flushDue {s : State} {t q seq} (h : s.canon) : (s.flushDue t q seq).canon := by
  unfold State.flushDue
  exact .ite (.modTile (h.foldl fun _ _ hu => hu.pushFbq)) h

theorem State.canon.doMatrixTileCommit {t} {s : State} (h : s.canon) : (Machine.doMatrixTileCommit t s).canon := by
  unfold Machine.doMatrixTileCommit
  dsimp only
  split
  · exact h
  · refine .ite h (.ite h ?_)
    split
    case h_1 heq => exact .failEntry (.of_pair heq (h.runUnit (.ite .rescoreWork (.bind .mmTile fun _ => .bind .flushRemote fun _ => .pure))))
    case h_2 u heq =>
      have hu : u.canon := .of_pair heq (h.runUnit (.ite .rescoreWork (.bind .mmTile fun _ => .bind .flushRemote fun _ => .pure)))
      exact .ite (.dropEntry (.ite hu.modEntry hu)) (.ite (.haltEntry (.ite hu.modEntry hu)) (.ite hu.modEntry hu))

/-! ### Array -/

theorem State.canon.imageRow {s : State} {t b k i} (h : s.canon) : (s.imageRow t b k i).2.canon := by
  unfold State.imageRow
  split
  · exact h
  case h_2 ctx base _ =>
    have hr := h.readHere (g := ⟨t, t, ctx, b + 1, 0, true⟩) (a := base + 512 * i) (a1 := 128)
    generalize s.readHere _ _ 128 = p at hr ⊢
    exact hr

theorem State.canon.imageSums {t b k a a1} {a2 : State} (h : a2.canon) : (State.imageSums t b k a a1 a2).2.canon := by
  induction a generalizing t b k a1 a2 with
  | nil =>
    unfold State.imageSums
    dsimp only
    exact h
  | cons y a ih =>
    unfold State.imageSums
    dsimp only
    exact ih h.imageRow

theorem State.canon.rangeReached {t b m e} {s : State} (h : s.canon) : (Machine.rangeReached t b m e s).canon := by
  unfold Machine.rangeReached
  exact .modTile (h.ite h.frame)

theorem State.canon.limitReached {t b m} {s : State} (h : s.canon) : (Machine.limitReached t b m s).canon := by
  unfold Machine.limitReached
  exact .ite h (.notice (.notice (.modTile h)))

theorem State.canon.trimMacro {t b e cal n convs ref} {s : State} {m} (h : s.canon) : (Machine.trimMacro t b e cal n convs ref s m).canon := by
  unfold Machine.trimMacro
  have ht : (s.modTile t (fun v => v.modBank b (fun k => { k with
      trims := k.trims.set m (updTrim cal ((((s.tile t).bank b).trims[m]?).getD Trim.reset) n convs
        ((ref.filter (fun x => x.1 == m)).map (·.2))) }))).canon := .modTile h
  exact .ite (.rangeReached (.ite (.limitReached ht) ht)) (.ite (.limitReached ht) ht)

theorem State.canon.trimAll {t b e cal vs planes ref} {s : State} (h : s.canon) : (Machine.trimAll t b e cal vs planes ref s).canon := by
  unfold Machine.trimAll
  exact h.foldl fun _ _ hu => hu.trimMacro

theorem State.canon.adcEvents {t b e ds} {s : State} (h : s.canon) : (Machine.adcEvents t b e ds s).canon := by
  unfold Machine.adcEvents
  split
  · exact .modTile h
  · exact .ite (.modTile h) (.modTile (State.canon_detect _ _ (.modTile h)))

theorem State.canon.calibrate {t b e} {s : State} (h : s.canon) : (Machine.calibrate t b e s).canon := by
  unfold Machine.calibrate
  exact .ite h (.trimAll (.modTile h.adcEvents))

theorem State.canon.armRun {t b e cal snap x nv} {s : State} (h : s.canon) : (Machine.armRun t b e cal snap x nv s).left.canon := by
  unfold Machine.armRun
  exact .ite (.calibrate (.modTile h)) (.modTile h)

theorem State.canon.readStart {t b cal e} {s : State} (h : s.canon) : (Machine.readStart t b cal e s).left.canon := by
  unfold Machine.readStart
  dsimp only
  split
  · exact h
  · have hr := State.canon_readRecord 16 s t (dField e.d 48 4) e.ctx h
    split
    · exact hr
    · split
      · exact hr
      · exact hr.armRun

theorem State.canon.doRead {t b cal} {s : State} (h : s.canon) : (Machine.doRead t b cal s).canon := by
  unfold Machine.doRead
  exact .ite (h.startDesc fun _ _ hu => hu.readStart) h

theorem State.canon.doSetcorr {t b} {s : State} (h : s.canon) : (Machine.doSetcorr t b s).canon := by
  unfold Machine.doSetcorr
  refine .ite ?_ h
  extract_lets u
  have hu : u.canon := by
    refine h.startDesc fun e v hv => ?_
    split
    · exact hv
    · exact .modTile hv
  split
  · exact .ite hu.completeEntry hu
  · exact hu

theorem State.canon.doQuery {t b cal} {s : State} (h : s.canon) : (Machine.doQuery t b cal s).canon := by
  unfold Machine.doQuery
  refine .ite ?_ h
  split
  · exact h
  · refine .ite (h.withHead fun e u hu => ?_) h
    dsimp only
    split
    · exact hu.refuse
    · split
      case h_1 heq => exact .failEntry (.of_pair heq (hu.runUnit (.ite .pure .xReadWords)))
      case h_2 v heq =>
        have hv : v.canon := .of_pair heq (hu.runUnit (.ite .pure .xReadWords))
        have hr : (if qyOfsEn e.d then v.readRecord t (dField e.d 52 4) e.ctx ((u.tile t).bank b).cols else (([], false), v)).2.canon :=
          .iteSnd (State.canon_readRecord _ _ _ _ _ hv) hv
        refine .ite hr.poisonStart (.ite hr.poisonStart (.ite hr.refuse ?_))
        split
        case h_1 r w harm =>
          have hw : (StartRes.go r w).left.canon := harm ▸ hr.armRun
          exact .modEntry (s := w) hw
        · exact hr

theorem X.keeps.loadVec {g w8 codes side i} : (Machine.loadVec g w8 codes side i).keeps := by
  unfold Machine.loadVec
  exact .bind .xReadWords fun _ => .bind .xReadBytes fun _ => .pure

theorem State.canon.lateCalibrate {t b e vi} {s : State} (h : s.canon) : (Machine.lateCalibrate t b e vi s).canon := by
  unfold Machine.lateCalibrate
  exact h.ite h.calibrate

theorem State.canon.poisonedMacros {t b e} {s : State} (h : s.canon) : (Machine.poisonedMacros t b e s).2.canon := by
  unfold Machine.poisonedMacros
  dsimp only
  split
  · exact h
  · exact .modTile h.frame

theorem State.canon.plainRead {t b e v mark} {s : State} (h : s.canon) : (Machine.plainRead t b e v mark s).2.canon := h.poisonedMacros

theorem State.canon.analogRead {t b e vi devs} {s : State} (h : s.canon) : (Machine.analogRead t b e vi devs s).2.canon := by
  unfold Machine.analogRead
  dsimp only
  exact .poisonedMacros (.modTile h.calibrate.adcEvents.trimAll)

theorem X.keeps.xSpill {g e b addr} : (Machine.xSpill g e b addr).keeps := by
  unfold Machine.xSpill
  refine .bind .xReadWords fun _ => .state fun _ _ => ?_
  split
  · exact .fail
  · split
    · exact .pure
    · exact .fail

theorem State.canon.spillCount {s : State} {t b n k} (h : s.canon) : (s.spillCount t b n k).canon := by
  unfold State.spillCount
  exact .ite (.notice (.modTile h)) (.modTile h)

theorem X.keeps.xSource {g d l i} : (Machine.xSource g d l i).keeps := by
  unfold Machine.xSource
  exact .xElems

theorem State.canon.companionIssues {t n tiles} {s : State} (h : s.canon) : (Machine.companionIssues t n tiles s).canon := by
  unfold Machine.companionIssues
  exact .modTile (.sampleDue (.modTile h))

theorem State.canon.sampleRead {s : State} {t b seq vi cs vec} (h : s.canon) : (s.sampleRead t b seq vi cs vec).canon := by
  unfold State.sampleRead
  exact .ite (.modTile h.sampleDue.imageSums) h.sampleDue

theorem X.keeps.xCompanion_xElemRows {g size n a} : (Machine.xCompanion.xElemRows g size n a).keeps := by
  induction a generalizing g size n with
  | nil =>
    unfold Machine.xCompanion.xElemRows
    exact .pure
  | cons y a ih =>
    unfold Machine.xCompanion.xElemRows
    exact .bind .xElems fun _ => ih.bind fun _ => .pure

theorem X.keeps.xCompanion {g e l c cols pv} : (Machine.xCompanion g e l c cols pv).keeps := by
  unfold Machine.xCompanion
  exact .join .xSource .pure fun _ => .bind .xCompanion_xElemRows fun _ => .bind .xCompanion_xElemRows fun _ => .bind .xCompanion_xElemRows fun _ =>
    .pure

theorem X.keeps.xOutputs {g e l cols vec y z nonfin} : (Machine.xOutputs g e l cols vec y z nonfin).keeps := by
  unfold Machine.xOutputs
  exact .join .pure .xReadWords fun _ => .ite .xWriteWords .xWriteWords

theorem State.canon.modARun {s : State} {t b f} (h : s.canon) : (s.modARun t b f).canon := by
  unfold State.modARun
  exact .modTile h

theorem State.canon.rowWritten {t b e cols vec nonfin last old} {s : State} (h : s.canon) :
    (Machine.rowWritten t b e cols vec nonfin last old s).canon := by
  unfold Machine.rowWritten
  exact .ite (.flushDue (.modARun (h.numCount.ite h))) (h.numCount.ite h)

theorem X.keeps.readVector {t b e devs} : (Machine.readVector t b e devs).keeps := by
  unfold Machine.readVector
  refine .state fun _ _ => .bind .loadVec fun _ => .join .xSpill .pure fun _ =>
    .joinWhen (.mod fun _ hu => .modARun (.ite hu.spillCount (.ite hu.spillCount.spillCount.spillCount hu.spillCount))) fun _ => ?_
  refine .ite (.mod fun _ hu => .modARun (.modARun (.modTile hu.lateCalibrate.poisonedMacros))) (.ite (.mod fun _ hu =>
    .modARun (.modARun (.modTile (State.canon_draw _ hu.lateCalibrate.poisonedMacros)))) (.ite (.mod fun u hu =>
    ?_) (.ite (.mod fun u hu => ?_) (.mod fun u hu => ?_))))
  · exact .modARun (.modARun (.modTile hu.poisonedMacros))
  · exact .modARun (.modARun (.modTile hu.poisonedMacros))
  · split
    case h_1 heq => exact .modARun (.modARun (.modTile (.sampleRead (.of_pair heq hu.analogRead))))

theorem X.keeps.queryVector {t b e devs} : (Machine.queryVector t b e devs).keeps := by
  unfold Machine.queryVector
  refine .state fun _ _ => .bind .loadVec fun _ => .joinWhen (.mod fun _ hu => hu.lateCalibrate) fun _ =>
    .ite (.bind .pure fun _ => ?_) (.join (.act fun _ hu => hu.plainRead) (.act fun _ hu => ?_) fun _ => ?_)
  · exact .mod fun _ hu => .modARun (.modTile hu)
  · split
    case h_1 heq => exact .sampleRead (.of_pair heq hu.analogRead)
  · exact .mod fun _ hu => .modARun (.modTile hu)

theorem X.keeps.writeList {t b e pv} : (Machine.writeList t b e pv).keeps := by
  unfold Machine.writeList
  exact .bind .xWriteWords fun _ => .bind .flushRemote fun _ => .mod fun _ hu => .modARun (.modTile hu)

theorem X.keeps.writeRow {t b e pv} : (Machine.writeRow t b e pv).keeps := by
  unfold Machine.writeRow
  exact .state fun _ _ => .join .xCompanion .pure fun _ => .bind .xOutputs fun _ => .bind .flushAs fun _ => .mod fun _ hu =>
    .modARun (.rowWritten (.ite hu.numCounts.companionIssues hu.numCounts))

theorem X.keeps.writePend {t b e pv} : (Machine.writePend t b e pv).keeps := by
  unfold Machine.writePend
  exact .ite .writeList .writeRow

theorem State.canon.rewindRead {t b vec} {s : State} (h : s.canon) : (Machine.rewindRead t b vec s).canon := h.modARun

theorem State.canon.rewindPend {s : State} {t b} (h : s.canon) : (s.rewindPend t b).canon := by
  unfold State.rewindPend
  split
  · exact h.rewindRead
  · exact h

theorem State.canon.failRead {s : State} {t b e x} (h : s.canon) : (s.failRead t b e x).canon := by
  unfold State.failRead
  split
  · exact h.rewindPend.failEntry
  · exact h.failEntry

theorem State.canon.doArrayVectorDone {t b devs} {s : State} (h : s.canon) : (Machine.doArrayVectorDone t b devs s).canon := by
  unfold Machine.doArrayVectorDone
  split
  · exact h
  · refine .ite h ?_
    split
    case h_1 heq => exact .failRead (.of_pair heq (h.runUnit (.join .queryVector .readVector fun _ => .flushRemote)))
    case h_2 u heq =>
      have hu : u.canon := .of_pair heq (h.runUnit (.join .queryVector .readVector fun _ => .flushRemote))
      have hh : ∀ seq, (if u.saving then u.haltEntry t (b + 1) seq else u).canon := fun _ => .ite hu.haltEntry hu
      dsimp only
      split
      · refine .ite (hh _) ?_
        split
        case h_1 heq2 => exact .failRead (.of_pair heq2 ((hh _).runUnit .writePend))
        case h_2 heq2 => exact .of_pair heq2 ((hh _).runUnit .writePend)
      · exact hh _

theorem State.canon.doCompanionWorkDone {t b} {s : State} (h : s.canon) : (Machine.doCompanionWorkDone t b s).canon := by
  unfold Machine.doCompanionWorkDone
  dsimp only
  split
  · exact h
  · split
    · exact h
    · split
      · exact h
      · split
        case h_1 u heq2 =>
          have hu : u.canon := .of_pair heq2 (h.runUnit .writePend)
          exact hu.failRead
        case h_2 u heq2 =>
          have hu : u.canon := .of_pair heq2 (h.runUnit .writePend)
          exact hu

theorem X.keeps.readSlice {t b e} : (Machine.readSlice t b e).keeps := by
  unfold Machine.readSlice
  exact .state fun _ _ => .bind .xCompanion_xElemRows fun _ => .bind .flushRemote fun _ => .bind (.mod fun _ hu1 => hu1.numCount) fun _ => .xRun

theorem X.keeps.divertOne {t b e dv} : (Machine.divertOne t b e dv).keeps := by
  unfold Machine.divertOne
  exact .state fun _ _ => .bind .xSource fun _ => .bind .xOutputs fun _ => .bind .flushAs fun _ => .mod fun _ hu1 =>
    hu1.numCounts.companionIssues.rowWritten.modARun

theorem X.keeps.divertUnit {t b vec e} : (Machine.divertUnit t b vec e).keeps := by
  unfold Machine.divertUnit
  refine .state fun _ _ => ?_
  split
  · exact .fail
  · split
    · refine .bind .readSlice fun _ => .state fun _ _ => ?_
      split
      · exact .fail
      · exact .divertOne
    · refine .state fun _ _ => ?_
      split
      · exact .fail
      · exact .divertOne

theorem State.canon.divertAll {t b e a} {a1 : State} (h : a1.canon) : (Machine.divertAll t b e a a1).canon := by
  induction a generalizing t b e a1 with
  | zero =>
    unfold Machine.divertAll
    exact h
  | succ a ih =>
    unfold Machine.divertAll
    split
    · exact h
    · split
      · exact h
      · split
        case h_1 u heq1 =>
          have hu : u.canon := .of_pair heq1 (h.runUnit .divertUnit)
          exact hu.failEntry
        case h_2 u heq1 =>
          have hu : u.canon := .of_pair heq1 (h.runUnit .divertUnit)
          exact ih hu

theorem State.canon.doDivertBatch {t b} {s : State} (h : s.canon) : (Machine.doDivertBatch t b s).canon := by
  unfold Machine.doDivertBatch
  split
  · exact h
  · exact h.divertAll.ite h

end Sys2Proof.Machine
end

section
/-! What keeps the memories canonical: the functions of streams and of the vector engine. -/

namespace Sys2Proof.Machine

-- One theorem at a time: elaborated side by side, with a thread for each, so many short ones pass the memory limit.
set_option Elab.async false

/-! ### Stream -/

theorem X.keeps.xStream {g f base i} : (Machine.xStream g f base i).keeps := by
  unfold Machine.xStream
  exact .bind .xRead32 fun _ => .pure

theorem X.keeps.xStreamVals {g f base j a} : (Machine.xStreamVals g f base j a).keeps := by
  induction a generalizing g f base j with
  | zero =>
    unfold Machine.xStreamVals
    exact .pure
  | succ a ih =>
    unfold Machine.xStreamVals
    exact .bind .xStream fun _ => ih.bind fun _ => .pure

theorem X.keeps.xPutBytes_go {g a a1 a2} : (Machine.xPutBytes.go g a a1 a2).keeps := by
  induction a generalizing g a1 a2 with
  | zero =>
    unfold Machine.xPutBytes.go
    exact .pure
  | succ a ih =>
    unfold Machine.xPutBytes.go
    exact .ite .pure (.ite (.bind .xWrite32 fun _ => ih) (.bind .xWriteBytes fun _ => ih))

theorem X.keeps.xPutBytes {g a l} : (Machine.xPutBytes g a l).keeps := by
  unfold Machine.xPutBytes
  exact .xPutBytes_go

theorem X.keeps.xPutElems {g f base j l} : (Machine.xPutElems g f base j l).keeps := by
  unfold Machine.xPutElems
  refine .ite (.ite (.bind .xReadBytes fun _ => .bind .pure fun _ => ?_) (.bind .pure fun _ => ?_)) .xPutBytes
  · exact .ite (.bind .xReadBytes fun _ => .bind .pure fun _ => .xPutBytes) (.bind .pure fun _ => .xPutBytes)
  · exact .ite (.bind .xReadBytes fun _ => .bind .pure fun _ => .xPutBytes) (.bind .pure fun _ => .xPutBytes)

theorem State.canon.histBins {s : State} {t set bins} (h : s.canon) : (s.histBins t set bins).canon := by
  unfold State.histBins
  exact .modTile h

theorem State.canon.histCount {s : State} {t set vals} (h : s.canon) : (s.histCount t set vals).canon := h.histBins

theorem State.canon.histAlarms {s : State} {t set} (h : s.canon) : (s.histAlarms t set).canon := by
  unfold State.histAlarms
  exact .ite h (.foldl h fun _ _ hu => .ite (.notice (.modTile hu)) hu)

/-! ### Vector -/

theorem State.canon.vecGo {t sr snap} {s : State} (h : s.canon) : (Machine.vecGo t sr snap s).left.canon := by
  unfold Machine.vecGo
  exact .ite (.modTile h) h

theorem State.canon.progStart {t fbq e} {s : State} (h : s.canon) : (Machine.progStart t fbq e s).left.canon := by
  unfold Machine.progStart
  dsimp only
  split
  · exact h
  · have hp := State.canon_readRecord (4 * vNinstr e.d) s t (vProg e.d) e.ctx h
    split
    · exact hp
    · split
      · exact hp
      · split
        · exact hp
        · have ht := State.canon_readRecord (4 * (((((List.range (vNinstr e.d)).map (vinsOf (s.readRecord t (vProg e.d) e.ctx (4 * vNinstr e.d)).1.1)).map
            (fun x => (x.d :: x.srcs).foldl max 0)).foldl max 0 + 1))) _ t (vTab e.d) e.ctx hp
          split
          · exact ht
          · split
            · exact ht
            · exact ht.vecGo

theorem State.canon.doRun {t} {s : State} (h : s.canon) : (Machine.doRun t s).canon := h.startDesc fun _ _ hu => hu.progStart

theorem State.canon.doFbqrun {t} {s : State} (h : s.canon) : (Machine.doFbqrun t s).canon := h.startDesc fun _ _ hu => hu.progStart

theorem X.keeps.xPortwait {g streams} : (Machine.xPortwait g streams).keeps := by
  unfold Machine.xPortwait
  refine .state fun _ _ => ?_
  split
  · exact .pure
  · exact .mod fun _ hu1 => .modTile hu1.frame

theorem X.keeps.xBlockVals {g b j a} : (Machine.xBlockVals g b j a).keeps := by
  induction a generalizing g b j with
  | zero =>
    unfold Machine.xBlockVals
    exact .pure
  | succ a ih =>
    unfold Machine.xBlockVals
    exact .bind .xElem fun _ => ih.bind fun _ => .pure

theorem X.keeps.xOperand {g d tab k blk use imm iw i j n} : (Machine.xOperand g d tab k blk use imm iw i j n).keeps := by
  unfold Machine.xOperand
  split
  · exact .pure
  · split
    · split
      · exact .ite .xBlockVals .xStreamVals
      · exact .xStreamVals
    · exact .pure

theorem X.keeps.xEmit {g i f base j set free l} : (Machine.xEmit g i f base j set free l).keeps := by
  unfold Machine.xEmit
  exact .join (.act fun _ hu => State.canon.foldlSnd hu fun _ _ hv => State.canon_draw _ hv) .pure fun _ => .bind .xPutElems fun _ =>
    .bind (.mod fun _ hu => hu.numCounts.histCount) fun _ => .ite .xRun .pure

theorem X.keeps.xSlice_pieces {g d tab blk i da df laps g1 j a} : (Machine.xSlice.pieces g d tab blk i da df laps g1 j a).keeps := by
  induction a generalizing g d tab blk i da df laps g1 j with
  | zero =>
    unfold Machine.xSlice.pieces
    exact .pure
  | succ a ih =>
    unfold Machine.xSlice.pieces
    exact .bind .xEntry fun _ => .bind .xOperand fun _ => .bind .xOperand fun _ => .bind .xOperand fun _ =>
      .bind (.mod fun _ hu => hu.numCount) fun _ => .bind .xEmit fun _ => ih.ite .pure

theorem X.keeps.xSlice {g d prog tab blk n} : (Machine.xSlice g d prog tab blk n).keeps := by
  unfold Machine.xSlice
  refine .bind .xEntry fun _ => .state fun _ _ => .bind .xPortwait fun _ => ?_
  split
  · refine .bind .xOperand fun _ => .bind (.mod fun _ hu1 => hu1.numCounts) fun _ => ?_
    split
    · exact .bind (.mod fun _ hu1 => hu1.numCount) fun _ => .bind .xEmit fun _ => .xRun
    · exact .xRun
  · exact .bind .xSlice_pieces fun _ => .xRun

theorem X.keeps.runUnitOf {g} : (Machine.runUnitOf g).keeps := by
  unfold Machine.runUnitOf
  exact .bind .xEntry fun _ => .ite .pure (.bind .xSlice fun _ => .bind .flushAs fun _ => .bind .xEntry fun _ => .pure)

theorem X.keeps.xGather {g d b vals} : (Machine.xGather g d b vals).keeps := by
  unfold Machine.xGather
  exact .bind (.forM (fun _ => .bind (.mod fun _ hu => hu.numCount) fun _ =>
    .ite (.mod fun _ hv => State.canon_putWord _ _ _ _ _ hv) .pure) _) fun _ => .bind .xSpad fun _ =>
    .bind (.ite (.mod fun _ hv => State.canon_putWord _ _ _ _ _ hv) .pure) fun _ => .mod fun _ hu => hu.numCount

theorem X.keeps.fbqUnitOf {g} : (Machine.fbqUnitOf g).keeps := by
  unfold Machine.fbqUnitOf
  refine .bind .xEntry fun _ => .state fun _ _ => ?_
  dsimp only
  split
  · refine .ite (.bind .xBlockVals fun _ => .joinWhen .xGather fun _ => .bind (.mod fun _ hu => hu.histCount) fun _ =>
      .ite (.bind .xSlice fun _ => .bind .flushAs fun _ => .bind .xEntry fun _ => ?_) (.bind .xEntry fun _ => ?_)) (.ite (.bind .xSlice fun _ =>
      .bind .flushAs fun _ => .bind .xEntry fun _ => ?_) (.bind .xEntry fun _ => ?_))
    all_goals
      exact .ite (.bind .flushRemote fun _ => .bind (.mod fun _ hu => .modTile hu) fun _ => .bind .xRun fun _ => .pure) (.bind .flushRemote fun _ =>
        .pure)
  · exact .fail

theorem State.canon.doFbqBlockDone {t} {s : State} (h : s.canon) : (Machine.doFbqBlockDone t s).canon := by
  unfold Machine.doFbqBlockDone
  split
  · exact h
  · refine .ite ?_ h
    split
    · dsimp only
      split
      case h_1 heq => exact .failEntry (.of_pair heq (.runUnits (.iteSnd h.drawUpTo h) .fbqUnitOf))
      case h_2 u heq =>
        have hu : u.canon := .of_pair heq (.runUnits (.iteSnd h.drawUpTo h) .fbqUnitOf)
        exact .ite hu.haltEntry hu
    · exact h

theorem State.canon.doRgather {t} {s : State} (h : s.canon) : (Machine.doRgather t s).canon := by
  unfold Machine.doRgather
  refine h.startDesc fun _ _ hu => ?_
  split
  · exact hu
  · exact hu.vecGo

theorem X.keeps.rgUnit {g} : (Machine.rgUnit g).keeps := by
  unfold Machine.rgUnit
  exact .bind .xEntry fun _ => .bind .xPortwait fun _ => .bind .xElems fun _ =>
    .bind (.forM (fun _ => .bind (.mod fun _ hu => hu.numCount) fun _ => .xWrite32) _) fun _ =>
    .joinWhen (.mod fun _ hu => State.canon_putWord _ _ _ _ _ hu) fun _ => .bind .flushAs fun _ => .bind (.mod fun _ hu => hu.numCount) fun _ =>
    .bind .xRun fun _ => .pure

theorem State.canon.doRset {t} {s : State} (h : s.canon) : (Machine.doRset t s).canon := by
  unfold Machine.doRset
  refine h.startDesc fun _ _ hu => ?_
  split
  · exact hu
  · exact hu.vecGo

theorem X.keeps.rsUnit {g} : (Machine.rsUnit g).keeps := by
  unfold Machine.rsUnit
  exact .bind .xEntry fun _ => .bind .xPortwait fun _ => .bind .xReadWords fun _ => .bind .xPutBytes fun _ =>
    .joinWhen (.mod fun _ hu => State.canon_putWord _ _ _ _ _ hu) fun _ => .bind .flushAs fun _ => .bind (.mod fun _ hu => hu.numCounts) fun _ =>
    .bind .xRun fun _ => .pure

theorem State.canon.doActq {t} {s : State} (h : s.canon) : (Machine.doActq t s).canon := by
  unfold Machine.doActq
  refine h.startDesc fun _ _ hu => ?_
  split
  · exact hu
  · exact hu.vecGo

theorem X.keeps.aqUnit {g} : (Machine.aqUnit g).keeps := by
  unfold Machine.aqUnit
  refine .bind .xEntry fun _ => .bind .xPortwait fun _ => .ite (.bind .xElems fun _ => .bind .flushRemote fun _ =>
    .bind (.mod fun _ hu => hu.numCount) fun _ => .bind .xRun fun _ => .pure) (.bind .xPutElems fun _ => .bind .flushAs fun _ => .ite ?_ ?_)
  · exact .bind .xPutBytes fun _ => .joinWhen .xPutBytes fun _ => .bind .flushRemote fun _ => .bind (.mod fun _ hu => hu.numCounts.histCount) fun _ =>
      .bind .xRun fun _ => .pure
  · exact .bind .flushRemote fun _ => .bind (.mod fun _ hu => hu.numCounts.histCount) fun _ => .bind .xRun fun _ => .pure

theorem X.keeps.wqStep {g j i acc} : (Machine.wqStep g j i acc).keeps := by
  unfold Machine.wqStep
  dsimp only
  refine .bind .xPortwait fun _ => ?_
  split
  · exact .bind .xElems fun _ => .bind (.mod fun _ hu => hu.numCount) fun _ => .pure
  · split
    · exact .bind .xWriteWords fun _ => .bind (.mod fun _ hu => hu.numCount) fun _ => .pure
    · refine .bind .xElems fun _ => .bind .xPutElems fun _ => ?_
      split
      · exact .bind (.mod fun _ hu => hu.histBins) fun _ => .pure
      · exact .pure

theorem State.canon.doWquant {t} {s : State} (h : s.canon) : (Machine.doWquant t s).canon := by
  unfold Machine.doWquant
  refine h.startDesc fun _ _ hu => ?_
  split
  · exact hu
  · exact hu.vecGo

theorem X.keeps.wqUnit {g} : (Machine.wqUnit g).keeps := by
  unfold Machine.wqUnit
  exact .bind .xEntry fun _ => .bind .wqStep fun _ => .bind .flushAs fun _ => .bind .xRun fun _ => .pure

theorem State.canon.doTopmerge {t} {s : State} (h : s.canon) : (Machine.doTopmerge t s).canon := by
  unfold Machine.doTopmerge
  refine h.startDesc fun _ _ hu => ?_
  split
  · exact hu
  · exact hu.vecGo

theorem X.keeps.tmUnit {g} : (Machine.tmUnit g).keeps := by
  unfold Machine.tmUnit
  exact .bind .xEntry fun _ => .bind .xPortwait fun _ => .bind .xReadWords fun _ => .bind .xWriteWords fun _ => .bind .flushRemote fun _ =>
    .bind (.mod fun _ hu => hu.numCount) fun _ => .bind .xRun fun _ => .pure

end Sys2Proof.Machine
end

section
/-! What keeps the memories canonical: the functions of the press, the folds, the mover and the updates. -/

namespace Sys2Proof.Machine

-- One theorem at a time: elaborated side by side, with a thread for each, so many short ones pass the memory limit.
set_option Elab.async false

/-! ### Press -/

theorem X.keeps.xPart {g code scale fmt i} : (Machine.xPart g code scale fmt i).keeps := by
  unfold Machine.xPart
  exact .ite (.bind .xReadWords fun _ => .pure) (.bind .xReadWords fun _ => .pure)

theorem X.keeps.xDigest {g code scale fmt} : (Machine.xDigest g code scale fmt).keeps := by
  unfold Machine.xDigest
  exact .bind .xPart fun _ => .bind .xReadWords fun _ => .pure

theorem X.keeps.pressUnit {g} : (Machine.pressUnit g).keeps := by
  unfold Machine.pressUnit
  exact .bind .xEntry fun _ => .ite .pure (.bind .xPart fun _ => .bind .flushRemote fun _ => .bind .xRun fun _ => .pure)

theorem State.canon.modPrs {s : State} {t f} (h : s.canon) : (s.modPrs t f).canon := by
  unfold State.modPrs
  exact .modTile h

theorem State.canon.modBlock {s : State} {t n f} (h : s.canon) : (s.modBlock t n f).canon := h.modPrs

theorem State.canon.wear {s : State} {t b mg} (h : s.canon) : (s.wear t b mg).canon := by
  unfold State.wear
  exact h.modBlock.notice.ite h.modBlock

theorem State.canon.wearBlock {s : State} {t b mg} (h : s.canon) : (s.wearBlock t b mg).canon := by
  unfold State.wearBlock
  exact h.ite h.wear

theorem State.canon.retireBlock {s : State} {t n} (h : s.canon) : (s.retireBlock t n).canon := h.modBlock.modPrs

theorem State.canon.failCell {t b last w old only} {acc : State × List (Nat × Nat × Bool)} {c} (h : acc.1.canon) :
    (Machine.failCell t b last w old only acc c).1.canon := by
  unfold Machine.failCell
  split
  · exact h
  · obtain ⟨s, seen⟩ := acc
    replace h : s.canon := h
    have hn (n : Nat) : ((s.modBlock t n (fun k => { k with fails := satAdd 8 k.fails 1 })).modPrs t
        (fun p => { p with failed := satAdd 32 p.failed 1 })).canon := h.modBlock.modPrs
    refine .iteFst (hn _) (.iteFst (hn _).retireBlock (.iteFst (hn _) (.iteFst (hn _).modBlock.modPrs (.iteFst (hn _).modBlock.modPrs ?_))))
    dsimp only
    split
    · exact (hn _).modPrs.modPrs
    · exact (hn _).retireBlock

theorem State.canon.failPass {t b last w only l} {s : State} (h : s.canon) : (Machine.failPass t b last w only l s).1.canon :=
  State.canon.foldlFst h fun _ _ hq => hq.failCell

theorem State.canon.failRounds {t b w only a a1} {a2 : State} (h : a2.canon) : (Machine.failRounds t b w only a a1 a2).canon := by
  induction a1 generalizing t b w only a a2 with
  | nil =>
    unfold Machine.failRounds
    exact h
  | cons y a1 ih =>
    unfold Machine.failRounds
    exact (ih h.failPass).ite h.failPass

theorem State.canon.beginPress {s : State} {t op b} (h : s.canon) : (s.beginPress t op b).canon := by
  unfold State.beginPress
  exact .ite (.modTile h.modPrs) h.modPrs

theorem State.canon.pressCheck {s : State} {t e} (h : s.canon) : (s.pressCheck t e).2.canon := by
  unfold State.pressCheck
  dsimp only
  split
  case h_1 u heq =>
    have hu : u.canon := .of_pair heq (h.runUnit .xDigest)
    exact hu.failEntry
  case h_2 u heq =>
    have hu : u.canon := .of_pair heq (h.runUnit .xDigest)
    split
    · exact hu.modPrs
    · exact hu.modPrs.refuse

theorem State.canon.doPress {t op} {s : State} (h : s.canon) : (Machine.doPress t op s).canon := by
  unfold Machine.doPress
  split
  · exact h
  · split
    · refine .withHead h fun _ _ hu => ?_
      split
      · exact hu.refuse
      · exact hu.modEntry.beginPress.ite hu.modEntry.beginPress.pressCheck
    · exact h

theorem State.canon.doFull {t} {s : State} (h : s.canon) : (Machine.doFull t s).canon := h.doPress

theorem State.canon.doDelta {t} {s : State} (h : s.canon) : (Machine.doDelta t s).canon := h.doPress

theorem State.canon.doRefresh {t} {s : State} (h : s.canon) : (Machine.doRefresh t s).canon := h.doPress

theorem State.canon.pressPoison {s : State} {t b r code scale parts} (h : s.canon) : (s.pressPoison t b r code scale parts).1.canon := by
  unfold State.pressPoison
  extract_lets ws sc badScale u v hits w
  clear_value hits badScale ws
  have hu : u.canon := by
    unfold u
    split
    · exact State.canon_detect _ _ h
    · exact h
  have hv : v.canon := by
    unfold v
    split
    · exact State.canon_detect _ _ hu
    · exact hu
  change w.canon
  unfold w
  split
  · exact .modPrs (State.canon_detect _ _ hv)
  · exact hv

theorem State.canon.partPoison {s : State} {t b r d parts} (h : s.canon) : (s.partPoison t b r d parts).canon := by
  unfold State.partPoison
  exact .modTile h.pressPoison

theorem State.canon.noteTopups {s : State} {t b out} (h : s.canon) : (s.noteTopups t b out).canon := by
  unfold State.noteTopups
  exact h.foldl fun _ _ hu => hu.modBlock

theorem State.canon.pressDone {s : State} {t b op full fold d ctx r parts out} (h : s.canon) :
    (s.pressDone t b op full fold d ctx r parts out).canon := by
  unfold State.pressDone
  extract_lets w worn u v
  have hu : u.canon := h.foldl fun _ _ hx => hx.wearBlock
  have hv : v.canon := .ite hu.failRounds hu
  exact .modTile (.modPrs (.ite (.noteTopups (.foldl hv.pressPoison fun _ _ hx => hx.modBlock)) (.foldl hv.pressPoison fun _ _ hx => hx.modBlock)))

theorem State.canon.escalate {s : State} {t b op d parts out} (h : s.canon) : (s.escalate t b op d parts out).canon := by
  unfold State.escalate
  exact .modPrs (.foldl (.failPass (h.noteTopups.ite h)) fun _ _ hu => hu.wear)

theorem X.keeps.pressAhead {t e} : (Machine.pressAhead t e).keeps := by
  unfold Machine.pressAhead
  exact .state fun _ _ => .ite (.bind .xDigest fun _ => .pure) .pressUnit

theorem State.canon.doPressComplete {t out} {s : State} (h : s.canon) : (Machine.doPressComplete t out s).canon := by
  unfold Machine.doPressComplete
  split
  case h_1 pr e _ _ =>
    have hc : (if pr.checked then (true, s) else s.pressCheck t e).2.canon := .iteSnd h h.pressCheck
    refine .ite h ?_
    dsimp only
    generalize (if pr.checked then (true, s) else s.pressCheck t e) = p at hc ⊢
    have hr : (if p.1 then Machine.runUnits t (pressUnit (tileAgent t 3 e)) 1026 p.2 else (.error .wait, p.2)).2.canon :=
      .iteSnd (hc.runUnits .pressUnit) hc
    split
    case h_1 heq => exact .failEntry (.of_pair heq hr)
    case h_2 u heq =>
      have hu : u.canon := .of_pair heq hr
      exact .ite hu.escalate.modEntry hu.pressDone.completeEntry
  · exact h

theorem State.canon.abortPress {s : State} {t e} (h : s.canon) : (s.abortPress t e).canon := by
  unfold State.abortPress
  split
  · exact h
  · exact .ite (.modPrs (.partPoison (.foldl h.frame fun _ _ hu => hu.wearBlock)))
      (.modTile (.modPrs (.partPoison (.foldl h.frame fun _ _ hu => hu.wearBlock))))

/-! ### Fold -/

theorem State.canon.completeNow {s : State} {t op} (h : s.canon) : (s.completeNow t op).canon := by
  unfold State.completeNow
  split
  · exact h.completeEntry.ite h
  · exact h

theorem State.canon.modFold {s : State} {t b f} (h : s.canon) : (s.modFold t b f).canon := by
  unfold State.modFold
  exact .modTile h

theorem State.canon.doFoldarm {t} {s : State} (h : s.canon) : (Machine.doFoldarm t s).canon := by
  unfold Machine.doFoldarm
  refine .completeNow (h.startDesc fun _ _ hu => ?_)
  dsimp only
  split
  · exact hu
  · exact hu.modFold

theorem State.canon.doFoldclr {t} {s : State} (h : s.canon) : (Machine.doFoldclr t s).canon := by
  unfold Machine.doFoldclr
  refine .completeNow (h.startDesc fun _ _ hu => ?_)
  split
  · exact hu
  · exact hu.modFold

theorem State.canon.foldFail {s : State} {t b step reason addr} (h : s.canon) : (s.foldFail t b step reason addr).canon := by
  unfold State.foldFail
  exact State.canon_detect _ _ h.modFold.sideEnd

theorem State.canon.foldNext {s : State} {t b} (h : s.canon) : (s.foldNext t b).canon := h.frame

theorem X.keeps.foldWq {t b g} : (Machine.foldWq t b g).keeps := by
  unfold Machine.foldWq
  exact .bind .xEntry fun _ => .state fun _ _ => .bind .wqStep fun _ => .bind .flushAs fun _ => .bind .xRun fun _ => .pure

theorem State.canon.foldQuantise {s : State} {t b} (h : s.canon) : (s.foldQuantise t b).canon := by
  unfold State.foldQuantise
  split
  case h_1 u heq =>
    have hu : u.canon := .of_pair heq (h.runUnits .foldWq)
    exact .modFold hu.frame
  case h_2 u heq =>
    have hu : u.canon := .of_pair heq (h.runUnits .foldWq)
    exact hu
  case h_3 u _ heq =>
    have hu : u.canon := .of_pair heq (h.runUnits .foldWq)
    exact hu.foldFail

theorem State.canon.beginFold {s : State} {t b e} (h : s.canon) : (s.beginFold t b e).canon := by
  unfold State.beginFold
  extract_lets k f u
  have hu : u.canon := h.modFold
  exact .ite hu.foldFail (.ite hu.foldFail (.ite (.sideStart (.ite (.modTile hu) hu)) (.foldQuantise (.sideStart (.ite (.modTile hu) hu)))))

theorem State.canon.markSaved {s : State} {t e} (h : s.canon) : (s.markSaved t e).canon := h.frame

theorem State.canon.doTileCommit {t} {s : State} (h : s.canon) : (Machine.doTileCommit t s).canon := by
  unfold Machine.doTileCommit
  dsimp only
  split
  · exact h
  · exact .ite h (.foldl (.markSaved (.modTile h)) fun _ _ hu => .ite hu.beginFold hu)

theorem State.canon.doFoldDeltaStart {t b} {s : State} (h : s.canon) : (Machine.doFoldDeltaStart t b s).canon := by
  unfold Machine.doFoldDeltaStart
  extract_lets f u v k
  have hu : u.canon := .ite h.foldQuantise h
  refine .ite ?_ hu
  split
  case h_1 heq => exact .of_pair heq (hu.runUnit .xDigest)
  case h_2 heq => exact .foldFail (.of_pair heq (hu.runUnit .xDigest))
  case h_3 v heq =>
    have hv : v.canon := .of_pair heq (hu.runUnit .xDigest)
    exact .ite hv.foldNext.modPrs.modFold hv.foldFail

theorem State.canon.foldParts {t g d a a1 a2} {a3 : State} (h : a3.canon) : (Machine.foldParts t g d a a1 a2 a3).2.2.canon := by
  induction a generalizing t g d a1 a2 a3 with
  | zero =>
    unfold Machine.foldParts
    exact h
  | succ a ih =>
    unfold Machine.foldParts
    split
    case h_1 u heq =>
      have hu : u.canon := .of_pair heq (h.runUnit .xPart)
      exact hu
    case h_2 u heq =>
      have hu : u.canon := .of_pair heq (h.runUnit .xPart)
      exact ih hu

theorem State.canon.foldPressFault {s : State} {t b parts x} (h : s.canon) : (s.foldPressFault t b parts x).canon := by
  unfold State.foldPressFault
  extract_lets k src u worn v w
  have hu : u.canon := h.partPoison
  have hw : w.canon := hu.modPrs.foldl fun _ _ hx => hx.wearBlock
  exact .foldFail (.ite hw (.modFold (.modTile hw)))

theorem State.canon.doFoldDeltaComplete {t out} {s : State} (h : s.canon) : (Machine.doFoldDeltaComplete t out s).canon := by
  unfold Machine.doFoldDeltaComplete
  dsimp only
  split
  · exact h
  · split
    · exact h
    · split
      case h_1 u heq1 =>
        have hu : u.canon := .of_pair heq1 (h.runUnits .pressUnit)
        exact hu
      case h_2 u _ heq1 =>
        have hu : u.canon := .of_pair heq1 (h.runUnits .pressUnit)
        exact hu.foldPressFault
      case h_3 u heq1 =>
        have hu : u.canon := .of_pair heq1 (h.runUnits .pressUnit)
        exact .ite hu.escalate.foldNext (.modTile hu.pressDone.foldNext)

theorem X.keeps.xZeroWords {g a a1} : (Machine.xZeroWords g a a1).keeps := by
  induction a1 generalizing g a with
  | zero =>
    unfold Machine.xZeroWords
    exact .pure
  | succ a1 ih =>
    unfold Machine.xZeroWords
    exact .bind .xWrite32 fun _ => ih

theorem X.keeps.foldZero {g a n} : (Machine.foldZero g a n).keeps := by
  unfold Machine.foldZero
  exact .bind .xEntry fun _ => .ite .pure (.bind .xZeroWords fun _ => .bind .flushRemote fun _ => .bind .xRun fun _ => .pure)

theorem State.canon.doFoldComplete {t b} {s : State} (h : s.canon) : (Machine.doFoldComplete t b s).canon := by
  unfold Machine.doFoldComplete
  dsimp only
  split
  · split
    case h_1 u heq =>
      have hu : u.canon := .of_pair heq (h.runUnits .foldZero)
      exact hu
    case h_2 u _ heq =>
      have hu : u.canon := .of_pair heq (h.runUnits .foldZero)
      exact hu.foldFail
    case h_3 u heq =>
      have hu : u.canon := .of_pair heq (h.runUnits .foldZero)
      exact hu.ite (State.canon_sendEvt _ _ _ _ hu.modFold.sideEnd)
  · exact h

/-! ### Mover -/

theorem State.canon.doVdrain {t} {s : State} (h : s.canon) : (Machine.doVdrain t s).canon := h.startDesc fun _ _ hu => hu.startChk

theorem State.canon.doCopy {t} {s : State} (h : s.canon) : (Machine.doCopy t s).canon := h.startDesc fun _ _ hu => hu.startChk

theorem State.canon.doXpose {t} {s : State} (h : s.canon) : (Machine.doXpose t s).canon := h.startDesc fun _ _ hu => hu.startChk

theorem State.canon.doFill {t} {s : State} (h : s.canon) : (Machine.doFill t s).canon := h.startDesc fun _ _ hu => hu.startChk

theorem State.canon.countRind {s : State} {dst} (h : s.canon) : (s.countRind dst).canon := by
  unfold State.countRind
  split
  · exact h.frame
  · exact .modTile h
  · exact h

theorem State.canon.rindMis {s : State} {unit sub ctx src dst tagOf stored} (h : s.canon) : (s.rindMis unit sub ctx src dst tagOf stored).canon :=
  h.frame

theorem X.keeps.remoteBlock {g dev a page into} : (Machine.remoteBlock g dev a page into).keeps := by
  unfold Machine.remoteBlock
  refine .state fun _ _ => ?_
  split
  · exact .fail
  · split
    · exact .pure
    · split
      · exact .fail
      · exact .bind (.mod fun _ hu1 => hu1.request) fun _ => .fail

theorem X.keeps.copyBlock_freeWords {a} : (Machine.copyBlock.freeWords a).keeps := by
  induction a with
  | nil =>
    unfold Machine.copyBlock.freeWords
    exact .pure
  | cons y a ih =>
    unfold Machine.copyBlock.freeWords
    exact .bind (.act fun _ hu => hu.frame) fun _ => ih.bind fun _ => .pure

theorem X.keeps.copyBlock {g sa da free} : (Machine.copyBlock g sa da free).keeps := by
  unfold Machine.copyBlock
  refine .bind .xlate fun src => .bind .xlate fun dst => ?_
  cases src with
  | here pa =>
    refine .bind .xReadWords fun _ => .state fun _ _ => .ite (.bind (.mod fun _ hu => .countRind hu.rindMis) fun _ => .bind .pure fun _ =>
      ?_) (.bind .pure fun _ => ?_)
    all_goals
      refine .join .copyBlock_freeWords .pure fun _ => ?_
      cases dst with
      | here => exact .xWriteWords
      | away => exact .mod fun _ hu => hu.request
  | away dev pa =>
    refine .bind .remoteBlock fun _ => .bind .pure fun _ => .join .copyBlock_freeWords .pure fun _ => ?_
    cases dst with
    | here => exact .xWriteWords
    | away => exact .mod fun _ hu => hu.request

theorem X.keeps.moved {g n} : (Machine.moved g n).keeps := by
  unfold Machine.moved
  exact .mod fun _ hu => .modTile hu

theorem X.keeps.mvAdvance {g rows row n} : (Machine.mvAdvance g rows row n).keeps := by
  unfold Machine.mvAdvance
  exact .bind .xEntry fun _ => .bind .xRun fun _ => .pure

theorem X.keeps.vdUnit_readVat {g a a1} : (Machine.vdUnit.readVat g a a1).keeps := by
  induction a1 generalizing g a with
  | zero =>
    unfold Machine.vdUnit.readVat
    exact .pure
  | succ a1 ih =>
    unfold Machine.vdUnit.readVat
    exact .bind (.act fun _ hu => State.canon_readLoc _ _ _ hu) fun _ => ih.bind fun _ => .pure

theorem X.keeps.vdUnit {g} : (Machine.vdUnit g).keeps := by
  unfold Machine.vdUnit
  exact .bind .xEntry fun _ => .ite .pure (.bind .vdUnit_readVat fun _ => .bind .xWriteWords fun _ =>
    .joinWhen (.mod fun _ hu => hu.foldl fun _ _ hv => State.canon_writeVat _ _ _ _ _ hv) fun _ => .bind .flushAs fun _ => .bind .moved fun _ =>
    .mvAdvance)

theorem X.keeps.cpUnit {g} : (Machine.cpUnit g).keeps := by
  unfold Machine.cpUnit
  refine .bind .xEntry fun _ =>
    .ite .pure (.state fun _ _ => .ite (.bind .copyBlock fun _ => ?_) (.bind .xReadWords fun _ =>
    .ite (.bind .copyBlock_freeWords fun _ => .bind .xWriteWords fun _ => ?_) (.bind .pure fun _ => .bind .xWriteWords fun _ => ?_)))
  all_goals exact .bind .flushRemote fun _ => .bind .moved fun _ => .mvAdvance

theorem X.keeps.flUnit {g} : (Machine.flUnit g).keeps := by
  unfold Machine.flUnit
  exact .bind .xEntry fun _ => .ite .pure (.bind .xWriteWords fun _ => .bind .flushRemote fun _ => .bind .moved fun _ => .mvAdvance)

theorem X.keeps.xpUnit_readElems {g a es a1} : (Machine.xpUnit.readElems g a es a1).keeps := by
  induction a1 generalizing g a es with
  | zero =>
    unfold Machine.xpUnit.readElems
    exact .pure
  | succ a1 ih =>
    unfold Machine.xpUnit.readElems
    exact .bind .xReadBytes fun _ => ih.bind fun _ => .pure

theorem X.keeps.xpUnit_readRows {g d r c a} : (Machine.xpUnit.readRows g d r c a).keeps := by
  induction a generalizing g d r c with
  | zero =>
    unfold Machine.xpUnit.readRows
    exact .pure
  | succ a ih =>
    unfold Machine.xpUnit.readRows
    exact .bind .xpUnit_readElems fun _ => ih.bind fun _ => .pure

theorem X.keeps.xpUnit {g} : (Machine.xpUnit g).keeps := by
  unfold Machine.xpUnit
  dsimp only
  refine .bind .xEntry fun _ => ?_
  split
  · exact .pure
  · refine .state fun _ _ => .bind .xpUnit_readRows fun _ => .bind (.forM (fun _ => ?_) _) fun _ => .bind .flushRemote fun _ => .bind .moved fun _ =>
      .bind .xRun fun _ => .pure
    exact .ite (.bind .copyBlock_freeWords fun _ => .xWriteWords) (.bind .pure fun _ => .xWriteWords)

/-! ### Update -/

theorem X.keeps.upStart {t op e} : (Machine.upStart t op e).keeps := by
  unfold Machine.upStart
  refine .state fun _ _ => ?_
  split
  · exact .pure
  · refine .bind .xReadWords fun _ => .ite .pure ?_
    dsimp only
    split
    · exact .pure
    · exact .bind (.mod fun _ hu => hu.frame) fun _ => .pure

theorem State.canon.doUpdate {t} {s : State} (h : s.canon) : (Machine.doUpdate t s).canon := h.startEdge fun _ => .upStart

theorem State.canon.doGnorm {t} {s : State} (h : s.canon) : (Machine.doGnorm t s).canon := h.startEdge fun _ => .upStart

theorem State.canon.modUpd {s : State} {k f} (h : s.canon) : (s.modUpd k f).canon := h.frame

theorem State.canon.updCount {s : State} {k n c} (h : s.canon) : (s.updCount k n c).canon := by
  unfold State.updCount
  exact .ite h.frame h.frame

theorem State.canon.fetchCount {k t n} {s : State} (h : s.canon) : (Machine.fetchCount k t n s).canon := by
  unfold Machine.fetchCount
  exact h.ite h.frame

theorem X.keeps.xOperandBytes {g k a n} : (Machine.xOperandBytes g k a n).keeps := by
  unfold Machine.xOperandBytes
  exact .bind .xlate fun _ => .bind (.mod fun _ hu => hu.fetchCount) fun _ => .bind .xReadWords fun _ => .pure

theorem X.keeps.xGrads {g r k n m a} : (Machine.xGrads g r k n m a).keeps := by
  induction a generalizing g r k n m with
  | zero =>
    unfold Machine.xGrads
    exact .pure
  | succ a ih =>
    unfold Machine.xGrads
    exact ih.bind fun _ => .bind .xOperandBytes fun _ => .pure

theorem X.keeps.xSrOf {g r stk ch} : (Machine.xSrOf g r stk ch).keeps := by
  unfold Machine.xSrOf
  dsimp only
  refine .bind .xEntry fun _ => ?_
  split
  · exact .pure
  · split
    · exact .state fun _ _ => .bind (.mod fun _ hu1 => hu1.frame) fun _ => .bind .xRun fun _ => .pure
    · exact .pure

theorem X.keeps.upUnit {g} : (Machine.upUnit g).keeps := by
  unfold Machine.upUnit
  refine .bind .xEntry fun e => .ite .pure ?_
  extract_lets
  split
  refine .bind .xlate fun _ => .bind .xGrads fun _ => .bind .xOperandBytes fun _ => .join .xOperandBytes .pure fun _ =>
    .join .xOperandBytes .pure fun _ => .join .xOperandBytes .pure fun _ => .bind .xSrOf fun _ => .joinWhen .xPutBytes fun _ =>
    .bind .xPutBytes fun _ => .joinWhen .xPutBytes fun _ => .joinWhen .xPutBytes fun _ => .join (.bind .xlate fun t => ?_) .pure fun _ =>
    .bind .flushBy fun _ => .bind (.mod fun u hu => ?_) fun _ => .bind .xRun fun _ => .pure
  · cases t with
    | here => exact .pure
    | away => exact .pure
  · exact .ite (State.canon_detect _ _ hu.updCount.updCount.updCount.modUpd) hu.updCount.updCount.updCount.modUpd

theorem X.keeps.gnChunk {g r n m} : (Machine.gnChunk g r n m).keeps := by
  unfold Machine.gnChunk
  exact .bind .xlate fun _ => .bind .xGrads fun _ => .bind .xEntry fun _ => .bind .xRun fun _ => .mod fun _ hu => hu.updCount.updCount

theorem X.keeps.gnUnit {g} : (Machine.gnUnit g).keeps := by
  unfold Machine.gnUnit
  dsimp only
  refine .bind .xEntry fun _ => ?_
  split
  · exact .bind .gnChunk fun _ => .bind .flushRemote fun _ => .bind .xRun fun _ => .pure
  · exact .bind .xWriteWords fun _ => .bind .flushRemote fun _ => .bind (.mod fun _ hu => hu.foldl fun _ _ hu1 => hu1.updCount) fun _ =>
      .bind .xRun fun _ => .pure

theorem X.keeps.updUnitOf {g op} : (Machine.updUnitOf g op).keeps := by
  unfold Machine.updUnitOf
  exact .ite .upUnit .gnUnit

end Sys2Proof.Machine
end

section
/-! What keeps the memories canonical: the functions of the links and of remote access. -/

namespace Sys2Proof.Machine

-- One theorem at a time: elaborated side by side, with a thread for each, so many short ones pass the memory limit.
set_option Elab.async false

/-! ### Link -/

theorem State.canon.takePacket {s u : State} {p l} (h : s.canon) (hp : s.takePacket p = some (l, u)) : u.canon := by
  unfold State.takePacket at hp
  split at hp
  · exact nomatch hp
  · rw [Option.some.injEq] at hp
    exact .of_pair hp (.modPort (.frame (h.readPacket (unit := uPort p))))

theorem State.canon.fillSlots {s : State} {p n m acc} (h : s.canon) : (s.fillSlots p n m acc).2.canon := by
  induction n generalizing s m acc with
  | zero => exact h
  | succ n ih =>
    unfold State.fillSlots
    split
    · exact h
    · split
      · exact ih h.modPort
      · split
        case h_1 => exact h
        case h_2 hp => exact ih (h.takePacket hp).modPort

theorem State.canon.doFlitTime {p} {s : State} (h : s.canon) : (Machine.doFlitTime p s).canon := by
  unfold Machine.doFlitTime
  dsimp only
  split
  · exact h
  · split
    · exact h.frame
    · split
      · exact h.frame
      · exact .ite h.frame (h.fillSlots.modPort.ite h.fillSlots.modPort)

theorem State.canon.doFlitReceive {p flit corr uncorr fc} {s : State} (h : s.canon) : (Machine.doFlitReceive p flit corr uncorr fc s).canon := by
  unfold Machine.doFlitReceive
  exact h.ite h.frame

theorem State.canon.doFlitNakResend {p} {s : State} (h : s.canon) : (Machine.doFlitNakResend p s).canon := by
  unfold Machine.doFlitNakResend
  exact .ite h.frame h

theorem State.canon.doAckTimeoutResend {p} {s : State} (h : s.canon) : (Machine.doAckTimeoutResend p s).canon := by
  unfold Machine.doAckTimeoutResend
  exact .ite h.frame h

theorem State.canon.doLinkDetect {p pairs} {s : State} (h : s.canon) : (Machine.doLinkDetect p pairs s).canon := by
  unfold Machine.doLinkDetect
  exact .ite h.frame h

theorem State.canon.doLinkEqDone {p} {s : State} (h : s.canon) : (Machine.doLinkEqDone p s).canon := by
  unfold Machine.doLinkEqDone
  exact h.ite (.ite h.frame (.ite h.frame h))

theorem State.canon.doLinkDeskewDone {p} {s : State} (h : s.canon) : (Machine.doLinkDeskewDone p s).canon := by
  unfold Machine.doLinkDeskewDone
  exact .ite h.frame (.ite h.frame h)

theorem State.canon.doLinkRetrain {p why} {s : State} (h : s.canon) : (Machine.doLinkRetrain p why s).canon := by
  unfold Machine.doLinkRetrain
  exact .ite h.frame h

theorem State.canon.doLaneLoss {p lane} {s : State} (h : s.canon) : (Machine.doLaneLoss p lane s).canon := by
  unfold Machine.doLaneLoss
  exact .ite (.ite h.frame h.frame) h

theorem State.canon.doRetrainAttemptFailed {p} {s : State} (h : s.canon) : (Machine.doRetrainAttemptFailed p s).canon := by
  unfold Machine.doRetrainAttemptFailed
  exact .ite h.frame h

theorem State.canon.endColl {s : State} {t seq} (h : s.canon) : (s.endColl t seq).canon := by
  unfold State.endColl
  exact .ite h.frame h

theorem State.canon.forget {s : State} {t q seq} (h : s.canon) : (s.forget t q seq).canon := h.frame

theorem State.canon.sideFails {s : State} {r reason} (h : s.canon) : (s.sideFails r reason).canon := by
  unfold State.sideFails
  dsimp only
  split
  · exact h.frame
  · split
    · exact .foldFail h.frame
    · exact .foldFail h.frame
    · exact .foldPressFault h.frame
    · exact .foldFail h.frame

theorem State.canon.failRemote {s : State} {r reason} (h : s.canon) : (s.failRemote r reason).canon := by
  unfold State.failRemote
  dsimp only
  split
  · exact h.frame
  · split
    · exact .sideFails h.frame
    · exact .ite (.drainEdge (.dropEntry (.endRead (.endColl (.forget (.ite (.abortPress (.endIssuer h.frame)) (.endIssuer h.frame)))))))
        (.dropEntry (.endRead (.endColl (.forget (.ite (.abortPress (.endIssuer h.frame)) (.endIssuer h.frame))))))

theorem State.canon.portDown {s : State} {p} (h : s.canon) : (s.portDown p).canon := by
  unfold State.portDown
  exact .foldl h.frame fun _ _ hu => hu.failRemote.ite hu

theorem State.canon.doLinkDown {p} {s : State} (h : s.canon) : (Machine.doLinkDown p s).canon := by
  unfold Machine.doLinkDown
  exact h.portDown.ite h

theorem State.canon.doLinkParamDone {p peer} {s : State} (h : s.canon) : (Machine.doLinkParamDone p peer s).canon := by
  unfold Machine.doLinkParamDone
  exact .ite (.ite (.portDown h.frame) (.ite h.frame h.frame)) h

/-! ### Remote -/

theorem State.canon.dropRcvd {s : State} {p i k} (h : s.canon) : (s.dropRcvd p i k).canon := by
  unfold State.dropRcvd
  dsimp only
  split
  · refine .frame ?_
    split
    · exact h.readPacket
    · exact h
  · refine .modPort ?_
    split
    · exact h.readPacket
    · exact h

theorem State.canon.answer {s : State} {p k opc f} (h : s.canon) : (s.answer p k opc f).canon := h.send

theorem State.canon.nakBack {s : State} {p k reason} (h : s.canon) : (s.nakBack p k reason).canon := by
  unfold State.nakBack
  exact h.ite (.answer h.frame)

theorem State.canon.onPacket {s : State} {p i : Nat} {ops : List Nat} {f : Packet → State → State}
    (h : s.canon) (hf : ∀ x u, u.canon → (f x u).canon) :
    (s.onPacket p i ops f).canon := by
  unfold State.onPacket
  split
  · exact h
  · exact h.ite (h.dropRcvd.nakBack.ite ((hf _ _ h.dropRcvd).ite h))

theorem State.canon.doPacketForward {p i} {s : State} (h : s.canon) : (Machine.doPacketForward p i s).canon := by
  unfold Machine.doPacketForward
  split
  · exact h
  · split
    · exact h
    · exact h.dropRcvd.nakBack
    · exact h.dropRcvd.nakBack.ite h.dropRcvd.frame

theorem State.canon.portXlate {s : State} {p ctx a acc} (h : s.canon) : (s.portXlate p ctx a acc).2.canon := by
  unfold State.portXlate
  dsimp only
  split
  · exact h
  · split
    · exact h.frame
    · split
      case h_1 u heq1 =>
        have hu : u.canon := .of_pair heq1 h.walk
        exact hu
      case h_2 u heq1 =>
        have hu : u.canon := .of_pair heq1 h.walk
        exact hu.frame

theorem State.canon.target {s : State} {p : Nat} {k : Packet} {acc : Nat} {f : Loc → State → State}
    (h : s.canon) (hf : ∀ x u, u.canon → (f x u).canon) :
    (s.target p k acc f).canon := by
  unfold State.target
  split
  · exact h.frame
  · exact h.nakBack
  · split
    case h_1 u heq1 =>
      have hu : u.canon := .of_pair heq1 h.portXlate
      exact hu.nakBack
    case h_2 u heq1 =>
      have hu : u.canon := .of_pair heq1 h.portXlate
      exact hf _ _ hu

theorem State.canon.readAt {s : State} {l ctx} (h : s.canon) : (s.readAt l ctx).2.canon := by
  unfold State.readAt
  dsimp only
  split
  · exact State.canon_readLoc _ _ _ h
  · exact State.canon_readLoc _ _ _ (State.canon_readLoc _ _ _ h)

theorem State.canon.getWords {s : State} {l ctx a} (h : s.canon) : (s.getWords l ctx a).2.canon := by
  induction a generalizing s l ctx with
  | zero =>
    unfold State.getWords
    exact h
  | succ a ih =>
    unfold State.getWords
    exact ih h.readAt

theorem State.canon.farAddr {s : State} (h : s.canon) : s.farAddr.2.canon := h.frame

theorem State.canon.countPartial {s : State} {ls n} (h : s.canon) : (s.countPartial ls n).canon := by
  unfold State.countPartial
  exact h.foldl fun _ _ hu => hu.ite hu.frame

theorem State.canon.doWr {p i} {s : State} (h : s.canon) : (Machine.doWr p i s).canon := by
  unfold Machine.doWr
  exact .onPacket h fun _ _ hu =>
    .ite hu.nakBack (hu.target fun _ _ hu1 => .answer (State.canon_putWords _ _ _ _ (.countPartial (.ite (.countRind (hu1.ite hu1.frame)) hu1))))

theorem State.canon.doRdreq {p i} {s : State} (h : s.canon) : (Machine.doRdreq p i s).canon := by
  unfold Machine.doRdreq
  refine .onPacket h fun _ _ hu => ?_
  split
  · exact hu.nakBack
  · refine .target hu fun _ _ hu1 => .answer ?_
    split
    · refine .rindMis ?_
      split
      · exact hu1.getWords
      · exact hu1.getWords.farAddr
    · exact hu1.getWords

theorem State.canon.blockMis {s : State} {r ctx tagOf stored found} (h : s.canon) : (s.blockMis r ctx tagOf stored found).canon := by
  unfold State.blockMis
  split
  · exact .countRind (h.ite h.frame)
  · exact h.ite h.frame

theorem State.canon.doRdrsp {p i} {s : State} (h : s.canon) : (Machine.doRdrsp p i s).canon := by
  unfold Machine.doRdrsp
  refine .onPacket h fun _ _ hu => ?_
  split
  · exact hu
  · exact .modEntry (.ite (.blockMis hu.frame) hu.frame)

theorem State.canon.doWrack {p i} {s : State} (h : s.canon) : (Machine.doWrack p i s).canon := by
  unfold Machine.doWrack
  refine .onPacket h fun _ _ hu => ?_
  split
  · exact hu
  · exact .flushDue hu.frame

theorem State.canon.doNak {p i} {s : State} (h : s.canon) : (Machine.doNak p i s).canon := by
  unfold Machine.doNak
  dsimp only
  refine .onPacket h fun _ _ hu => ?_
  split
  · exact hu.frame
  · exact .failRemote hu.frame

theorem State.canon.doSigPacket {p i} {s : State} (h : s.canon) : (Machine.doSigPacket p i s).canon := by
  unfold Machine.doSigPacket
  refine .onPacket h fun _ _ hu => ?_
  split
  · exact hu.nakBack
  · split
    · exact hu.nakBack
    · split
      · exact hu.frame
      · exact hu.nakBack
      · exact (State.canon_addCtr _ _ _ hu).answer

theorem State.canon.doSigack {p i} {s : State} (h : s.canon) : (Machine.doSigack p i s).canon := by
  unfold Machine.doSigack
  refine .onPacket h fun _ _ hu => ?_
  split
  · exact hu
  · exact .finishEdge hu.frame

theorem State.canon.doRemoteTimeout {tag} {s : State} (h : s.canon) : (Machine.doRemoteTimeout tag s).canon := by
  unfold Machine.doRemoteTimeout
  split
  · exact h
  · split
    · exact h
    · exact .failRemote h.frame

theorem State.canon.doRsig {t} {s : State} (h : s.canon) : (Machine.doRsig t s).canon := by
  refine h.startEdge fun e => ?_
  cases rsigChk e.d with
  | error r => exact .pure
  | ok => exact .bind (.mod fun _ hu => hu.requestPk) fun _ => .pure

end Sys2Proof.Machine
end

section
/-! What keeps the memories canonical: the functions of the experts and the collectives. -/

namespace Sys2Proof.Machine

-- One theorem at a time: elaborated side by side, with a thread for each, so many short ones pass the memory limit.
set_option Elab.async false

/-! ### Experts -/

theorem State.canon.dspCount {s : State} {l} (h : s.canon) : (s.dspCount l).canon := h.frame

theorem X.keeps.xBytes {g a a1 a2} : (Machine.xBytes g a a1 a2).keeps := by
  induction a1 generalizing g a a2 with
  | zero =>
    unfold Machine.xBytes
    exact .pure
  | succ a1 ih =>
    unfold Machine.xBytes
    exact .ite .pure (.bind .xReadBytes fun _ => ih.bind fun _ => .pure)

theorem X.keeps.dispatchStart {t e} : (Machine.dispatchStart t e).keeps := by
  unfold Machine.dispatchStart
  split
  · exact .pure
  · refine .bind .xBytes fun _ => ?_
    split
    split
    · exact .pure
    · split
      · exact .pure
      · refine .bind .xBytes fun _ => .bind .xBytes fun _ => .bind .xBytes fun _ => ?_
        dsimp only
        split
        · exact .pure
        · split
          · exact .pure
          · exact .bind (.act fun _ hu => State.canon_draw _ hu) fun _ => .state fun _ _ => .pure

theorem State.canon.doDispatch {t} {s : State} (h : s.canon) : (Machine.doDispatch t s).canon := h.startEdge fun _ => .dispatchStart

theorem X.keeps.xRow {g f a n} : (Machine.xRow g f a n).keeps := by
  unfold Machine.xRow
  exact .xStreamVals

theorem X.keeps.xSendLines {g dev fmt a a1 a2} : (Machine.xSendLines g dev fmt a a1 a2).keeps := by
  induction a generalizing g dev fmt a1 a2 with
  | zero =>
    unfold Machine.xSendLines
    exact .pure
  | succ a ih =>
    unfold Machine.xSendLines
    split
    · exact .pure
    · exact .bind (.mod fun _ hu => hu.request) fun _ => ih

theorem X.keeps.xSendGroup {g opc dev a f collid dfmt rank ws} : (Machine.xSendGroup g opc dev a f collid dfmt rank ws).keeps := by
  unfold Machine.xSendGroup
  exact .mod fun _ hu => hu.requestPk

theorem X.keeps.dispatchUnit {t e} : (Machine.dispatchUnit t e).keeps := by
  unfold Machine.dispatchUnit
  dsimp only
  refine .bind .xEntry fun _ => .state fun _ _ => ?_
  split
  · refine .bind .xPutBytes fun _ => .bind .flushRemote fun _ => ?_
    split
    · exact .bind .xRun fun _ => .pure
    · refine .bind .xRow fun _ => ?_
      split
      · exact .bind (.forM (fun _ => .bind (.mod fun _ hu1 => hu1.frame) fun _ => .xSendGroup) _) fun _ => .bind .flushRemote fun _ =>
          .bind (.mod fun _ hu1 => hu1.frame) fun _ => .bind .xRun fun _ => .pure
      · exact .bind (.mod fun _ hu1 => hu1.frame) fun _ => .bind .xSendLines fun _ => .bind .flushRemote fun _ =>
          .bind (.mod fun _ hu1 => hu1.frame) fun _ => .bind .xRun fun _ => .pure
  · exact .bind .xPutBytes fun _ => .bind .flushRemote fun _ =>
      .bind (.mod fun _ hu1 => .ite (.post (hu1.foldl fun _ _ hu2 => .ite hu2.frame hu2.frame)) (hu1.foldl fun _ _ hu2 =>
      .ite hu2.frame hu2.frame)) fun _ => .bind .xRun fun _ => .pure

theorem X.keeps.combineStart {t e} : (Machine.combineStart t e).keeps := by
  unfold Machine.combineStart
  split
  · exact .pure
  · refine .bind .xBytes fun _ => ?_
    split
    split
    · exact .pure
    · split
      · exact .pure
      · refine .bind .xBytes fun _ => .bind .xBytes fun _ => .join .xBytes .pure fun _ => ?_
        dsimp only
        split
        · exact .pure
        · split
          · exact .pure
          · exact .state fun _ _ => .pure

theorem State.canon.doCombine {t} {s : State} (h : s.canon) : (Machine.doCombine t s).canon := h.startEdge fun _ => .combineStart

theorem X.keeps.xFetchLines {g dev a a1} : (Machine.xFetchLines g dev a a1).keeps := by
  induction a generalizing g dev a1 with
  | zero =>
    unfold Machine.xFetchLines
    exact .pure
  | succ a ih =>
    unfold Machine.xFetchLines
    exact .bind .remoteLine fun _ => ih.bind fun _ => .pure

theorem X.keeps.xSumRows {t e r plan maps routes tok a a1} : (Machine.xSumRows t e r plan maps routes tok a a1).keeps := by
  induction a generalizing t e r plan maps routes tok a1 with
  | nil =>
    unfold Machine.xSumRows
    exact .pure
  | cons y a ih =>
    unfold Machine.xSumRows
    dsimp only
    split
    · exact ih
    · exact .state fun _ _ => .bind .xFetchLines fun _ => ih

theorem X.keeps.combineUnit {t e} : (Machine.combineUnit t e).keeps := by
  unfold Machine.combineUnit
  exact .bind .xEntry fun _ => .bind .xSumRows fun _ => .bind .xPutElems fun _ => .bind .flushAs fun _ => .bind (.mod fun _ hu => hu.frame) fun _ =>
    .bind .xRun fun _ => .pure

/-! ### Collective -/

theorem State.canon.sendArm {s : State} {d ctx dev} (h : s.canon) : (s.sendArm d ctx dev).canon := h.send

theorem X.keeps.coStart {t e} : (Machine.coStart t e).keeps := by
  unfold Machine.coStart
  dsimp only
  refine .state fun _ _ => ?_
  split
  · exact .pure
  · refine .bind .xBytes fun _ => ?_
    split
    · exact .pure
    · split
      · exact .pure
      · split
        · exact .pure
        · exact .bind (.mod fun _ hu1 => .foldl hu1.frame fun _ _ hu2 => hu2.ite hu2.sendArm) fun _ => .pure

theorem State.canon.doRedscat {t} {s : State} (h : s.canon) : (Machine.doRedscat t s).canon := h.startEdge fun _ => .coStart

theorem State.canon.doAllgather {t} {s : State} (h : s.canon) : (Machine.doAllgather t s).canon := h.startEdge fun _ => .coStart

theorem State.canon.modColl {s : State} {id f} (h : s.canon) : (s.modColl id f).canon := h.frame

theorem X.keeps.addStaged {g c r q} : (Machine.addStaged g c r q).keeps := by
  unfold Machine.addStaged
  refine .bind .xReadWords fun _ => ?_
  split
  · exact .bind .pure fun _ => .bind .xWriteWords fun _ => .bind .flushAs fun _ => .mod fun _ hu => hu.frame
  · exact .bind .xReadWords fun _ => .bind .xWriteWords fun _ => .bind .flushAs fun _ => .mod fun _ hu => hu.frame

theorem X.keeps.stageUnit {t id e} : (Machine.stageUnit t id e).keeps := by
  unfold Machine.stageUnit
  refine .state fun _ _ => ?_
  split
  · exact .pure
  · split
    · exact .pure
    · exact .bind .addStaged fun _ => .pure

theorem X.keeps.collUnit {t e} : (Machine.collUnit t e).keeps := by
  unfold Machine.collUnit
  dsimp only
  refine .bind .xEntry fun _ => .state fun _ _ => ?_
  split
  · exact .fail
  · split
    · exact .bind .addStaged fun _ => .pure
    · split
      · exact .ite .pure .fail
      · refine .bind .xStreamVals fun _ => .bind .flushRemote fun _ => .bind (.mod fun _ hu1 => .ite hu1.frame hu1) fun _ => ?_
        split
        · exact .bind .xSendGroup fun _ => .bind (.mod fun _ hu1 => hu1.frame) fun _ => .pure
        · exact .bind .xSendGroup fun _ => .bind (.mod fun _ hu1 => hu1.frame) fun _ => .pure

theorem State.canon.doCollarmTimeout {id} {s : State} (h : s.canon) : (Machine.doCollarmTimeout id s).canon := by
  unfold Machine.doCollarmTimeout
  split
  · exact h
  · split
    · exact h
    · exact h.failRemote

theorem State.canon.doCollarm {p i} {s : State} (h : s.canon) : (Machine.doCollarm p i s).canon := by
  unfold Machine.doCollarm
  refine .onPacket h fun _ _ hu => ?_
  split
  · exact hu.frame
  · split <;> exact hu.frame

theorem State.canon.ackGroup {s : State} {p k opc rank} (h : s.canon) : (s.ackGroup p k opc rank).canon := h.answer

theorem State.canon.placeLines {s : State} {p ctx a acc a1} (h : s.canon) : (s.placeLines p ctx a acc a1).2.canon := by
  induction a1 generalizing s p ctx a acc with
  | zero =>
    unfold State.placeLines
    exact h
  | succ a1 ih =>
    unfold State.placeLines
    split
    case h_1 u heq =>
      have hu : u.canon := .of_pair heq h.portXlate
      exact hu
    case h_2 u heq =>
      have hu : u.canon := .of_pair heq h.portXlate
      split
      case h_1 u1 heq1 =>
        have hu1 : u1.canon := .of_pair heq1 (ih hu)
        exact hu1
      case h_2 u1 heq1 =>
        have hu1 : u1.canon := .of_pair heq1 (ih hu)
        exact hu1

theorem State.canon.readLines {s : State} {ctx a} (h : s.canon) : (s.readLines ctx a).2.canon := by
  induction a generalizing s ctx with
  | nil =>
    unfold State.readLines
    exact h
  | cons y a ih =>
    unfold State.readLines
    exact ih h.getWords

theorem State.canon.writeLines {s : State} {w a a1} (h : s.canon) : (s.writeLines w a a1).canon := by
  induction a generalizing s w a1 with
  | nil =>
    unfold State.writeLines
    exact h
  | cons y a ih =>
    unfold State.writeLines
    exact ih (State.canon_putWords _ _ _ _ h)

theorem State.canon.drainStage {s : State} {c} (h : s.canon) : (s.drainStage c).canon := by
  unfold State.drainStage
  dsimp only
  split
  · exact h
  · split
    · exact h
    · split
      case h_1 u heq1 =>
        have hu : u.canon := .of_pair heq1 (h.runUnits .stageUnit)
        exact hu.failEntry
      case h_2 u heq1 =>
        have hu : u.canon := .of_pair heq1 (h.runUnits .stageUnit)
        exact hu

theorem X.keeps.stageGroup {g a new} : (Machine.stageGroup g a new).keeps := by
  unfold Machine.stageGroup
  exact .bind .xWriteWords fun _ => .flushAs

theorem State.canon.doRsgrp {p i} {s : State} (h : s.canon) : (Machine.doRsgrp p i s).canon := by
  unfold Machine.doRsgrp
  refine .onPacket h fun _ _ hu => .ite hu.nakBack ?_
  split
  · exact hu.frame
  · exact hu.nakBack
  · split
    · exact hu.nakBack
    · refine .ite hu.nakBack ?_
      split
      case h_1 heq => exact .nakBack (.of_pair heq hu.placeLines)
      case h_2 v heq =>
        have hv : v.canon := .of_pair heq hu.placeLines
        extract_lets q r
        clear_value q
        split
        extract_lets _ cnt
        refine .ite ?_ ?_
        · split
          · exact h
          · split
            case h_1 => exact h.failEntry
            case h_2 w heq2 =>
              have hw : w.canon := .of_pair heq2 (hv.runUnit .stageGroup)
              exact .ackGroup (.frame (hw.dspCount (l := cnt)))
        · exact .ackGroup (.ite
            (.drainStage hv.readLines.countPartial.writeLines.dspCount.modColl) hv.readLines.countPartial.writeLines.dspCount.modColl)

theorem State.canon.doGrpwr {p i} {s : State} (h : s.canon) : (Machine.doGrpwr p i s).canon := by
  unfold Machine.doGrpwr
  refine .onPacket h fun _ _ hu => .ite hu.nakBack ?_
  extract_lets c
  clear_value c
  split
  · exact hu.frame
  · exact hu.nakBack
  · refine .ite hu.nakBack ?_
    split
    case h_1 heq => exact .nakBack (.of_pair heq hu.placeLines)
    case h_2 v heq =>
      have hv : v.canon := .of_pair heq hu.placeLines
      exact .ackGroup (.ite hv.countPartial.writeLines.dspCount hv.countPartial.writeLines.dspCount.modColl)

theorem State.canon.doRsack {p i} {s : State} (h : s.canon) : (Machine.doRsack p i s).canon := by
  unfold Machine.doRsack
  refine .onPacket h fun _ _ hu => ?_
  split
  · exact hu.frame
  · exact hu

theorem State.canon.doGrpack {p i} {s : State} (h : s.canon) : (Machine.doGrpack p i s).canon := by
  unfold Machine.doGrpack
  refine .onPacket h fun _ _ hu => ?_
  split
  · exact hu.frame
  · exact hu

end Sys2Proof.Machine
end

section
/-! What keeps the memories canonical: the functions of the clutch and of recovery. -/

namespace Sys2Proof.Machine

-- One theorem at a time: elaborated side by side, with a thread for each, so many short ones pass the memory limit.
set_option Elab.async false

/-! ### Clutch -/

theorem State.canon.modClu {s : State} {f} (h : s.canon) : (s.modClu f).canon := h.frame

theorem State.canon.cluSend {s : State} {opc dst e count flags body} (h : s.canon) : (s.cluSend opc dst e count flags body).canon := by
  unfold State.cluSend
  exact h.ite h.send

theorem State.canon.cluAll {s : State} {l opc e count flags body} (h : s.canon) : (s.cluAll l opc e count flags body).canon := by
  unfold State.cluAll
  exact h.foldl fun _ _ hu => hu.cluSend

theorem State.canon.takeClu {s : State} {opc} (h : s.canon) : (s.takeClu opc).canon := by
  unfold State.takeClu
  dsimp only
  split
  · exact h
  · split
    · exact h
    · split
      · exact h.dropRcvd
      · exact h

theorem State.canon.sendHeart {s : State} (h : s.canon) : s.sendHeart.canon := h.cluSend.modClu

theorem State.canon.cluFrame {s : State} {typ body} (h : s.canon) : (s.cluFrame typ body).canon := h.frame

theorem State.canon.rollFrame {s : State} {r st} (h : s.canon) : (s.rollFrame r st).canon := h.frame

theorem State.canon.failRpt {s : State} (h : s.canon) : s.failRpt.canon := by
  unfold State.failRpt
  exact h.cluSend.ite h

theorem State.canon.intoClutch {s : State} {t e} (h : s.canon) : (s.intoClutch t e).canon := by
  unfold State.intoClutch
  exact .drainEdge (.modTile h)

theorem State.canon.reapAll {s : State} {l} (h : s.canon) : (s.reapAll l).canon := by
  unfold State.reapAll
  refine .foldl h fun _ _ hu => ?_
  split
  · exact State.canon_reap _ _ _ hu
  · exact hu

theorem State.canon.releaseHeld {s : State} (h : s.canon) : s.releaseHeld.canon := by
  unfold State.releaseHeld
  exact ((h.foldl fun _ _ hu => hu.signalDone).modClu).reapAll

theorem State.canon.dropHeld {s : State} {p} (h : s.canon) : (s.dropHeld p).canon := by
  unfold State.dropHeld
  exact .reapAll h.frame

theorem State.canon.endSaved {s : State} {ctx l} (h : s.canon) : (s.endSaved ctx l).canon := by
  unfold State.endSaved
  split
  · exact h
  · exact h.frame

theorem State.canon.stopGrids {s : State} {ctx} (h : s.canon) : (s.stopGrids ctx).canon := by
  unfold State.stopGrids
  exact .foldl (.endSaved (.dropHeld h.frame)) fun _ _ hu => hu.foldl fun _ _ hu1 => hu1.endStrand.ite hu1

theorem State.canon.applyCommit {s : State} {e flags} (h : s.canon) : (s.applyCommit e flags).canon := by
  unfold State.applyCommit
  exact .modClu (.releaseHeld (.foldl h.frame fun _ _ hu => .modTile hu))

theorem State.canon.maybeAck {s : State} (h : s.canon) : s.maybeAck.canon := by
  unfold State.maybeAck
  dsimp only
  split
  · split
    · exact .cluSend h.frame
    · exact h.frame
  · exact h

theorem State.canon.commitOn {s : State} {e flags} (h : s.canon) : (s.commitOn e flags).canon := h.cluAll

theorem State.canon.commitDown {s : State} {e flags} (h : s.canon) : (s.commitDown e flags).canon := h.commitOn.applyCommit.maybeAck

theorem State.canon.takeHeld {s : State} {t op : Nat} {check : W512 → Chk Unit} {keep : QEntry → State → State}
    (h : s.canon) (hkeep : ∀ x u, u.canon → (keep x u).canon) :
    (s.takeHeld t op check keep).canon := by
  unfold State.takeHeld
  split
  · exact h
  · split
    · refine .withHead h fun _ _ hu => ?_
      split
      · exact hu.refuse
      · exact (hkeep _ _ hu).intoClutch
    · exact h

theorem State.canon.doAbandon {t} {s : State} (h : s.canon) : (Machine.doAbandon t s).canon := by
  unfold Machine.doAbandon
  exact h.takeHeld fun _ _ hu => .cluSend hu.frame

theorem State.canon.sendTable {s : State} (h : s.canon) : s.sendTable.canon := by
  unfold State.sendTable
  exact .ite h.frame (.ite (.sendHeart h.frame) h.frame)

theorem State.canon.doCkpttab {t} {s : State} (h : s.canon) : (Machine.doCkpttab t s).canon := by
  refine h.startEdge fun e => ?_
  dsimp only
  split
  · exact .pure
  · refine .bind .xBytes fun _ => ?_
    split
    · exact .pure
    · split
      · exact .pure
      · exact .bind (.mod fun _ hu => hu.modClu.sendTable) fun _ => .pure

/-! ### Plan -/

theorem State.canon.stopsFor {s : State} {cause now old} (h : s.canon) : (s.stopsFor cause now old).canon := by
  unfold State.stopsFor
  exact h.foldl fun _ _ hu => hu.frame

theorem State.canon.sendPlan {s : State} {d} (h : s.canon) : (s.sendPlan d).canon := by
  unfold State.sendPlan
  exact h.ite h.cluSend.modClu

theorem State.canon.replan {s : State} (h : s.canon) : s.replan.canon := by
  unfold State.replan
  dsimp only
  split
  · exact .ite (.commitOn (.modClu (.modClu (.foldl (.stopsFor (.stopsFor h.frame)) fun _ _ hu => hu.sendPlan))))
      (.modClu (.foldl (.stopsFor (.stopsFor h.frame)) fun _ _ hu => hu.sendPlan))
  · exact .modClu (.foldl (.stopsFor (.stopsFor h.frame)) fun _ _ hu => hu.sendPlan)

/-! ### Manager -/

theorem State.canon.sendMirror {s : State} {r} (h : s.canon) : (s.sendMirror r).canon := h.cluSend

theorem State.canon.estimate {s : State} (h : s.canon) : s.estimate.canon := by
  unfold State.estimate
  exact .replan h.frame

theorem State.canon.noteCommit {s : State} (h : s.canon) : s.noteCommit.canon := h.frame

theorem State.canon.discardCk {s : State} (h : s.canon) : s.discardCk.canon := by
  unfold State.discardCk
  dsimp only
  split
  · exact h
  · exact h.frame

theorem State.canon.beginCk {s : State} {e} (h : s.canon) : (s.beginCk e).canon := h.discardCk.modClu

theorem State.canon.ckptComplete {s : State} {k} (h : s.canon) : (s.ckptComplete k).canon := h.cluAll.modClu.cluFrame

theorem State.canon.ckReport {s : State} {dev e digs} (h : s.canon) : (s.ckReport dev e digs).canon := by
  unfold State.ckReport
  exact .ite (.ite (.ite (.sendMirror (.modClu h.frame)) (.ckptComplete h.frame)) h.frame) h

theorem State.canon.sendRoll {s : State} {dst r subst} (h : s.canon) : (s.sendRoll dst r subst).canon := h.cluAll

theorem State.canon.rollOut {s : State} (h : s.canon) : s.rollOut.canon := by
  unfold State.rollOut
  split
  · exact h
  · exact .modClu (.sendRoll h.frame)

theorem State.canon.decideRoll {s : State} {r} (h : s.canon) : (s.decideRoll r).canon := by
  unfold State.decideRoll
  exact .ite (.sendMirror h.frame) (.rollOut h.frame)

theorem State.canon.holdClutch {s : State} {cause dev} (h : s.canon) : (s.holdClutch cause dev).canon := by
  unfold State.holdClutch
  exact h.ite h.frame

theorem State.canon.startRoll {s : State} {cause} (h : s.canon) : (s.startRoll cause).canon := by
  unfold State.startRoll
  dsimp only
  split
  · exact h.decideRoll
  · split
    · exact h.holdClutch.decideRoll
    · split
      · exact .decideRoll h.frame
      · exact h.holdClutch.decideRoll

theorem State.canon.takeAbandon {s : State} (h : s.canon) : s.takeAbandon.canon := by
  unfold State.takeAbandon
  split
  · exact h
  · exact .ite (.ite (.decideRoll h.frame) h.frame) h

theorem State.canon.settleCommit {s : State} (h : s.canon) : s.settleCommit.canon := by
  unfold State.settleCommit
  dsimp only
  split
  · exact h
  · exact .ite (.ite (.takeAbandon (.ite (.estimate h.frame) h.frame)) (.startRoll (.discardCk (.ite (.estimate h.frame) h.frame)))) h

theorem State.canon.takeTabs {s : State} (h : s.canon) : s.takeTabs.canon := by
  unfold State.takeTabs
  exact h.ite (.replan h.frame)

theorem State.canon.bindCommit {s : State} {e flags} (h : s.canon) : (s.bindCommit e flags).canon := by
  unfold State.bindCommit
  exact .settleCommit (.commitDown (.ite h.takeTabs.modClu.noteCommit.beginCk h.takeTabs.modClu.noteCommit))

theorem State.canon.maybeDecide {s : State} (h : s.canon) : s.maybeDecide.canon := by
  unfold State.maybeDecide
  exact .ite (.ite (.sendMirror h.frame) (.bindCommit h.frame)) h

theorem State.canon.maybeReady {s : State} (h : s.canon) : s.maybeReady.canon := by
  unfold State.maybeReady
  extract_lets c u
  have hu : u.canon := .ite h.modClu h
  exact .ite hu.maybeDecide (.ite hu (.ite hu.modClu.cluSend hu))

theorem State.canon.doReady {t} {s : State} (h : s.canon) : (Machine.doReady t s).canon := by
  unfold Machine.doReady
  exact h.takeHeld fun _ _ hu => .maybeReady hu.frame

theorem State.canon.standbyFails {s : State} (h : s.canon) : s.standbyFails.canon := by
  unfold State.standbyFails
  dsimp only
  split
  · exact .ite (.holdClutch h.frame) (.bindCommit (.holdClutch h.frame))
  · exact .ite (.startRoll (.holdClutch h.frame)) (.ite (.rollOut (.holdClutch h.frame)) (.holdClutch h.frame))
  · exact .holdClutch h.frame

theorem State.canon.mgrFail {s : State} {dev} (h : s.canon) : (s.mgrFail dev).canon := by
  unfold State.mgrFail
  exact .ite h (.ite (.modClu (.modClu h)) (.ite (.replan (.standbyFails (.discardCk (.modClu (.modClu h)))))
    (.ite (.settleCommit (.replan (.discardCk (.modClu (.modClu h))))) (.startRoll (.replan (.discardCk (.modClu (.modClu h))))))))

theorem State.canon.answerFailed {s : State} {dev} (h : s.canon) : (s.answerFailed dev).canon := h.sendRoll

theorem State.canon.fromDev {s : State} {x : Sender} {hear : State → State} (h : s.canon) (hhear : ∀ u, u.canon → (hear u).canon) :
    (s.fromDev x hear).canon := by
  unfold State.fromDev
  exact h.answerFailed.ite (hhear _ h)

theorem State.canon.hearCount {s : State} {x} (h : s.canon) : (s.hearCount x).canon := by
  unfold State.hearCount
  exact .ite h (.ite h.frame (.ite (.settleCommit (.maybeAck h.frame)) (.maybeReady h.frame)))

theorem State.canon.hearEarly {s : State} (h : s.canon) : s.hearEarly.canon := by
  unfold State.hearEarly
  exact .foldl h.frame fun _ _ hu => hu.hearCount

theorem State.canon.substitute {s : State} {r} (h : s.canon) : (s.substitute r).canon := by
  unfold State.substitute
  exact (((h.foldl fun _ _ hu => hu.cluSend).foldl fun _ _ hu => hu.cluSend).foldl fun _ _ hu => hu.cluSend).modClu

theorem State.canon.endRoll {s : State} {r} (h : s.canon) : (s.endRoll r).canon := by
  unfold State.endRoll
  exact .maybeReady (.takeAbandon h.frame)

theorem State.canon.badRestore {s : State} {r} (h : s.canon) : (s.badRestore r).canon := by
  unfold State.badRestore
  exact .startRoll h.frame

theorem State.canon.noteCrdone {s : State} {dev ok} (h : s.canon) : (s.noteCrdone dev ok).canon := by
  unfold State.noteCrdone
  dsimp only
  split
  · exact h
  · split
    · exact h.badRestore
    · split
      · exact .ite (.ite (.substitute h.frame) (.endRoll h.frame)) h.frame
      · exact .ite (.endRoll h.frame) h.frame
      · exact h.frame

theorem State.canon.noteRouteack {s : State} {dev} (h : s.canon) : (s.noteRouteack dev).canon := by
  unfold State.noteRouteack
  split
  · exact h
  · exact .ite (.ite (.sendRoll (.modClu (.replan h.frame))) h.frame) h

/-! ### Recovery -/

theorem State.canon.doCready {src e n} {s : State} (h : s.canon) : (Machine.doCready src e n s).canon := by
  unfold Machine.doCready
  exact h.takeClu.fromDev fun _ hu => hu.hearCount

theorem State.canon.doCcommit {e flags} {s : State} (h : s.canon) : (Machine.doCcommit e flags s).canon := by
  unfold Machine.doCcommit
  exact .ite h.takeClu.commitDown.hearEarly (h.takeClu.commitOn.modClu.maybeAck.ite h.takeClu)

theorem State.canon.doCcack {src e n} {s : State} (h : s.canon) : (Machine.doCcack src e n s).canon := by
  unfold Machine.doCcack
  exact h.takeClu.fromDev fun _ hu => hu.hearCount

theorem State.canon.doMirror {r} {s : State} (h : s.canon) : (Machine.doMirror r s).canon := by
  unfold Machine.doMirror
  exact h.takeClu.modClu.cluSend.ite h.takeClu

theorem State.canon.doMack {e} {s : State} (h : s.canon) : (Machine.doMack e s).canon := by
  unfold Machine.doMack
  dsimp only
  split
  · exact h.takeClu
  · split
    · split
      · exact h.takeClu.ckptComplete
      · split
        · exact h.takeClu.bindCommit.ite h.takeClu
        · exact h.takeClu
    · exact h.takeClu.bindCommit.ite h.takeClu
    · exact h.takeClu.rollOut.ite h.takeClu
    · exact h.takeClu

theorem State.canon.doFailrpt {dev why} {s : State} (h : s.canon) : (Machine.doFailrpt dev why s).canon := by
  unfold Machine.doFailrpt
  exact h.takeClu.fromDev fun _ hu => hu.ite (.ite (hu.ite hu.mgrFail) (hu.ite (.takeAbandon hu.frame)))

theorem State.canon.doCroll {e restore cause note} {s : State} (h : s.canon) : (Machine.doCroll e restore cause note s).canon := by
  unfold Machine.doCroll
  extract_lets t failed r u v src w
  have hu : u.canon := by
    unfold u
    split
    · exact h.takeClu.stopGrids
    · exact h.takeClu
  have hw : w.canon := State.canon_detect _ _ hu.dropHeld
  exact .modClu (.rollFrame (.ite (State.canon_detect _ _ hw) hw))

theorem State.canon.rangeBytes {s : State} {a a1} (h : s.canon) : (s.rangeBytes a a1).2.canon := by
  induction a1 generalizing s a with
  | zero =>
    unfold State.rangeBytes
    exact h
  | succ a1 ih =>
    unfold State.rangeBytes
    exact ih (State.canon_readLoc _ _ _ h)

theorem State.canon.copyRange {s : State} {src dst a} (h : s.canon) : (s.copyRange src dst a).canon := by
  induction a generalizing s src dst with
  | zero =>
    unfold State.copyRange
    exact h
  | succ a ih =>
    unfold State.copyRange
    dsimp only
    exact ih (State.canon_writeLoc _ _ _ _ _ (State.canon_readLoc _ _ _ h))

theorem State.canon.freeRange {s : State} {dst a} (h : s.canon) : (s.freeRange dst a).canon := by
  induction a generalizing s dst with
  | zero =>
    unfold State.freeRange
    exact h
  | succ a ih =>
    unfold State.freeRange
    exact ih (State.canon_writeLoc _ _ _ _ _ h.frame)

theorem State.canon.drainEntry {s : State} {tab c i e} (h : s.canon) : (s.drainEntry tab c i e).2.canon := by
  unfold State.drainEntry
  dsimp only
  split
  · exact h.rangeBytes
  · exact h.rangeBytes.copyRange

theorem State.canon.drainAll {s : State} {tab c a a1} (h : s.canon) : (s.drainAll tab c a a1).2.canon := by
  induction a1 generalizing s tab c a with
  | nil =>
    unfold State.drainAll
    exact h
  | cons y a1 ih =>
    unfold State.drainAll
    exact ih h.drainEntry

theorem State.canon.drainEnd {s : State} (h : s.canon) : s.drainEnd.canon := by
  unfold State.drainEnd
  exact .maybeReady h.frame

theorem State.canon.drainFail {s : State} (h : s.canon) : s.drainFail.canon := by
  unfold State.drainFail
  exact .drainEnd (h.discardCk.ite h.frame)

theorem State.canon.askDrive {s : State} {l} (h : s.canon) : (s.askDrive l).canon := h.frame

theorem State.canon.drawIo {f a} {a1 : State} (h : a1.canon) : (State.drawIo f a a1).2.canon := by
  induction a generalizing f a1 with
  | zero =>
    unfold State.drawIo
    exact h
  | succ a ih =>
    unfold State.drawIo
    exact ih h.frame

theorem State.canon.snapData {s : State} {f} (h : s.canon) : (s.snapData f).canon := by
  unfold State.snapData
  exact .ite (.askDrive (.drawIo h.frame)) h

theorem State.canon.doCkptDrainDone {ok} {s : State} (h : s.canon) : (Machine.doCkptDrainDone ok s).canon := by
  unfold Machine.doCkptDrainDone
  split
  · exact h
  · refine .ite h.drainFail ?_
    extract_lets tab
    split
    case h_1 u heq =>
      have hu : u.canon := .of_pair heq h.drainAll
      split
      · exact .drainFail (State.canon_detect _ _ hu)
      · exact .drainEnd (.cluSend (.ite hu.freeRange.modClu.snapData.askDrive hu.freeRange.modClu.snapData))

theorem State.canon.doCkptdone {dev e digs} {s : State} (h : s.canon) : (Machine.doCkptdone dev e digs s).canon := by
  unfold Machine.doCkptdone
  exact h.takeClu.fromDev fun _ hu => hu.ckReport.ite hu

theorem State.canon.doCkptok {e} {s : State} (h : s.canon) : (Machine.doCkptok e s).canon := h.takeClu.modClu

theorem State.canon.doNvmeTimeout {x} {s : State} (h : s.canon) : (Machine.doNvmeTimeout x s).canon := by
  unfold Machine.doNvmeTimeout
  exact .ite (.ite (.drainFail h.frame) h.frame) h

theorem State.canon.restoreFrom {s : State} {dst len digest n l} (h : s.canon) : (s.restoreFrom dst len digest n l).2.canon := by
  induction n generalizing s l with
  | zero => exact h
  | succ n ih =>
    cases l with
    | nil => exact h
    | cons x l =>
      unfold State.restoreFrom
      exact .iteSnd (State.canon_writeBytesLoc _ _ _ _ h) (ih (State.canon_writeBytesLoc _ _ _ _ h))

theorem State.canon.restoreEntry {s : State} {e k tab here got i x} (h : s.canon) : (s.restoreEntry e k tab here got i x).2.canon := by
  unfold State.restoreEntry
  dsimp only
  split
  · exact h
  · split
    · split
      · exact h.copyRange.rangeBytes
      · exact h.copyRange.rangeBytes.restoreFrom
    · exact h.restoreFrom

theorem State.canon.restoreAll {s : State} {e k tab here got a a1} (h : s.canon) : (s.restoreAll e k tab here got a a1).2.canon := by
  induction a1 generalizing s e k tab here got a with
  | nil =>
    unfold State.restoreAll
    exact h
  | cons y a1 ih =>
    unfold State.restoreAll
    exact ih h.restoreEntry

theorem State.canon.restoreEntries {s : State} {r got} (h : s.canon) : (s.restoreEntries r got).2.canon := by
  unfold State.restoreEntries
  dsimp only
  split
  · exact h
  · split
    · exact .restoreAll ((State.canon_writeBytesLoc _ _ _ _ h).ite h)
    · exact h

theorem State.canon.backTo {s : State} {r} (h : s.canon) : (s.backTo r).canon := by
  unfold State.backTo
  exact h.ite h.frame

theorem State.canon.snapReads {s : State} {r} (h : s.canon) : (s.snapReads r).canon := by
  unfold State.snapReads
  exact h.ite h.snapData

theorem State.canon.doRollbackRestoreDone {got} {s : State} (h : s.canon) : (Machine.doRollbackRestoreDone got s).canon := by
  unfold Machine.doRollbackRestoreDone
  split
  · split
    case h_1 r _ _ ok u heq =>
      have hu : u.canon := .of_pair heq h.snapReads.restoreEntries
      refine .ite ?_ hu.cluSend
      extract_lets v w x y
      have hx : x.canon := .ite hu.backTo.cluSend hu.backTo.cluSend.rollFrame
      have hy : y.canon := by
        unfold y
        split
        · exact hx.cluFrame
        · exact hx
      exact hy.modClu.hearEarly
  · exact h

theorem State.canon.doCrdone {r} {s : State} (h : s.canon) : (Machine.doCrdone r s).canon := by
  unfold Machine.doCrdone
  exact h.takeClu.fromDev fun _ hu => hu.noteCrdone.ite hu

theorem State.canon.heard {s : State} {dev rep} (h : s.canon) : (s.heard dev rep).canon := by
  unfold State.heard
  extract_lets o now u v
  have hu : u.canon := h.modClu
  have hv : v.canon := .ite hu hu.replan
  exact .ite hv.modClu.startRoll hv

theorem State.canon.doHeart {dev rep} {s : State} (h : s.canon) : (Machine.doHeart dev rep s).canon := by
  unfold Machine.doHeart
  have ht := h.takeClu (opc := 0x35)
  exact .ite (.ite ht.answerFailed ht.heard) (.ite ht.modClu ht.modClu.sendHeart)

theorem State.canon.scheduleXcheck {s : State} (h : s.canon) : s.scheduleXcheck.canon := by
  unfold State.scheduleXcheck
  dsimp only
  split
  · exact .cluSend h.frame
  · exact h.frame

theorem State.canon.mgrPeriod {s : State} (h : s.canon) : s.mgrPeriod.canon := by
  unfold State.mgrPeriod
  extract_lets u o own now v w x y
  have hv : v.canon := .modClu (.ite h.cluSend h)
  have hw : w.canon := .ite hv hv.replan
  have hy : y.canon := .scheduleXcheck (hw.foldl fun _ _ hx => hx.mgrFail)
  exact .ite hy.startRoll hy

theorem State.canon.doHeartbeatPeriod {s : State} (h : s.canon) : (Machine.doHeartbeatPeriod s).canon := by
  unfold Machine.doHeartbeatPeriod
  exact h.ite (.modClu (h.mgrPeriod.ite h.sendHeart))

theorem State.canon.doHeartbeatMiss {dev} {s : State} (h : s.canon) : (Machine.doHeartbeatMiss dev s).canon := by
  unfold Machine.doHeartbeatMiss
  exact h.mgrFail.ite h

theorem State.canon.doStandbyTakeover {eps} {s : State} (h : s.canon) : (Machine.doStandbyTakeover eps s).canon := by
  unfold Machine.doStandbyTakeover
  refine .ite ?_ h
  extract_lets old t others now own u v late
  have hv : v.canon := State.canon_detect _ _ (.modClu h.cluAll)
  split
  · refine .ite ?_ hv.replan.startRoll
    extract_lets a b c d e
    have hb : b.canon := .noteCommit (.modClu (.ite hv.takeTabs hv))
    have he : e.canon := .cluAll (.replan (.ite hb.beginCk hb))
    exact .settleCommit (.ite he.applyCommit he)
  · exact hv.replan.startRoll

theorem State.canon.doRouteupd {ents} {s : State} (h : s.canon) : (Machine.doRouteupd ents s).canon := by
  unfold Machine.doRouteupd
  dsimp only
  split
  · exact .ite (.rollFrame (.modClu (.cluSend h.takeClu.frame))) (.modClu (.cluSend h.takeClu.frame))
  · exact .cluSend h.takeClu.frame

theorem State.canon.doRouteack {dev} {s : State} (h : s.canon) : (Machine.doRouteack dev s).canon := by
  unfold Machine.doRouteack
  exact h.takeClu.fromDev fun _ hu => hu.noteRouteack.ite hu

theorem State.canon.doSubst {id} {s : State} (h : s.canon) : (Machine.doSubst id s).canon := by
  unfold Machine.doSubst
  exact .ite (.cluFrame (State.canon_detect _ _ (.modClu h.takeClu.frame))) h.takeClu

theorem State.canon.doTreecfg {cfg} {s : State} (h : s.canon) : (Machine.doTreecfg cfg s).canon := h.takeClu.modClu.maybeAck.maybeReady.hearEarly

theorem State.canon.doXcheck {s : State} (h : s.canon) : (Machine.doXcheck s).canon := h.takeClu.notice

end Sys2Proof.Machine
end

section
/-! What keeps the memories canonical: the functions of descriptors that run, of pre-emption and of grids. -/

namespace Sys2Proof.Machine

-- One theorem at a time: elaborated side by side, with a thread for each, so many short ones pass the memory limit.
set_option Elab.async false

/-! ### Complete -/

theorem State.canon.atEnd {s : State} {t q e} (h : s.canon) : (s.atEnd t q e).canon := by
  unfold State.atEnd
  exact h.modEntry.ite h.completeEntry

theorem State.canon.abandonEntry {s : State} {t q e} (h : s.canon) : (s.abandonEntry t q e).canon := by
  unfold State.abandonEntry
  extract_lets u v w x
  have hv : v.canon := .endColl (.forget (.ite h.abortPress h))
  have hx : x.canon := .dropEntry (.ite hv.endRead hv)
  exact .ite hx.drainEdge hx

theorem X.keeps.edgeWork {t e} {w : X Bool × Nat} (hw : Machine.edgeWork t e = some w) : w.1.keeps := by
  unfold Machine.edgeWork at hw
  split at hw <;> cases hw
  · exact .updUnitOf
  · exact .dispatchUnit
  · exact .combineUnit
  · exact .collUnit

theorem X.keeps.vecUnit {g op} {x : X Bool} (hx : Machine.vecUnit g op = some x) : x.keeps := by
  unfold Machine.vecUnit at hx
  split at hx <;> cases hx
  · exact .runUnitOf
  · exact .rgUnit
  · exact .rsUnit
  · exact .aqUnit
  · exact .wqUnit
  · exact .tmUnit

theorem X.keeps.mvUnit {g op} {x : X Bool} (hx : Machine.mvUnit g op = some x) : x.keeps := by
  unfold Machine.mvUnit at hx
  split at hx <;> cases hx
  · exact .vdUnit
  · exact .cpUnit
  · exact .xpUnit
  · exact .flUnit

/-- The next work of a queue's running descriptor. -/
theorem X.keeps.workOf {s : State} {t q e} {w : X Bool × Nat} (hw : s.workOf t q e = some w) : w.1.keeps := by
  unfold State.workOf at hw
  dsimp only at hw
  split at hw
  · cases hw
    exact .ite .rescoreWork (.bind .mmTile fun _ => .bind .flushRemote fun _ => .pure)
  · cases hw
    exact .pressAhead
  · split at hw
    · cases hw
      exact .fbqUnitOf
    · obtain ⟨x, hx, rfl⟩ := Option.map_eq_some_iff.mp hw
      exact .vecUnit hx
  · obtain ⟨x, hx, rfl⟩ := Option.map_eq_some_iff.mp hw
    exact .mvUnit hx
  · exact .edgeWork hw
  · cases hw
    refine .state fun _ _ => ?_
    split
    · exact .bind .writePend fun _ => .pure
    · refine .ite (.bind (.ite .queryVector .pure) fun _ => .pure) (.ite (.bind .readVector fun _ => .pure) ?_)
      split
      · exact .bind .divertUnit fun _ => .pure
      · exact .pure

theorem State.canon.runEngine {s : State} {t q e} {w : X Bool × Nat} {after : State → State} (h : s.canon) (hw : w.1.keeps)
    (hafter : ∀ u, u.canon → (after u).canon) : (s.runEngine t q e w after).canon := by
  have hd := (h.drawUpTo (n := w.2)).runUnits (t := t) (n := (s.drawUpTo w.2).1) hw
  unfold State.runEngine
  split
  · dsimp only
    split
    case h_1 heq => exact .failEntry (.of_pair heq hd)
    case h_2 heq => exact .abandonEntry (.of_pair heq hd)
  · split
    · refine .ite h ?_
      dsimp only
      split
      case h_1 heq => exact .atEnd (hafter _ (.of_pair heq hd))
      case h_2 heq => exact .failEntry (.of_pair heq hd)
      case h_3 u heq =>
        have hu : u.canon := .of_pair heq hd
        split
        case h_1 heq2 => exact .atEnd (hafter _ (.of_pair heq2 (hu.runUntil hw)))
        case h_2 heq2 => exact .failEntry (.of_pair heq2 (hu.runUntil hw))
        case h_3 heq2 => exact .haltEntry (.of_pair heq2 (hu.runUntil hw))
    · split
      case h_1 heq => exact .atEnd (hafter _ (.of_pair heq (h.runUnits hw)))
      case h_2 heq => exact .of_pair heq (h.runUnits hw)
      case h_3 heq => exact .failEntry (.of_pair heq (h.runUnits hw))

theorem State.canon.vecAlarms {s : State} {t d} (h : s.canon) : (s.vecAlarms t d).canon := by
  unfold State.vecAlarms
  split
  · exact h.histAlarms
  · exact h

theorem State.canon.finishColl {s : State} {t seq} (h : s.canon) : (s.finishColl t seq).canon := h.frame

theorem State.canon.endRunning {s : State} {t q e} (h : s.canon) : (s.endRunning t q e).canon := by
  unfold State.endRunning
  dsimp only
  split
  · exact .ite h (.ite (.ite h.abandonEntry h) (.ite h.atEnd h))
  · exact h
  · refine .ite h (.ite (.ite h.abandonEntry (.ite h.vecAlarms.atEnd (.ite h.haltEntry h))) ?_)
    split
    case h_1 hw => exact h.runEngine (.workOf hw) fun _ hu => hu.vecAlarms
    case h_2 => exact h
  · refine .ite h ?_
    split
    case h_1 hw => exact h.runEngine (.workOf hw) fun _ hu => hu
    case h_2 => exact h
  · refine .ite h.finishEdge (.ite h ?_)
    split
    case h_1 => exact h
    case h_2 w hw =>
      refine .ite ?_ ?_
      · have hd : (if e.halt then (0, s) else s.drawUpTo w.2).2.canon := .iteSnd h h.drawUpTo
        split
        case h_1 heq => exact .failEntry (.of_pair heq (hd.runUnits (.edgeWork hw)))
        case h_2 u heq =>
          have hu : u.canon := .of_pair heq (hd.runUnits (.edgeWork hw))
          exact .ite hu.haltEntry hu.abandonEntry
        case h_3 heq => exact .abandonEntry (.of_pair heq (hd.runUnits (.edgeWork hw)))
      · split
        case h_1 u heq =>
          have hu : u.canon := .of_pair heq (h.runUnits (.edgeWork hw))
          exact .ite (.ite hu.finishColl.finishEdge hu) hu.finishEdge
        case h_2 heq => exact .of_pair heq (h.runUnits (.edgeWork hw))
        case h_3 heq => exact .failEntry (.of_pair heq (h.runUnits (.edgeWork hw)))
  · exact .ite h.endRead.atEnd (.ite h.abandonEntry h)

theorem State.canon.doDescriptorComplete {t q i} {s : State} (h : s.canon) : (Machine.doDescriptorComplete t q i s).canon := by
  unfold Machine.doDescriptorComplete
  split
  · exact h
  · split
    · exact h
    · split
      · exact h.abandonEntry.ite h
      · exact h.drainEdge.ite (h.ite h.leaveEntry)
      · exact h.endRunning

theorem State.canon.doHevent {t} {s : State} (h : s.canon) : (Machine.doHevent t s).canon := by
  unfold Machine.doHevent
  split
  · exact h
  · split
    · refine .withHead h fun _ _ hu => ?_
      split
      · exact hu.refuse
      · exact .finishEdge hu.frame
    · exact h

theorem State.canon.rewindBank {s : State} {t q} (h : s.canon) : (s.rewindBank t q).canon := by
  unfold State.rewindBank
  exact h.rewindPend.ite h

theorem State.canon.faultAhead {s u : State} {t q i e x} (h : s.canon) (hf : s.faultAhead t q i = some (e, x, u)) : u.canon := by
  unfold State.faultAhead at hf
  split at hf
  · exact nomatch hf
  · split at hf
    · split at hf
      · exact nomatch hf
      case h_2 hw =>
        split at hf
        case h_1 heq =>
          cases hf
          exact .of_pair heq (h.runUnits (.workOf hw))
        · exact nomatch hf
    · exact nomatch hf

theorem State.canon.doTranslationFault {t q i} {s : State} (h : s.canon) : (Machine.doTranslationFault t q i s).canon := by
  unfold Machine.doTranslationFault
  split
  case h_1 hf => exact .failEntry (.rewindBank (h.faultAhead hf))
  case h_2 => exact h

theorem State.canon.unparkFor {s : State} {t e} (h : s.canon) : (s.unparkFor t e).canon := by
  unfold State.unparkFor
  split
  · exact h.ite h.unparkStrand
  · exact h

theorem State.canon.clearFault {s : State} {t q} (h : s.canon) : (s.clearFault t q).canon := by
  unfold State.clearFault
  exact .modTile h

theorem State.canon.xlResume {s : State} {t q w abort} (h : s.canon) : (s.xlResume t q w abort).canon := by
  unfold State.xlResume
  dsimp only
  split
  · exact h.frame
  · exact .ite h.clearFault.abandonEntry (.ite (((State.canon_detect _ _ h.clearFault).endIssuer).abandonEntry) h.clearFault.unparkFor)

theorem State.canon.doXlresumeRetry {t q w} {s : State} (h : s.canon) : (Machine.doXlresumeRetry t q w s).canon := h.xlResume

theorem State.canon.doXlresumeAbort {t q w} {s : State} (h : s.canon) : (Machine.doXlresumeAbort t q w s).canon := h.xlResume

theorem State.canon.armFail {s : State} {t q seq} (h : s.canon) : (s.armFail t q seq).canon := h.frame

theorem State.canon.hostFails {s : State} {t q i} (h : s.canon) : (s.hostFails t q i).canon := by
  unfold State.hostFails
  refine .ite h.armFail ?_
  split
  · exact h
  · refine .ite (.ite h.armFail h) ?_
    split
    case h_1 hf => exact .failEntry (.rewindBank (h.armFail.faultAhead hf))
    case h_2 => exact h

theorem State.canon.doHostAccessFailed {t q i} {s : State} (h : s.canon) : (Machine.doHostAccessFailed t q i s).canon := h.hostFails

theorem State.canon.doAdapterReset {s : State} (h : s.canon) : (Machine.doAdapterReset s).canon := by
  unfold Machine.doAdapterReset
  exact .foldl (h.foldl fun _ _ hu => hu.foldl fun _ _ hu1 => hu1.foldl fun _ _ hu2 => hu2.ite hu2.hostFails) fun _ _ hu => hu.frame

theorem State.canon.clearPost {s : State} {d} (h : s.canon) : (s.clearPost d).canon := h.frame

theorem State.canon.postWrite {s : State} {d w a v} (h : s.canon) : (s.postWrite d w a v).canon := by
  unfold State.postWrite
  exact .ite h.frame h.frame

theorem State.canon.doMemXlinv {v w} {s : State} (h : s.canon) : (Machine.doMemXlinv v w s).canon := h.postWrite

theorem State.canon.dropCached {s : State} {hit} (h : s.canon) : (s.dropCached hit).canon := by
  unfold State.dropCached
  extract_lets keep u
  have hu : u.canon := h.foldl fun _ _ hv => .modTile hv
  exact hu.frame

theorem State.canon.doXlinvComplete {s : State} (h : s.canon) : (Machine.doXlinvComplete s).canon := by
  unfold Machine.doXlinvComplete
  split
  · exact .ite (.frame (h.dropCached.clearPost (d := domXl))) h
  · exact h

theorem State.canon.doMemXlrootWrite {n v w} {s : State} (h : s.canon) : (Machine.doMemXlrootWrite n v w s).canon := by
  unfold Machine.doMemXlrootWrite
  exact h.postWrite.ite h

theorem State.canon.setRoot {s : State} {n v} (h : s.canon) : (s.setRoot n v).canon := h.dropCached.frame

/-! ### Preempt -/

theorem State.canon.postPreempt {s : State} {w v} (h : s.canon) : (s.postPreempt w v).canon := by
  unfold State.postPreempt
  exact .ite h.frame h.postWrite

theorem State.canon.preRequest {s : State} {c ok p} (h : s.canon) : (s.preRequest c ok p).canon := by
  unfold State.preRequest
  exact .ite h.frame h.frame

theorem State.canon.applyPreempt {s : State} {v} (h : s.canon) : (s.applyPreempt v).canon := by
  unfold State.applyPreempt
  exact h.preRequest.ite (h.preRequest.ite h.frame)

theorem State.canon.doPreemptSave {v w} {s : State} (h : s.canon) : (Machine.doPreemptSave v w s).canon := by
  unfold Machine.doPreemptSave
  exact h.postPreempt.ite h

/-- The tiles of a map have canonical memories. -/
def tilesWf (m : SMap Tile) : Prop := smWf Tile.reset m ∧ ∀ p ∈ m, p.2.spad.wf ∧ p.2.vat.wf

theorem tilesWf.set {m : SMap Tile} (h : tilesWf m) (t : Nat) {v : Tile} (hv : v.spad.wf ∧ v.vat.wf) : tilesWf (smSet Tile.reset m t v) := by
  refine ⟨smSet_wf _ _ _ _ h.1, fun p hp => ?_⟩
  rcases smSet_keys _ _ _ _ _ hp with hm | he
  · exact h.2 p hm
  · rw [he.1]
    exact hv

theorem tilesWf.vacated {m : SMap Tile} (h : tilesWf m) : tilesWf (m.foldl (fun m p => smSet Tile.reset m p.1 p.2.vacate) m) :=
  List.foldlRecOn m _ h fun _ hn p hp => hn.set p.1 (h.2 p hp)

theorem State.canon.vacated {s : State} {x} (h : s.canon) :
    ({ s with tiles := s.tiles.foldl (fun m p => smSet Tile.reset m p.1 p.2.vacate) s.tiles, xl := x } : State).canon := by
  obtain ⟨hs, hd, hm, ht⟩ := h
  obtain ⟨hs, ht⟩ := tilesWf.vacated ⟨hs, ht⟩
  exact ⟨hs, hd, hm, ht⟩

theorem State.canon.doPreemptSaveWrite {s : State} (h : s.canon) : (Machine.doPreemptSaveWrite s).canon := by
  unfold Machine.doPreemptSaveWrite
  generalize List.range 1024 = l
  refine .ite ?_ h
  extract_lets base fill u
  have hu : u.canon := h.foldl fun _ t hv => State.canon_saveTile _ base t hv
  exact hu.vacated

theorem State.canon.preFrame {s : State} {op} (h : s.canon) : (s.preFrame op).canon := h.frame

theorem State.canon.doPreemptSaveDone {s : State} (h : s.canon) : (Machine.doPreemptSaveDone s).canon := by
  unfold Machine.doPreemptSaveDone
  exact .ite h.frame h

theorem State.canon.drawOut {s : State} (h : s.canon) : s.drawOut.2.canon := h.frame

theorem State.canon.restoreFails {s : State} {t b c a} (h : s.canon) : (s.restoreFails t b c a).canon := by
  unfold State.restoreFails
  exact State.canon_detect _ _ (.modTile h)

theorem State.canon.checkBank {s : State} {t b c k} (h : s.canon) : (s.checkBank t b c k).canon := by
  unfold State.checkBank
  refine .ite (.modTile h) (.ite h ?_)
  split
  · exact h.restoreFails
  case h_2 d _ _ =>
    have hp := h.foldParts (t := t) (g := ⟨t, t, c, 7, restoreId, true⟩) (d := d) (a := 1025) (a1 := 0) (a2 := [])
    dsimp only
    generalize Machine.foldParts _ _ d _ _ _ _ = p at hp ⊢
    obtain ⟨_ | x, parts, u⟩ := p
    · exact .ite (.pressDone (.drawOut hp)) (.restoreFails (.pressDone (.drawOut hp)))
    · cases x <;> exact .restoreFails hp

theorem State.canon.reapplyBank {s : State} {t b k} (h : s.canon) : (s.reapplyBank t b k).canon := by
  unfold State.reapplyBank
  exact .modTile h

theorem State.canon.physWords {s : State} {a a1} (h : s.canon) : (s.physWords a a1).2.canon := by
  induction a1 generalizing s a with
  | zero =>
    unfold State.physWords
    exact h
  | succ a1 ih =>
    unfold State.physWords
    exact ih (State.canon_readLoc _ _ _ h)

theorem State.canon.loadEntries {s : State} {a q a1 a2} (h : s.canon) : (s.loadEntries a q a1 a2).2.canon := by
  induction a2 generalizing s a q a1 with
  | nil =>
    unfold State.loadEntries
    exact h
  | cons y a2 ih =>
    unfold State.loadEntries
    exact ih h.physWords

theorem State.canon.loadQueues {s : State} {a a1 a2} (h : s.canon) : (s.loadQueues a a1 a2).2.canon := by
  induction a2 generalizing s a a1 with
  | nil =>
    unfold State.loadQueues
    exact h
  | cons y a2 ih =>
    unfold State.loadQueues
    exact ih h.loadEntries

theorem State.canon.setSaved {s : State} {c t v} (h : s.canon) : (s.setSaved c t v).canon := by
  unfold State.setSaved
  split
  · exact h.frame
  · exact h

/-- `readPart` is unfolded as a function: of its application to arguments the kernel would compute the 81,920 words. -/
theorem State.canon.readPart {s : State} {base c t} (h : s.canon) : (s.readPart base c t).2.canon := by
  have hp := State.canon_physBytes (0x50000 / 4) s (partAt base t) h
  have hf (f) (e : f = State.readPart) : (f s base c t).2.canon := by
    delta State.readPart at e
    have e := congrFun (congrFun (congrFun (congrFun e s) base) c) t
    generalize f s base c t = q at e ⊢
    generalize s.physBytes (partAt base t) _ = p at e hp
    obtain ⟨⟨l, bad⟩, u⟩ := p
    subst e
    exact .iteSnd hp hp
  exact hf _ rfl

/-- `restoreTile` is unfolded as a function, for the same reason. -/
theorem State.canon.restoreTile {s : State} {base c t} (h : s.canon) : (s.restoreTile base c t).canon := by
  have hp := h.readPart (base := base) (c := c) (t := t)
  have hf (f) (e : f = State.restoreTile) : (f s base c t).canon := by
    delta State.restoreTile at e
    have e := congrFun (congrFun (congrFun (congrFun e s) base) c) t
    generalize f s base c t = q at e ⊢
    generalize s.readPart base c t = p at e hp
    obtain ⟨v, u⟩ := p
    subst e
    have hq := hp.loadQueues (a := partAt base t) (a1 := 0) (a2 := v.queues)
    dsimp only at hq ⊢
    generalize u.loadQueues _ _ _ = q at hq ⊢
    exact .foldl (.foldl (State.canon_loadTile _ _ _ _ hq.setSaved) fun _ _ hu => hu.checkBank.reapplyBank) fun _ _ hu => .ite hu.beginFold hu
  exact hf _ rfl

theorem State.canon.doPreemptRestore {v w} {s : State} (h : s.canon) : (Machine.doPreemptRestore v w s).canon := by
  unfold Machine.doPreemptRestore
  exact h.postPreempt.ite h

theorem State.canon.loadAll {s : State} (h : s.canon) : s.loadAll.canon := by
  unfold State.loadAll
  exact .foldl h.frame fun _ _ hu => hu.restoreTile

theorem Tile.reenter_memories (v : Tile) (k : SavedTile) : ((v.reenter k).spad, (v.reenter k).vat) = (v.spad, v.vat) :=
  Tile.foldl_same (fun v => (v.spad, v.vat)) (fun (v : Tile) (p : Bank × Nat) => v.modBank p.2 fun b => { b with run := resumeRun p.1 b })
    (fun _ _ => rfl) k.banks.zipIdx _

theorem State.canon.reenterTile {s : State} {c t} (h : s.canon) : (s.reenterTile c t).canon := by
  unfold State.reenterTile
  exact .foldl (.modTile h fun v => Prod.ext_iff.mp (v.reenter_memories _)) fun _ _ hu => State.canon_reap _ _ _ hu

theorem State.canon.setXl {s : State} {x} (h : s.canon) : ({ s with xl := x } : State).canon := h.frame
theorem State.canon.setLnk {s : State} {x} (h : s.canon) : ({ s with lnk := x } : State).canon := h.frame

theorem State.canon.finishRestore {s : State} (h : s.canon) : s.finishRestore.canon := by
  unfold State.finishRestore
  generalize List.range 1024 = l
  extract_lets c u xl v mine lnk w record x
  have hu : u.canon := h.foldl fun _ _ hv => hv.reenterTile
  have hw : w.canon := .setLnk (s := v) hu.setXl
  have hx : x.canon := hw.foldl fun _ _ hv => hv.frame
  exact hx.preFrame

theorem State.canon.doPreemptRestoreDone {s : State} (h : s.canon) : (Machine.doPreemptRestoreDone s).canon := by
  unfold Machine.doPreemptRestoreDone
  exact h.ite (.ite (.finishRestore (h.loadAll.ite h)) (h.loadAll.ite h))

/-! ### Grid -/

theorem State.canon.modRing {s : State} {r f} (h : s.canon) : (s.modRing r f).canon := h.frame

theorem State.canon.gridFrame {s : State} {ring status idx num arg ctx} (h : s.canon) : (s.gridFrame ring status idx num arg ctx).canon := h.frame

theorem State.canon.takeRecord {s : State} {r} (h : s.canon) : (s.takeRecord r).canon := by
  unfold State.takeRecord
  dsimp only
  exact .ite (.ite ((State.canon_detect _ _ ((State.canon_physBytes _ _ _ h).modRing)).gridFrame)
    (.ite (((State.canon_physBytes _ _ _ h).modRing).modRing) (((State.canon_physBytes _ _ _ h).modRing).gridFrame))) h

theorem State.canon.takeRecords {s : State} {r a} (h : s.canon) : (s.takeRecords r a).canon := by
  induction a generalizing s r with
  | zero =>
    unfold State.takeRecords
    exact h
  | succ a ih =>
    unfold State.takeRecords
    exact h.ite (ih h.takeRecord)

theorem State.canon.doLnkSqtail {r v w} {s : State} (h : s.canon) : (Machine.doLnkSqtail r v w s).canon := by
  unfold Machine.doLnkSqtail
  exact .ite (.ite h.frame (.takeRecords h.frame)) h

theorem State.canon.launchTile {s : State} {r num code t} (h : s.canon) : (s.launchTile r num code t).canon := by
  unfold State.launchTile
  extract_lets u slots rank
  have hu : u.canon := h.foldl fun _ _ hv => State.canon_writeLoc _ _ _ _ _ hv
  exact hu.modTile fun v =>
    Prod.ext_iff.mp (Tile.foldl_same (fun v => (v.spad, v.vat)) (fun v i =>
    v.setStrand ((slots[i]?).getD 0) (startStrand r num (rank * gStrands r + i) i)) (fun _ _ => rfl) (List.range (gStrands r)) v)

theorem State.canon.copyStart {s : State} {r ctx} (h : s.canon) : (s.copyStart r ctx).canon := by
  unfold State.copyStart
  exact h.ite h.frame

theorem State.canon.leaveRecord {s : State} {r} (h : s.canon) : (s.leaveRecord r).canon := by
  unfold State.leaveRecord
  exact .takeRecords h.frame

theorem State.canon.doGridLaunch {r} {s : State} (h : s.canon) : (Machine.doGridLaunch r s).canon := by
  unfold Machine.doGridLaunch
  dsimp only
  split
  · exact h
  · split
    · split
      · exact h.copyStart.gridFrame.leaveRecord
      · split
        case h_1 u heq1 =>
          have hu : u.canon := .of_pair heq1 (h.copyStart.runUnit .xReadWords)
          exact hu
        case h_2 u _ heq1 =>
          have hu : u.canon := .of_pair heq1 (h.copyStart.runUnit .xReadWords)
          exact .leaveRecord hu.frame
        case h_3 u heq1 =>
          have hu : u.canon := .of_pair heq1 (h.copyStart.runUnit .xReadWords)
          exact .leaveRecord (.foldl hu.frame fun _ _ hu1 => hu1.launchTile)
    · exact h

theorem State.canon.dropGrid {s : State} {g} (h : s.canon) : (s.dropGrid g).canon := h.frame

theorem State.canon.doGridComplete {num} {s : State} (h : s.canon) : (Machine.doGridComplete num s).canon := by
  unfold Machine.doGridComplete
  split
  · exact h
  · exact .ite (((h.foldl fun _ _ hu => .modTile hu).dropGrid).gridFrame) h

theorem State.canon.doGridErrorCompletion {num} {s : State} (h : s.canon) : (Machine.doGridErrorCompletion num s).canon := by
  unfold Machine.doGridErrorCompletion
  split
  · exact h
  · exact .ite h.frame h

theorem State.canon.doHev {s : State} (h : s.canon) : (Machine.doHev s).canon := by
  unfold Machine.doHev
  split
  · exact h
  · split
    · exact h.frame
    · exact .ite h.frame (.ite h.frame (.ite (State.canon_writeFrame _ _ _ _ h.frame) (State.canon_writeFrame _ _ _ _ h.frame)))

end Sys2Proof.Machine
end

section
/-! What keeps the memories canonical: the functions of errors, modes, power and start-up. -/

namespace Sys2Proof.Machine

-- One theorem at a time: elaborated side by side, with a thread for each, so many short ones pass the memory limit.
set_option Elab.async false

/-! ### Errors -/

theorem State.canon.doContainedAction {s : State} (h : s.canon) : (Machine.doContainedAction s).canon := by
  unfold Machine.doContainedAction
  split
  · exact h
  · exact .failRpt (.stopGrids h.frame)

theorem State.canon.doFatalAction {s : State} (h : s.canon) : (Machine.doFatalAction s).canon := by
  unfold Machine.doFatalAction
  exact .ite h.frame h

theorem State.canon.mirrorRecord {s : State} {r} (h : s.canon) : (s.mirrorRecord r).canon := h.frame

theorem State.canon.eftRecord {s : State} {cls cause} (h : s.canon) : (s.eftRecord cls cause).canon := by
  unfold State.eftRecord
  exact .ite h.frame h.frame

theorem State.canon.doErrorRecordRaise {s : State} (h : s.canon) : (Machine.doErrorRecordRaise s).canon := by
  unfold Machine.doErrorRecordRaise
  split
  · exact h
  · exact .ite h.frame h.frame

theorem State.canon.lostEscRecord {s : State} (h : s.canon) : s.lostEscRecord.canon := by
  unfold State.lostEscRecord
  exact .ite h.frame h

theorem State.canon.doRecordHandled {s : State} (h : s.canon) : (Machine.doRecordHandled s).canon := by
  unfold Machine.doRecordHandled
  split
  · refine .ite ?_ h
    extract_lets u bytes sum v eft w x y
    have hw : w.canon := h.frame
    have hx : x.canon := .ite hw.post hw
    exact .frame (s := y) hx.lostEscRecord
  · exact h

theorem State.canon.writeSummary {s : State} {closed} (h : s.canon) : (s.writeSummary closed).canon := h.frame

theorem State.canon.doSummaryWrite {s : State} (h : s.canon) : (Machine.doSummaryWrite s).canon := by
  unfold Machine.doSummaryWrite
  exact h.writeSummary.ite h

theorem State.canon.writeLedgers {s : State} {closed} (h : s.canon) : (s.writeLedgers closed).canon := by
  unfold State.writeLedgers
  exact h.frame

theorem State.canon.doLedgerWrite {s : State} (h : s.canon) : (Machine.doLedgerWrite s).canon := by
  unfold Machine.doLedgerWrite
  exact h.writeLedgers.ite h

theorem State.canon.shadowRec {s : State} {t q seq vec err} (h : s.canon) : (s.shadowRec t q seq vec err).canon := by
  unfold State.shadowRec
  refine .modTile (State.canon_detect _ _ ?_)
  split
  · exact h
  · exact h.frame

theorem State.canon.poisonVec {s : State} {t b vec} (h : s.canon) : (s.poisonVec t b vec).canon := h.modARun

theorem State.canon.doShadowCompare {t} {s : State} (h : s.canon) : (Machine.doShadowCompare t s).canon := by
  unfold Machine.doShadowCompare
  dsimp only
  split
  · exact h
  · exact .modTile (.ite ((h.foldl fun _ _ hu => State.canon_putC _ _ _ _ hu).foldl fun _ _ hu =>
      hu.pushFbq) (((h.foldl fun _ _ hu => State.canon_putC _ _ _ _ hu).foldl fun _ _ hu => hu.pushFbq).shadowRec))
  · exact .modTile (h.ite h.poisonVec.shadowRec)

theorem State.canon.scrubWord {s : State} {loc} (h : s.canon) : (s.scrubWord loc).canon := by
  have hu := State.canon_readLoc s loc none h
  unfold State.scrubWord
  dsimp only
  split
  case h_1 hm => exact .ite hu (State.canon_setMem _ _ _ hu (Mem.put32_wf _ _ _ _ (State.memOf_wf _ _ _ _ hu hm)))
  case h_2 => exact hu

theorem State.canon.doScrubPeriod {g} {s : State} (h : s.canon) : (Machine.doScrubPeriod g s).canon := by
  unfold Machine.doScrubPeriod
  split <;> exact h.foldl fun _ _ hu => hu.scrubWord

theorem State.canon.doStackTempRead {temps} {s : State} (h : s.canon) : (Machine.doStackTempRead temps s).canon := by
  unfold Machine.doStackTempRead
  exact .ite (h.foldl fun _ _ hu => hu.frame) h

theorem State.canon.doEcsRead {counts} {s : State} (h : s.canon) : (Machine.doEcsRead counts s).canon := by
  unfold Machine.doEcsRead
  exact .ite (h.foldl fun _ _ hu => hu.frame) h

/-! ### Mode -/

theorem State.canon.doRefreshRequest {t b age hot} {s : State} (h : s.canon) : (Machine.doRefreshRequest t b age hot s).canon := by
  unfold Machine.doRefreshRequest
  exact .ite (.ite (.notice (.modTile h)) (.modTile h)) h

theorem State.canon.doIndexRefreshIssue {t b due} {s : State} (h : s.canon) : (Machine.doIndexRefreshIssue t b due s).canon := by
  unfold Machine.doIndexRefreshIssue
  dsimp only
  split
  · exact h
  · exact .ite ((State.canon_enqueue _ _ _ _ _ _ _ h).frame) h

theorem State.canon.doModeChange {v w} {s : State} (h : s.canon) : (Machine.doModeChange v w s).canon := by
  unfold Machine.doModeChange
  extract_lets a p u x y m
  have hu : u.canon := h.postWrite
  have hx : x.canon := .ite hu hu.csrAcc
  have hy : y.canon := .ite hx.csrAcc hx
  exact .ite h.csrAcc hy.frame

theorem State.canon.setMode {s : State} {x} (h : s.canon) : ({ s with mode := x } : State).canon := h.frame

theorem State.canon.releaseFence {s : State} (h : s.canon) : s.releaseFence.canon := by
  unfold State.releaseFence
  generalize List.range 1024 = l
  extract_lets v u m
  have hu : u.canon := h.foldl fun _ _ hv => .ite (.modTile hv) hv
  exact .clearPost hu.setMode

theorem State.canon.doModeAck {t} {s : State} (h : s.canon) : (Machine.doModeAck t s).canon := by
  unfold Machine.doModeAck
  extract_lets m use bit u v
  have hu : u.canon := h.frame
  have hv : v.canon := .ite (.modTile hu) hu
  exact .ite (.ite hv.releaseFence hv) h

theorem State.canon.doFenceTimeout {s : State} (h : s.canon) : (Machine.doFenceTimeout s).canon := by
  unfold Machine.doFenceTimeout
  generalize List.range 1024 = l
  exact .ite (.releaseFence (h.foldl fun _ _ hu => .ite hu hu.frame)) h

theorem State.canon.doMpXchkStart {v x} {s : State} (h : s.canon) : (Machine.doMpXchkStart v x s).canon := by
  unfold Machine.doMpXchkStart
  exact .ite h.frame h

theorem State.canon.testTile {s : State} {spad vat image t} (h : s.canon) (hs : spad.wf) (hv : vat.wf) : (s.testTile spad vat image t).canon := by
  unfold State.testTile
  extract_lets u d
  have hu : u.canon := State.canon_modTile _ _ _ h fun _ _ _ => ⟨hs, hv⟩
  exact .modTile (.pressDone hu.drawOut)

/-- `freeMem` is kept as a name: the kernel would compute the words of a whole scratchpad. -/
theorem State.canon.testPair {s : State} {x t} (h : s.canon) : (s.testPair x t).canon := by
  have hfree := freeMem_canon
  have hf (f) (e : f = State.testPair) : (f s x t).canon := by
    delta State.testPair at e
    obtain ⟨F, hF⟩ : ∃ F, F = Machine.freeMem := ⟨_, rfl⟩
    rw [← hF] at e hfree
    subst e
    have hp := hfree 0xC0000 s h
    have hq := hfree 0x80000 _ hp.2
    exact .testTile (.testTile hq.2 hp.1 hq.1) hp.1 hq.1
  exact hf _ rfl

theorem State.canon.rerunPair {s : State} {t} (h : s.canon) : (s.rerunPair t).canon := h.testPair.testPair

theorem State.canon.xchkEnd {s : State} {named} (h : s.canon) : (s.xchkEnd named).canon := by
  unfold State.xchkEnd
  extract_lets u mp
  have hu : u.canon := h.foldl fun _ _ hv => hv.frame
  exact hu.frame

theorem State.canon.doXchkDone {res} {s : State} (h : s.canon) : (Machine.doXchkDone res s).canon := by
  unfold Machine.doXchkDone
  generalize List.range 512 = l
  exact .ite (.xchkEnd (.foldl (h.foldl fun _ _ hu => hu.testPair) fun _ _ hu => hu.rerunPair)) h

theorem State.canon.mpTimeout {s : State} {u} (h : s.canon) : (s.mpTimeout u).canon := by
  unfold State.mpTimeout
  extract_lets v w n mp x
  have hv : v.canon := State.canon_detect _ _ h
  have hw : w.canon := .ite hv.frame hv
  have hx : x.canon := hw.frame
  exact .ite (.ite (State.canon_detect _ _ hx) hx) hw

theorem State.canon.doMpAccessTimeout {u} {s : State} (h : s.canon) : (Machine.doMpAccessTimeout u s).canon := by
  unfold Machine.doMpAccessTimeout
  exact h.mpTimeout.ite h

theorem State.canon.doEftAccessTimeout {wr a} {s : State} (h : s.canon) : (Machine.doEftAccessTimeout wr a s).canon := by
  unfold Machine.doEftAccessTimeout
  exact .ite h.frame h

theorem State.canon.doMpDiagsel {v w} {s : State} (h : s.canon) : (Machine.doMpDiagsel v w s).canon := by
  unfold Machine.doMpDiagsel
  extract_lets a u x y
  have hu : u.canon := h.postWrite
  have hx : x.canon := .ite hu.csrAcc hu
  have hy : y.canon := .ite hx hx.csrAcc
  exact .ite h.csrAcc hy.frame

theorem State.canon.diagRead {s : State} {row col ofs} (h : s.canon) : (s.diagRead row col ofs).2.canon := by
  unfold State.diagRead
  split
  · exact h
  · split
    · exact h.frame
    · exact h

theorem State.canon.doDiagReadDone {ok} {s : State} (h : s.canon) : (Machine.doDiagReadDone ok s).canon := by
  unfold Machine.doDiagReadDone
  split
  · refine .ite ?_ h
    extract_lets m row col ofs u
    have hu : u.canon := h.frame
    have hp : (if ok then u.diagRead row col ofs else (BitVec.allOnes 64, u)).2.canon := .iteSnd hu.diagRead hu
    split
    case h_1 heq => exact .ite (.frame (.of_pair heq hp)) (.mpTimeout (.frame (.of_pair heq hp)))
  · exact h

/-! ### Image -/

theorem State.canon.breakUpdate {s : State} (h : s.canon) : s.breakUpdate.canon := by
  unfold State.breakUpdate
  exact .ite (.ite h.frame h.frame) h

/-! ### Power -/

theorem State.canon.mirrorOwn {s : State} (h : s.canon) : s.mirrorOwn.canon := by
  unfold State.mirrorOwn
  exact h.foldl fun _ _ hu => hu.frame

theorem State.canon.tripRails {s : State} {code cause} (h : s.canon) : (s.tripRails code cause).canon := by
  unfold State.tripRails
  exact .mirrorRecord ((State.canon_railsOff _ h).frame)

theorem State.canon.doInputSample {vin iin} {s : State} (h : s.canon) : (Machine.doInputSample vin iin s).canon := by
  unfold Machine.doInputSample
  exact h.ite (.ite h.frame h.frame)

theorem State.canon.doInputTrip {why} {s : State} (h : s.canon) : (Machine.doInputTrip why s).canon := by
  unfold Machine.doInputTrip
  split
  · exact h
  · split <;> exact h.tripRails

theorem State.canon.doStage1Start {vin} {s : State} (h : s.canon) : (Machine.doStage1Start vin s).canon := by
  unfold Machine.doStage1Start
  exact .ite ((State.canon_unpowered _ h).frame) h

theorem State.canon.doStage1Stop {vin} {s : State} (h : s.canon) : (Machine.doStage1Stop vin s).canon := by
  unfold Machine.doStage1Stop
  exact .ite ((State.canon_unpowered _ h).frame) h

theorem State.canon.pwrWrite {s : State} {w off v} (h : s.canon) : (s.pwrWrite w off v).canon := by
  unfold State.pwrWrite
  exact .ite h.frame (h.postWrite.csrAcc.ite h.postWrite)

theorem State.canon.doPwrCapWrite {v w} {s : State} (h : s.canon) : (Machine.doPwrCapWrite v w s).canon := h.pwrWrite

theorem State.canon.doPwrLearnClr {v w} {s : State} (h : s.canon) : (Machine.doPwrLearnClr v w s).canon := h.pwrWrite

theorem State.canon.pwrApply {s : State} (h : s.canon) : s.pwrApply.canon := by
  unfold State.pwrApply
  split
  · exact h.frame
  · exact h

theorem State.canon.pwrFlag {s : State} {i cause} (h : s.canon) : (s.pwrFlag i cause).canon := by
  unfold State.pwrFlag
  exact h.ite h.frame

theorem State.canon.doCapTick {pin pavg} {s : State} (h : s.canon) : (Machine.doCapTick pin pavg s).canon := by
  unfold Machine.doCapTick
  extract_lets u pw v p bottom x y eff floor high
  have hu : u.canon := h.pwrApply
  have hv : v.canon := hu.frame
  have hx : x.canon := hv.frame
  have hy : y.canon := .ite hx.pwrFlag hx
  exact .ite (.ite (.frame (s := y) hy) hv) h

theorem State.canon.inWindow {s : State} {w} (h : s.canon) : (s.inWindow w).canon := h.frame

theorem State.canon.doRationFrame {s : State} (h : s.canon) : (Machine.doRationFrame s).canon := by
  unfold Machine.doRationFrame
  exact .ite h.frame h

theorem State.canon.idle {s : State} (h : s.canon) : s.idle.canon := by
  unfold State.idle
  exact .ite h.frame h

theorem State.canon.doSetpointSlewStep {s : State} (h : s.canon) : (Machine.doSetpointSlewStep s).canon := by
  unfold Machine.doSetpointSlewStep
  exact .ite (.ite (.ite h.frame h) h.frame) h

theorem State.canon.doDroopTrip {d} {s : State} (h : s.canon) : (Machine.doDroopTrip d s).canon := by
  unfold Machine.doDroopTrip
  exact .ite h.frame h

theorem State.canon.doDroopClear {d us} {s : State} (h : s.canon) : (Machine.doDroopClear d us s).canon := by
  unfold Machine.doDroopClear
  exact .ite h.frame h

theorem State.canon.doIssueRampStep {d} {s : State} (h : s.canon) : (Machine.doIssueRampStep d s).canon := by
  unfold Machine.doIssueRampStep
  exact .ite h.frame h

theorem State.canon.doLearnBinEnd {s : State} (h : s.canon) : (Machine.doLearnBinEnd s).canon := by
  unfold Machine.doLearnBinEnd
  exact .ite h.frame h

theorem State.canon.doThermalScan {temps} {s : State} (h : s.canon) : (Machine.doThermalScan temps s).canon := by
  unfold Machine.doThermalScan
  extract_lets m hot p u v
  have hu : u.canon := h.frame
  have hv : v.canon := hu.pwrFlag
  exact .ite (.ite (.inWindow hv.frame) hu) h

theorem State.canon.doThrottleStep {s : State} (h : s.canon) : (Machine.doThrottleStep s).canon := by
  unfold Machine.doThrottleStep
  exact .ite (.ite (.ite h.frame h.frame) (.ite (.ite h.frame (.ite h.frame h.frame)) h)) h

theorem State.canon.doThermalTrip {d} {s : State} (h : s.canon) : (Machine.doThermalTrip d s).canon := by
  unfold Machine.doThermalTrip
  extract_lets u
  have hu : u.canon := h.tripRails
  exact .ite hu.frame h

theorem State.canon.doPaceRead {speed vmin} {s : State} (h : s.canon) : (Machine.doPaceRead speed vmin s).canon := by
  unfold Machine.doPaceRead
  exact .ite (.ite (.pwrFlag h.frame) h.frame) h

/-! ### Startup -/

theorem State.canon.coldState {s : State} (h : s.canon) : s.coldState.canon := by
  unfold State.coldState
  exact (State.canon_railsOff _ h).frame

theorem State.canon.doColdReset {s : State} (h : s.canon) : (Machine.doColdReset s).canon := by
  unfold Machine.doColdReset
  exact h.coldState.ite h

theorem State.canon.doModPwrenAssert {s : State} (h : s.canon) : (Machine.doModPwrenAssert s).canon := by
  unfold Machine.doModPwrenAssert
  exact .ite h.frame h

theorem State.canon.doModPwrenDeassert {s : State} (h : s.canon) : (Machine.doModPwrenDeassert s).canon := by
  unfold Machine.doModPwrenDeassert
  exact .ite (.frame ((State.canon_railsOff _ h).ite h)) h

theorem State.canon.doLockoutExpire {s : State} (h : s.canon) : (Machine.doLockoutExpire s).canon := by
  unfold Machine.doLockoutExpire
  exact .ite h.frame h

theorem State.canon.doModResetNAssert {s : State} (h : s.canon) : (Machine.doModResetNAssert s).canon := by
  unfold Machine.doModResetNAssert
  exact .ite (.coldState h.frame) h

theorem State.canon.doModResetNDeassert {s : State} (h : s.canon) : (Machine.doModResetNDeassert s).canon := by
  unfold Machine.doModResetNDeassert
  exact .ite h.frame h

theorem State.canon.doResetHeldTimeout {s : State} (h : s.canon) : (Machine.doResetHeldTimeout s).canon := by
  unfold Machine.doResetHeldTimeout
  exact .ite (.eftRecord h.frame) h

theorem State.canon.doBoardHaltNAssert {s : State} (h : s.canon) : (Machine.doBoardHaltNAssert s).canon := by
  unfold Machine.doBoardHaltNAssert
  exact .ite h.frame h

theorem State.canon.doBoardHaltNDeassert {s : State} (h : s.canon) : (Machine.doBoardHaltNDeassert s).canon := by
  unfold Machine.doBoardHaltNDeassert
  exact .ite h.frame h

theorem State.canon.doHaltHeldTimeout {s : State} (h : s.canon) : (Machine.doHaltHeldTimeout s).canon := by
  unfold Machine.doHaltHeldTimeout
  exact .ite (.eftRecord h.frame) h

theorem State.canon.doHostPortWake {s : State} (h : s.canon) : (Machine.doHostPortWake s).canon := by
  unfold Machine.doHostPortWake
  exact .ite h.frame h

theorem State.canon.doMpWatchdogSignal {s : State} (h : s.canon) : (Machine.doMpWatchdogSignal s).canon := by
  unfold Machine.doMpWatchdogSignal
  exact .ite h.frame h

theorem State.canon.doMpWatchdogExpire {s : State} (h : s.canon) : (Machine.doMpWatchdogExpire s).canon := by
  unfold Machine.doMpWatchdogExpire
  exact .ite h.frame h

theorem State.canon.doTimekeeperTick {s : State} (h : s.canon) : (Machine.doTimekeeperTick s).canon := by
  unfold Machine.doTimekeeperTick
  exact .ite h.frame h

theorem State.canon.keepPages {s : State} (h : s.canon) : s.keepPages.canon := h.frame

theorem State.canon.measure {s : State} {fw fl} (h : s.canon) : (s.measure fw fl).canon := h.frame

theorem State.canon.recover {s : State} {err which} (h : s.canon) : (s.recover err which).canon := h.frame

theorem State.canon.setMp {s : State} {x} (h : s.canon) : ({ s with mp := x } : State).canon := h.frame
theorem State.canon.setSec {s : State} {x} (h : s.canon) : ({ s with sec := x } : State).canon := h.frame
theorem State.canon.setSecMp {s : State} {x y} (h : s.canon) : ({ s with sec := x, mp := y } : State).canon := h.frame
theorem State.canon.stopStart {s : State} (h : s.canon) : s.stopStart.canon := h.frame
theorem State.canon.applyImage {s : State} {img} (h : s.canon) : (s.applyImage img).canon := h.frame

theorem State.canon.bringUp {s : State} {env fw fl} (h : s.canon) : (s.bringUp env fw fl).canon := by
  unfold State.bringUp
  extract_lets rails pwr u v sec mp w
  have hu : u.canon := h.frame
  have hv : v.canon := hu.applyImage.measure
  have hw : w.canon := hv.setSecMp
  exact .ite hw.stopStart hw

theorem State.canon.identify {s : State} {raw} (h : s.canon) : (s.identify raw).canon := h.frame
theorem State.canon.takeSummary {s : State} (h : s.canon) : s.takeSummary.canon := h.frame

theorem State.canon.imagesChecked {s : State} {env fw fl floor check} (h : s.canon) : (s.imagesChecked env fw fl floor check).canon := by
  obtain ⟨err, which⟩ := check
  unfold State.imagesChecked
  exact .ite (.bringUp h.frame) (.recover (.measure h.frame))

theorem State.canon.checkImages {s : State} {env fw fl floor} (h : s.canon) : (s.checkImages env fw fl floor).canon := h.imagesChecked

theorem State.canon.loadImages {s : State} {env} (h : s.canon) : (s.loadImages env).canon := by
  unfold State.loadImages
  exact .checkImages (.keepPages (.setMp h.setSec))

theorem State.canon.doStartUp {env} {s : State} (h : s.canon) : (Machine.doStartUp env s).canon := by
  unfold Machine.doStartUp
  refine .ite ?_ h
  conv =>
    enter [1, old, s1, s2, fw, fl, floor, s3, s4]
    change State.imagesChecked _ env fw fl floor (imagesCheck fw fl _ floor)
    change State.checkImages _ env fw fl floor
  conv =>
    enter [1, old, s1, s2]
    change State.loadImages _ env
  extract_lets old eft pins rails sec lnk u v
  have hu : u.canon := h.frame
  exact .loadImages (.identify hu.takeSummary)

theorem State.canon.doStackTrained {n ok} {s : State} (h : s.canon) : (Machine.doStackTrained n ok s).canon := by
  unfold Machine.doStackTrained
  exact .ite (.ite h.frame h.frame) h

theorem State.canon.freeTrim {s : State} (h : s.canon) : (Machine.freeTrim s).2.canon := h.frame

theorem State.canon.freeTrims {a} {a1 : State} (h : a1.canon) : (Machine.freeTrims a a1).2.canon := by
  induction a generalizing a1 with
  | zero =>
    unfold Machine.freeTrims
    exact h
  | succ a ih =>
    unfold Machine.freeTrims
    exact ih h.frame

theorem State.canon.calibrateTile {s : State} {t} (h : s.canon) : (s.calibrate t).canon := by
  have ha := h.freeTrims (a := 4)
  unfold State.calibrate
  generalize Machine.freeTrims 4 s = p at ha ⊢
  obtain ⟨a, u⟩ := p
  have hb := ha.freeTrims (a := 4)
  dsimp only at hb ⊢
  generalize Machine.freeTrims 4 u = p at hb ⊢
  obtain ⟨b, v⟩ := p
  exact hb.modTile

theorem State.canon.loadLedgers {s : State} {img} (h : s.canon) : (s.loadLedgers img).1.canon := h.setMp

theorem State.canon.readyTile {s : State} {closed t} (h : s.canon) : (s.readyTile closed t).canon := by
  unfold State.readyTile
  exact .foldl (.modTile h.calibrateTile) fun _ _ hu => .ite hu.notice hu

theorem State.canon.setUpDrive {s : State} (h : s.canon) : s.setUpDrive.canon := h.frame

/-- The list of the tiles is kept as a name: the kernel would run through its 1,024 entries. -/
theorem State.canon.doStartupReady {env} {s : State} (h : s.canon) : (Machine.doStartupReady env s).canon := by
  unfold Machine.doStartupReady
  obtain ⟨tiles, htiles⟩ : ∃ l, l = List.range 1024 := ⟨_, rfl⟩
  rw [← htiles]
  clear htiles
  extract_lets img f
  refine .ite ?_ h
  have hp := h.loadLedgers (img := img)
  generalize s.loadLedgers img = p at hp ⊢
  obtain ⟨u, closed⟩ := p
  dsimp -zeta only at hp ⊢
  extract_lets v id lnk clu w x
  have hv : v.canon := hp.foldl fun _ _ hw => hw.readyTile
  have hw : w.canon := hv.frame
  have hx : x.canon := .ite hw.setUpDrive (State.canon_detect _ _ hw)
  exact hx.frame

theorem State.canon.doStartupDeadline {s : State} (h : s.canon) : (Machine.doStartupDeadline s).canon := by
  unfold Machine.doStartupDeadline
  exact .ite h.frame h

theorem State.canon.doRegulatorRead {vals} {s : State} (h : s.canon) : (Machine.doRegulatorRead vals s).canon := by
  unfold Machine.doRegulatorRead
  exact .ite h.frame h

theorem State.canon.doSmartLogRead {page} {s : State} (h : s.canon) : (Machine.doSmartLogRead page s).canon := by
  unfold Machine.doSmartLogRead
  exact .ite h.frame h

theorem State.canon.freeReadings {a} {a1 : State} (h : a1.canon) : (Machine.freeReadings a a1).2.canon := by
  induction a generalizing a1 with
  | zero =>
    unfold Machine.freeReadings
    exact h
  | succ a ih =>
    unfold Machine.freeReadings
    exact ih h.frame

theorem State.canon.doSensorSnapshot {s : State} (h : s.canon) : (Machine.doSensorSnapshot s).canon := by
  unfold Machine.doSensorSnapshot
  exact .ite h.frame h

end Sys2Proof.Machine
end

section
/-! What keeps the memories canonical: the functions of management and of the registers. -/

namespace Sys2Proof.Machine

-- One theorem at a time: elaborated side by side, with a thread for each, so many short ones pass the memory limit.
set_option Elab.async false

/-! ### Mgmt -/

theorem State.canon.respond {s : State} {c resp} (h : s.canon) : (s.respond c resp).canon := by
  unfold State.respond
  split <;> exact h.frame

theorem State.canon.mpServe {s : State} {c : Chan} {opc : Nat} {inRecovery : Bool} {run : List Byte → State → MRes}
    (h : s.canon) (hrun : ∀ x u, u.canon → (run x u).2.2.canon) :
    (s.mpServe c opc inRecovery run).canon := by
  unfold State.mpServe
  split
  · exact h
  · split
    · exact h.respond
    · exact h.ite (h.respond.ite ((hrun _ _ h).respond))

theorem State.canon.runWake {s : State} (h : s.canon) : (Machine.runWake s).2.2.canon := by
  unfold Machine.runWake
  split
  · exact h.frame
  · exact h

theorem State.canon.eftRun {s : State} {opc body} (h : s.canon) : (s.eftRun opc body).2.2.canon := by
  unfold State.eftRun
  split
  · split <;> exact h
  · split
    · exact h
    · split
      · exact h
      · split
        · exact h
        · split
          · exact h
          · exact h.runWake

theorem State.canon.eftServe {s : State} {f} (h : s.canon) : (s.eftServe f).canon := by
  unfold State.eftServe
  split
  · split
    · exact h.frame
    · exact h.eftRun.respond.coldState.ite h.eftRun.respond
  · exact h

theorem State.canon.serveEither {s : State} {c : Chan} {opc : Nat} {run : List Byte → State → MRes}
    (h : s.canon) (hrun : ∀ x u, u.canon → (run x u).2.2.canon) :
    (s.serveEither c opc run).canon := by
  unfold State.serveEither
  split
  · exact h.mpServe fun _ _ hu => hrun _ _ hu
  · split
    · exact h
    · exact h.eftServe.ite h

theorem State.canon.serveMp {s : State} {c : Chan} {opc : Nat} {inRecovery : Bool} {run : List Byte → State → MRes}
    (h : s.canon) (hrun : ∀ x u, u.canon → (run x u).2.2.canon) :
    (s.serveMp c opc inRecovery run).canon := by
  unfold State.serveMp
  exact (h.mpServe fun _ _ hu => hrun _ _ hu).ite h

theorem State.canon.doEftI3cTakeover {f} {s : State} (h : s.canon) : (Machine.doEftI3cTakeover f s).canon := h.eftServe

theorem State.canon.noBody {body} {s : State} {k : MRes} (h : s.canon) (hk : k.2.2.canon) : (Machine.noBody body s k).2.2.canon := by
  unfold Machine.noBody
  split
  · exact hk
  · exact h

theorem State.canon.doMgmtGetid {c} {s : State} (h : s.canon) : (Machine.doMgmtGetid c s).canon := by
  unfold Machine.doMgmtGetid
  refine .serveEither h fun _ _ hu => ?_
  split
  · exact hu
  · split <;> exact hu

theorem State.canon.doAttest {c} {s : State} (h : s.canon) : (Machine.doAttest c s).canon := by
  unfold Machine.doAttest
  refine .serveMp h fun _ _ hu => ?_
  split
  · exact hu
  · split <;> exact hu

theorem State.canon.doReadsum {c} {s : State} (h : s.canon) : (Machine.doReadsum c s).canon := by
  unfold Machine.doReadsum
  exact h.serveEither fun _ _ hu => hu.noBody hu

theorem State.canon.doReadsens {c} {s : State} (h : s.canon) : (Machine.doReadsens c s).canon := by
  unfold Machine.doReadsens
  exact h.serveEither fun _ _ hu => hu.noBody hu

theorem State.canon.doReadlog {c} {s : State} (h : s.canon) : (Machine.doReadlog c s).canon := by
  unfold Machine.doReadlog
  refine .serveMp h fun _ _ hu => ?_
  split <;> exact hu

theorem State.canon.doSetcap {c} {s : State} (h : s.canon) : (Machine.doSetcap c s).canon := by
  unfold Machine.doSetcap
  split
  · exact h
  · refine .serveMp h fun _ _ hu => ?_
    split
    · exact hu
    · split
      · exact hu
      · exact hu.pwrWrite

theorem State.canon.powerDown {s : State} (h : s.canon) : s.powerDown.canon := by
  unfold State.powerDown
  exact State.canon_railsOff _ (.writeSummary (h.writeLedgers.ite h))

theorem State.canon.follow {s : State} {k} (h : s.canon) : (s.follow k).canon := by
  unfold State.follow
  split
  · exact h.coldState
  · exact h.powerDown
  · exact h

theorem State.canon.commandThen {s : State} {c opc inRecovery k} (h : s.canon) : (s.commandThen c opc inRecovery k).canon := by
  unfold State.commandThen
  split
  · exact h
  · split
    · exact h.respond
    · split
      · exact h
      · split
        · exact h.respond
        · split
          · exact h.respond
          · split
            · exact h.frame
            · exact .follow h.frame

theorem State.canon.doPowerdown {c} {s : State} (h : s.canon) : (Machine.doPowerdown c s).canon := by
  unfold Machine.doPowerdown
  exact h.commandThen.ite h

theorem State.canon.doReset {c} {s : State} (h : s.canon) : (Machine.doReset c s).canon := by
  unfold Machine.doReset
  split
  · exact h.commandThen
  · split
    · exact h
    · exact h.eftServe.ite h

theorem State.canon.doWake {c} {s : State} (h : s.canon) : (Machine.doWake c s).canon := by
  unfold Machine.doWake
  split
  · exact h.serveMp fun _ _ hu => hu
  · exact h.eftServe.ite h

theorem State.canon.doUpdbegin {c} {s : State} (h : s.canon) : (Machine.doUpdbegin c s).canon := by
  unfold Machine.doUpdbegin
  refine .serveMp h fun _ _ hu => ?_
  split
  · exact hu
  · split
    · exact hu
    · split
      · exact hu
      · split
        · exact hu
        · split
          · exact hu
          · exact hu.frame

theorem State.canon.doUpddata {c} {s : State} (h : s.canon) : (Machine.doUpddata c s).canon := by
  unfold Machine.doUpddata
  dsimp only
  refine .serveMp h fun _ _ hu => ?_
  split
  · exact hu
  · split
    · exact hu
    · exact hu.frame

theorem State.canon.doUpdend {c} {s : State} (h : s.canon) : (Machine.doUpdend c s).canon := by
  unfold Machine.doUpdend
  refine h.serveMp fun _ _ hu => hu.noBody ?_
  split
  · exact hu
  · exact hu.frame

theorem State.canon.doUpdstat {c} {s : State} (h : s.canon) : (Machine.doUpdstat c s).canon := by
  unfold Machine.doUpdstat
  refine h.serveMp fun _ _ hu => hu.noBody ?_
  split
  · exact hu.frame
  · exact hu

theorem State.canon.endSession {s : State} {status result} (h : s.canon) : (s.endSession status result).canon := h.frame

theorem State.canon.loaderStarts {s : State} (h : s.canon) : s.loaderStarts.canon := by
  unfold State.loaderStarts
  exact .ite h.frame h

theorem State.canon.doUpdateImageDone {ok} {s : State} (h : s.canon) : (Machine.doUpdateImageDone ok s).canon := by
  unfold Machine.doUpdateImageDone
  exact .ite (.ite h.frame (.ite (.loaderStarts h.frame) h.breakUpdate.endSession)) h

theorem State.canon.doMbdoor {v} {s : State} (h : s.canon) : (Machine.doMbdoor v s).canon := by
  unfold Machine.doMbdoor
  exact .ite (.ite h.frame (.ite h.frame h)) h

theorem State.canon.flushFrames {s : State} {a} (h : s.canon) : (s.flushFrames a).canon := by
  induction a generalizing s with
  | zero =>
    unfold State.flushFrames
    exact h
  | succ a ih =>
    unfold State.flushFrames
    exact h.ite (ih h.doHev)

theorem State.canon.doMgmtResponse {s : State} (h : s.canon) : (Machine.doMgmtResponse s).canon := by
  unfold Machine.doMgmtResponse
  split
  · split
    · exact h
    · exact .ite h.frame (.follow (.flushFrames h.frame))
  · exact h

theorem State.canon.doMgmt {ofs bytes} {s : State} (h : s.canon) : (Machine.doMgmt ofs bytes s).canon := by
  unfold Machine.doMgmt
  exact .ite h.frame h

theorem State.canon.modI3c {s : State} {f} (h : s.canon) : (s.modI3c f).canon := by
  unfold State.modI3c
  exact .ite h.frame h

theorem State.canon.doEntdaa {a} {s : State} (h : s.canon) : (Machine.doEntdaa a s).canon := h.modI3c

theorem State.canon.doSetnewda {a} {s : State} (h : s.canon) : (Machine.doSetnewda a s).canon := h.modI3c

theorem State.canon.doRstdaa {s : State} (h : s.canon) : (Machine.doRstdaa s).canon := h.modI3c

theorem State.canon.cccAnswer {s : State} {l} (h : s.canon) : (s.cccAnswer l).canon := by
  unfold State.cccAnswer
  exact .ite h.frame h

theorem State.canon.doGetpid {s : State} (h : s.canon) : (Machine.doGetpid s).canon := h.cccAnswer

theorem State.canon.doGetbcr {s : State} (h : s.canon) : (Machine.doGetbcr s).canon := h.cccAnswer

theorem State.canon.doGetdcr {s : State} (h : s.canon) : (Machine.doGetdcr s).canon := h.cccAnswer

theorem State.canon.doGetstatus {s : State} (h : s.canon) : (Machine.doGetstatus s).canon := h.cccAnswer

theorem State.canon.doEnec {m} {s : State} (h : s.canon) : (Machine.doEnec m s).canon := by
  unfold Machine.doEnec
  exact h.modI3c.ite h

theorem State.canon.doDisec {m} {s : State} (h : s.canon) : (Machine.doDisec m s).canon := by
  unfold Machine.doDisec
  exact h.modI3c.ite h

theorem State.canon.doGetmwl {s : State} (h : s.canon) : (Machine.doGetmwl s).canon := h.cccAnswer

theorem State.canon.doGetmrl {s : State} (h : s.canon) : (Machine.doGetmrl s).canon := h.cccAnswer

theorem State.canon.doSetmwl {n} {s : State} (h : s.canon) : (Machine.doSetmwl n s).canon := by
  unfold Machine.doSetmwl
  exact h.modI3c.ite h

theorem State.canon.doSetmrl {n} {s : State} (h : s.canon) : (Machine.doSetmrl n s).canon := by
  unfold Machine.doSetmrl
  exact h.modI3c.ite h

theorem State.canon.doIdcode {s : State} (h : s.canon) : (Machine.doIdcode s).canon := by
  unfold Machine.doIdcode
  exact .ite h.frame h

theorem State.canon.doBypass {s : State} (h : s.canon) : (Machine.doBypass s).canon := by
  unfold Machine.doBypass
  exact .ite h.frame h

theorem State.canon.doSamplePreload {cells} {s : State} (h : s.canon) : (Machine.doSamplePreload cells s).canon := by
  unfold Machine.doSamplePreload
  exact .ite (.ite h.frame h.frame) h

theorem State.canon.doExtest {s : State} (h : s.canon) : (Machine.doExtest s).canon := by
  unfold Machine.doExtest
  exact .ite (.ite h.frame h.frame) h

/-! ### Registers -/

theorem State.canon.clrTileNum {s : State} {t v} (h : s.canon) : (s.clrTileNum t v).canon := by
  unfold State.clrTileNum
  exact .modTile h

theorem State.canon.clrArrEvt {s : State} {t v} (h : s.canon) : (s.clrArrEvt t v).canon := by
  unfold State.clrArrEvt
  exact .modTile h

theorem State.canon.clrSpill {s : State} {t v} (h : s.canon) : (s.clrSpill t v).canon := by
  unfold State.clrSpill
  exact .modTile h

theorem State.canon.clrHist {s : State} {t v} (h : s.canon) : (s.clrHist t v).canon := by
  unfold State.clrHist
  exact .modTile h

theorem State.canon.seedTile {s : State} {t v} (h : s.canon) : (s.seedTile t v).canon := by
  unfold State.seedTile
  exact .modTile h

theorem State.canon.logIf {s : State} {bad w a} (h : s.canon) : (s.logIf bad w a).canon := by
  unfold State.logIf
  exact .ite h.frame h

theorem State.canon.lockedWrite {s : State} {w a : Nat} {v mask : W64} {ok : Bool} {f : State → State}
    (h : s.canon) (hf : ∀ u, u.canon → (f u).canon) :
    (s.lockedWrite w a v mask ok f).canon := by
  unfold State.lockedWrite
  exact h.logIf.ite ((hf _ h).logIf)

theorem State.canon.writeTile {s : State} {w t blk off v} (h : s.canon) : (s.writeTile w t blk off v).canon := by
  unfold State.writeTile
  split
  · exact h.clrTileNum
  · exact .modTile h
  · exact h.seedTile
  · exact .logIf (.modTile h)
  · exact h.lockedWrite fun _ hu => .ite hu.frame hu
  · exact .modTile h
  · exact h.clrArrEvt
  · exact h.clrSpill
  · exact .modTile h
  · exact h.lockedWrite fun _ hu => hu.frame
  · exact h.clrHist
  · split
    · exact .modTile h
    · exact h.logIf
  · exact h.logIf

theorem State.canon.writeMem0 {s : State} {w off v} (h : s.canon) : (s.writeMem0 w off v).canon := by
  unfold State.writeMem0
  split
  · exact h.doMemXlinv
  · exact h.xlResume
  · exact h.postPreempt
  · split
    · exact h.doMemXlrootWrite
    · exact h.postWrite
    · exact h.logIf

theorem State.canon.writeSq {s : State} {w r v} (h : s.canon) : (s.writeSq w r v).canon := by
  unfold State.writeSq
  exact .takeRecords (.logIf h.frame)

theorem State.canon.writeLnkHost {s : State} {w off v} (h : s.canon) : (s.writeLnkHost w off v).canon := by
  unfold State.writeLnkHost
  exact .ite h.frame (.ite (h.writeSq.ite h.doLnkSqtail) (.ite (.ite (.logIf h.frame) h.frame) h.logIf))

theorem State.canon.writeLnk {s : State} {w p off v} (h : s.canon) : (s.writeLnk w p off v).canon := by
  unfold State.writeLnk
  split
  · exact h.lockedWrite fun _ hu => hu.frame
  · exact h.frame
  · exact h.frame
  · exact h.frame
  · exact h.writeLnkHost.ite h.logIf

theorem State.canon.writeDsp0 {s : State} {w off v} (h : s.canon) : (s.writeDsp0 w off v).canon := by
  unfold State.writeDsp0
  split
  · exact h.frame
  · exact h.frame
  · exact h.frame
  · exact h.frame
  · exact h.logIf

theorem State.canon.writeClu {s : State} {w off v} (h : s.canon) : (s.writeClu w off v).canon := by
  unfold State.writeClu
  exact .ite (h.lockedWrite fun _ hu => hu.frame) h.logIf

theorem State.canon.writeMp {s : State} {w off v} (h : s.canon) : (s.writeMp w off v).canon := by
  unfold State.writeMp
  split
  · exact h.lockedWrite fun _ hu => hu.frame
  · exact h.doModeChange
  · exact h.doMpXchkStart
  · exact h.frame
  · exact h.doMpDiagsel
  · split
    · exact h.lockedWrite fun _ hu => hu.frame
    · exact h.logIf

theorem State.canon.writeEdge {s : State} {w k off v} (h : s.canon) : (s.writeEdge w k off v).canon := by
  unfold State.writeEdge
  split
  · exact h.writeMem0
  · split
    · exact h.logIf
    · split
      · exact h.postWrite.ite h.logIf
      · split
        · exact h.writeLnk
        · split
          · exact h.writeDsp0
          · split
            · exact h.writeClu
            · exact h.writeMp
            · exact h.pwrWrite.ite h.logIf
            · exact .ite h.frame h.logIf
            · exact h.ite (h.postWrite.ite h.logIf)
            · exact h.logIf

theorem State.canon.csrWrite {s : State} {w a v} (h : s.canon) : (s.csrWrite w a v).canon := by
  unfold State.csrWrite
  exact h.writeTile.ite (h.writeEdge.ite h)

theorem State.canon.csrStore {s : State} {w a size v} (h : s.canon) : (s.csrStore w a size v).canon := by
  unfold State.csrStore
  exact h.ite (.ite (h.csrWrite.ite h.frame) h)

theorem State.canon.csrLoad {s : State} {w a size} (h : s.canon) : (s.csrLoad w a size).2.canon := by
  unfold State.csrLoad
  split
  · exact h
  · split
    · exact h
    · exact h.frame

theorem State.canon.doTileNumclr {t v w} {s : State} (h : s.canon) : (Machine.doTileNumclr t v w s).canon := h.csrStore

theorem State.canon.doArrEvtclr {t v w} {s : State} (h : s.canon) : (Machine.doArrEvtclr t v w s).canon := h.csrStore

theorem State.canon.doArrSpillclr {t v w} {s : State} (h : s.canon) : (Machine.doArrSpillclr t v w s).canon := h.csrStore

theorem State.canon.doVecHistclr {t v w} {s : State} (h : s.canon) : (Machine.doVecHistclr t v w s).canon := h.csrStore

theorem State.canon.doUpdNumclr {n v w} {s : State} (h : s.canon) : (Machine.doUpdNumclr n v w s).canon := h.csrStore

theorem State.canon.doDspTokclr {v w} {s : State} (h : s.canon) : (Machine.doDspTokclr v w s).canon := h.csrStore

theorem State.canon.doDspNumclr {v w} {s : State} (h : s.canon) : (Machine.doDspNumclr v w s).canon := h.csrStore

theorem State.canon.doLnkNumclr {p v w} {s : State} (h : s.canon) : (Machine.doLnkNumclr p v w s).canon := h.csrStore

theorem State.canon.doTileRngseed {t v w} {s : State} (h : s.canon) : (Machine.doTileRngseed t v w s).canon := h.csrStore

theorem State.canon.doUpdRngseed {n v w} {s : State} (h : s.canon) : (Machine.doUpdRngseed n v w s).canon := h.csrStore

theorem State.canon.doLnkRngseed {p v w} {s : State} (h : s.canon) : (Machine.doLnkRngseed p v w s).canon := h.csrStore

theorem State.canon.doRegisterWrite {a size v w} {s : State} (h : s.canon) : (Machine.doRegisterWrite a size v w s).canon := h.csrStore

theorem State.canon.applyUpd {s : State} {n off v} (h : s.canon) : (s.applyUpd n off v).canon := by
  unfold State.applyUpd
  split <;> exact h.frame

theorem State.canon.doWbusyClear {d} {s : State} (h : s.canon) : (Machine.doWbusyClear d s).canon := by
  unfold Machine.doWbusyClear
  split
  · split
    · refine .ite h.applyPreempt.clearPost ?_
      split
      · exact h.setRoot.clearPost
      · exact .clearPost h.frame
      · exact h
    · exact h
  · split
    · exact h.applyUpd.clearPost
    · exact h
  · split
    · exact .clearPost h.frame
    · exact h
  · exact h
  · exact h

theorem State.canon.barAnswer {s : State} {v poison} (h : s.canon) : (s.barAnswer v poison).canon := h.frame

theorem State.canon.unmask {s : State} (h : s.canon) : s.unmask.canon := by
  unfold State.unmask
  exact h.foldl fun _ _ hu => .ite hu.frame hu

theorem State.canon.csrAstray {s : State} {wr a} (h : s.canon) : (s.csrAstray wr a).canon := by
  unfold State.csrAstray
  exact .csrAcc (h.ite h.frame)

theorem State.canon.bar0Access {s : State} {ofs size wr v} (h : s.canon) : (s.bar0Access ofs size wr v).canon := by
  unfold State.bar0Access
  exact .ite (h.csrStore.ite h.csrLoad.barAnswer)
    (.ite h.csrAstray (.ite h
    (.ite (.ite h.frame h.frame)
    (.ite (h.ite h.frame) (.ite (h.doMbdoor.ite h.frame) (.ite (.ite (.unmask h.frame) h.frame) (.ite (h.ite h.frame) h.frame)))))))

theorem State.canon.hostWords {s : State} {a a1} (h : s.canon) : (s.hostWords a a1).2.canon := by
  induction a1 generalizing s a with
  | zero =>
    unfold State.hostWords
    exact h
  | succ a1 ih =>
    unfold State.hostWords
    exact ih (State.canon_readLoc _ _ _ h)

theorem State.canon.hostRead {s : State} {a n} (h : s.canon) : (s.hostRead a n).2.canon := h.hostWords

theorem State.canon.unsupported {s : State} {a} (h : s.canon) : (s.unsupported a).canon := h.frame

theorem State.canon.bar2Access {s : State} {ofs size wr v} (h : s.canon) : (s.bar2Access ofs size wr v).canon := by
  unfold State.bar2Access
  extract_lets a
  refine .ite ?_ h.unsupported
  have hload := h.csrLoad (w := uHost) (a := a) (size := size)
  have hread := h.hostRead (a := a) (n := size)
  split
  · refine .ite (.ite h.csrStore ?_) h.unsupported
    generalize s.csrLoad uHost a size = p at hload ⊢
    obtain ⟨x, u⟩ := p
    exact hload.barAnswer
  · exact .ite h.csrAstray h.unsupported
  · exact .ite h.csrAstray h.unsupported
  · exact h.unsupported
  · exact h.unsupported
  · exact h.unsupported
  · refine .ite h (.ite (State.canon_writeBytesLoc _ _ _ _ h) ?_)
    generalize s.hostRead a size = p at hread ⊢
    obtain ⟨r, u⟩ := p
    exact hread.barAnswer

theorem State.canon.bar4Access {s : State} {ofs size wr v} (h : s.canon) : (s.bar4Access ofs size wr v).canon := by
  unfold State.bar4Access
  exact .ite h.csrAstray (.ite (h.csrStore.ite h.csrLoad.barAnswer) h.frame)

theorem State.canon.doHostBarAccess {bar ofs size wr v} {s : State} (h : s.canon) : (Machine.doHostBarAccess bar ofs size wr v s).canon := by
  unfold Machine.doHostBarAccess
  split
  · exact h.frame
  · split
    · exact h
    · split
      · exact h.bar0Access
      · exact h.bar2Access.ite h.frame
      · exact h.bar4Access
      · exact h.frame

end Sys2Proof.Machine
end

section
/-! Every step keeps the memories canonical: a command by the rule for the function it runs. -/

namespace Sys2Proof.Machine

-- One theorem at a time: elaborated side by side, with a thread for each, so many short ones pass the memory limit.
set_option Elab.async false

/-- Every command answers a state, and keeps the memories canonical. -/
theorem exec_canon {s : State} (h : s.canon) : ∀ c, ∃ u, exec c s = .next u ∧ u.canon
  | .alu _ _ _ | .addi _ _ _ | .andi _ _ _ | .ori _ _ _ | .xori _ _ _ | .shli _ _ _ | .shri _ _ _ | .srai _ _ _
  | .slti _ _ _ | .li _ _ _ | .shin _ _ _ | .ld _ _ _ | .ldDataArrival _ _ | .st _ _ _ | .beq _ _ _ | .bne _ _ _
  | .blt _ _ _ | .bge _ _ _ | .bltu _ _ _ | .bgeu _ _ _ | .jal _ _ _ | .jalr _ _ _ | .issue _ _ _
  | .queueSlotFreed _ _ _ | .sig _ _ _ | .setc _ _ _ | .rdc _ _ _ | .wait _ _ _ | .getid _ _ _ | .yield _ _ _
  | .exit _ _ _ | .counterUpdate _ | .strandWake _ _ | .instructionFetchStop _ _ => exec_ofStrands_canon rfl h
  | .descriptorComplete _ _ _ => ⟨_, rfl, h.doDescriptorComplete⟩
  | .mm _ => ⟨_, rfl, h.doMm⟩
  | .mmacc _ => ⟨_, rfl, h.doMmacc⟩
  | .mmvat _ => ⟨_, rfl, h.doMmvat⟩
  | .vatzero _ => ⟨_, rfl, h.doVatzero⟩
  | .matrixTileCommit _ => ⟨_, rfl, h.doMatrixTileCommit⟩
  | .rescore _ => ⟨_, rfl, h.doRescore⟩
  | .read _ _ _ => ⟨_, rfl, h.doRead⟩
  | .arrayVectorDone _ _ _ => ⟨_, rfl, h.doArrayVectorDone⟩
  | .divertBatch _ _ => ⟨_, rfl, h.doDivertBatch⟩
  | .companionWorkDone _ _ => ⟨_, rfl, h.doCompanionWorkDone⟩
  | .setcorr _ _ => ⟨_, rfl, h.doSetcorr⟩
  | .query _ _ _ => ⟨_, rfl, h.doQuery⟩
  | .full _ => ⟨_, rfl, h.doFull⟩
  | .delta _ => ⟨_, rfl, h.doDelta⟩
  | .refresh _ => ⟨_, rfl, h.doRefresh⟩
  | .pressComplete _ _ => ⟨_, rfl, h.doPressComplete⟩
  | .foldarm _ => ⟨_, rfl, h.doFoldarm⟩
  | .foldclr _ => ⟨_, rfl, h.doFoldclr⟩
  | .tileCommit _ => ⟨_, rfl, h.doTileCommit⟩
  | .foldDeltaStart _ _ => ⟨_, rfl, h.doFoldDeltaStart⟩
  | .foldDeltaComplete _ _ => ⟨_, rfl, h.doFoldDeltaComplete⟩
  | .foldComplete _ _ => ⟨_, rfl, h.doFoldComplete⟩
  | .run _ => ⟨_, rfl, h.doRun⟩
  | .fbqrun _ => ⟨_, rfl, h.doFbqrun⟩
  | .fbqBlockDone _ => ⟨_, rfl, h.doFbqBlockDone⟩
  | .rgather _ => ⟨_, rfl, h.doRgather⟩
  | .rset _ => ⟨_, rfl, h.doRset⟩
  | .actq _ => ⟨_, rfl, h.doActq⟩
  | .wquant _ => ⟨_, rfl, h.doWquant⟩
  | .topmerge _ => ⟨_, rfl, h.doTopmerge⟩
  | .vdrain _ => ⟨_, rfl, h.doVdrain⟩
  | .copy _ => ⟨_, rfl, h.doCopy⟩
  | .xpose _ => ⟨_, rfl, h.doXpose⟩
  | .fill _ => ⟨_, rfl, h.doFill⟩
  | .update _ => ⟨_, rfl, h.doUpdate⟩
  | .gnorm _ => ⟨_, rfl, h.doGnorm⟩
  | .rsig _ => ⟨_, rfl, h.doRsig⟩
  | .hevent _ => ⟨_, rfl, h.doHevent⟩
  | .dispatch _ => ⟨_, rfl, h.doDispatch⟩
  | .combine _ => ⟨_, rfl, h.doCombine⟩
  | .redscat _ => ⟨_, rfl, h.doRedscat⟩
  | .allgather _ => ⟨_, rfl, h.doAllgather⟩
  | .collarmTimeout _ => ⟨_, rfl, h.doCollarmTimeout⟩
  | .ready _ => ⟨_, rfl, h.doReady⟩
  | .abandon _ => ⟨_, rfl, h.doAbandon⟩
  | .ckpttab _ => ⟨_, rfl, h.doCkpttab⟩
  | .translationFault _ _ _ => ⟨_, rfl, h.doTranslationFault⟩
  | .xlresumeRetry _ _ _ => ⟨_, rfl, h.doXlresumeRetry⟩
  | .xlresumeAbort _ _ _ => ⟨_, rfl, h.doXlresumeAbort⟩
  | .memXlinv _ _ => ⟨_, rfl, h.doMemXlinv⟩
  | .xlinvComplete => ⟨_, rfl, h.doXlinvComplete⟩
  | .memXlrootWrite _ _ _ => ⟨_, rfl, h.doMemXlrootWrite⟩
  | .preemptSave _ _ => ⟨_, rfl, h.doPreemptSave⟩
  | .preemptSaveWrite => ⟨_, rfl, h.doPreemptSaveWrite⟩
  | .preemptSaveDone => ⟨_, rfl, h.doPreemptSaveDone⟩
  | .preemptRestore _ _ => ⟨_, rfl, h.doPreemptRestore⟩
  | .preemptRestoreDone => ⟨_, rfl, h.doPreemptRestoreDone⟩
  | .lnkSqtail _ _ _ => ⟨_, rfl, h.doLnkSqtail⟩
  | .gridLaunch _ => ⟨_, rfl, h.doGridLaunch⟩
  | .gridComplete _ => ⟨_, rfl, h.doGridComplete⟩
  | .gridErrorCompletion _ => ⟨_, rfl, h.doGridErrorCompletion⟩
  | .containedAction => ⟨_, rfl, h.doContainedAction⟩
  | .fatalAction => ⟨_, rfl, h.doFatalAction⟩
  | .errorRecordRaise => ⟨_, rfl, h.doErrorRecordRaise⟩
  | .recordHandled => ⟨_, rfl, h.doRecordHandled⟩
  | .summaryWrite => ⟨_, rfl, h.doSummaryWrite⟩
  | .ledgerWrite => ⟨_, rfl, h.doLedgerWrite⟩
  | .shadowCompare _ => ⟨_, rfl, h.doShadowCompare⟩
  | .scrubPeriod _ => ⟨_, rfl, h.doScrubPeriod⟩
  | .stackTempRead _ => ⟨_, rfl, h.doStackTempRead⟩
  | .ecsRead _ => ⟨_, rfl, h.doEcsRead⟩
  | .sensorSnapshot => ⟨_, rfl, h.doSensorSnapshot⟩
  | .refreshRequest _ _ _ _ => ⟨_, rfl, h.doRefreshRequest⟩
  | .indexRefreshIssue _ _ _ => ⟨_, rfl, h.doIndexRefreshIssue⟩
  | .modeChange _ _ => ⟨_, rfl, h.doModeChange⟩
  | .modeAck _ => ⟨_, rfl, h.doModeAck⟩
  | .fenceTimeout => ⟨_, rfl, h.doFenceTimeout⟩
  | .mpXchkStart _ _ => ⟨_, rfl, h.doMpXchkStart⟩
  | .xchkDone _ => ⟨_, rfl, h.doXchkDone⟩
  | .mpDiagsel _ _ => ⟨_, rfl, h.doMpDiagsel⟩
  | .diagReadDone _ => ⟨_, rfl, h.doDiagReadDone⟩
  | .mpAccessTimeout _ => ⟨_, rfl, h.doMpAccessTimeout⟩
  | .eftAccessTimeout _ _ _ => ⟨_, rfl, h.doEftAccessTimeout⟩
  | .tileNumclr _ _ _ => ⟨_, rfl, h.doTileNumclr⟩
  | .arrEvtclr _ _ _ => ⟨_, rfl, h.doArrEvtclr⟩
  | .arrSpillclr _ _ _ => ⟨_, rfl, h.doArrSpillclr⟩
  | .vecHistclr _ _ _ => ⟨_, rfl, h.doVecHistclr⟩
  | .updNumclr _ _ _ => ⟨_, rfl, h.doUpdNumclr⟩
  | .dspTokclr _ _ => ⟨_, rfl, h.doDspTokclr⟩
  | .dspNumclr _ _ => ⟨_, rfl, h.doDspNumclr⟩
  | .lnkNumclr _ _ _ => ⟨_, rfl, h.doLnkNumclr⟩
  | .tileRngseed _ _ _ => ⟨_, rfl, h.doTileRngseed⟩
  | .updRngseed _ _ _ => ⟨_, rfl, h.doUpdRngseed⟩
  | .lnkRngseed _ _ _ => ⟨_, rfl, h.doLnkRngseed⟩
  | .pwrCapWrite _ _ => ⟨_, rfl, h.doPwrCapWrite⟩
  | .pwrLearnClr _ _ => ⟨_, rfl, h.doPwrLearnClr⟩
  | .registerWrite _ _ _ _ => ⟨_, rfl, h.doRegisterWrite⟩
  | .hostBarAccess _ _ _ _ _ => ⟨_, rfl, h.doHostBarAccess⟩
  | .adapterReset => ⟨_, rfl, h.doAdapterReset⟩
  | .mbdoor _ => ⟨_, rfl, h.doMbdoor⟩
  | .mgmtResponse => ⟨_, rfl, h.doMgmtResponse⟩
  | .attest _ => ⟨_, rfl, h.doAttest⟩
  | .readsum _ => ⟨_, rfl, h.doReadsum⟩
  | .readsens _ => ⟨_, rfl, h.doReadsens⟩
  | .readlog _ => ⟨_, rfl, h.doReadlog⟩
  | .setcap _ => ⟨_, rfl, h.doSetcap⟩
  | .powerdown _ => ⟨_, rfl, h.doPowerdown⟩
  | .reset _ => ⟨_, rfl, h.doReset⟩
  | .wake _ => ⟨_, rfl, h.doWake⟩
  | .updbegin _ => ⟨_, rfl, h.doUpdbegin⟩
  | .upddata _ => ⟨_, rfl, h.doUpddata⟩
  | .updend _ => ⟨_, rfl, h.doUpdend⟩
  | .updstat _ => ⟨_, rfl, h.doUpdstat⟩
  | .updateImageDone _ => ⟨_, rfl, h.doUpdateImageDone⟩
  | .eftI3cTakeover _ => ⟨_, rfl, h.doEftI3cTakeover⟩
  | .entdaa _ => ⟨_, rfl, h.doEntdaa⟩
  | .setnewda _ => ⟨_, rfl, h.doSetnewda⟩
  | .rstdaa => ⟨_, rfl, h.doRstdaa⟩
  | .getpid => ⟨_, rfl, h.doGetpid⟩
  | .getbcr => ⟨_, rfl, h.doGetbcr⟩
  | .getdcr => ⟨_, rfl, h.doGetdcr⟩
  | .getstatus => ⟨_, rfl, h.doGetstatus⟩
  | .enec _ => ⟨_, rfl, h.doEnec⟩
  | .disec _ => ⟨_, rfl, h.doDisec⟩
  | .getmwl => ⟨_, rfl, h.doGetmwl⟩
  | .getmrl => ⟨_, rfl, h.doGetmrl⟩
  | .setmwl _ => ⟨_, rfl, h.doSetmwl⟩
  | .setmrl _ => ⟨_, rfl, h.doSetmrl⟩
  | .flitReceive _ _ _ _ _ => ⟨_, rfl, h.doFlitReceive⟩
  | .flitNakResend _ => ⟨_, rfl, h.doFlitNakResend⟩
  | .ackTimeoutResend _ => ⟨_, rfl, h.doAckTimeoutResend⟩
  | .linkDetect _ _ => ⟨_, rfl, h.doLinkDetect⟩
  | .linkEqDone _ => ⟨_, rfl, h.doLinkEqDone⟩
  | .linkDeskewDone _ => ⟨_, rfl, h.doLinkDeskewDone⟩
  | .linkParamDone _ _ => ⟨_, rfl, h.doLinkParamDone⟩
  | .linkRetrain _ _ => ⟨_, rfl, h.doLinkRetrain⟩
  | .laneLoss _ _ => ⟨_, rfl, h.doLaneLoss⟩
  | .linkDown _ => ⟨_, rfl, h.doLinkDown⟩
  | .packetForward _ _ => ⟨_, rfl, h.doPacketForward⟩
  | .wr _ _ => ⟨_, rfl, h.doWr⟩
  | .rdreq _ _ => ⟨_, rfl, h.doRdreq⟩
  | .rdrsp _ _ => ⟨_, rfl, h.doRdrsp⟩
  | .wrack _ _ => ⟨_, rfl, h.doWrack⟩
  | .nak _ _ => ⟨_, rfl, h.doNak⟩
  | .sigPacket _ _ => ⟨_, rfl, h.doSigPacket⟩
  | .sigack _ _ => ⟨_, rfl, h.doSigack⟩
  | .mgmt _ _ => ⟨_, rfl, h.doMgmt⟩
  | .hev => ⟨_, rfl, h.doHev⟩
  | .remoteTimeout _ => ⟨_, rfl, h.doRemoteTimeout⟩
  | .rsgrp _ _ => ⟨_, rfl, h.doRsgrp⟩
  | .rsack _ _ => ⟨_, rfl, h.doRsack⟩
  | .grpwr _ _ => ⟨_, rfl, h.doGrpwr⟩
  | .grpack _ _ => ⟨_, rfl, h.doGrpack⟩
  | .collarm _ _ => ⟨_, rfl, h.doCollarm⟩
  | .cready _ _ _ => ⟨_, rfl, h.doCready⟩
  | .ccommit _ _ => ⟨_, rfl, h.doCcommit⟩
  | .ccack _ _ _ => ⟨_, rfl, h.doCcack⟩
  | .croll _ _ _ _ => ⟨_, rfl, h.doCroll⟩
  | .rollbackRestoreDone _ => ⟨_, rfl, h.doRollbackRestoreDone⟩
  | .crdone _ => ⟨_, rfl, h.doCrdone⟩
  | .heart _ _ => ⟨_, rfl, h.doHeart⟩
  | .heartbeatPeriod => ⟨_, rfl, h.doHeartbeatPeriod⟩
  | .heartbeatMiss _ => ⟨_, rfl, h.doHeartbeatMiss⟩
  | .standbyTakeover _ => ⟨_, rfl, h.doStandbyTakeover⟩
  | .routeupd _ => ⟨_, rfl, h.doRouteupd⟩
  | .routeack _ => ⟨_, rfl, h.doRouteack⟩
  | .subst _ => ⟨_, rfl, h.doSubst⟩
  | .ckptDrainDone _ => ⟨_, rfl, h.doCkptDrainDone⟩
  | .ckptdone _ _ _ => ⟨_, rfl, h.doCkptdone⟩
  | .ckptok _ => ⟨_, rfl, h.doCkptok⟩
  | .failrpt _ _ => ⟨_, rfl, h.doFailrpt⟩
  | .treecfg _ => ⟨_, rfl, h.doTreecfg⟩
  | .mirror _ => ⟨_, rfl, h.doMirror⟩
  | .mack _ => ⟨_, rfl, h.doMack⟩
  | .xcheck => ⟨_, rfl, h.doXcheck⟩
  | .nvmeTimeout _ => ⟨_, rfl, h.doNvmeTimeout⟩
  | .inputSample _ _ => ⟨_, rfl, h.doInputSample⟩
  | .inputTrip _ => ⟨_, rfl, h.doInputTrip⟩
  | .stage1Start _ => ⟨_, rfl, h.doStage1Start⟩
  | .stage1Stop _ => ⟨_, rfl, h.doStage1Stop⟩
  | .capTick _ _ => ⟨_, rfl, h.doCapTick⟩
  | .rationFrame => ⟨_, rfl, h.doRationFrame⟩
  | .setpointSlewStep => ⟨_, rfl, h.doSetpointSlewStep⟩
  | .droopTrip _ => ⟨_, rfl, h.doDroopTrip⟩
  | .droopClear _ _ => ⟨_, rfl, h.doDroopClear⟩
  | .issueRampStep _ => ⟨_, rfl, h.doIssueRampStep⟩
  | .learnBinEnd => ⟨_, rfl, h.doLearnBinEnd⟩
  | .thermalScan _ => ⟨_, rfl, h.doThermalScan⟩
  | .throttleStep => ⟨_, rfl, h.doThrottleStep⟩
  | .thermalTrip _ => ⟨_, rfl, h.doThermalTrip⟩
  | .paceRead _ _ => ⟨_, rfl, h.doPaceRead⟩
  | .modPwrenAssert => ⟨_, rfl, h.doModPwrenAssert⟩
  | .modPwrenDeassert => ⟨_, rfl, h.doModPwrenDeassert⟩
  | .lockoutExpire => ⟨_, rfl, h.doLockoutExpire⟩
  | .modResetNAssert => ⟨_, rfl, h.doModResetNAssert⟩
  | .modResetNDeassert => ⟨_, rfl, h.doModResetNDeassert⟩
  | .resetHeldTimeout => ⟨_, rfl, h.doResetHeldTimeout⟩
  | .boardHaltNAssert => ⟨_, rfl, h.doBoardHaltNAssert⟩
  | .boardHaltNDeassert => ⟨_, rfl, h.doBoardHaltNDeassert⟩
  | .haltHeldTimeout => ⟨_, rfl, h.doHaltHeldTimeout⟩
  | .hostPortWake => ⟨_, rfl, h.doHostPortWake⟩
  | .coldReset => ⟨_, rfl, h.doColdReset⟩
  | .mpWatchdogExpire => ⟨_, rfl, h.doMpWatchdogExpire⟩
  | .timekeeperTick => ⟨_, rfl, h.doTimekeeperTick⟩
  | .startUp _ => ⟨_, rfl, h.doStartUp⟩
  | .stackTrained _ _ => ⟨_, rfl, h.doStackTrained⟩
  | .startupReady _ => ⟨_, rfl, h.doStartupReady⟩
  | .startupDeadline => ⟨_, rfl, h.doStartupDeadline⟩
  | .undefinedEngOp _ _ => ⟨_, rfl, h.doUndefinedEngOp⟩
  | .mgmtGetid _ => ⟨_, rfl, h.doMgmtGetid⟩
  | .mpWatchdogSignal => ⟨_, rfl, h.doMpWatchdogSignal⟩
  | .regulatorRead _ => ⟨_, rfl, h.doRegulatorRead⟩
  | .smartLogRead _ => ⟨_, rfl, h.doSmartLogRead⟩
  | .wbusyClear _ => ⟨_, rfl, h.doWbusyClear⟩
  | .flitTime _ => ⟨_, rfl, h.doFlitTime⟩
  | .retrainAttemptFailed _ => ⟨_, rfl, h.doRetrainAttemptFailed⟩
  | .hostAccessFailed _ _ _ => ⟨_, rfl, h.doHostAccessFailed⟩
  | .idcode => ⟨_, rfl, h.doIdcode⟩
  | .bypass => ⟨_, rfl, h.doBypass⟩
  | .samplePreload _ => ⟨_, rfl, h.doSamplePreload⟩
  | .extest => ⟨_, rfl, h.doExtest⟩

/-- Settles O5: a step runs the command at the front of the queue, or moves the rationing window on. -/
theorem everyStepKeepsTheMemoriesCanonical : Obligations.EveryStepKeepsTheMemoriesCanonical := by
  intro s s' h hstep
  unfold step at hstep
  split at hstep
  case h_1 =>
    obtain rfl := Host.Outcome.next.inj hstep
    exact h.idle
  case h_2 c rest _ =>
    obtain ⟨u, hexec, hu⟩ := exec_canon (s.canon_withPending rest h) c
    obtain rfl := Host.Outcome.next.inj (hexec.symm.trans hstep)
    exact hu

end Sys2Proof.Machine
end
